-- ==== Sys2Proof/Word.lean ====
section
/-! DEFINITION. The byte and word types of host memory and of the register window. -/

namespace Sys2Proof

/-- One byte of host memory or of a register. -/
abbrev Byte := BitVec 8

/-- One register of the register window (R4: eight 32-bit registers). -/
abbrev Word := BitVec 32

/-- An address of host memory (R6: the exchange area base is 64 bits wide). -/
abbrev Address := BitVec 64

end Sys2Proof
end

