-- ==== Sys2Proof/Syntax.lean ====
section
/-! DEFINITION. The commands: one constructor for each row of spec/opcode_table.json, with the operands the event carries. -/

namespace Sys2Proof

/-- The eight registers of the register window, by offset 0x00 to 0x1C (R4). -/
inductive Register where
  | ctrl | status | areaLo | areaHi | order | flags | nextAlarm | minute
  deriving DecidableEq, Repr

/-- What a source receiver reports to its line monitor (06 section 6.1, R84). -/
inductive Observation where
  /-- A block whose check failed. -/
  | erroredBlock
  /-- The receiver gains (true) or loses (false) lock. -/
  | lock (held : Bool)
  /-- Optical power is present (true) or absent (false) from now on. -/
  | light (present : Bool)
  deriving DecidableEq, Repr

/-- The order in which the blocks take one second tick, where R34 sets none: 0 to 47 a line monitor, 48 the crosspoint
controller. Those not listed take the tick after those listed, in ascending order (log 6). -/
abbrev TickOrder := List (Fin 49)

/-- How far the accesses to the book and the ring had come when a soft reset struck, what host memory answered to the work under
way, and the order of a tick that it still waits for (R14, R28; log 12). -/
structure CutAnswers where
  /-- The writes that had been issued of the accesses to the book and the ring, and of an order whose work they are. -/
  accessIssued : Nat
  /-- The bytes of the entry, when its read had completed. -/
  entry : Option (Vector Byte 24)
  /-- The bytes of the booking record. -/
  record : Vector Byte 20
  /-- The bytes of the tariff segment, when its read had completed. -/
  segment : Option (Vector Byte 240)
  /-- The state byte of the ticket slot at the write position. -/
  slotState : Byte
  /-- The order in which the blocks take a tick that a held close still waits for (R141). -/
  order : TickOrder
  deriving DecidableEq, Repr

/-- How far the work under way had come when a soft reset struck, and what host memory answered to it (R14, R28, R165;
log 12). -/
structure CutOff extends CutAnswers where
  /-- The writes of the page in flight that had been issued. -/
  pageIssued : Nat
  /-- The writes that had been issued of an order in flight whose work is no access yet. -/
  orderIssued : Nat
  deriving DecidableEq, Repr

/-- The register a write names, and how far the work under way had come, should the write be a SOFT RESET (log 12). -/
structure WriteTarget where
  /-- The register. -/
  register : Register
  /-- What a SOFT RESET written to CTRL cuts off. -/
  cut : CutOff
  deriving DecidableEq, Repr

/-- How the blocks take what falls at the end of second 59, where R34 sets no order among them (log 5, log 21). -/
structure BoundaryOrder where
  /-- The blocks that take the tick ahead of its command. -/
  early : TickOrder
  /-- The blocks that take boundaries take theirs now. -/
  boundary : Bool
  /-- After its tick, the tariff unit takes the boundary once the store has brought up so many timelines (R136). -/
  swapAfter : Nat
  /-- The ring re-check follows so many closes (R163). -/
  recheckAfter : Nat
  deriving DecidableEq, Repr

/-- The commands and events of the part (spec/opcode_table.json, 47 rows). -/
inductive Instr where
  /-- START, R10 R12: the command START written to CTRL. -/
  | start
  /-- HALT, R13. -/
  | halt
  /-- SOFT_RESET, R14 R28: the writes issued of the page and of the work under way, and what host memory answered (log 12). -/
  | softReset (pageIssued orderIssued : Nat) (answer : CutAnswers)
  /-- MODE_WRITE, R5: a CTRL write with the mode write bit, its bits 5:4 and 13:8. -/
  | modeWrite (mode : BitVec 2) (spotlight : BitVec 6)
  /-- AREA_WRITE, R6: a write to AREA_LO (`high` false) or AREA_HI (`high` true). -/
  | areaWrite (high : Bool) (value : Word)
  /-- ORDER_END_WRITE, R7 R26: a write to ORDER. -/
  | orderEndWrite (value : Word)
  /-- FLAGS_READ, R171: a read of FLAGS with its byte enables. -/
  | flagsRead (enables : BitVec 4)
  /-- FLAGS_WRITE, R170: a write to FLAGS. -/
  | flagsWrite (value : Word)
  /-- ACK, R128: a NEXT_ALARM write with ACK 1 and PUSH 0 that names `item`. -/
  | ack (item : BitVec 6) (pop : Bool)
  /-- PUSH, R124 R128: a NEXT_ALARM write with PUSH 1. -/
  | push (item : BitVec 6) (ack pop : Bool)
  /-- POP, R124 R128: a NEXT_ALARM write with POP 1, ACK 0 and PUSH 0. -/
  | pop
  /-- REGISTER_WRITE, R4: a write to any register with its byte enables. -/
  | registerWrite (register : WriteTarget) (enables : BitVec 4) (value : Word)
  /-- HARD_RESET, R16: RESETN goes low. -/
  | hardReset
  /-- RESET_RELEASE, R16 R31: RESETN returns high at `instant`. -/
  | resetRelease (instant : Nat)
  /-- SECREF_PULSE, R32 R33. -/
  | secrefPulse (instant : Nat) (order : TickOrder)
  /-- SECREF_TIMEOUT, R32: 1.5 s have passed after the last SECREF tick. -/
  | secrefTimeout (order : TickOrder)
  /-- OWN_TICK, R33: the clock's own tick schedule falls due. -/
  | ownTick (order : TickOrder)
  /-- RELOCK_TIMEOUT, R33: 1.001 s have passed after the last pulse of the relock run. -/
  | relockTimeout
  /-- FRAMEREF_PULSE, R38. -/
  | framerefPulse (instant : Nat)
  /-- FRAMEREF_TIMEOUT, R38: 100 ms have passed after the last FRAMEREF pulse. -/
  | framerefTimeout
  /-- MINUTE_BOUNDARY, R35 R53: the instant at which second 59 ends. Blocks take its tick ahead of the tick command, and then
  the blocks that take boundaries take theirs (log 5, log 21). -/
  | minuteBoundary (order : BoundaryOrder)
  /-- RECEIVER_OBSERVATION, R84. -/
  | receiverObservation (port : Fin 48) (seen : Observation)
  /-- LOSS_OF_LIGHT_EDGE, R95. -/
  | lossOfLightEdge (port : Fin 48)
  /-- HOLD_OFF_REACHED, R90 R91: the monitor takes a tick at which its bad count reaches the hold-off. -/
  | holdOffReached (port : Fin 48)
  /-- RESTORE_TIMER_EXPIRY, R93: the monitor takes a tick at which its restore timer falls to 0. -/
  | restoreTimerExpiry (port : Fin 48)
  /-- BUS_FAULT, R15: an error completion. `after` 0 is an access already issued, `after` n+1 the write number n counted
  from here (log 11). -/
  | busFault (after : Nat)
  /-- COMPLETION_TIMEOUT, R15: no completion within 50 ms, `after` as for BUS_FAULT. -/
  | completionTimeout (after : Nat)
  /-- HEADER_READ_COMPLETE, R10: host memory answers bytes 0 to 79 of the header. -/
  | headerReadComplete (bytes : Vector Byte 80)
  /-- IDENTITY_WRITE_COMPLETE, R11. -/
  | identityWriteComplete
  /-- ORDER_TAKEN, R18. -/
  | orderTaken
  /-- ENTRY_READ_COMPLETE, R19 R20: host memory answers bytes 0 to 23 of the entry at NEXT. -/
  | entryReadComplete (bytes : Vector Byte 24)
  /-- BOOK, R49: the booking store takes the BOOK in flight. -/
  | book
  /-- BOOK_RECORD_READ, R47 R50: host memory answers bytes 0 to 19 of the booking record. -/
  | bookRecordRead (bytes : Vector Byte 20)
  /-- CANCEL, R61 R62: the booking store takes the CANCEL in flight. -/
  | cancel
  /-- EXTEND, R59: the booking store takes the EXTEND in flight. -/
  | extend
  /-- SWITCH, R82: the crosspoint controller takes the SWITCH in flight. -/
  | switch
  /-- SET_LEG, R117: the protection unit takes the SET LEG in flight. -/
  | setLeg
  /-- SET_PORT, R97: the line monitors take the SET PORT in flight. -/
  | setPort
  /-- READ_PORT, R101: the line monitors take the READ PORT in flight. -/
  | readPort
  /-- LOAD_TARIFF, R133: the meter and tariff unit takes the LOAD TARIFF in flight. -/
  | loadTariff
  /-- TARIFF_SEGMENT_READ, R134: host memory answers the 240 bytes of the segment. -/
  | tariffSegmentRead (bytes : Vector Byte 240)
  /-- LATCH_ACCOUNT, R156: the account and ticket unit takes the LATCH ACCOUNT in flight. -/
  | latchAccount
  /-- CLOSE_MATCH, R157: the account and ticket unit takes the CLOSE MATCH in flight. -/
  | closeMatch
  /-- SET_CLOCK, R41: the network clock takes the SET CLOCK in flight. -/
  | setClock
  /-- RATING_RELEASE, R141: a held close whose last second has been counted goes on to rating. -/
  | ratingRelease
  /-- PAGE_COMPLETE, R167: the writes of the page in flight are issued to the end count. -/
  | pageComplete
  /-- TICKET_SLOT_READ_COMPLETE, R161: host memory answers the state byte of the slot at the write position. -/
  | ticketSlotReadComplete (state : Byte)
  deriving DecidableEq, Repr

end Sys2Proof
end

