-- ==== Sys2Proof/Decode.lean ====
section
/-! DEFINITION. Words to commands. The part has no instruction words: spec/opcode_table.json gives bits to none of its 47
rows, so no word spells a command. -/

namespace Sys2Proof

/-- The command that a word spells by the table's bits. No row of spec/opcode_table.json gives bits, so there is none. -/
def decodeTableWord (_nbits _w : Nat) : Option Instr := none

end Sys2Proof
end

