-- ==== Sys2Proof/Config.lean ====
section
/-! DEFINITION. What the manual fixes once for every part (limits and offsets), and the one free value: the silicon revision. -/

namespace Sys2Proof.Config

/-- The silicon revision number less one. R175 gives it 8 bits "counting from 1" and no value, so it is free: nothing in
the model can evaluate it (log 15, DESIGN CHOICE, safe). -/
opaque siliconRevisionLessOne : Fin 255

/-- The silicon revision number of the identity word, 1 to 255 (R175). -/
def siliconRevision : Nat := siliconRevisionLessOne.val + 1

/-- One second, in the unit of instants: nanoseconds (log 4). -/
def second : Nat := 1000000000

/-- R32: without a pulse for 1.5 s a LOCKED clock enters FREE_RUN. -/
def secrefLimit : Nat := 1500000000

/-- R33: a pulse of a relock run comes no sooner than 0.999 s after the one before. -/
def relockLow : Nat := 999000000

/-- R33: a pulse of a relock run comes no later than 1.001 s after the one before. -/
def relockHigh : Nat := 1001000000

/-- R38: without a pulse for 100 ms the frame reference is LOST. -/
def framerefLimit : Nat := 100000000

/-- 2^64, the end of the address space (R10). -/
def addressEnd : Nat := 2 ^ 64

/-- The exchange area is 8 KiB long (R2). -/
def areaBytes : Nat := 8192

/-- Windows are counted in pages of 4 KiB (R2). -/
def pageBytes : Nat := 4096

/-- Offset of the identity word in the header (R175). -/
def identityOffset : Nat := 4

/-- The first offset of the order list; entries are 64 bytes (R17). -/
def orderListOffset : Nat := 256

/-- The offset of the status page in the exchange area (R165). -/
def statusPageOffset : Nat := 4096

end Sys2Proof.Config
end

