-- ==== Sys2Proof/Machine/Tables.lean ====
section
/-! DEFINITION. Tables of fixed size (slots, rows, monitors, items) and the byte layouts of R173. -/

namespace Sys2Proof.Machine

/-- The table whose entry i is `f i`. It is written over a list so that Lean's kernel can evaluate it. -/
def build {α : Type} {n : Nat} (f : Fin n → α) : Vector α n :=
  ⟨⟨(List.finRange n).map f⟩, by simp⟩

/-- R173: a field of `len` bytes, little-endian. -/
def le (len v : Nat) : List Byte :=
  match len with
  | 0 => []
  | n + 1 => BitVec.ofNat 8 v :: le n (v / 256)

/-- R173: the number that little-endian bytes hold. -/
def ofLe (bytes : List Byte) : Nat :=
  match bytes with
  | [] => 0
  | b :: rest => b.toNat + 256 * ofLe rest

/-- The field of `len` bytes at offset `off` of a record. -/
def fieldAt {n : Nat} (bytes : Vector Byte n) (off len : Nat) : Nat :=
  ofLe ((bytes.toList.drop off).take len)

/-- A count that stays at its limit (R79, R88, R139, R153). -/
def satAdd (limit count n : Nat) : Nat := min limit (count + n)

end Sys2Proof.Machine
end

