-- ==== Sys2Proof/Machine/State.lean ====
section
/-! DEFINITION. The state of the part, block by block (00 section 1.2), as plain data, and its hard reset values. Numeric
codes are in Machine/Operands.lean. -/

namespace Sys2Proof.Machine

/-- Why a step would stop with a fault. There is no reason: every command has an effect or is ignored, and a bus fault of
the link is an event with an effect (R15), not a stop of the model. No meaning raises one; safe. -/
inductive Fault where
  deriving DecidableEq, Repr

/-- Why a command would be refused. -/
inductive Refusal where
  /-- Raised by an arm of `exec` for a command that has no meaning yet; safe. No arm raises it. -/
  | notModelled (mnemonic : String)
  deriving DecidableEq, Repr

/-- A second of network time: its minute and its number in the minute. -/
structure Stamp where
  minute : Nat
  second : Nat
  deriving DecidableEq, Repr

/-! ### Link interface and register set (chapters 1 and 11) -/

/-- The permission of a window (R2). -/
inductive WindowPermission where
  | read | write | readWrite
  deriving DecidableEq, Repr

/-- A window in force (R2, R3). -/
structure Window where
  base : Address
  pages : BitVec 32
  permission : WindowPermission
  deriving DecidableEq, Repr

/-- The run states (R9). -/
inductive RunState where
  | dormant | running | held
  deriving DecidableEq, Repr

/-- The fatal code (R15). -/
inductive FatalCode where
  | none | bus
  deriving DecidableEq, Repr

/-- The last start code (R10, R16). -/
inductive StartCode where
  | none | ok | version | windowBad | bookCount | bookWindow | ringCount | ringWindow | fatal
  deriving DecidableEq, Repr

/-- How far a START in DORMANT has come: START is in progress in every phase but `idle` (R10, R11). -/
inductive StartPhase where
  | idle | headerRead | identityWrite
  deriving DecidableEq, Repr

/-- One write of host memory: the address of its first byte and its bytes, in address order. -/
structure HostWrite where
  address : Address
  bytes : List Byte
  deriving DecidableEq, Repr

/-- What the part puts on the link (R4, R15, R172). -/
inductive LinkOp where
  /-- A read of `length` bytes has been issued. -/
  | read (address : Address) (length : Nat)
  /-- A write has been issued. -/
  | write (w : HostWrite)
  /-- The interrupt message has been sent. -/
  | message
  deriving DecidableEq, Repr

/-- What the sender has announced for the writes to come (log 11, log 12): nothing; that the write number `n` from here
ends in a bus fault; or that only `n` more writes are issued before a soft reset drops the rest. -/
inductive Gate where
  | open
  | faultAfter (n : Nat)
  | muteAfter (n : Nat)
  deriving DecidableEq, Repr

/-- The seven flags, bit 0 to bit 6 of FLAGS (R170). -/
inductive Flag where
  | order | ticket | ticketLost | alarm | page | run | clock
  deriving DecidableEq, Repr

/-- The tick of a minute boundary that the status page logic has still to take (R166): the time that the clock left at it
(R168), and what the booking store and the ticket unit had still to do when it was handed to the logic (log 5). -/
structure OwedTick where
  time : Stamp
  /-- The slots whose close had not ended. -/
  closes : List (Fin 1024)
  /-- The record writes that waited. -/
  writes : List HostWrite
  /-- The re-check of the ring had not been made. -/
  recheck : Bool
  deriving DecidableEq, Repr

/-- The link interface and register set. -/
structure Link where
  area : Address
  windows : Vector (Option Window) 3
  run : RunState
  start : StartPhase
  lastStart : StartCode
  fatal : FatalCode
  haltWaiting : Bool
  flags : BitVec 7
  permissions : BitVec 7
  pageCount : BitVec 32
  pageDue : Bool
  /-- The ticks of minute boundaries that the status page logic has still to take, oldest first (R166). -/
  pageTicks : List OwedTick
  /-- The page due mark for the next tick, set after the crosspoint controller has taken this one (R166). -/
  pageNext : Bool
  /-- The page in flight: its writes that have not been issued, in order (R165, R167). -/
  page : Option (List HostWrite)
  /-- What the part has put on the link, oldest first. -/
  log : List LinkOp
  gate : Gate
  /-- The bytes the part returned to the last register read. -/
  answer : List Byte
  deriving DecidableEq, Repr

/-! ### Order unit (chapter 2) -/

/-- The 11 orders (02 section 2.3). -/
inductive OrderCode where
  | book | cancel | extend | switch | setLeg | setPort | readPort | loadTariff | latchAccount | closeMatch | setClock
  deriving DecidableEq, Repr

/-- An order the unit works from (R19). -/
structure Order where
  code : OrderCode
  notify : Bool
  a : BitVec 32
  b : BitVec 32
  c : BitVec 32
  d : BitVec 64
  deriving DecidableEq, Repr

/-- How far an order in ACTING has come at its owning block (R21, R23). -/
inductive Stage where
  /-- Handed to the owning block, which has not taken it yet. -/
  | dispatched
  /-- Taken; it waits for an access to the book or the ring. -/
  | queued
  /-- Taken; it waits for the tariff segment. -/
  | segmentRead
  /-- Stopped where it stood by a bus fault (R29; log 26). -/
  | stopped
  deriving DecidableEq, Repr

/-- The states of the order unit (02 section 2.2). -/
inductive UnitState where
  | idle
  | reading
  | acting (order : Order) (stage : Stage)
  | reporting
  deriving DecidableEq, Repr

/-- The order unit. -/
structure OrderUnit where
  next : BitVec 5
  endIndex : BitVec 5
  unit : UnitState
  deriving DecidableEq, Repr

/-! ### Meter and tariff unit (chapter 9), its tables -/

/-- The price bands (09 section 9.1). -/
inductive Band where
  | peak | standard | night
  deriving DecidableEq, Repr

/-- One number for each band. -/
structure PerBand where
  peak : Nat
  standard : Nat
  night : Nat
  deriving DecidableEq, Repr

/-- The values of one class (09 section 9.1). -/
structure ClassTariff where
  rate : PerBand
  multiplier : Nat
  rebate : Nat
  minimum : Nat
  allowance : Nat
  cutoff : Nat
  deriving DecidableEq, Repr

/-- A tariff table (09 section 9.1). -/
structure Tariff where
  bands : Vector Band 168
  classes : Vector ClassTariff 4
  deriving DecidableEq, Repr

/-- The meter of a booking slot (R139). -/
structure Meter where
  booked : PerBand
  overrun : PerBand
  held : Nat
  outage : Nat
  allowanceUsed : Nat
  excess : PerBand
  startBand : Option Band
  firstCounted : Option Stamp
  lastTable : Option (BitVec 32)
  deriving DecidableEq, Repr

/-- The meter and tariff unit (R132, R139). -/
structure Tariffs where
  current : Option Tariff
  staged : Option Tariff
  retired : Option Tariff
  number : BitVec 32
  meters : Vector Meter 1024
  deriving DecidableEq, Repr

/-! ### Network clock (chapter 3) -/

/-- The SECREF states. -/
inductive SecrefState where
  | freeRun | locked
  deriving DecidableEq, Repr

/-- The FRAMEREF states. -/
inductive FramerefState where
  | lost | present
  deriving DecidableEq, Repr

/-- The relock run: the count of qualifying pulses and the instant of the last of them (R33). -/
structure Relock where
  count : Nat
  last : Nat
  deriving DecidableEq, Repr

/-- The tick that completes second 59 is a minute boundary (R35), and the blocks take the two in either order (R34). -/
inductive Rollover where
  /-- Neither is outstanding. -/
  | none
  /-- The tick has been taken; the boundary into `minute` is outstanding. `clockSet`: a SET CLOCK came between (R42). -/
  | tickFirst (minute : BitVec 32) (clockSet : Bool)
  /-- The boundary has been taken; the tick that ends second 59 of `ended` is outstanding. -/
  | boundaryFirst (ended : BitVec 32)
  /-- The boundary has been taken, and a soft reset has had the blocks take the tick that ends second 59 of `ended`: its
  command hands it out no more (R14, R141; log 12). -/
  | handed (ended : BitVec 32)
  deriving DecidableEq, Repr

/-- The network clock (03 section 3.1). -/
structure Clock where
  minute : BitVec 32
  second : Nat
  secref : SecrefState
  frameref : FramerefState
  lastTick : Option Nat
  nextOwn : Option Nat
  relock : Relock
  lastFrame : Option Nat
  rollover : Rollover
  deriving DecidableEq, Repr

/-! ### Booking store (chapter 4) -/

/-- The states of a booking slot (04 section 4.1). -/
inductive SlotState where
  | free | accepted | active | overrun
  deriving DecidableEq, Repr

/-- The leg modes (07 section 7.1). -/
inductive LegMode where
  | autoRevertive | autoHold | lockPrimary | lockBackup
  deriving DecidableEq, Repr

/-- A booking slot (04 section 4.1). -/
structure Slot where
  state : SlotState
  port : Fin 64
  primary : Fin 48
  backup : Option (Fin 48)
  cls : Fin 4
  matchNumber : Nat
  client : Byte
  hostReference : BitVec 32
  start : Nat
  duration : Nat
  extension : Nat
  legMode : LegMode
  activation : Option Nat
  deriving DecidableEq, Repr

/-- A close held for the count of its last second (R58, R141): its booking, its close minute and whether the second has
been counted. -/
structure Hold where
  slot : Fin 1024
  closeMinute : Nat
  counted : Bool
  deriving DecidableEq, Repr

/-- The booking store. -/
structure Store where
  slots : Vector Slot 1024
  timelines : Vector (List (Fin 1024)) 64
  bookBase : Address
  bookCount : Nat
  holds : List Hold
  deriving DecidableEq, Repr

/-! ### Crosspoint controller (chapter 5) -/

/-- What a delivery port is selected to: a source port or BLACK. -/
inductive Source where
  | port (p : Fin 48)
  | black
  deriving DecidableEq, Repr

/-- The causes of a request (05 section 5.3). -/
inductive Cause where
  | booking | protection | manual | close
  deriving DecidableEq, Repr

/-- A pending selection. -/
structure Selection where
  target : Source
  cause : Cause
  deriving DecidableEq, Repr

/-- One row of the selection table (05 section 5.1). -/
structure Row where
  current : Source
  pending : Option Selection
  unbooked : Nat
  changed : Bool
  owned : Bool
  last : Source
  deriving DecidableEq, Repr

/-! ### Line monitors (chapter 6) -/

/-- The health of a source port. -/
inductive Health where
  | outOfService | ok | suspect | failed | recovering
  deriving DecidableEq, Repr

/-- The class of a second; `none` where none was classed. -/
inductive SecondClass where
  | none | clean | errored | severe | dark
  deriving DecidableEq, Repr

/-- The observations of the second in progress (R84). -/
structure Observations where
  lightLost : Bool
  lockLost : Bool
  blocks : Nat
  deriving DecidableEq, Repr

/-- A line monitor (06 section 6.2), with its receiver's levels (`light`, `lock`) and the mark that it has taken the tick
of the second that is ending ahead of the other blocks (log 8). -/
structure Monitor where
  inService : Bool
  holdOff : Nat
  restoreTime : Nat
  severeThreshold : Nat
  fastDetect : Bool
  health : Health
  badCount : Nat
  restoreTimer : Nat
  lastClass : SecondClass
  firstSecond : Bool
  erroredSeconds : Nat
  severeSeconds : Nat
  darkSeconds : Nat
  failures : Nat
  seen : Observations
  light : Bool
  lock : Bool
  tookTick : Bool
  deriving DecidableEq, Repr

/-! ### Alarm ranking unit (chapter 8) -/

/-- An alarm item: its severity and its acknowledged level (R118). -/
structure AlarmItem where
  severity : Fin 4
  acked : Fin 4
  deriving DecidableEq, Repr

/-- The ranking modes (R125). -/
inductive RankingMode where
  | fixed | spotlight | inhibit
  deriving DecidableEq, Repr

/-- The floor stack (R123). -/
structure FloorStack where
  top : Fin 5
  middle : Fin 5
  bottom : Fin 5
  deriving DecidableEq, Repr

/-- The alarm ranking unit (R118). -/
structure Alarm where
  items : Vector AlarmItem 51
  mode : RankingMode
  spotlight : Fin 51
  floor : FloorStack
  deriving DecidableEq, Repr

/-! ### Account and ticket unit (chapter 10) -/

/-- A match account (R153). -/
structure Account where
  isOpen : Bool
  matchNumber : Nat
  openCount : Nat
  closedCount : Nat
  chargeTotal : Nat
  outageTotal : Nat
  unwritten : Nat
  deriving DecidableEq, Repr

/-- The ticket kinds (R160). -/
inductive TicketKind where
  | booking | lateCancel | cancel | missed | matchTotal
  deriving DecidableEq, Repr

/-- A ticket, but for its state byte and its number (R160). For MATCH_TOTAL the total stands over `outage` (its low 32
bits) and `charge`. -/
structure Ticket where
  kind : TicketKind
  cls : Nat
  client : Byte
  matchNumber : Nat
  booking : Nat
  minute : Nat
  hostReference : BitVec 32
  charged : Nat
  outage : Nat
  charge : Nat
  deriving DecidableEq, Repr

/-- A close as the booking store hands it to the account and ticket unit: the ticket with its charge (R149), what the record
of the booking shows (R48) and whether a CANCEL asked for it (R23). -/
structure Raise where
  ticket : Ticket
  slot : Fin 1024
  closeMinute : Nat
  bookedSeconds : Nat
  overrunSeconds : Nat
  outageSeconds : Nat
  heldSeconds : Nat
  forOrder : Bool
  deriving DecidableEq, Repr

/-- The outcome codes (02 section 2.8). -/
inductive OutcomeCode where
  | ok | clamped | notReady | badOrder | badNumber | notFree | badPort | portOut | sameLegs | badDuration | badClass
  | late | range | conflict | noAccount | noTariff | badState | extendLimit | owned | noBackup | inUse | window
  | segment | noMatch | openBookings | ringFull | bookingsExist
  deriving DecidableEq, Repr

/-- An access of the booking store or the ticket unit to the book or the ring, or a report that must follow one (R23). -/
inductive Access where
  /-- Write host memory. -/
  | write (w : HostWrite)
  /-- Raise the ticket of a close that the account holds, and write its record (R149, R161). In flight, the ticket has its
  number and the state byte of the slot is being read. -/
  | raise (r : Raise)
  /-- The ticket or the record of a close is being written (R48, R68, R161). -/
  | closeWrite (r : Raise)
  /-- Check 3 of CLOSE MATCH for an account, the order taken in `minute` (R157, R160). -/
  | totalCheck (account : Fin 128) (minute : Nat)
  /-- The MATCH_TOTAL ticket of an account is being written (R157, R164). -/
  | totalWrite (account : Fin 128)
  /-- Re-check a blocked ring (R163). -/
  | recheck
  /-- Read a booking record for BOOK (R47). -/
  | recordRead (slot : Fin 1024)
  /-- Report the order in flight (R24). -/
  | report (outcome : OutcomeCode) (result : List Byte)
  deriving DecidableEq, Repr

/-- The placement of the ticket ring (R159). -/
structure Ring where
  base : Address
  count : Nat
  deriving DecidableEq, Repr

/-- The ticket state (R159), with the access whose read is outstanding and those queued behind it (log 9). -/
structure Tickets where
  ring : Option Ring
  writePosition : Nat
  number : BitVec 32
  lost : BitVec 32
  blocked : Bool
  /-- The re-check of a boundary, still to be made after so many more closes (R163). -/
  recheckIn : Option Nat
  inFlight : Option Access
  waiting : List Access
  deriving DecidableEq, Repr

/-- The state of the part. -/
structure State where
  /-- The level of RESETN: true is high. -/
  resetn : Bool
  /-- The commands that wait, first in, first out. -/
  pending : List Instr
  link : Link
  orders : OrderUnit
  clock : Clock
  store : Store
  rows : Vector Row 64
  /-- The crosspoint controller has taken the tick of second 59 ahead of the tick's command (log 5). -/
  crosspointAhead : Bool
  monitors : Vector Monitor 48
  alarm : Alarm
  tariffs : Tariffs
  accounts : Vector Account 128
  tickets : Tickets
  deriving DecidableEq, Repr

/-! ### Hard reset values -/

/-- R16: the register set, with all flags and permissions 0 and windows 1 to 3 unused. -/
def Link.hardReset : Link :=
  { area := 0, windows := build fun _ => none, run := .dormant, start := .idle, lastStart := .none, fatal := .none,
    haltWaiting := false, flags := 0, permissions := 0, pageCount := 0, pageDue := false, pageTicks := [],
    pageNext := false, page := none, log := [], gate := .open, answer := [] }

/-- R7, R16: NEXT = END = 0, the unit IDLE. -/
def OrderUnit.hardReset : OrderUnit := { next := 0, endIndex := 0, unit := .idle }

/-- 03 section 3.1 while RESETN is low: no own tick is scheduled before RESETN returns high (R31). -/
def Clock.hardReset : Clock :=
  { minute := 0, second := 0, secref := .freeRun, frameref := .lost, lastTick := none, nextOwn := none,
    relock := { count := 0, last := 0 }, lastFrame := none, rollover := .none }

/-- R43: a slot FREE with every field zero or absent. -/
def Slot.hardReset : Slot :=
  { state := .free, port := 0, primary := 0, backup := none, cls := 0, matchNumber := 0, client := 0,
    hostReference := 0, start := 0, duration := 0, extension := 0, legMode := .autoRevertive, activation := none }

/-- R11, R43: every slot FREE, every timeline empty, no book in force and the book count 0. -/
def Store.hardReset : Store :=
  { slots := build fun _ => Slot.hardReset, timelines := build fun _ => [], bookBase := 0, bookCount := 0, holds := [] }

/-- 05 section 5.1. -/
def Row.hardReset : Row :=
  { current := .black, pending := none, unbooked := 0, changed := false, owned := false, last := .black }

/-- 06 section 6.2. The receiver's levels have no reset value in the spec: absent and not held (log 14, DESIGN CHOICE,
unsafe). -/
def Monitor.hardReset : Monitor :=
  { inService := false, holdOff := 2, restoreTime := 120, severeThreshold := 300, fastDetect := false,
    health := .outOfService, badCount := 0, restoreTimer := 0, lastClass := .none, firstSecond := false,
    erroredSeconds := 0, severeSeconds := 0, darkSeconds := 0, failures := 0,
    seen := { lightLost := false, lockLost := false, blocks := 0 }, light := false, lock := false, tookTick := false }

/-- R118: every severity and acknowledged level 0, FIXED, spotlight item 0, floor stack 0, 0, 0. -/
def Alarm.hardReset : Alarm :=
  { items := build fun _ => { severity := 0, acked := 0 }, mode := .fixed, spotlight := 0,
    floor := { top := 0, middle := 0, bottom := 0 } }

/-- R139: a cleared meter. -/
def Meter.cleared : Meter :=
  { booked := { peak := 0, standard := 0, night := 0 }, overrun := { peak := 0, standard := 0, night := 0 }, held := 0,
    outage := 0, allowanceUsed := 0, excess := { peak := 0, standard := 0, night := 0 }, startBand := none,
    firstCounted := none, lastTable := none }

/-- R132, R139. -/
def Tariffs.hardReset : Tariffs :=
  { current := none, staged := none, retired := none, number := 0, meters := build fun _ => Meter.cleared }

/-- R153. -/
def Account.hardReset : Account :=
  { isOpen := false, matchNumber := 0, openCount := 0, closedCount := 0, chargeTotal := 0, outageTotal := 0,
    unwritten := 0 }

/-- R159. -/
def Tickets.hardReset : Tickets :=
  { ring := none, writePosition := 0, number := 0, lost := 0, blocked := false, recheckIn := none, inFlight := none,
    waiting := [] }

/-- The hard reset values of every block, with RESETN low (R16). -/
def State.hardReset : State :=
  { resetn := false, pending := [], link := Link.hardReset, orders := OrderUnit.hardReset, clock := Clock.hardReset,
    store := Store.hardReset, rows := build fun _ => Row.hardReset, crosspointAhead := false,
    monitors := build fun _ => Monitor.hardReset, alarm := Alarm.hardReset, tariffs := Tariffs.hardReset,
    accounts := build fun _ => Account.hardReset, tickets := Tickets.hardReset }

/-- The part right after RESETN has returned high at instant 0: the hard reset values (R16), the first own tick 1 s later
(R31) and item 48 derived at severity 2 (R118). -/
def State.reset : State :=
  { State.hardReset with
    resetn := true
    clock := { Clock.hardReset with nextOwn := some Config.second }
    alarm := { Alarm.hardReset with
      items := build fun i => if i = 48 then { severity := 2, acked := 0 } else { severity := 0, acked := 0 } } }

end Sys2Proof.Machine
end

