-- ==== Sys2Proof/Machine/Flags.lean ====
section
/-! DEFINITION. Flags and permissions, the interrupt condition and the interrupt message (11 section 11.2). -/

namespace Sys2Proof.Machine

/-- The bit of a flag in FLAGS, bits 6:0 (11 section 11.2). -/
def flagBit (f : Flag) : BitVec 7 :=
  match f with
  | .order => 1
  | .ticket => 2
  | .ticketLost => 4
  | .alarm => 8
  | .page => 16
  | .run => 32
  | .clock => 64

/-- R170: the flag has its permission. -/
def permitted (f : Flag) (s : State) : Bool := s.link.permissions &&& flagBit f != 0

/-- The flag is set. -/
def flagSet (f : Flag) (s : State) : Bool := s.link.flags &&& flagBit f != 0

/-- Put one entry on the link. -/
def record (op : LinkOp) (s : State) : State :=
  { s with link := { s.link with log := s.link.log ++ [op] } }

/-- R172: the flags become `f`, and when the interrupt condition rises, from no flag set to some flag set, one interrupt
message is sent. -/
def setFlags (f : BitVec 7) (s : State) : State :=
  if s.link.flags = 0 ∧ f ≠ 0 then
    record .message { s with link := { s.link with flags := f } }
  else { s with link := { s.link with flags := f } }

/-- R170: an event latches its flag when its permission is 1, and leaves no trace otherwise. -/
def latch (f : Flag) (s : State) : State :=
  if permitted f s then setFlags (s.link.flags ||| flagBit f) s else s

/-- R171: the flags a full read of FLAGS leaves: ALARM, which is a level. -/
def alarmOnly (f : BitVec 7) : BitVec 7 := f &&& flagBit .alarm

end Sys2Proof.Machine
end

