-- ==== Sys2Proof/Machine/Operands.lean ====
section
/-! DEFINITION. Numeric codes (12 section 12.7), record layouts (12 sections 12.2 to 12.6) and the arguments of the orders
(12 section 12.3), read from the bytes host memory answers and written into the bytes the part issues. -/

namespace Sys2Proof.Machine

/-! ### Codes the part writes -/

/-- Source field: S0 to S47 are 0 to 47, BLACK 255 (12 section 12.7). -/
def sourceCode (x : Source) : Nat :=
  match x with
  | .port p => p.val
  | .black => 255

/-- R174: wherever the part writes a source that is absent, it writes 254. -/
def sourceOptCode (x : Option Source) : Nat :=
  match x with
  | some y => sourceCode y
  | none => 254

/-- Pending cause. -/
def causeCode (x : Cause) : Nat :=
  match x with
  | .booking => 1
  | .protection => 2
  | .manual => 3
  | .close => 4

/-- Booking slot state. -/
def slotStateCode (x : SlotState) : Nat :=
  match x with
  | .free => 0
  | .accepted => 1
  | .active => 2
  | .overrun => 3

/-- Leg mode. -/
def legModeCode (x : LegMode) : Nat :=
  match x with
  | .autoRevertive => 0
  | .autoHold => 1
  | .lockPrimary => 2
  | .lockBackup => 3

/-- Health. -/
def healthCode (x : Health) : Nat :=
  match x with
  | .outOfService => 0
  | .ok => 1
  | .suspect => 2
  | .failed => 3
  | .recovering => 4

/-- Last class. -/
def classCode (x : SecondClass) : Nat :=
  match x with
  | .none => 0
  | .clean => 1
  | .errored => 2
  | .severe => 3
  | .dark => 4

/-- Ticket kind. -/
def ticketKindCode (x : TicketKind) : Nat :=
  match x with
  | .booking => 1
  | .lateCancel => 2
  | .cancel => 3
  | .missed => 4
  | .matchTotal => 5

/-- Run state. -/
def runStateCode (x : RunState) : Nat :=
  match x with
  | .dormant => 0
  | .running => 1
  | .held => 2

/-- SECREF state. -/
def secrefCode (x : SecrefState) : Nat :=
  match x with
  | .freeRun => 0
  | .locked => 1

/-- FRAMEREF state. -/
def framerefCode (x : FramerefState) : Nat :=
  match x with
  | .lost => 0
  | .present => 1

/-- Fatal code. -/
def fatalCodeCode (x : FatalCode) : Nat :=
  match x with
  | .none => 0
  | .bus => 1

/-- Start code. -/
def startCodeCode (x : StartCode) : Nat :=
  match x with
  | .none => 0
  | .ok => 1
  | .version => 2
  | .windowBad => 3
  | .bookCount => 4
  | .bookWindow => 5
  | .ringCount => 6
  | .ringWindow => 7
  | .fatal => 8

/-- Ranking mode. -/
def rankingModeCode (x : RankingMode) : Nat :=
  match x with
  | .fixed => 0
  | .spotlight => 1
  | .inhibit => 2

/-- Outcome code. -/
def outcomeCode (x : OutcomeCode) : Nat :=
  match x with
  | .ok => 0
  | .clamped => 1
  | .notReady => 2
  | .badOrder => 3
  | .badNumber => 4
  | .notFree => 5
  | .badPort => 6
  | .portOut => 7
  | .sameLegs => 8
  | .badDuration => 9
  | .badClass => 10
  | .late => 11
  | .range => 12
  | .conflict => 13
  | .noAccount => 14
  | .noTariff => 15
  | .badState => 16
  | .extendLimit => 17
  | .owned => 18
  | .noBackup => 19
  | .inUse => 20
  | .window => 21
  | .segment => 22
  | .noMatch => 23
  | .openBookings => 24
  | .ringFull => 25
  | .bookingsExist => 26

/-- R24: the state byte of an entry is DONE (2) when the outcome is OK or CLAMPED, and REFUSED (3) otherwise. -/
def entryStateCode (x : OutcomeCode) : Nat :=
  match x with
  | .ok | .clamped => 2
  | _ => 3

/-- Record state ACCEPTED. -/
def recordAccepted : Nat := 2
/-- Record state REFUSED. -/
def recordRefused : Nat := 3
/-- Record state ON_AIR. -/
def recordOnAir : Nat := 4
/-- Record state OVERRUN. -/
def recordOverrun : Nat := 5

/-- R48: the state a record shows after the close whose ticket has the kind. -/
def recordClosed (x : TicketKind) : Nat :=
  match x with
  | .booking => 6
  | .missed => 8
  | .lateCancel | .cancel | .matchTotal => 7

/-- A Bool as a byte. -/
def boolCode (b : Bool) : Nat := if b then 1 else 0

/-! ### Codes the part reads -/

/-- Window permission byte: NONE 0, READ 1, WRITE 2, READ+WRITE 3. `none` here is any value but 1, 2 and 3. -/
def windowPermission (n : Nat) : Option WindowPermission :=
  if n = 1 then some .read else if n = 2 then some .write else if n = 3 then some .readWrite else none

/-- Leg mode argument; R174: a value above 3 names no mode. -/
def legModeOf (n : Nat) : Option LegMode :=
  if n = 0 then some .autoRevertive else if n = 1 then some .autoHold
  else if n = 2 then some .lockPrimary else if n = 3 then some .lockBackup else none

/-- SWITCH source argument; R174: 0 to 47 and 255 name a source. -/
def sourceOf (n : Nat) : Option Source :=
  if n < 48 then some (.port (Fin.ofNat 48 n)) else if n = 255 then some .black else none

/-- Ranking mode field of CTRL; R174: 3 names no mode. -/
def rankingModeOf (n : BitVec 2) : Option RankingMode :=
  if n = 0 then some .fixed else if n = 1 then some .spotlight else if n = 2 then some .inhibit else none

/-- Order code; R20: 0 and codes above 11 name no order. -/
def orderCodeOf (n : Nat) : Option OrderCode :=
  if n = 1 then some .book else if n = 2 then some .cancel else if n = 3 then some .extend
  else if n = 4 then some .switch else if n = 5 then some .setLeg else if n = 6 then some .setPort
  else if n = 7 then some .readPort else if n = 8 then some .loadTariff else if n = 9 then some .latchAccount
  else if n = 10 then some .closeMatch else if n = 11 then some .setClock else none

/-- Band entry of a tariff segment; R134: a value above 2 is refused. -/
def bandOf (n : Nat) : Option Band :=
  if n = 0 then some .peak else if n = 1 then some .standard else if n = 2 then some .night else none

/-! ### Header (12 section 12.2) -/

/-- A window descriptor of the header. -/
structure WindowDescriptor where
  base : Nat
  pages : Nat
  permission : Nat
  deriving DecidableEq, Repr

/-- The fields of the header that START reads (R10). -/
structure Header where
  version : Nat
  bookBase : Nat
  bookCount : Nat
  slotCount : Nat
  ringBase : Nat
  windows : List WindowDescriptor
  deriving DecidableEq, Repr

/-- The descriptor of window k (1 to 3) at offset 16 + 16 k. -/
def windowDescriptor (bytes : Vector Byte 80) (k : Nat) : WindowDescriptor :=
  { base := fieldAt bytes (16 + 16 * k) 8, pages := fieldAt bytes (24 + 16 * k) 4,
    permission := fieldAt bytes (28 + 16 * k) 1 }

/-- The header from its bytes 0 to 79. -/
def headerOf (bytes : Vector Byte 80) : Header :=
  { version := fieldAt bytes 0 4, bookBase := fieldAt bytes 8 8, bookCount := fieldAt bytes 16 2,
    slotCount := fieldAt bytes 18 2, ringBase := fieldAt bytes 24 8,
    windows := [windowDescriptor bytes 1, windowDescriptor bytes 2, windowDescriptor bytes 3] }

/-! ### Booking record (12 section 12.2) -/

/-- The fields of a booking record that BOOK reads (R47). -/
structure BookRecord where
  state : Nat
  cls : Nat
  hasBackup : Bool
  revertive : Bool
  matchNumber : Nat
  client : Nat
  port : Nat
  primary : Nat
  backup : Nat
  duration : Nat
  start : Nat
  hostReference : Nat
  deriving DecidableEq, Repr

/-- The booking record from its bytes 0 to 19. -/
def bookRecordOf (bytes : Vector Byte 20) : BookRecord :=
  { state := fieldAt bytes 0 1, cls := fieldAt bytes 2 1, hasBackup := (fieldAt bytes 3 1).testBit 0,
    revertive := (fieldAt bytes 3 1).testBit 1, matchNumber := fieldAt bytes 4 2, client := fieldAt bytes 6 1,
    port := fieldAt bytes 7 1, primary := fieldAt bytes 8 1, backup := fieldAt bytes 9 1,
    duration := fieldAt bytes 10 2, start := fieldAt bytes 12 4, hostReference := fieldAt bytes 16 4 }

/-! ### Order entry (12 section 12.3) -/

/-- The state byte of an entry. -/
def entryState (bytes : Vector Byte 24) : Nat := fieldAt bytes 0 1

/-- R20: the notify value 1 asks for the ORDER flag, and any other value for none. -/
def entryNotify (bytes : Vector Byte 24) : Bool := fieldAt bytes 2 1 == 1

/-- The order an entry carries, if its code names one. -/
def entryOrder (bytes : Vector Byte 24) : Option Order :=
  (orderCodeOf (fieldAt bytes 1 1)).map fun code =>
    { code := code, notify := entryNotify bytes, a := BitVec.ofNat 32 (fieldAt bytes 4 4),
      b := BitVec.ofNat 32 (fieldAt bytes 8 4), c := BitVec.ofNat 32 (fieldAt bytes 12 4),
      d := BitVec.ofNat 64 (fieldAt bytes 16 8) }

/-- SET PORT, byte 8 of the entry: the in-service flag (R30: any value but 0 is on). -/
def setPortInService (o : Order) : Bool := o.b.extractLsb' 0 8 != 0

/-- SET PORT, byte 9 of the entry: the fast detect flag. -/
def setPortFastDetect (o : Order) : Bool := o.b.extractLsb' 8 8 != 0

/-- SET PORT, bytes 16 to 19 of the entry: the restore time. -/
def setPortRestoreTime (o : Order) : Nat := (o.d.extractLsb' 0 32).toNat

/-- SET PORT, bytes 20 to 23 of the entry: the severe threshold. -/
def setPortThreshold (o : Order) : Nat := (o.d.extractLsb' 32 32).toNat

/-! ### Tariff segment (12 section 12.6) -/

/-- The offset of class block c. -/
def classOffset (c : Nat) : Nat := 176 + 16 * c

/-- The values of class c in a segment. -/
def segmentClass (bytes : Vector Byte 240) (c : Nat) : ClassTariff :=
  { rate := { peak := fieldAt bytes (classOffset c) 2, standard := fieldAt bytes (classOffset c + 2) 2,
              night := fieldAt bytes (classOffset c + 4) 2 },
    multiplier := fieldAt bytes (classOffset c + 6) 1, rebate := fieldAt bytes (classOffset c + 7) 1,
    minimum := fieldAt bytes (classOffset c + 8) 2, allowance := fieldAt bytes (classOffset c + 10) 2,
    cutoff := fieldAt bytes (classOffset c + 12) 2 }

/-- R134, check 5 for one class: whether each field fails, with its offset. -/
def classChecks (bytes : Vector Byte 240) (c : Nat) : List (Bool × Nat) :=
  let t := segmentClass bytes c
  [(decide (t.multiplier < 8 ∨ 32 < t.multiplier), classOffset c + 6),
   (decide (8 < t.rebate), classOffset c + 7),
   (decide (240 < t.minimum), classOffset c + 8),
   (decide (3600 < t.allowance), classOffset c + 10),
   (decide (1440 < t.cutoff), classOffset c + 12)]

/-- R134: the checks of a segment in their order, each with its failing offset. -/
def segmentChecks (bytes : Vector Byte 240) : List (Bool × Nat) :=
  [(decide (fieldAt bytes 2 2 ≠ 240), 2), (decide (fieldAt bytes 0 1 ≠ 1), 0), (decide (fieldAt bytes 1 1 ≠ 1), 1)]
    ++ (List.range 168).map (fun h => (decide (2 < fieldAt bytes (8 + h) 1), 8 + h))
    ++ (classChecks bytes 0 ++ classChecks bytes 1 ++ classChecks bytes 2 ++ classChecks bytes 3)

/-- R134: the offset of the first check that fails, if one does. -/
def segmentFailure (bytes : Vector Byte 240) : Option Nat :=
  ((segmentChecks bytes).find? (·.1)).map (·.2)

/-- The table a segment carries; every band entry is one of the three once the checks have passed. -/
def tariffOf (bytes : Vector Byte 240) : Tariff :=
  { bands := build fun h => (bandOf (fieldAt bytes (8 + h.val) 1)).getD .peak,
    classes := build fun c => segmentClass bytes c.val }

/-! ### Ticket (12 section 12.4) -/

/-- Bytes 1 to 31 of a ticket with its number. -/
def ticketBytes (t : Ticket) (number : BitVec 32) : List Byte :=
  le 1 (ticketKindCode t.kind) ++ le 1 t.cls ++ [t.client] ++ le 2 t.matchNumber ++ le 2 t.booking
    ++ le 4 number.toNat ++ le 4 t.minute ++ le 4 t.hostReference.toNat ++ le 4 t.charged ++ le 4 t.outage
    ++ le 4 t.charge

/-- `bytes` followed by zeros up to `total` bytes: R24, every byte the layout does not define is zero. -/
def padTo (total : Nat) (bytes : List Byte) : List Byte :=
  (bytes ++ List.replicate (total - bytes.length) 0).take total

end Sys2Proof.Machine
end

