-- ==== Sys2Proof/Machine/Alarms.lean ====
section
/-! DEFINITION. The alarm ranking unit (chapter 8): severities, acknowledged levels, the floor stack, the reported item and
the ALARM level. -/

namespace Sys2Proof.Machine

/-- R122: an item is pending when its severity is above its acknowledged level. -/
def itemPending (x : AlarmItem) : Bool := decide (x.acked < x.severity)

/-- R123: a pending item is visible when its severity is at or above the floor. -/
def itemVisible (floor : FloorStack) (x : AlarmItem) : Bool :=
  itemPending x && decide (floor.top.val ≤ x.severity.val)

/-- The visible items of a given severity or above, in item order. -/
def visibleFrom (a : Alarm) (severity : Nat) : Option (Fin 51) :=
  (List.finRange 51).find? fun i => itemVisible a.floor a.items[i] && decide (severity ≤ a.items[i].severity.val)

/-- R125, FIXED: the visible item of highest severity, and of equals the one with the lowest number. -/
def fixedItem (a : Alarm) : Option (Fin 51) :=
  (visibleFrom a 3).or ((visibleFrom a 2).or (visibleFrom a 1))

/-- R125: the reported item. -/
def reportedItem (a : Alarm) : Option (Fin 51) :=
  match a.mode with
  | .fixed => fixedItem a
  | .spotlight => if itemVisible a.floor a.items[a.spotlight] then some a.spotlight else fixedItem a
  | .inhibit => none

/-- R130: the level of ALARM, but for its permission: the mode is not INHIBIT and some item is visible. -/
def alarmRaised (a : Alarm) : Bool :=
  decide (a.mode ≠ .inhibit) && (List.finRange 51).any fun i => itemVisible a.floor a.items[i]

/-- R130: the level of the ALARM flag. -/
def alarmLevel (s : State) : Bool := alarmRaised s.alarm && permitted .alarm s

/-- The flags with ALARM at its level. -/
def withAlarmLevel (f : BitVec 7) (level : Bool) : BitVec 7 :=
  if level then f ||| flagBit .alarm else f &&& ~~~(flagBit .alarm)

/-- R130: ALARM rises and falls at the moment the unit takes a change. -/
def followAlarm (s : State) : State := setFlags (withAlarmLevel s.link.flags (alarmLevel s)) s

/-- R122: when a severity change leaves the severity below the acknowledged level, that level falls with it. -/
def itemAt (x : AlarmItem) (severity : Fin 4) : AlarmItem :=
  { severity := severity, acked := min x.acked severity }

/-- A new alarm state, with ALARM following it. -/
def setAlarm (a : Alarm) (s : State) : State := followAlarm { s with alarm := a }

/-- The severity of one item becomes `severity` (R120, R122). -/
def setSeverity (i : Fin 51) (severity : Fin 4) (s : State) : State :=
  setAlarm { s.alarm with items := s.alarm.items.set i (itemAt s.alarm.items[i] severity) } s

/-- R39: the severity of item 48 from the two reference states. -/
def clockSeverity (c : Clock) : Fin 4 :=
  match c.secref, c.frameref with
  | .locked, .present => 0
  | .locked, .lost => 1
  | .freeRun, .present => 1
  | .freeRun, .lost => 2

/-- R124: a push puts `x` on top, and the old bottom is discarded. -/
def pushFloor (x : Fin 5) (f : FloorStack) : FloorStack := { top := x, middle := f.top, bottom := f.middle }

/-- R124: a pop removes the top, and the bottom is refilled with 0. -/
def popFloor (f : FloorStack) : FloorStack := { top := f.middle, middle := f.bottom, bottom := 0 }

/-- R128, step 1: the item an ACK acknowledges: one from 0 to 50 that is pending. -/
def ackTarget (a : Alarm) (item : BitVec 6) : Option (Fin 51) :=
  if h : item.toNat < 51 then
    (if itemPending a.items[item.toNat] then some ⟨item.toNat, h⟩ else none)
  else none

/-- R128, step 1: the acknowledged level becomes the severity, and a PUSH pushes that severity plus 1. -/
def ackItem (i : Fin 51) (push : Bool) (a : Alarm) : Alarm :=
  { a with
    items := a.items.set i { severity := a.items[i].severity, acked := a.items[i].severity }
    floor := if push then pushFloor a.items[i].severity.succ a.floor else a.floor }

/-- R128, step 1: the alarm state after the ACK of a NEXT_ALARM write, with its PUSH. -/
def acknowledged (ack push : Bool) (item : BitVec 6) (a : Alarm) : Alarm :=
  match (if ack then ackTarget a item else none) with
  | some i => ackItem i push a
  | none => a

/-- R128: the alarm state after a NEXT_ALARM write: the ACK with its PUSH first, the POP after it. -/
def nextAlarmWritten (ack push pop : Bool) (item : BitVec 6) (a : Alarm) : Alarm :=
  if pop then { acknowledged ack push item a with floor := popFloor (acknowledged ack push item a).floor }
  else acknowledged ack push item a

/-- R128: a write to NEXT_ALARM is taken whole. -/
def nextAlarmWrite (ack push pop : Bool) (item : BitVec 6) (s : State) : State :=
  setAlarm (nextAlarmWritten ack push pop item s.alarm) s

/-- R5, R126: a mode value that names no mode and a spotlight value above 50 each leave their field unchanged. -/
def modeWritten (mode : BitVec 2) (spotlight : BitVec 6) (a : Alarm) : Alarm :=
  { a with
    mode := (rankingModeOf mode).getD a.mode
    spotlight := if h : spotlight.toNat < 51 then ⟨spotlight.toNat, h⟩ else a.spotlight }

/-- R5: the mode and spotlight fields of a CTRL write are taken, and the ALARM flag follows at once (R126). -/
def modeWrite (mode : BitVec 2) (spotlight : BitVec 6) (s : State) : State :=
  setAlarm (modeWritten mode spotlight s.alarm) s

end Sys2Proof.Machine
end

