-- ==== Sys2Proof/Machine/Accounts.lean ====
section
/-! DEFINITION. Match accounts (10 section 10.2), what a close does to them and to its slot, and lost tickets (R162, R164). -/

namespace Sys2Proof.Machine

/-- R153: the OPEN account of a match; no two have the same match number. -/
def accountOf (m : Nat) (s : State) : Option (Fin 128) :=
  (List.finRange 128).find? fun k => s.accounts[k].isOpen && s.accounts[k].matchNumber == m

/-- R154: the FREE account slot of lowest number. -/
def freeAccount (s : State) : Option (Fin 128) :=
  (List.finRange 128).find? fun k => !s.accounts[k].isOpen

/-- Store an account. -/
def setAccount (k : Fin 128) (a : Account) (s : State) : State := { s with accounts := s.accounts.set k a }

/-- Change the OPEN account of a match, if there is one. -/
def changeAccount (m : Nat) (f : Account → Account) (s : State) : State :=
  match accountOf m s with
  | some k => setAccount k (f s.accounts[k]) s
  | none => s

/-- R154: a freshly opened account, with the open count 1. -/
def openedAccount (m : Nat) : Account :=
  { isOpen := true, matchNumber := m, openCount := 1, closedCount := 0, chargeTotal := 0, outageTotal := 0,
    unwritten := 0 }

/-- R154: a booking of match `m` has been accepted. -/
def openBooking (m : Nat) (s : State) : State :=
  match accountOf m s with
  | some k => setAccount k { s.accounts[k] with openCount := s.accounts[k].openCount + 1 } s
  | none =>
    match freeAccount s with
    | some k => setAccount k (openedAccount m) s
    | none => s

/-- 2^32 − 1, where 32-bit counters saturate. -/
def max32 : Nat := 4294967295

/-- R155: a close is added: the closed count, the charge total modulo 2^40 (R153) and the outage total. -/
def addClose (charge outage : Nat) (a : Account) : Account :=
  { a with
    closedCount := satAdd max32 a.closedCount 1
    chargeTotal := (a.chargeTotal + charge) % 2 ^ 40
    outageTotal := satAdd max32 a.outageTotal outage }

/-- R155: the open count falls by 1 when the slot becomes FREE. -/
def lowerOpen (a : Account) : Account := { a with openCount := a.openCount - 1 }

/-- R157: the account slot becomes FREE. The fields of a FREE slot are not read (R153). -/
def freeAccountSlot (k : Fin 128) (s : State) : State := setAccount k { s.accounts[k] with isOpen := false } s

/-- R162, R164: a ticket is lost: the lost-ticket count rises, wrapping, the unwritten count of the match's account rises
(there is none for a MATCH_TOTAL), and TICKET_LOST is latched, if permitted. -/
def loseTicket (m : Option Nat) (s : State) : State :=
  let s1 : State := { s with tickets := { s.tickets with lost := s.tickets.lost + 1 } }
  let s2 : State :=
    match m with
    | some k => changeAccount k (fun a => { a with unwritten := satAdd 65535 a.unwritten 1 }) s1
    | none => s1
  latch .ticketLost s2

/-- R161: the ticket number rises by 1, wrapping, as a ticket is raised. -/
def raiseNumber (s : State) : State :=
  { s with tickets := { s.tickets with number := s.tickets.number + 1 } }

/-! ### A close inside the part -/

/-- Store a booking slot. -/
def setSlot (n : Fin 1024) (b : Slot) (s : State) : State :=
  { s with store := { s.store with slots := s.store.slots.set n b } }

/-- R149, R155: a close is handed to the account and ticket unit, which adds its charge and outage to the account of its match.
Its ticket is raised after that. -/
def takeClose (r : Raise) (s : State) : State :=
  changeAccount r.ticket.matchNumber (addClose r.ticket.charge r.ticket.outage) s

/-- The ticket of a close is lost (R162, R164). -/
def loseRaise (r : Raise) (s : State) : State := loseTicket (some r.ticket.matchNumber) s

/-- R56 step 5, R61 step 5, R66, R155: at the end of a close the open count of the account falls and the slot is FREE. -/
def endClose (r : Raise) (s : State) : State :=
  setSlot r.slot { s.store.slots[r.slot] with state := .free } (changeAccount r.ticket.matchNumber lowerOpen s)

/-- R14, R15, R68, R164: a close in the account whose ticket cannot be written stands inside the part: its ticket takes the
next number and is lost (R161). -/
def closeInside (r : Raise) (s : State) : State := endClose r (loseRaise r (raiseNumber s))

end Sys2Proof.Machine
end

