-- ==== Sys2Proof/Machine/Link.lean ====
section
/-! DEFINITION. The run states, the accesses the part masters and the bus fault (01 sections 1.2 and 1.4). -/

namespace Sys2Proof.Machine

/-- STATUS bit 16: a START is in progress. -/
def startInProgress (s : State) : Bool := decide (s.link.start ≠ .idle)

/-- R9, host-memory access: in RUNNING and in HELD, unless fatal. -/
def readsOpen (s : State) : Bool := decide (s.link.fatal = .none ∧ s.link.run ≠ .dormant)

/-- R14: a soft reset has dropped the writes not yet issued. -/
def writesDropped (s : State) : Bool := decide (s.link.gate = .muteAfter 0)

/-- R9, R14: writes are issued where reads are, unless a soft reset has dropped those not yet issued. -/
def linkOpen (s : State) : Bool := readsOpen s && !writesDropped s

/-- R9: the accesses of START in DORMANT: the header read and the identity write. -/
def startOpen (s : State) : Bool := startInProgress s && decide (s.link.fatal = .none) && !writesDropped s

/-- R9, R165: HELD is entered: the RUN flag is latched, if permitted, and the page due mark is set. -/
def enterHeld (s : State) : State :=
  latch .run { s with link := { s.link with run := .held, pageDue := true } }

/-- The accesses to the book and the ring that are under way or wait, oldest first (log 9). -/
def outstanding (s : State) : List Access := s.tickets.inFlight.toList ++ s.tickets.waiting

/-- The slot whose close an access takes to its end. -/
def closingSlot (a : Access) : Option (Fin 1024) :=
  match a with
  | .raise r | .closeWrite r => some r.slot
  | .write _ | .totalCheck _ _ | .totalWrite _ | .recheck | .recordRead _ | .report _ _ => none

/-- The slots whose close has been handed to the account and ticket unit and has not ended (R149). -/
def ratedSlots (s : State) : List (Fin 1024) := (outstanding s).filterMap closingSlot

/-- The slots whose close the store has begun and not ended: the close waits for the count of its last second (R141) or for
its ticket (R161). They have left their timelines, and no order reaches them (R56; log 17). -/
def closingSlots (s : State) : List (Fin 1024) := (s.store.holds.map fun h => h.slot) ++ ratedSlots s

/-- The close of slot n has begun and has not ended. -/
def closing (n : Fin 1024) (s : State) : Bool := decide (n ∈ closingSlots s)

/-- An access that has not begun, or is in its writes, is dropped. A close stands inside the part and its ticket is lost, also
when the fault falls on its record write (R15, R68, R164; log 33), and a MATCH_TOTAL lost in its writing still frees its
account. -/
def dropAccess (a : Access) (s : State) : State :=
  match a with
  | .raise r => closeInside r s
  | .closeWrite r => endClose r (loseRaise r s)
  | .totalWrite k => freeAccountSlot k (loseTicket none s)
  | .write _ | .totalCheck _ _ | .recheck | .recordRead _ | .report _ _ => s

/-- No access is under way or waits, and no re-check is to be made. -/
def clearAccesses (s : State) : State :=
  { s with tickets := { s.tickets with recheckIn := none, inFlight := none, waiting := [] } }

/-- R161: a close whose slot is being read has the number of its ticket, and is dropped as one in its writes. -/
def begunAccess (a : Access) : Access :=
  match a with
  | .raise r => .closeWrite r
  | .write w => .write w
  | .closeWrite r => .closeWrite r
  | .totalCheck k minute => .totalCheck k minute
  | .totalWrite k => .totalWrite k
  | .recheck => .recheck
  | .recordRead n => .recordRead n
  | .report outcome result => .report outcome result

/-- The accesses to drop, oldest first: the one in flight has begun, and those that wait have not. -/
def droppedAccesses (s : State) : List Access := (s.tickets.inFlight.map begunAccess).toList ++ s.tickets.waiting

/-- R14, R15, R68: the accesses are dropped, and what they were to do inside the part is done. -/
def dropAccesses (s : State) : State := (droppedAccesses s).foldl (fun t a => dropAccess a t) (clearAccesses s)

/-- R29: the order unit stops where it stands: an order in ACTING goes no further. -/
def stoppedUnit (u : UnitState) : UnitState :=
  match u with
  | .acting o _ => .acting o .stopped
  | .idle => .idle
  | .reading => .reading
  | .reporting => .reporting

/-- R10, R11: a bus fault on the header read records FATAL; one on the identity write leaves the last start code. -/
def startCodeAfterFault (l : Link) : StartCode :=
  match l.start with
  | .headerRead => .fatal
  | .idle | .identityWrite => l.lastStart

/-- The link after the first bus fault, but for the run state (R15, R169). -/
def faultedLink (l : Link) : Link :=
  { l with fatal := .bus, lastStart := startCodeAfterFault l, start := .idle, haltWaiting := false, page := none,
           gate := .open }

/-- R15: the first bus fault. BUS is recorded and item 50 rises to severity 3, the waiting halt is cleared, HELD is
entered, and all host-memory access stops. A fault after the first one is ignored. -/
def takeBusFault (s : State) : State :=
  if s.link.fatal = .bus then s
  else
    let s1 : State := { s with link := faultedLink s.link, orders := { s.orders with unit := stoppedUnit s.orders.unit } }
    let s2 := setSeverity 50 3 s1
    let s3 := if s.link.run = .held then s2 else enterHeld s2
    dropAccesses s3

/-- One write goes out on the link. A write that a BUS_FAULT has announced as failing is the bus fault (log 11), and a soft
reset lets only so many more out (log 12). -/
def sendWrite (w : HostWrite) (s : State) : State :=
  match s.link.gate with
  | .open => record (.write w) s
  | .faultAfter 0 => takeBusFault s
  | .faultAfter (n + 1) => record (.write w) { s with link := { s.link with gate := .faultAfter n } }
  | .muteAfter n => record (.write w) { s with link := { s.link with gate := .muteAfter (n - 1) } }

/-- The part issues one write. Nothing is issued while the link is closed (R9, R14, R15). -/
def issue (w : HostWrite) (s : State) : State := if linkOpen s then sendWrite w s else s

/-- The part issues writes in order. -/
def issueAll (ws : List HostWrite) (s : State) : State := ws.foldl (fun t w => issue w t) s

/-- The part issues one read; its completion is a command of its own. -/
def issueRead (address : Address) (length : Nat) (s : State) : State :=
  if readsOpen s then record (.read address length) s else s

/-- A write of `bytes` at an address. -/
def writeAt (address : Address) (bytes : List Byte) : HostWrite := { address := address, bytes := bytes }

/-- The host address of an offset of the exchange area. -/
def areaAddress (s : State) (offset : Nat) : Address := s.link.area + BitVec.ofNat 64 offset

/-- R2: the bytes from `base` up to, not including, `base + length` lie wholly inside the window, and it has the
permission. -/
def windowCovers (w : Window) (base length : Nat) : Bool :=
  decide (w.base.toNat ≤ base ∧ base + length ≤ w.base.toNat + w.pages.toNat * Config.pageBytes)

/-- R2: a read needs READ or READ+WRITE. -/
def readable (w : Window) : Bool := decide (w.permission ≠ .write)

/-- R2: window 0 covers AREA up to AREA + 8 KiB with READ+WRITE. -/
def areaCovers (s : State) (base length : Nat) : Bool :=
  decide (s.link.area.toNat ≤ base ∧ base + length ≤ s.link.area.toNat + Config.areaBytes)

/-- R133: a segment lies wholly inside one of windows 0 to 3 that may be read. -/
def segmentReadable (s : State) (base length : Nat) : Bool :=
  areaCovers s base length ||
    (List.finRange 3).any fun k =>
      match s.link.windows[k] with
      | some w => readable w && windowCovers w base length
      | none => false

end Sys2Proof.Machine
end

