-- ==== Sys2Proof/Machine/OrderUnit.lean ====
section
/-! DEFINITION. The order unit (chapter 2): taking an entry, reporting it and order done. -/

namespace Sys2Proof.Machine

/-- R17: the entry at index i lies at offset 0x0100 + 64 i. -/
def entryOffset (i : BitVec 5) : Nat := Config.orderListOffset + 64 * i.toNat

/-- R17: how many entries are pending. -/
def pendingCount (u : OrderUnit) : Nat := (u.endIndex - u.next).toNat

/-- Put the order unit in a state. -/
def setUnit (u : UnitState) (s : State) : State := { s with orders := { s.orders with unit := u } }

/-- R18: the order unit may take an entry. -/
def mayTake (s : State) : Bool :=
  decide (s.link.run = .running) && !s.link.haltWaiting && decide (s.orders.unit = .idle)
    && decide (s.orders.next ≠ s.orders.endIndex)

/-- R18: when its conditions hold, the unit issues one read of bytes 0 to 23 of the entry at NEXT and enters READING. -/
def takeEntry (s : State) : State :=
  if mayTake s then setUnit .reading (issueRead (areaAddress s (entryOffset s.orders.next)) 24 s) else s

/-- R13: with a halt waiting, the order done completes it: the bit is cleared and HELD is entered. Otherwise the next entry
is taken at once if R18 allows. -/
def afterOrder (s : State) : State :=
  if s.link.haltWaiting then enterHeld { s with link := { s.link with haltWaiting := false } } else takeEntry s

/-- R25: NEXT and END once the order is done: END moves past a withdrawn entry, and NEXT advances, wrapping. -/
def passEntry (u : OrderUnit) : OrderUnit :=
  { next := u.next + 1, endIndex := if u.endIndex = u.next then u.next + 1 else u.endIndex, unit := .idle }

/-- R25: the order is done. -/
def orderDone (notify : Bool) (s : State) : State :=
  let s1 : State := { s with orders := passEntry s.orders }
  afterOrder (if notify then latch .order s1 else s1)

/-- The result area of an entry is 40 bytes (R24). -/
def resultBytes : Nat := 40

/-- R24: the first two writes of a report: all 40 bytes of the result area, then the outcome byte. -/
def reportWrites (s : State) (outcome : OutcomeCode) (result : List Byte) : List HostWrite :=
  let entry := areaAddress s (entryOffset s.orders.next)
  [writeAt (entry + 24) (padTo resultBytes result), writeAt (entry + 3) (le 1 (outcomeCode outcome))]

/-- R24: the last write of a report: the state byte. -/
def stateWrite (s : State) (outcome : OutcomeCode) : HostWrite :=
  writeAt (areaAddress s (entryOffset s.orders.next)) (le 1 (entryStateCode outcome))

/-- R28: a soft reset is ending the order, so its state byte is not written. -/
def softResetting (s : State) : Bool :=
  match s.link.gate with
  | .muteAfter _ => true
  | .open | .faultAfter _ => false

/-- R24, R25: the unit reports the order and, when the state byte has been issued, the order is done. A bus fault on one of
the writes leaves it in flight (R29). -/
def report (notify : Bool) (outcome : OutcomeCode) (result : List Byte) (s : State) : State :=
  let s1 := issueAll (reportWrites s outcome result) (setUnit .reporting s)
  if softResetting s1 then s1
  else
    let s2 := issue (stateWrite s1 outcome) s1
    if linkOpen s2 then orderDone notify s2 else s2

/-- R21, R24: the owning block returns its outcome and result for the order in ACTING. An order that a bus fault has stopped
is not reported (R29; log 26). -/
def finishOrder (outcome : OutcomeCode) (result : List Byte) (s : State) : State :=
  match s.orders.unit with
  | .acting _ .stopped => s
  | .acting o .dispatched | .acting o .queued | .acting o .segmentRead => report o.notify outcome result s
  | .idle | .reading | .reporting => s

/-- The order in flight, if the owning block of `code` has been handed it and has not taken it (R21). -/
def orderFor (code : OrderCode) (s : State) : Option Order :=
  match s.orders.unit with
  | .acting o .dispatched => if o.code = code then some o else none
  | .acting _ _ | .idle | .reading | .reporting => none

/-- The order in ACTING has come to `stage` at its owning block. -/
def setStage (stage : Stage) (s : State) : State :=
  match s.orders.unit with
  | .acting o _ => setUnit (.acting o stage) s
  | .idle | .reading | .reporting => s

/-- R20: the entry read is examined: NOT_READY, then BAD_ORDER, and otherwise the order is dispatched. -/
def examineEntry (bytes : Vector Byte 24) (s : State) : State :=
  if entryState bytes ≠ 1 then report (entryNotify bytes) .notReady [] s
  else
    match entryOrder bytes with
    | none => report (entryNotify bytes) .badOrder [] s
    | some o => setUnit (.acting o .dispatched) s

/-- R19, R20: the read of the entry completes. -/
def entryRead (bytes : Vector Byte 24) (s : State) : State :=
  if s.orders.unit = .reading ∧ readsOpen s then examineEntry bytes s else s

/-- R7, R26: a write to ORDER stores bits 12:8 as END, and the unit takes the entry at NEXT at once if R18 allows. -/
def orderEndWrite (value : Word) (s : State) : State :=
  takeEntry { s with orders := { s.orders with endIndex := value.extractLsb' 8 5 } }

end Sys2Proof.Machine
end

