-- ==== Sys2Proof/Machine/TicketUnit.lean ====
section
/-! DEFINITION. The ticket ring (10 section 10.3) and the one queue through which the booking store and the ticket unit
issue their accesses to the book and the ring (log 9). -/

namespace Sys2Proof.Machine

/-- R159: slot i of the ring lies at ring base + 32 i; the part reads and writes the ring only at the write position. -/
def ringSlotAddress (s : State) : Address :=
  match s.tickets.ring with
  | some r => r.base + BitVec.ofNat 64 (32 * s.tickets.writePosition)
  | none => BitVec.ofNat 64 (32 * s.tickets.writePosition)

/-- R47: booking record n lies at book base + 64 n. -/
def recordAddress (s : State) (n : Fin 1024) : Address := s.store.bookBase + BitVec.ofNat 64 (64 * n.val)

/-- A write of a field of booking record n. -/
def recordField (s : State) (n : Fin 1024) (offset length value : Nat) : HostWrite :=
  writeAt (recordAddress s n + BitVec.ofNat 64 offset) (le length value)

/-- The access whose read is outstanding becomes `a`. -/
def setInFlight (a : Option Access) (s : State) : State := { s with tickets := { s.tickets with inFlight := a } }

/-- R161: the two writes of a ticket: bytes 1 to 31, then the state byte FULL. -/
def ticketWrites (t : Ticket) (s : State) : List HostWrite :=
  [writeAt (ringSlotAddress s + 1) (ticketBytes t s.tickets.number), writeAt (ringSlotAddress s) (le 1 1)]

/-- R161: the write position advances by 1, from slot count − 1 back to 0. -/
def nextPosition (t : Tickets) : Nat :=
  match t.ring with
  | some r => if t.writePosition + 1 < r.count then t.writePosition + 1 else 0
  | none => t.writePosition

/-- R161, R163: a blocked ring is unblocked, and item 49 falls to 0. -/
def unblockRing (s : State) : State :=
  if s.tickets.blocked then setSeverity 49 0 { s with tickets := { s.tickets with blocked := false } } else s

/-- R162: a ring that was not blocked becomes blocked, and item 49 rises to 2. -/
def blockRing (s : State) : State :=
  if s.tickets.blocked then s else setSeverity 49 2 { s with tickets := { s.tickets with blocked := true } }

/-- R161: the ticket has been written: the write position advances, TICKET is latched, if permitted, and the ring is
unblocked. -/
def ticketWritten (s : State) : State :=
  unblockRing (latch .ticket { s with tickets := { s.tickets with writePosition := nextPosition s.tickets } })

/-- R48: what the store writes into the record at a close, in order, the state byte last. -/
def closeWrites (r : Raise) (s : State) : List HostWrite :=
  let n := r.slot
  [recordField s n 24 4 r.closeMinute]
    ++ (if r.ticket.kind = .booking then
          [recordField s n 32 4 r.bookedSeconds, recordField s n 36 4 r.overrunSeconds,
           recordField s n 40 4 r.outageSeconds, recordField s n 44 4 r.heldSeconds]
        else [])
    ++ [recordField s n 48 4 r.ticket.charge, recordField s n 52 4 s.tickets.number.toNat,
        recordField s n 0 1 (recordClosed r.ticket.kind)]

/-- 12 section 12.3: the result of CANCEL: ticket kind, charge units and ticket number. -/
def cancelResult (r : Raise) (number : BitVec 32) : List Byte :=
  le 1 (ticketKindCode r.ticket.kind) ++ [0, 0, 0] ++ le 4 r.ticket.charge ++ le 4 number.toNat

/-- R48: after the raising of its ticket the store writes the record of a close. -/
def recordClose (r : Raise) (s : State) : State := issueAll (closeWrites r s) s

/-- R56, R61, R62: the close ends once its record is written, and a CANCEL is reported with the number of its ticket. -/
def finishClose (r : Raise) (number : BitVec 32) (s : State) : State :=
  if r.forOrder then finishOrder .ok (cancelResult r number) (endClose r s) else endClose r s

/-- R162, R164: a close whose ticket has been lost is recorded and ends. -/
def lostClose (r : Raise) (s : State) : State := finishClose r s.tickets.number (recordClose r s)

/-- R156: the snapshot of an account: 12 section 12.3, offsets 24 to 47 of the entry. -/
def accountSnapshot (a : Account) : List Byte :=
  le 2 a.matchNumber ++ le 2 a.unwritten ++ le 2 a.openCount ++ [0, 0] ++ le 4 a.closedCount ++ le 4 a.outageTotal
    ++ le 8 a.chargeTotal

/-- R160: the MATCH_TOTAL ticket of an account, raised for an order taken in `minute`. -/
def totalTicket (a : Account) (minute : Nat) : Ticket :=
  { kind := .matchTotal, cls := 0, client := 0, matchNumber := a.matchNumber, booking := 65535, minute := minute,
    hostReference := 0, charged := a.closedCount, outage := a.chargeTotal % 2 ^ 32, charge := a.chargeTotal / 2 ^ 32 }

/-- An access begins. A write or a report is made at once. The others issue their read and wait for it, and with the link
closed a ticket is raised and lost (R15), and an order whose read cannot be issued ends where it stands (R29). The ticket
number of a close rises before the slot is read (R161). -/
def beginAccess (a : Access) (s : State) : State :=
  match a with
  | .write w => issue w s
  | .report outcome result => finishOrder outcome result s
  | .raise r =>
    if linkOpen s then setInFlight (some (.raise r)) (issueRead (ringSlotAddress s) 1 (raiseNumber s))
    else lostClose r (loseRaise r (raiseNumber s))
  | .totalCheck k minute =>
    if readsOpen s then setInFlight (some (.totalCheck k minute)) (issueRead (ringSlotAddress s) 1 s) else setStage .stopped s
  | .closeWrite _ | .totalWrite _ => s
  | .recheck =>
    if s.tickets.blocked && linkOpen s then setInFlight (some .recheck) (issueRead (ringSlotAddress s) 1 s) else s
  | .recordRead n =>
    if readsOpen s then setInFlight (some (.recordRead n)) (issueRead (recordAddress s n) 20 s) else setStage .stopped s

/-- The accesses are taken one after another; from the one that waits for a read, the rest wait behind it. -/
def pump (accesses : List Access) (s : State) : State :=
  match accesses with
  | [] => s
  | a :: rest =>
    if s.tickets.inFlight.isSome then { s with tickets := { s.tickets with waiting := a :: rest } }
    else pump rest (beginAccess a s)

/-- The waiting accesses go on once no read is outstanding. -/
def pumpWaiting (s : State) : State :=
  pump s.tickets.waiting { s with tickets := { s.tickets with waiting := [] } }

/-- New accesses go behind those that wait. -/
def submit (accesses : List Access) (s : State) : State :=
  pumpWaiting { s with tickets := { s.tickets with waiting := s.tickets.waiting ++ accesses } }

/-- R161, R48: the ticket of a close goes into the EMPTY slot, and its record is written after it. A bus fault on any of
these writes has dropped the close (R68). -/
def writeClose (r : Raise) (s : State) : State :=
  let s1 := issueAll (ticketWrites r.ticket s) (setInFlight (some (.closeWrite r)) s)
  if s1.tickets.inFlight.isSome then
    let s2 := recordClose r (ticketWritten s1)
    if s2.tickets.inFlight.isSome then finishClose r s.tickets.number (setInFlight none s2) else s2
  else s1

/-- R161, R162: the state byte of the slot has been read for a close, whose ticket has its number and is written into an EMPTY
slot and lost at any other. Its record is written, and it ends (R48, R149; log 9). -/
def raiseRead (r : Raise) (empty : Bool) (s : State) : State :=
  let s1 := setInFlight none s
  if empty then writeClose r s1 else lostClose r (blockRing (loseRaise r s1))

/-- R157: check 3 of CLOSE MATCH. When the slot is EMPTY the ticket number rises, the MATCH_TOTAL ticket is written into it
and the account becomes FREE; otherwise the order is refused with RING_FULL and nothing changes. -/
def totalRead (k : Fin 128) (minute : Nat) (empty : Bool) (s : State) : State :=
  let a := s.accounts[k]
  if empty then
    let s1 := setInFlight (some (.totalWrite k)) (raiseNumber s)
    let s2 := issueAll (ticketWrites (totalTicket a minute) s1) s1
    if s2.tickets.inFlight.isSome then
      finishOrder .ok (accountSnapshot a ++ le 4 s1.tickets.number.toNat)
        (freeAccountSlot k (ticketWritten (setInFlight none s2)))
    else s2
  else finishOrder .ringFull (accountSnapshot a) (setInFlight none s)

/-- R161, R157, R163: the read of the state byte of the slot at the write position completes. EMPTY is 0. -/
def ticketSlotRead (state : Byte) (s : State) : State :=
  match s.tickets.inFlight with
  | some (.raise r) => pumpWaiting (raiseRead r (state == 0) s)
  | some (.totalCheck k minute) => pumpWaiting (totalRead k minute (state == 0) s)
  | some .recheck =>
    pumpWaiting (if state == 0 then unblockRing (setInFlight none s) else setInFlight none s)
  | some (.write _) | some (.closeWrite _) | some (.totalWrite _) | some (.recordRead _) | some (.report _ _)
  | none => s

end Sys2Proof.Machine
end

