-- ==== Sys2Proof/Machine/Crosspoint.lean ====
section
/-! DEFINITION. The crosspoint controller (chapter 5), the selection rule of the protection unit (chapter 7) and the
severities of the source items (08 section 8.2): what follows an activation, a close, a health change or a switch point. -/

namespace Sys2Proof.Machine

/-! ### Bookings, as other blocks read them (R44) -/

/-- The booked end (04 section 4.1). -/
def bookedEnd (b : Slot) : Nat := b.start + b.duration

/-- The final end (04 section 4.1). -/
def finalEnd (b : Slot) : Nat := b.start + b.duration + b.extension

/-- The slot is ACTIVE or OVERRUN. -/
def slotOnAir (b : Slot) : Bool :=
  match b.state with
  | .active | .overrun => true
  | .free | .accepted => false

/-- The source port is the primary or the backup of the booking. -/
def isLeg (b : Slot) (p : Fin 48) : Bool := decide (b.primary = p ∨ b.backup = some p)

/-- The source is the primary or the backup of the booking. -/
def sourceIsLeg (b : Slot) (x : Source) : Bool :=
  match x with
  | .port p => isLeg b p
  | .black => false

/-- R71: the owning booking of a delivery port, the on-air member of its timeline. A slot whose close is held is no member
(R45, R141). -/
def ownerOf (d : Fin 64) (s : State) : Option (Fin 1024) :=
  s.store.timelines[d].find? fun n => slotOnAir s.store.slots[n]

/-- Store a row. -/
def setRow (d : Fin 64) (r : Row) (s : State) : State := { s with rows := s.rows.set d r }

/-- The carrier of a booking when its delivery port carries a source (R72, R80, R143). -/
inductive Carrier where
  | unowned | primary | backup | none
  deriving DecidableEq, Repr

/-- R72: PRIMARY when the source is the primary, BACKUP when it is the backup, and NONE otherwise. -/
def carrierOf (b : Slot) (x : Source) : Carrier :=
  if x = .port b.primary then .primary
  else if b.backup.map Source.port = some x then .backup
  else .none

/-- The code of a carrier leg (12 section 12.7). -/
def carrierCode (c : Carrier) : Nat :=
  match c with
  | .unowned => 0
  | .primary => 1
  | .backup => 2
  | .none => 3

/-- R72: the carrier leg of a delivery port. -/
def carrierLeg (d : Fin 64) (s : State) : Carrier :=
  match ownerOf d s with
  | some n => carrierOf s.store.slots[n] s.rows[d].current
  | none => .unowned

/-- R70, R69: what a delivery output carries; `black` is the idle signal. -/
def deliveryOutput (d : Fin 64) (s : State) : Source := if s.resetn then s.rows[d].current else .black

/-- 05 section 5.1: the intended leg of a row: the pending target, and otherwise the current source. -/
def intended (r : Row) : Source :=
  match r.pending with
  | some x => x.target
  | none => r.current

/-! ### Requests -/

/-- R73: a request whose target is the current source clears the pending selection, and any other replaces it. -/
def requestRow (target : Source) (cause : Cause) (r : Row) : Row :=
  { r with pending := if target = r.current then none else some { target := target, cause := cause } }

/-- R73: the crosspoint takes a request on a delivery port. -/
def request (d : Fin 64) (target : Source) (cause : Cause) (s : State) : State :=
  setRow d (requestRow target cause s.rows[d]) s

/-! ### The selection rule -/

/-- The health of a source port. -/
def healthOf (p : Fin 48) (s : State) : Health := s.monitors[p].health

/-- R105, R106: the leg chosen at activation, from the healths of the primary and of a backup. -/
def chooseAtActivation (b : Slot) (health : Fin 48 → Health) : Source :=
  match b.legMode, b.backup with
  | .lockBackup, some k => .port k
  | .autoRevertive, some k | .autoHold, some k =>
    match health b.primary with
    | .failed | .recovering => if health k = .ok then .port k else .port b.primary
    | .ok | .suspect | .outOfService => .port b.primary
  | _, _ => .port b.primary

/-- R107, for an AUTO booking with a backup `k`, from the intended leg. An intended source that is no leg is kept. -/
def chooseAuto (b : Slot) (k : Fin 48) (health : Fin 48 → Health) (leg : Source) : Source :=
  if leg = .port b.primary then
    (if health b.primary = .failed ∧ health k = .ok then .port k else leg)
  else if leg = .port k then
    (if health k = .failed ∧ health b.primary = .ok then .port b.primary
     else if b.legMode = .autoRevertive ∧ health b.primary = .ok then .port b.primary
     else leg)
  else leg

/-- R105, R107: the leg chosen at an application after activation. -/
def chooseLater (b : Slot) (health : Fin 48 → Health) (leg : Source) : Source :=
  match b.legMode, b.backup with
  | .lockBackup, some k => .port k
  | .autoRevertive, some k | .autoHold, some k => chooseAuto b k health leg
  | _, _ => .port b.primary

/-- R108: the rule in its later form for booking n on its delivery port: a request with cause PROTECTION when the chosen
leg is not the intended leg. -/
def applyProtection (n : Fin 1024) (s : State) : State :=
  let b := s.store.slots[n]
  let chosen := chooseLater b (fun p => healthOf p s) (intended s.rows[b.port])
  if chosen = intended s.rows[b.port] then s else request b.port chosen .protection s

/-- R108, R109: the rule at activation: a request with cause BOOKING in every case. -/
def applyActivation (n : Fin 1024) (s : State) : State :=
  let b := s.store.slots[n]
  request b.port (chooseAtActivation b fun p => healthOf p s) .booking s

/-- R110, R111: the rule in its later form for the owning booking of a delivery port when `cond` holds of it. -/
def protectPort (cond : Slot → Bool) (d : Fin 64) (s : State) : State :=
  match ownerOf d s with
  | some n => if cond s.store.slots[n] then applyProtection n s else s
  | none => s

/-- R110: a health change of port p reaches every on-air booking that has it as a leg. -/
def protectHealth (p : Fin 48) (s : State) : State :=
  (List.finRange 64).foldl (fun t d => protectPort (fun b => isLeg b p) d t) s

/-! ### Severities of the source items -/

/-- The on-air bookings, each with its delivery port. -/
def onAirBookings (s : State) : List (Fin 64 × Fin 1024) :=
  (List.finRange 64).filterMap fun d => (ownerOf d s).map fun n => (d, n)

/-- R119: port p is the carrier of an on-air booking. -/
def carriesBooking (p : Fin 48) (s : State) : Bool :=
  (onAirBookings s).any fun x => decide (s.rows[x.1].current = .port p) && isLeg s.store.slots[x.2] p

/-- R119: port p is a leg of an on-air booking. -/
def legOfBooking (p : Fin 48) (s : State) : Bool := (onAirBookings s).any fun x => isLeg s.store.slots[x.2] p

/-- R119: the severity of source item p. -/
def sourceSeverity (p : Fin 48) (s : State) : Fin 4 :=
  match healthOf p s with
  | .failed => if carriesBooking p s then 3 else if legOfBooking p s then 2 else 1
  | .recovering => 1
  | .ok | .suspect | .outOfService => 0

/-- R119: every source item is derived anew from the state as it stands; the system items are left. -/
def derivedItems (s : State) : Vector AlarmItem 51 :=
  build fun i => if h : i.val < 48 then itemAt s.alarm.items[i] (sourceSeverity ⟨i.val, h⟩ s) else s.alarm.items[i]

/-- R119, R122: the source severities are derived anew, and ALARM follows (R130). -/
def deriveSources (s : State) : State := setAlarm { s.alarm with items := derivedItems s } s

/-- R165: the page due mark is set. -/
def markPage (s : State) : State := { s with link := { s.link with pageDue := true } }

/-! ### Switch points and second ticks -/

/-- R76: the row after a switch point carries out its pending selection. `inside`: the switch point falls inside a second,
and not at a tick (R78). -/
def switchRow (inside : Bool) (r : Row) : Row :=
  match r.pending with
  | some x => { r with current := x.target, pending := none, changed := r.changed || inside }
  | none => r

/-- The delivery ports that hold a pending selection. -/
def pendingPorts (s : State) : List (Fin 64) := (List.finRange 64).filter fun d => s.rows[d].pending.isSome

/-- R77: the executions are handed to the protection unit for the owned ports, to the alarm ranking unit and to the status
page logic. -/
def handExecutions (ports : List (Fin 64)) (s : State) : State :=
  if ports.isEmpty then s
  else markPage (deriveSources (ports.foldl (fun t d => protectPort (fun _ => true) d t) s))

/-- R76, R77: a switch point carries out the pending selection of every delivery port that holds one, all at one instant. -/
def switchPoint (inside : Bool) (s : State) : State :=
  handExecutions (pendingPorts s) { s with rows := build fun d => switchRow inside s.rows[d] }

/-- R79: a row at a second tick. -/
def tickRow (hasOwner : Bool) (r : Row) : Row :=
  { r with
    last := r.current
    unbooked := if !r.owned && decide (r.current ≠ .black) && !r.changed then satAdd max32 r.unbooked 1 else r.unbooked
    changed := false
    owned := hasOwner }

/-- R79: the crosspoint closes the books of the second that the tick ends. -/
def tickRows (s : State) : State :=
  { s with rows := build fun d => tickRow (ownerOf d s).isSome s.rows[d] }

/-- R78: while FRAMEREF is LOST a tick is one event in two parts, the tick part and then the switch point part. -/
def crosspointTick (s : State) : State :=
  if s.clock.frameref = .lost then switchPoint false (tickRows s) else tickRows s

end Sys2Proof.Machine
end

