-- ==== Sys2Proof/Machine/Monitors.lean ====
section
/-! DEFINITION. The line monitors (chapter 6): observations, the class of a second, the health machine and fast detect. -/

namespace Sys2Proof.Machine

/-- Store a monitor. -/
def setMonitor (p : Fin 48) (m : Monitor) (s : State) : State := { s with monitors := s.monitors.set p m }

/-- R84: the observations of a new second: a loss of light or lock that lasts is recorded at its first instant. -/
def freshSeen (m : Monitor) : Observations := { lightLost := !m.light, lockLost := !m.lock, blocks := 0 }

/-- R86: the class of the second from its observations. -/
def classify (m : Monitor) : SecondClass :=
  if m.seen.lightLost then .dark
  else if m.seen.lockLost ∨ m.severeThreshold ≤ m.seen.blocks then .severe
  else if 1 ≤ m.seen.blocks then .errored
  else .clean

/-- R86: a SEVERE or DARK second is a bad second. -/
def badClass (c : SecondClass) : Bool :=
  match c with
  | .severe | .dark => true
  | .none | .clean | .errored => false

/-- 2^16 − 1, where the counters of a monitor stay. -/
def max16 : Nat := 65535

/-- R88: the counter of the class rises by 1. -/
def countClass (c : SecondClass) (m : Monitor) : Monitor :=
  match c with
  | .errored => { m with erroredSeconds := satAdd max16 m.erroredSeconds 1 }
  | .severe => { m with severeSeconds := satAdd max16 m.severeSeconds 1 }
  | .dark => { m with darkSeconds := satAdd max16 m.darkSeconds 1 }
  | .none | .clean => m

/-- R90, R91, R94, R95: the port enters FAILED from another health: the bad count and the restore timer are 0 and the
failure count rises by 1. -/
def enterFailed (m : Monitor) : Monitor :=
  { m with health := .failed, badCount := 0, restoreTimer := 0, failures := satAdd max16 m.failures 1 }

/-- R90, R91: a bad second raises the bad count and compares it with the hold-off as it stands. -/
def countBad (m : Monitor) : Monitor :=
  if m.holdOff ≤ m.badCount + 1 then enterFailed m else { m with health := .suspect, badCount := m.badCount + 1 }

/-- 06 section 6.4: the health machine at a bad second. -/
def badSecond (m : Monitor) : Monitor :=
  match m.health with
  | .ok => countBad { m with badCount := 0 }
  | .suspect => countBad m
  | .failed => m
  | .recovering => enterFailed m
  | .outOfService => m

/-- 06 section 6.4: the health machine at a non-bad second. -/
def goodSecond (m : Monitor) : Monitor :=
  match m.health with
  | .ok => m
  | .suspect => { m with health := .ok, badCount := 0 }
  | .failed => { m with health := .recovering, restoreTimer := m.restoreTime }
  | .recovering =>
    if m.restoreTimer ≤ 1 then { m with health := .ok, restoreTimer := 0 }
    else { m with restoreTimer := m.restoreTimer - 1 }
  | .outOfService => m

/-- R86, R88: the second is classed, the class is counted and then applied to the health, and the observations of the new
second start afresh (R84). -/
def classSecond (m : Monitor) : Monitor :=
  let c := classify m
  let counted := countClass c { m with lastClass := c }
  let judged := if badClass c then badSecond counted else goodSecond counted
  { judged with seen := freshSeen judged }

/-- R84, R86, R87: a monitor takes a second tick. -/
def monitorAtTick (m : Monitor) : Monitor :=
  if !m.inService then m
  else if m.firstSecond then { m with firstSecond := false, seen := freshSeen m }
  else classSecond m

/-- R94: a health change is handed to the protection unit, the alarm ranking unit and the status page logic. -/
def healthChanged (p : Fin 48) (s : State) : State := markPage (deriveSources (protectHealth p s))

/-- A monitor takes a new state; a change of its health is handed on (R94). -/
def updateMonitor (p : Fin 48) (m : Monitor) (s : State) : State :=
  if m.health = s.monitors[p].health then setMonitor p m s else healthChanged p (setMonitor p m s)

/-- A monitor takes the tick with the other blocks, unless it has taken it ahead of them (log 8). -/
def monitorTick (p : Fin 48) (s : State) : State :=
  if s.monitors[p].tookTick then setMonitor p { s.monitors[p] with tookTick := false } s
  else updateMonitor p (monitorAtTick s.monitors[p]) s

/-- A monitor may take the tick of the second in progress ahead of the other blocks: it classes that second (R86, R87) and
has not taken the tick yet. -/
def mayTakeEarly (m : Monitor) : Bool := m.inService && !m.firstSecond && !m.tookTick

/-- The monitor takes the tick ahead of the other blocks. -/
def takeTickEarly (p : Fin 48) (s : State) : State :=
  updateMonitor p { monitorAtTick s.monitors[p] with tookTick := true } s

/-- R90, R91: the tick makes the bad count reach the hold-off. -/
def holdOffDue (m : Monitor) : Bool :=
  mayTakeEarly m && badClass (classify m) && decide (m.health = .ok ∨ m.health = .suspect)
    && decide ((monitorAtTick m).health = .failed)

/-- R93: the tick makes the restore timer fall to 0. -/
def restoreDue (m : Monitor) : Bool :=
  mayTakeEarly m && !badClass (classify m) && decide (m.health = .recovering)
    && decide ((monitorAtTick m).health = .ok)

/-- HOLD_OFF_REACHED: the port enters FAILED at the bad second at which its bad count reaches the hold-off. -/
def holdOffReached (p : Fin 48) (s : State) : State := if holdOffDue s.monitors[p] then takeTickEarly p s else s

/-- RESTORE_TIMER_EXPIRY: the port enters OK at the non-bad second at which its restore timer falls to 0. -/
def restoreExpired (p : Fin 48) (s : State) : State := if restoreDue s.monitors[p] then takeTickEarly p s else s

/-- R95: fast detect acts on a port whose health is OK, SUSPECT or RECOVERING. -/
def fastDetectActs (m : Monitor) : Bool :=
  m.fastDetect &&
    match m.health with
    | .ok | .suspect | .recovering => true
    | .failed | .outOfService => false

/-- R84, R95: light goes. The loss is recorded in the second in progress, and under fast detect the port enters FAILED. -/
def lightLostAt (m : Monitor) : Monitor :=
  let dark : Monitor := { m with light := false, seen := if m.inService then { m.seen with lightLost := true } else m.seen }
  if fastDetectActs m then enterFailed dark else dark

/-- R84: the receiver's levels and the observations of the second in progress after a report. A port OUT_OF_SERVICE gathers
no observations, and blocks are not checked while lock is lost. A change of light from present to absent is a
loss-of-light edge. -/
def observe (seen : Observation) (m : Monitor) : Monitor :=
  match seen with
  | .erroredBlock =>
    if m.inService && m.lock then { m with seen := { m.seen with blocks := satAdd max16 m.seen.blocks 1 } } else m
  | .lock true => { m with lock := true }
  | .lock false => { m with lock := false, seen := if m.inService then { m.seen with lockLost := true } else m.seen }
  | .light true => { m with light := true }
  | .light false => if m.light then lightLostAt m else m

/-- RECEIVER_OBSERVATION (R84). -/
def receiverObservation (p : Fin 48) (seen : Observation) (s : State) : State :=
  updateMonitor p (observe seen s.monitors[p]) s

/-- LOSS_OF_LIGHT_EDGE (R95). The command is the edge itself: one that comes while the monitor holds light absent, which
cannot arise, is taken as an edge all the same. It records the loss, and fast detect acts: a choice of the model (log 22). -/
def lossOfLight (p : Fin 48) (s : State) : State := updateMonitor p (lightLostAt s.monitors[p]) s

end Sys2Proof.Machine
end

