-- ==== Sys2Proof/Machine/Meters.lean ====
section
/-! DEFINITION. Meters, tariff tables and rating (chapter 9, 10 section 10.1). -/

namespace Sys2Proof.Machine

/-! ### Bands -/

/-- The number of a band. -/
def bandValue (b : Band) (x : PerBand) : Nat :=
  match b with
  | .peak => x.peak
  | .standard => x.standard
  | .night => x.night

/-- One more in a band. -/
def bandAdd (b : Band) (x : PerBand) : PerBand :=
  match b with
  | .peak => { x with peak := x.peak + 1 }
  | .standard => { x with standard := x.standard + 1 }
  | .night => { x with night := x.night + 1 }

/-- The sum over the bands. -/
def bandSum (x : PerBand) : Nat := x.peak + x.standard + x.night

/-- The sum over the bands of a count times a rate (R150). -/
def bandPrice (x rate : PerBand) : Nat :=
  x.peak * rate.peak + x.standard * rate.standard + x.night * rate.night

/-- R36: the hour of week of a minute. -/
def hourOfWeek (minute : Nat) : Nat := minute / 60 % 168

/-- R142: the band of a minute in a table. -/
def bandAt (t : Tariff) (minute : Nat) : Band := t.bands[Fin.ofNat 168 (hourOfWeek minute)]

/-! ### The meter -/

/-- The phase of a counted second (R142). -/
inductive Phase where
  | booked | overrun | held
  deriving DecidableEq, Repr

/-- R142: the phase follows the minute, not the slot state. -/
def phaseOf (b : Slot) (minute : Nat) : Phase :=
  if minute < bookedEnd b then .booked else if minute < finalEnd b then .overrun else .held

/-- R142: a BOOKED or OVERRUN second adds 1 to S[phase][band], and a HELD second adds 1 to the held seconds. -/
def countPhase (phase : Phase) (band : Band) (m : Meter) : Meter :=
  match phase with
  | .booked => { m with booked := bandAdd band m.booked }
  | .overrun => { m with overrun := bandAdd band m.overrun }
  | .held => { m with held := satAdd max32 m.held 1 }

/-- R143: an outage second: O rises, the allowance is used first, and an excess second of a charged phase goes to X. -/
def countOutage (phase : Phase) (band : Band) (allowance : Nat) (m : Meter) : Meter :=
  let m1 : Meter := { m with outage := satAdd max32 m.outage 1 }
  if m1.allowanceUsed < allowance then { m1 with allowanceUsed := m1.allowanceUsed + 1 }
  else
    match phase with
    | .booked | .overrun => { m1 with excess := bandAdd band m1.excess }
    | .held => m1

/-- The second that a tick ends, and the table that governed it with its number (R34, R142). -/
structure EndedSecond where
  minute : Nat
  second : Nat
  table : Option Tariff
  number : BitVec 32
  deriving DecidableEq, Repr

/-- R140: the first counted second is at or before the ended second. The manual does not say what "at or before" means
across the wrap of the minute: minutes are compared as numbers (log 34). -/
def countsFrom (first : Option Stamp) (e : EndedSecond) : Bool :=
  match first with
  | some x => decide (x.minute < e.minute ∨ (x.minute = e.minute ∧ x.second ≤ e.second))
  | none => false

/-- R143: the port that carried a second to a booking, from the source recorded for its delivery port. -/
def carriedBy (b : Slot) (recorded : Source) : Option (Fin 48) :=
  match carrierOf b recorded with
  | .primary => some b.primary
  | .backup => b.backup
  | .none | .unowned => none

/-- R143: the second is an outage second: its carrier's port classed it SEVERE or DARK. -/
def outageSecond (b : Slot) (s : State) : Bool :=
  match carriedBy b s.rows[b.port].last with
  | some p => badClass s.monitors[p].lastClass
  | none => false

/-- R142, R143: the meter of a booking after one counted second under a table. -/
def countWith (b : Slot) (t : Tariff) (e : EndedSecond) (outage : Bool) (m : Meter) : Meter :=
  let band := bandAt t e.minute
  let phase := phaseOf b e.minute
  let m1 : Meter := { countPhase phase band m with lastTable := some e.number }
  if outage then countOutage phase band t.classes[b.cls].allowance m1 else m1

/-- R141: the close of slot n is held, and its last second has been counted already. -/
def countedHold (n : Fin 1024) (s : State) : Bool := s.store.holds.any fun h => decide (h.slot = n) && h.counted

/-- R140, R141: the second is counted for slot n, unless its close has been handed to rating. -/
def countsSecond (n : Fin 1024) (e : EndedSecond) (s : State) : Bool :=
  slotOnAir s.store.slots[n] && !countedHold n s && decide (n ∉ ratedSlots s)
    && countsFrom s.tariffs.meters[n].firstCounted e

/-- R140 to R143: the meter of slot n after a tick. A slot that is counted finds a table (R138). -/
def meterAfter (n : Fin 1024) (e : EndedSecond) (s : State) : Meter :=
  match e.table with
  | some t =>
    if countsSecond n e s then countWith s.store.slots[n] t e (outageSecond s.store.slots[n] s) s.tariffs.meters[n]
    else s.tariffs.meters[n]
  | none => s.tariffs.meters[n]

/-- R140, R141: the meter and tariff unit takes a second tick. It counts every on-air meter, and the held closes have had
their last second counted. -/
def countMeters (e : EndedSecond) (s : State) : State :=
  { s with
    tariffs := { s.tariffs with meters := build fun n => meterAfter n e s }
    store := { s.store with holds := s.store.holds.map fun h => { h with counted := true } } }

/-- Store a meter. -/
def setMeter (n : Fin 1024) (m : Meter) (s : State) : State :=
  { s with tariffs := { s.tariffs with meters := s.tariffs.meters.set n m } }

/-- R136: at a minute boundary with a staged table, the current table becomes the retired table, the staged table becomes
the current one, and the table number rises by 1. -/
def swapTariff (s : State) : State :=
  match s.tariffs.staged with
  | some t =>
    { s with
      tariffs := { s.tariffs with current := some t, staged := none, retired := s.tariffs.current,
                                  number := s.tariffs.number + 1 } }
  | none => s

/-- R132: the tariff state code: NONE 0, CURRENT 1, CURRENT+STAGED 2, STAGED 3. -/
def tariffStateCode (t : Tariffs) : Nat :=
  match t.current, t.staged with
  | none, none => 0
  | some _, none => 1
  | some _, some _ => 2
  | none, some _ => 3

/-- R145: the band of a minute in the current table. -/
def currentBand (minute : Nat) (s : State) : Option Band := s.tariffs.current.map fun t => bandAt t minute

/-- R145: the band of the minute in which a booking has activated, in the current table. -/
def activationBand (b : Slot) (s : State) : Option Band := b.activation.bind fun m => currentBand m s

/-- R145: the meter of slot n with a start band: that of its activation, where it has none yet. -/
def bandedMeter (n : Fin 1024) (s : State) : Meter :=
  let m := s.tariffs.meters[n]
  { m with startBand := m.startBand.or (activationBand s.store.slots[n] s) }

/-- R145: the bookings that activated at the boundary before the tariff unit took it find their start band. -/
def setStartBands (s : State) : State :=
  { s with tariffs := { s.tariffs with
      meters := build fun n => if slotOnAir s.store.slots[n] then bandedMeter n s else s.tariffs.meters[n] } }

/-- R136, R145: the meter and tariff unit takes a minute boundary, after it has counted the second that the boundary ends. -/
def takeTariffBoundary (s : State) : State := setStartBands (swapTariff s)

/-! ### Rating -/

/-- R146: the table a closing meter is rated on: the one its last table names, current or retired, and the current one
when it has none. -/
def ratingTable (m : Meter) (t : Tariffs) : Option Tariff :=
  match m.lastTable with
  | none => t.current
  | some k => if k = t.number then t.current else if k = t.number - 1 then t.retired else none

/-- R150, step 3: the charged seconds T. -/
def chargedSeconds (m : Meter) : Nat := bandSum m.booked + bandSum m.overrun

/-- The rate of the start band (R149). -/
def startRate (c : ClassTariff) (m : Meter) : Nat :=
  match m.startBand with
  | some b => bandValue b c.rate
  | none => 0

/-- R150, step 4: the shortfall. -/
def shortfall (c : ClassTariff) (m : Meter) : Nat := c.minimum * 60 - chargedSeconds m

/-- R150, step 6: the gross G8, in eighth-unit-seconds. -/
def gross (c : ClassTariff) (m : Meter) : Nat :=
  8 * bandPrice m.booked c.rate + bandPrice m.overrun c.rate * c.multiplier + 8 * shortfall c m * startRate c m

/-- R150, step 7: the rebate R8. -/
def rebateOf (c : ClassTariff) (m : Meter) : Nat := c.rebate * bandPrice m.excess c.rate

/-- R150, steps 8 and 9: the charge units. -/
def rate (c : ClassTariff) (m : Meter) : Nat := (gross c m - rebateOf c m + 240) / 480

/-- R149, R150, R152: the charge of a close of a kind for slot n. A booking closed before the tariff unit has taken the
boundary of its activation takes its start band from the table current at the close (log 7). -/
def chargeOf (kind : TicketKind) (n : Fin 1024) (s : State) : Nat :=
  let b := s.store.slots[n]
  let m := bandedMeter n s
  match kind with
  | .booking =>
    match ratingTable m s.tariffs with
    | some t => rate t.classes[b.cls] m
    | none => 0
  | .lateCancel =>
    match s.tariffs.current with
    | some t => t.classes[b.cls].minimum * startRate t.classes[b.cls] m
    | none => 0
  | .cancel | .missed | .matchTotal => 0

end Sys2Proof.Machine
end

