-- ==== Sys2Proof/Machine/BookingStore.lean ====
section
/-! DEFINITION. The booking store (chapter 4): closes, activation, phase change, minute boundaries, catch-up and START's
resume. -/

namespace Sys2Proof.Machine

/-- The network minute as a number. -/
def nowMinute (s : State) : Nat := s.clock.minute.toNat

/-- Store a timeline. -/
def setTimeline (d : Fin 64) (l : List (Fin 1024)) (s : State) : State :=
  { s with store := { s.store with timelines := s.store.timelines.set d l } }

/-- R45: a booking leaves its timeline. -/
def leaveTimeline (n : Fin 1024) (s : State) : State :=
  let d := s.store.slots[n].port
  setTimeline d (s.store.timelines[d].filter fun k => decide (k ≠ n)) s

/-- R160: the ticket of a close. BOOKING carries the activation minute, the charged seconds and O. -/
def closeTicket (kind : TicketKind) (n : Fin 1024) (s : State) : Ticket :=
  let b := s.store.slots[n]
  let m := s.tariffs.meters[n]
  let onAir := decide (kind = .booking)
  { kind := kind, cls := b.cls.val, client := b.client, matchNumber := b.matchNumber, booking := n.val,
    minute := if onAir then b.activation.getD 0 else b.start, hostReference := b.hostReference,
    charged := if onAir then chargedSeconds m else 0, outage := if onAir then m.outage else 0,
    charge := chargeOf kind n s }

/-- R149: what the store hands to the account and ticket unit: the rated ticket and the record fields that follow it (R48).
Every value is the one of the moment of the close. -/
def closeRaise (kind : TicketKind) (n : Fin 1024) (closeMinute : Nat) (forOrder : Bool) (s : State) : Raise :=
  let m := s.tariffs.meters[n]
  { ticket := closeTicket kind n s, slot := n, closeMinute := closeMinute, bookedSeconds := bandSum m.booked,
    overrunSeconds := bandSum m.overrun, outageSeconds := m.outage, heldSeconds := m.held, forOrder := forOrder }

/-- R163: the re-check of the boundary goes behind the closes handed over so far. -/
def makeRecheck (s : State) : State :=
  submit [.recheck] { s with tickets := { s.tickets with recheckIn := none } }

/-- R163: a close of the boundary has been handed over, and the re-check follows it or waits for one close fewer. -/
def countRecheck (s : State) : State :=
  match s.tickets.recheckIn with
  | some (n + 2) => { s with tickets := { s.tickets with recheckIn := some (n + 1) } }
  | some _ => makeRecheck s
  | none => s

/-- R163: with no close of the boundary left to come, a re-check that has not been made is made. -/
def lastRecheck (s : State) : State :=
  if s.tickets.recheckIn.isSome && s.store.holds.isEmpty then makeRecheck s else s

/-- R56, R61, R66, R149, R155: a close is rated and handed to the account and ticket unit, which adds it to the account and
then raises its ticket, in its turn behind the tickets before it. The record, the FREE slot and, for a CANCEL, the report
follow (R23; log 9). -/
def settleClose (kind : TicketKind) (n : Fin 1024) (closeMinute : Nat) (forOrder : Bool) (s : State) : State :=
  let r := closeRaise kind n closeMinute forOrder s
  submit [.raise r] (takeClose r s)

/-- R44, R119: the store hands an activation or a close to the alarm ranking unit. -/
def handToAlarms (s : State) : State := deriveSources s

/-- R57: the close of an on-air booking asks the crosspoint for BLACK, unless the next member of the timeline starts at the
minute of the close and activates in the same piece of work. -/
def successorActivates (d : Fin 64) (minute : Nat) (s : State) : Bool :=
  match s.store.timelines[d] with
  | k :: _ => decide (s.store.slots[k].state = .accepted ∧ s.store.slots[k].start = minute)
  | [] => false

/-- R56 steps 1 and 2, R57: an on-air booking leaves its timeline and its port is asked for BLACK where R57 says so. -/
def beginClose (n : Fin 1024) (minute : Nat) (s : State) : State :=
  let d := s.store.slots[n].port
  let s1 := leaveTimeline n s
  handToAlarms (if successorActivates d minute s1 then s1 else request d .black .close s1)

/-- R58, R141: the close waits for the count of its last second. -/
def holdClose (n : Fin 1024) (minute : Nat) (s : State) : State :=
  { s with store := { s.store with
      holds := s.store.holds ++ [{ slot := n, closeMinute := minute, counted := false }] } }

/-- R56: an on-air booking closes. `counted`: the meter holds the second that ends at the close (R58). -/
def closeOnAir (n : Fin 1024) (minute : Nat) (counted forOrder : Bool) (s : State) : State :=
  let s1 := beginClose n minute s
  if counted then settleClose .booking n minute forOrder s1 else holdClose n minute s1

/-- R66: an ACCEPTED booking whose interval has passed closes as MISSED. -/
def closeMissed (n : Fin 1024) (minute : Nat) (s : State) : State :=
  settleClose .missed n minute false (leaveTimeline n s)

/-- R71, R79: an activation sets the owned mark of the port. -/
def markOwned (d : Fin 64) (s : State) : State := setRow d { s.rows[d] with owned := true } s

/-- R54, R140, R145: a booking activates in `minute`, with the first second its meter counts and its start band, if the
tariff unit can give it yet. -/
def activate (n : Fin 1024) (minute : Nat) (first : Stamp) (band : Option Band) (s : State) : State :=
  let b := s.store.slots[n]
  let m := s.tariffs.meters[n]
  let s1 := setSlot n { b with state := .active, activation := some minute } s
  let s2 := setMeter n { m with firstCounted := some first, startBand := band } s1
  let s3 := handToAlarms (markOwned b.port (applyActivation n s2))
  submit [.write (recordField s3 n 20 4 minute), .write (recordField s3 n 0 1 recordOnAir)] s3

/-- R55: an ACTIVE booking enters OVERRUN. -/
def enterOverrun (n : Fin 1024) (s : State) : State :=
  submit [.write (recordField s n 0 1 recordOverrun)] (setSlot n { s.store.slots[n] with state := .overrun } s)

/-- The head of a timeline (R45). -/
def headOf (d : Fin 64) (s : State) : Option (Fin 1024) := s.store.timelines[d].head?

/-- R53, R56, R163: a booking closes at the boundary. A close that is held is one of its closes when it is released. -/
def boundaryClose (n : Fin 1024) (minute : Nat) (counted : Bool) (s : State) : State :=
  let t := closeOnAir n minute counted false s
  if counted then countRecheck t else t

/-- R53, steps 1 and 2: the head closes at its final end, or enters OVERRUN at its booked end. -/
def boundaryHead (minute : Nat) (counted : Bool) (d : Fin 64) (s : State) : State :=
  match headOf d s with
  | none => s
  | some n =>
    let b := s.store.slots[n]
    if slotOnAir b ∧ finalEnd b = minute then boundaryClose n minute counted s
    else if b.state = .active ∧ bookedEnd b = minute ∧ 0 < b.extension then enterOverrun n s
    else s

/-- R53, step 3: the head, which may be the next member, activates at its start minute. Its start band waits for the tariff
unit to take the boundary (R145). -/
def boundaryStart (minute : Nat) (swapped : Bool) (d : Fin 64) (s : State) : State :=
  match headOf d s with
  | none => s
  | some n =>
    if s.store.slots[n].state = .accepted ∧ s.store.slots[n].start = minute then
      activate n minute { minute := minute, second := 0 } (if swapped then currentBand minute s else none) s
    else s

/-- R53: the store brings one timeline up to the new minute. `counted`: the meters have counted the second that ends;
`swapped`: the tariff unit has taken the boundary. -/
def boundaryTimeline (minute : Nat) (counted swapped : Bool) (d : Fin 64) (s : State) : State :=
  boundaryStart minute swapped d (boundaryHead minute counted d s)

/-- R53, R64: the store brings timelines up to the new minute. `taken`: it has taken the boundary in RUNNING, and takes it
whole, also past a bus fault on one of its own writes (R68); in DORMANT and HELD the boundary is deferred. -/
def storeTimelines (taken : Bool) (minute : Nat) (counted swapped : Bool) (ports : List (Fin 64)) (s : State) : State :=
  if taken then ports.foldl (fun t d => boundaryTimeline minute counted swapped d t) s else s

/-- R163: at a boundary in RUNNING, or in HELD without a fatal code, the ring is re-checked: before the closes, or after so
many of them. -/
def openRecheck (recheckAfter : Nat) (s : State) : State :=
  if s.link.run ≠ .dormant ∧ s.link.fatal = .none then
    (if recheckAfter = 0 then makeRecheck s
     else { s with tickets := { s.tickets with recheckIn := some recheckAfter } })
  else s

/-- R34, R53, R136: after their tick the blocks that take boundaries take the one into `minute`, D0 first; the tariff unit
takes it once the store has brought up `swapAfter` timelines. -/
def boundaryCounted (minute swapAfter recheckAfter : Nat) (s : State) : State :=
  let taken := decide (s.link.run = .running)
  let ports := List.finRange 64
  let s1 := storeTimelines taken minute true false (ports.take swapAfter) (openRecheck recheckAfter s)
  lastRecheck (storeTimelines taken minute true true (ports.drop swapAfter) (takeTariffBoundary s1))

/-- R34, R53: ahead of the tick the booking store and the ticket unit take the boundary into `minute`. The tariff unit takes
it after the tick (R136). -/
def boundaryUncounted (minute recheckAfter : Nat) (s : State) : State :=
  lastRecheck (storeTimelines (decide (s.link.run = .running)) minute false false (List.finRange 64)
    (openRecheck recheckAfter s))

/-! ### Catch-up -/

/-- The second after (minute, second). -/
def stampAfter (minute : BitVec 32) (second : Nat) : Stamp :=
  if second < 59 then { minute := minute.toNat, second := second + 1 } else { minute := (minute + 1).toNat, second := 0 }

/-- R140: for a late activation, the second after the one running when the meter and tariff unit takes it; the second
running is the one after the last tick the unit has taken. A SET CLOCK since then has placed that second or, where its tick
is still owed, the one after it (R41). -/
def lateFirst (c : Clock) : Stamp :=
  match c.rollover with
  | .none | .handed _ | .tickFirst _ true => stampAfter c.minute c.second
  | .tickFirst minute false => stampAfter minute 0
  | .boundaryFirst _ => { minute := c.minute.toNat, second := c.second }

/-- R66: the catch-up closes, from the head onward, every member whose final end is at or below the current minute. -/
def catchUpCloses (members : List (Fin 1024)) (s : State) : State :=
  match members with
  | [] => s
  | n :: rest =>
    let b := s.store.slots[n]
    if finalEnd b ≤ nowMinute s then
      catchUpCloses rest
        (if slotOnAir b then closeOnAir n (nowMinute s) true false s else closeMissed n (nowMinute s) s)
    else s

/-- R67, step 1: an ACCEPTED head whose start has passed activates late. -/
def catchUpStart (d : Fin 64) (s : State) : State :=
  match headOf d s with
  | none => s
  | some n =>
    if s.store.slots[n].state = .accepted ∧ s.store.slots[n].start ≤ nowMinute s then
      activate n (nowMinute s) (lateFirst s.clock) (currentBand (nowMinute s) s) s
    else s

/-- R67, step 2: an ACTIVE head whose booked end has passed enters OVERRUN. -/
def catchUpPhase (d : Fin 64) (s : State) : State :=
  match headOf d s with
  | none => s
  | some n =>
    if s.store.slots[n].state = .active ∧ bookedEnd s.store.slots[n] ≤ nowMinute s then enterOverrun n s else s

/-- R66, R67: the catch-up at one timeline. -/
def catchUpTimeline (d : Fin 64) (s : State) : State :=
  catchUpPhase d (catchUpStart d (catchUpCloses s.store.timelines[d] s))

/-- R65, R66: the catch-up takes the timelines in order of delivery port. -/
def catchUp (s : State) : State := (List.finRange 64).foldl (fun t d => catchUpTimeline d t) s

/-- R9, R65: entry into RUNNING, the resume event: RUN is latched, if permitted, the page due mark is set (R165), the
store performs the catch-up, and the order unit begins to take entries. -/
def enterRunning (s : State) : State :=
  takeEntry (catchUp (latch .run { s with link := { s.link with run := .running, pageDue := true } }))

/-! ### Held closes -/

/-- R58, R141: the first close held, whose last second has been counted, goes on to rating. -/
def releaseFirst (s : State) : State :=
  match s.store.holds with
  | h :: rest =>
    if h.counted then
      lastRecheck (countRecheck
        (settleClose .booking h.slot h.closeMinute false { s with store := { s.store with holds := rest } }))
    else s
  | [] => s

/-! ### Closes that an order waits for -/

/-- R155, R158: a close of a booking of match `m` is under way: no order reaches the account before it has ended (log 17). -/
def matchClosing (m : Nat) (s : State) : Bool :=
  (closingSlots s).any fun n => decide (s.store.slots[n].matchNumber = m)

end Sys2Proof.Machine
end

