-- ==== Sys2Proof/Machine/StatusPage.lean ====
section
/-! DEFINITION. The status page (11 section 11.1, 12 section 12.5). -/

namespace Sys2Proof.Machine

/-- The minute and the second count as the clock holds them. -/
def clockTime (c : Clock) : Stamp := { minute := c.minute.toNat, second := c.second }

/-- Bytes 4 to 63 of the page: the part as a whole (R168). `time` is what the clock left at the tick. -/
def pageHead (time : Stamp) (s : State) : List Byte :=
  padTo 60 (le 4 time.minute ++ le 1 time.second ++ le 1 (runStateCode s.link.run)
    ++ le 1 (secrefCode s.clock.secref) ++ le 1 (framerefCode s.clock.frameref) ++ le 1 (tariffStateCode s.tariffs)
    ++ le 1 (boolCode s.tickets.blocked) ++ [0, 0] ++ le 2 s.tickets.writePosition ++ [0, 0]
    ++ le 4 s.tickets.lost.toNat)

/-- The 16 bytes of delivery port d: current source, pending target and cause, carrier leg, owning booking, unbooked
seconds. -/
def pageDelivery (d : Fin 64) (s : State) : List Byte :=
  let r := s.rows[d]
  padTo 16 (le 1 (sourceCode r.current) ++ le 1 (sourceOptCode (r.pending.map (·.target)))
    ++ le 1 ((r.pending.map fun x => causeCode x.cause).getD 0) ++ le 1 (carrierCode (carrierLeg d s))
    ++ le 2 ((ownerOf d s).map (·.val) |>.getD 65535) ++ [0, 0] ++ le 4 r.unbooked)

/-- The 4 bytes of source port p: health, last class. -/
def pageSource (p : Fin 48) (s : State) : List Byte :=
  padTo 4 (le 1 (healthCode s.monitors[p].health) ++ le 1 (classCode s.monitors[p].lastClass))

/-- The 2 bytes of alarm item i: severity, acknowledged level. -/
def pageAlarm (i : Fin 51) (s : State) : List Byte := le 1 s.alarm.items[i].severity.val ++ le 1 s.alarm.items[i].acked.val

/-- The writes of a page with its count, in order: the start count, the body in five parts (log 13), the end count. -/
def pageWrites (count : BitVec 32) (time : Stamp) (s : State) : List HostWrite :=
  let at_ := fun offset => areaAddress s (Config.statusPageOffset + offset)
  [writeAt (at_ 0) (le 4 count.toNat),
   writeAt (at_ 4) (pageHead time s),
   writeAt (at_ 64) ((List.finRange 64).flatMap fun d => pageDelivery d s),
   writeAt (at_ 1088) ((List.finRange 48).flatMap fun p => pageSource p s),
   writeAt (at_ 1280) ((List.finRange 51).flatMap fun i => pageAlarm i s),
   writeAt (at_ 1382) (List.replicate 2710 0),
   writeAt (at_ 4092) (le 4 count.toNat)]

/-- R166: pages are written in RUNNING and HELD without a fatal code. -/
def pagesOn (s : State) : Bool := decide (s.link.run ≠ .dormant ∧ s.link.fatal = .none)

/-- R167: a page is begun at the tick at which the clock left `time`: the page count rises by 1 and the body is gathered as
one snapshot. -/
def beginPage (time : Stamp) (s : State) : State :=
  let count := s.link.pageCount + 1
  { s with link := { s.link with pageCount := count, pageDue := false, page := some (pageWrites count time s) } }

/-- R166: the mark that a FRAMEREF pulse has set for the next tick stands once this tick has been taken. -/
def nextMark (s : State) : State :=
  { s with link := { s.link with pageDue := s.link.pageDue || s.link.pageNext, pageNext := false } }

/-- R166: the status page logic takes a second tick at which the clock left `time`, after the other blocks. -/
def pageTick (boundary : Bool) (time : Stamp) (s : State) : State :=
  nextMark
    (if (boundary || s.link.pageDue) && pagesOn s then (if s.link.page.isNone then beginPage time s else markPage s) else s)

/-- The slots whose close has begun at a boundary or a catch-up, and not for an order, and has not ended. -/
def boundaryCloses (s : State) : List (Fin 1024) :=
  (s.store.holds.map fun h => h.slot) ++ (outstanding s).filterMap fun a =>
    match a with
    | .raise r | .closeWrite r => if r.forOrder then none else some r.slot
    | .write _ | .totalCheck _ _ | .totalWrite _ | .recheck | .recordRead _ | .report _ _ => none

/-- The record writes that wait behind an access. -/
def waitingWrites (s : State) : List HostWrite :=
  (outstanding s).filterMap fun a =>
    match a with
    | .write w => some w
    | .raise _ | .closeWrite _ | .totalCheck _ _ | .totalWrite _ | .recheck | .recordRead _ | .report _ _ => none

/-- A re-check of the ring is still to be made. -/
def recheckWaits (s : State) : Bool := s.tickets.recheckIn.isSome || decide (Access.recheck ∈ outstanding s)

/-- R166: the tick of a boundary as it is handed to the page logic, with what the boundary has left to do. -/
def tickOwed (time : Stamp) (s : State) : OwedTick :=
  { time := time, closes := boundaryCloses s, writes := waitingWrites s, recheck := recheckWaits s }

/-- R166: the blocks have taken the boundary, with its closes, its tickets and its re-check. -/
def pageReady (s : State) (e : OwedTick) : Bool :=
  e.closes.all (fun n => decide (n ∉ boundaryCloses s)) && e.writes.all (fun w => decide (w ∉ waitingWrites s))
    && !(e.recheck && recheckWaits s)

/-- R166: the page logic takes the ticks of boundaries, in their order. -/
def takeOwed (ticks : List OwedTick) (s : State) : State := ticks.foldl (fun t e => pageTick true e.time t) s

/-- R166: the status page logic takes the tick of a boundary that it owes once the other blocks have taken the boundary. -/
def settlePage (s : State) : State :=
  takeOwed (s.link.pageTicks.takeWhile (pageReady s))
    { s with link := { s.link with pageTicks := s.link.pageTicks.dropWhile (pageReady s) } }

/-- R166: the tick that is the minute boundary into `minute` is handed to the page logic. The clock left that minute and
second 0 at it (R35, R168). -/
def boundaryPage (minute : BitVec 32) (s : State) : State :=
  settlePage { s with link := { s.link with
    pageTicks := s.link.pageTicks ++ [tickOwed { minute := minute.toNat, second := 0 } s] } }

/-- R166: a tick that is no minute boundary, also while the tick of a boundary is still to be taken. A mark that a FRAMEREF
pulse has set for the tick after an earlier one is this tick's, unless the crosspoint has taken this one `ahead` (log 5). -/
def secondPage (ahead : Bool) (s : State) : State :=
  pageTick false (clockTime s.clock) (if ahead then s else nextMark s)

/-- R165: no page is in flight. -/
def endPage (s : State) : State := { s with link := { s.link with page := none } }

/-- R167, R169: the writes of the page in flight are issued in order. When the end count has been issued the page is
complete and PAGE is latched, if permitted; a bus fault on a write ends the page. -/
def pageComplete (s : State) : State :=
  match s.link.page with
  | some ws =>
    let s1 := issueAll ws s
    if s1.link.page.isSome then latch .page (endPage s1) else s1
  | none => s

/-- R165: a soft reset abandons the page in flight: of its writes `issued` had been issued, and never the end count. -/
def abandonPage (issued : Nat) (s : State) : State :=
  match s.link.page with
  | some ws => endPage (issueAll (ws.take (min issued (ws.length - 1))) s)
  | none => s

end Sys2Proof.Machine
end

