-- ==== Sys2Proof/Machine/NetworkClock.lean ====
section
/-! DEFINITION. The network clock (chapter 3): second ticks, minute boundaries, the two references and their fallbacks. -/

namespace Sys2Proof.Machine

/-! ### A second tick at the blocks that take it -/

/-- The crosspoint controller takes the tick with the other blocks, unless it has taken it ahead of them (log 5). -/
def crosspointBlock (s : State) : State :=
  if s.crosspointAhead then { s with crosspointAhead := false } else crosspointTick s

/-- The block numbered k takes the tick: a line monitor, or the crosspoint controller. -/
def blockTick (k : Fin 49) (s : State) : State :=
  if h : k.val < 48 then monitorTick ⟨k.val, h⟩ s else crosspointBlock s

/-- R34: the block numbered k takes the tick of second 59 ahead of the tick's command, once (log 5). -/
def blockAhead (k : Fin 49) (s : State) : State :=
  if h : k.val < 48 then
    (if s.monitors[k.val].tookTick then s else takeTickEarly ⟨k.val, h⟩ s)
  else if s.crosspointAhead then s
  else { crosspointTick s with crosspointAhead := true }

/-- R34: blocks take the tick of second 59 ahead of the tick's command. -/
def ticksAhead (early : TickOrder) (s : State) : State := early.foldl (fun t k => blockAhead k t) s

/-- The blocks take the tick in the order of a list, each once. -/
def blocksTick (order done : List (Fin 49)) (s : State) : State :=
  match order with
  | [] => s
  | k :: rest => if k ∈ done then blocksTick rest done s else blocksTick rest (k :: done) (blockTick k s)

/-- R34, R89, R140, R147: a tick is handed to the line monitors and the crosspoint controller, in the order given and then
ascending, and to the meters once those have taken it. -/
def handTick (order : TickOrder) (e : EndedSecond) (s : State) : State :=
  countMeters e (blocksTick (order ++ List.finRange 49) [] s)

/-- R34: the second that the running second's tick ends, with the current table. -/
def runningSecond (s : State) : EndedSecond :=
  { minute := nowMinute s, second := s.clock.second, table := s.tariffs.current, number := s.tariffs.number }

/-- R34, R142: the second 59 of the minute `ended`, when the boundary has been taken before its tick: the table current at
the tick governed it, since the tariff unit swaps after it (R136). -/
def owedSecond (ended : BitVec 32) (s : State) : EndedSecond :=
  { minute := ended.toNat, second := 59, table := s.tariffs.current, number := s.tariffs.number }

/-- R34, R136: the tick of a second 59 whose boundary the store has taken: it is counted, and then the meter and tariff unit
takes the boundary. -/
def owedTick (order : TickOrder) (ended : BitVec 32) (s : State) : State :=
  takeTariffBoundary (handTick order (owedSecond ended s) s)

/-- The rollover becomes `r`. -/
def setRollover (r : Rollover) (s : State) : State := { s with clock := { s.clock with rollover := r } }

/-- The minute and the second count become those given. -/
def setTime (minute : BitVec 32) (second : Nat) (s : State) : State :=
  { s with clock := { s.clock with minute := minute, second := second } }

/-- R35: the network minute rises and the second count returns to 0, unless a SET CLOCK has placed them since the tick
(R42). -/
def rollTime (minute : BitVec 32) (clockSet : Bool) (s : State) : State := if clockSet then s else setTime minute 0 s

/-- R35: the boundary whose tick has been taken is taken by the blocks of R34, and the page logic takes the tick after it
(R166). -/
def boundaryAfterTick (minute : BitVec 32) (clockSet : Bool) (swapAfter recheckAfter : Nat) (s : State) : State :=
  boundaryPage minute (boundaryCounted minute.toNat swapAfter recheckAfter (rollTime minute clockSet (setRollover .none s)))

/-- R34, R35: the boundary is taken before its tick: the minute rises, the second count returns to 0, and the tick of
second 59 is still owed to the blocks that take it. -/
def boundaryBeforeTick (recheckAfter : Nat) (s : State) : State :=
  let minute := s.clock.minute + 1
  boundaryUncounted minute.toNat recheckAfter (setRollover (.boundaryFirst s.clock.minute) (setTime minute 0 s))

/-- Second 59 is running, or its boundary is taken and its tick is outstanding: blocks may take that tick. -/
def tickAwaited (c : Clock) : Bool :=
  match c.rollover with
  | .none => decide (c.second = 59)
  | .boundaryFirst _ => true
  | .tickFirst _ _ | .handed _ => false

/-- R34, R35: the boundary reaches the blocks that take boundaries, after its tick or before it. -/
def takeBoundary (swapAfter recheckAfter : Nat) (s : State) : State :=
  match s.clock.rollover with
  | .tickFirst minute clockSet => boundaryAfterTick minute clockSet swapAfter recheckAfter s
  | .none => if s.clock.second = 59 then boundaryBeforeTick recheckAfter s else s
  | .boundaryFirst _ | .handed _ => s

/-- MINUTE_BOUNDARY (R34, R35, R53): at the tick that completes second 59, blocks take the tick ahead of its command, and the
blocks that take boundaries take theirs. -/
def minuteBoundary (early : TickOrder) (boundary : Bool) (swapAfter recheckAfter : Nat) (s : State) : State :=
  let s1 := if tickAwaited s.clock then ticksAhead early s else s
  if boundary then takeBoundary swapAfter recheckAfter s1 else s1

/-- A boundary still outstanding when the next tick comes is taken first: a minute holds sixty ticks (R35). The manual sets no
order among the blocks that take it there. The model's choice, as no operand gives one: the tariff unit swaps ahead of all
timelines (swapAfter 0), and the ring re-check follows the closes (recheckAfter 64; log 5). -/
def settleBoundary (s : State) : State :=
  match s.clock.rollover with
  | .tickFirst minute clockSet => boundaryAfterTick minute clockSet 0 64 s
  | .boundaryFirst _ | .handed _ | .none => s

/-- R35: after the blocks have taken the tick of a second from 0 to 58 the second count rises by 1. After that of second 59
the boundary is outstanding. -/
def completeSecond (ahead : Bool) (s : State) : State :=
  if s.clock.second < 59 then secondPage ahead { s with clock := { s.clock with second := s.clock.second + 1 } }
  else setRollover (.tickFirst (s.clock.minute + 1) false) s

/-- R34, R35: a second tick. -/
def secondTick (order : TickOrder) (s : State) : State :=
  let s1 := settleBoundary s
  match s1.clock.rollover with
  | .boundaryFirst ended => boundaryPage (ended + 1) (setRollover .none (owedTick order ended s1))
  | .handed ended => boundaryPage (ended + 1) (setRollover .none s1)
  | .none | .tickFirst _ _ => completeSecond s1.crosspointAhead (handTick order (runningSecond s1) s1)

/-! ### The references -/

/-- R39, R40: a change of a reference state latches CLOCK, if permitted, and hands item 48 its severity. The manual orders
neither before the other; the model latches CLOCK first, so that the interrupt condition holds while ALARM moves with item 48
(log 36). -/
def referenceChanged (s : State) : State := setSeverity 48 (clockSeverity s.clock) (latch .clock s)

/-- The clock becomes `c`, in which a reference state has changed. -/
def changeReference (c : Clock) (s : State) : State := referenceChanged { s with clock := c }

/-- R33: the third pulse of a relock run returns the clock to LOCKED; the own tick schedule stops and the relock run returns
to count 0. -/
def lockedClock (instant : Nat) (c : Clock) : Clock :=
  { c with secref := .locked, nextOwn := none, relock := { count := 0, last := instant }, lastTick := some instant }

/-- R33: what a pulse in FREE_RUN does to the relock run: its count, before a count of 3 relocks the clock. -/
def relockCount (r : Relock) (instant : Nat) : Nat :=
  if r.count = 0 then 1
  else if r.last + Config.relockLow ≤ instant ∧ instant ≤ r.last + Config.relockHigh then r.count + 1
  else 1

/-- R33: a SECREF pulse in FREE_RUN. The alarm ranking unit takes the change of item 48 ahead of what the tick changes
(log 37). -/
def pulseFreeRun (instant : Nat) (order : TickOrder) (s : State) : State :=
  let count := relockCount s.clock.relock instant
  if count < 3 then { s with clock := { s.clock with relock := { count := count, last := instant } } }
  else secondTick order (changeReference (lockedClock instant s.clock) s)

/-- R32, R33: a SECREF pulse. -/
def secrefPulse (instant : Nat) (order : TickOrder) (s : State) : State :=
  match s.clock.secref with
  | .locked => secondTick order { s with clock := { s.clock with lastTick := some instant } }
  | .freeRun => pulseFreeRun instant order s

/-- R32: the clock that enters FREE_RUN: own ticks follow at intervals of one second from the tick made at the end of the
1.5 s, and the relock run begins with count 0. -/
def freeRunClock (c : Clock) : Clock :=
  { c with
    secref := .freeRun
    lastTick := none
    nextOwn := c.lastTick.map fun t => t + Config.secrefLimit + Config.second
    relock := { count := 0, last := 0 } }

/-- R32: 1.5 s have passed with no pulse: the clock enters FREE_RUN and makes its own tick. The alarm ranking unit takes the
change of item 48 ahead of what the tick changes (log 37). -/
def secrefTimeout (order : TickOrder) (s : State) : State :=
  match s.clock.secref with
  | .locked => secondTick order (changeReference (freeRunClock s.clock) s)
  | .freeRun => s

/-- R33: an own tick falls due, and the schedule moves one second on. -/
def ownTick (order : TickOrder) (s : State) : State :=
  match s.clock.secref, s.clock.nextOwn with
  | .freeRun, some t => secondTick order { s with clock := { s.clock with nextOwn := some (t + Config.second) } }
  | .freeRun, none | .locked, _ => s

/-- R33: 1.001 s have passed after the last pulse of a run with count 1 or 2: the count returns to 0. -/
def relockTimeout (s : State) : State :=
  match s.clock.secref with
  | .freeRun => { s with clock := { s.clock with relock := { count := 0, last := s.clock.relock.last } } }
  | .locked => s

/-- The crosspoint controller has taken a tick that the status page logic has still to take. -/
def crosspointTicked (s : State) : Bool :=
  s.crosspointAhead || !s.link.pageTicks.isEmpty ||
    match s.clock.rollover with
    | .tickFirst _ _ | .handed _ => true
    | .none | .boundaryFirst _ => false

/-- R38, R166: a FRAMEREF pulse is a switch point. One that the crosspoint takes after a tick sets the page due mark for the
next tick, and not for the page of that one. -/
def pulseSwitch (s : State) : State :=
  let t := switchPoint true s
  if crosspointTicked s && !(pendingPorts s).isEmpty then
    { t with link := { t.link with pageDue := s.link.pageDue, pageNext := true } }
  else t

/-- R38: a FRAMEREF pulse is a switch point; in LOST it returns the reference to PRESENT first, and the alarm ranking unit
takes the change of item 48 ahead of the executions (log 37). -/
def framerefPulse (instant : Nat) (s : State) : State :=
  let c : Clock := { s.clock with frameref := .present, lastFrame := some instant }
  match s.clock.frameref with
  | .present => pulseSwitch { s with clock := c }
  | .lost => pulseSwitch (changeReference c s)

/-- R38: 100 ms have passed with no pulse: the reference is LOST. -/
def framerefTimeout (s : State) : State :=
  match s.clock.frameref with
  | .present => changeReference { s.clock with frameref := .lost, lastFrame := none } s
  | .lost => s

end Sys2Proof.Machine
end

