-- ==== Sys2Proof/Machine/Ops.lean ====
section
/-! DEFINITION. What every command shares: the outcome of a step and the reset pin, and the numbers that name a slot. -/

namespace Sys2Proof.Machine

/-- A command whose effect is `f`. While RESETN is low the part takes nothing (R16; log 18). -/
def live (f : State → State) (s : State) : Host.Outcome State Fault Refusal := .next (if s.resetn then f s else s)

/-- The slot that a booking number names: one below the book count in force (R49, R59, R61, R117). -/
def slotIndex (n : Nat) (s : State) : Option (Fin 1024) :=
  if h : n < 1024 then (if n < s.store.bookCount then some ⟨n, h⟩ else none) else none

/-- The delivery port a number names (R82). -/
def deliveryIndex (n : Nat) : Option (Fin 64) := if h : n < 64 then some ⟨n, h⟩ else none

/-- The source port a number names (R97, R101). -/
def sourceIndex (n : Nat) : Option (Fin 48) := if h : n < 48 then some ⟨n, h⟩ else none

/-- Zeros before a result field (R24). -/
def zeros (n : Nat) : List Byte := List.replicate n 0

/-- The owning block takes the order of `code` that has been handed to it; without one nothing happens (log 2). -/
def takeOrder (code : OrderCode) (act : Order → State → State) (s : State) : State :=
  match orderFor code s with
  | some o => act o s
  | none => s

end Sys2Proof.Machine
end

