-- ==== Sys2Proof/Machine/Events.lean ====
section
/-! DEFINITION. The events of the network clock (chapter 3) and of the source receivers (chapter 6). -/

namespace Sys2Proof.Machine

/-- SECREF_PULSE (R32, R33). -/
def execSecrefPulse (instant : Nat) (order : TickOrder) (s : State) : Host.Outcome State Fault Refusal :=
  live (secrefPulse instant order) s

/-- SECREF_TIMEOUT (R32). -/
def execSecrefTimeout (order : TickOrder) (s : State) : Host.Outcome State Fault Refusal := live (secrefTimeout order) s

/-- OWN_TICK (R33). -/
def execOwnTick (order : TickOrder) (s : State) : Host.Outcome State Fault Refusal := live (ownTick order) s

/-- RELOCK_TIMEOUT (R33). -/
def execRelockTimeout (s : State) : Host.Outcome State Fault Refusal := live relockTimeout s

/-- FRAMEREF_PULSE (R38). -/
def execFramerefPulse (instant : Nat) (s : State) : Host.Outcome State Fault Refusal := live (framerefPulse instant) s

/-- FRAMEREF_TIMEOUT (R38). -/
def execFramerefTimeout (s : State) : Host.Outcome State Fault Refusal := live framerefTimeout s

/-- MINUTE_BOUNDARY (R34, R35, R53). -/
def execMinuteBoundary (order : BoundaryOrder) (s : State) : Host.Outcome State Fault Refusal :=
  live (minuteBoundary order.early order.boundary order.swapAfter order.recheckAfter) s

/-- RECEIVER_OBSERVATION (R84). -/
def execReceiverObservation (p : Fin 48) (seen : Observation) (s : State) : Host.Outcome State Fault Refusal :=
  live (receiverObservation p seen) s

/-- LOSS_OF_LIGHT_EDGE (R95). -/
def execLossOfLightEdge (p : Fin 48) (s : State) : Host.Outcome State Fault Refusal := live (lossOfLight p) s

/-- HOLD_OFF_REACHED (R90, R91; log 8). -/
def execHoldOffReached (p : Fin 48) (s : State) : Host.Outcome State Fault Refusal := live (holdOffReached p) s

/-- RESTORE_TIMER_EXPIRY (R93; log 8). -/
def execRestoreTimerExpiry (p : Fin 48) (s : State) : Host.Outcome State Fault Refusal := live (restoreExpired p) s

end Sys2Proof.Machine
end

