-- ==== Sys2Proof/Machine/AccountOrders.lean ====
section
/-! DEFINITION. LOAD TARIFF with its segment read (chapter 9), LATCH ACCOUNT and CLOSE MATCH (chapter 10), SET CLOCK
(chapter 3). -/

namespace Sys2Proof.Machine

/-! ### LOAD TARIFF -/

/-- The length of a tariff segment (R133). -/
def segmentBytes : Nat := 240

/-- R133: the failing offset that stands for the length argument. -/
def lengthArgument : Nat := 65535

/-- 12 section 12.3: the result of a LOAD TARIFF refused with SEGMENT. -/
def segmentRefusal (offset : Nat) : List Byte := zeros 6 ++ le 2 offset

/-- R133, R134: the read of the segment is issued. An order whose read cannot be issued ends where it stands (R29). -/
def readSegment (address : Address) (s : State) : State :=
  if readsOpen s then setStage .segmentRead (issueRead address segmentBytes s) else setStage .stopped s

/-- R133: LOAD TARIFF. -/
def loadTariffOrder (o : Order) (s : State) : State :=
  if !segmentReadable s o.d.toNat segmentBytes then finishOrder .window [] s
  else if o.a.toNat ≠ segmentBytes then finishOrder .segment (segmentRefusal lengthArgument) s
  else readSegment o.d s

/-- R135: the table is staged, and a staged table from before is replaced. -/
def stageTariff (t : Tariff) (s : State) : State := { s with tariffs := { s.tariffs with staged := some t } }

/-- R135, R137: the minute of effect: that of the next boundary which the meter and tariff unit takes. A boundary that the
booking store has taken ahead of it, or whose tick it has taken, is still to come. -/
def effectMinute (c : Clock) : BitVec 32 :=
  match c.rollover with
  | .tickFirst minute _ => minute
  | .boundaryFirst ended => ended + 1
  | .none | .handed _ => c.minute + 1

/-- R135: the result: the minute of effect, the tariff state after the order, and whether a staged table was replaced. -/
def stagedResult (before after : State) : List Byte :=
  le 4 (effectMinute before.clock).toNat ++ le 1 (tariffStateCode after.tariffs)
    ++ le 1 (boolCode before.tariffs.staged.isSome)

/-- R134, R135: the unit works from the bytes it read. -/
def segmentTaken (bytes : Vector Byte 240) (s : State) : State :=
  match segmentFailure bytes with
  | some offset => finishOrder .segment (segmentRefusal offset) s
  | none =>
    let s1 := stageTariff (tariffOf bytes) s
    finishOrder .ok (stagedResult s s1) s1

/-- TARIFF_SEGMENT_READ (R134): the read of the segment completes. -/
def tariffSegmentRead (bytes : Vector Byte 240) (s : State) : State :=
  match s.orders.unit with
  | .acting _ .segmentRead => segmentTaken bytes s
  | .acting _ .dispatched | .acting _ .queued | .acting _ .stopped | .idle | .reading | .reporting => s

/-! ### LATCH ACCOUNT and CLOSE MATCH -/

/-- R156: LATCH ACCOUNT. A close of the match that is under way is in the snapshot whole (R158; log 17). -/
def latchAccountOrder (o : Order) (s : State) : State :=
  if matchClosing o.a.toNat s then s
  else
    match accountOf o.a.toNat s with
    | none => finishOrder .noMatch [] s
    | some k => finishOrder .ok (accountSnapshot s.accounts[k]) s

/-- R157: CLOSE MATCH, up to the read of check 3. A close of the match that is under way comes first (R158; log 17). -/
def closeMatchOrder (o : Order) (s : State) : State :=
  if matchClosing o.a.toNat s then s
  else
    match accountOf o.a.toNat s with
    | none => finishOrder .noMatch [] s
    | some k =>
      if 0 < s.accounts[k].openCount then finishOrder .openBookings (accountSnapshot s.accounts[k]) s
      else submit [.totalCheck k (nowMinute s)] (setStage .queued s)

/-! ### SET CLOCK -/

/-- R41: some slot of the book is not FREE. -/
def bookingsExist (s : State) : Bool :=
  (List.finRange 1024).any fun n => decide (n.val < s.store.bookCount ∧ s.store.slots[n].state ≠ .free)

/-- R42: the time as it stands when the order is taken. A tick that has completed second 59 has brought second 0 of the next
minute, though its boundary has not been handed out yet (log 5). -/
def timeNow (c : Clock) : BitVec 32 × Nat :=
  match c.rollover with
  | .tickFirst minute false => (minute, 0)
  | .tickFirst _ true | .boundaryFirst _ | .handed _ | .none => (c.minute, c.second)

/-- R42: a boundary taken before the order still reaches the blocks with its own minute. -/
def rolloverSet (r : Rollover) : Rollover :=
  match r with
  | .tickFirst minute _ => .tickFirst minute true
  | .boundaryFirst ended => .boundaryFirst ended
  | .handed ended => .handed ended
  | .none => .none

/-- R41: the result of SET CLOCK. -/
def setClockResult (c : Clock) (minute : BitVec 32) : List Byte :=
  le 4 (timeNow c).1.toNat ++ le 4 minute.toNat ++ le 1 (timeNow c).2

/-- R41, R42: SET CLOCK. A close that is under way frees its slot before the check (log 17). -/
def setClockOrder (o : Order) (s : State) : State :=
  if !(closingSlots s).isEmpty then s
  else if bookingsExist s then finishOrder .bookingsExist [] s
  else finishOrder .ok (setClockResult s.clock o.a) (setRollover (rolloverSet s.clock.rollover) (setTime o.a 0 s))

/-! ### The commands -/

/-- LOAD_TARIFF (R133). -/
def execLoadTariff (s : State) : Host.Outcome State Fault Refusal := live (takeOrder .loadTariff loadTariffOrder) s

/-- TARIFF_SEGMENT_READ (R134, R135). -/
def execTariffSegmentRead (bytes : Vector Byte 240) (s : State) : Host.Outcome State Fault Refusal :=
  live (tariffSegmentRead bytes) s

/-- LATCH_ACCOUNT (R156). -/
def execLatchAccount (s : State) : Host.Outcome State Fault Refusal := live (takeOrder .latchAccount latchAccountOrder) s

/-- CLOSE_MATCH (R157). -/
def execCloseMatch (s : State) : Host.Outcome State Fault Refusal := live (takeOrder .closeMatch closeMatchOrder) s

/-- SET_CLOCK (R41, R42). -/
def execSetClock (s : State) : Host.Outcome State Fault Refusal := live (takeOrder .setClock setClockOrder) s

/-- TICKET_SLOT_READ_COMPLETE (R157, R161, R163). The page logic takes the tick of a boundary once its tickets are settled
(R166). -/
def execTicketSlotReadComplete (state : Byte) (s : State) : Host.Outcome State Fault Refusal :=
  live (fun t => settlePage (ticketSlotRead state t)) s

end Sys2Proof.Machine
end

