-- ==== Sys2Proof/Machine/BookingOrders.lean ====
section
/-! DEFINITION. The orders of the booking store: BOOK with its record read, CANCEL and EXTEND (chapter 4). -/

namespace Sys2Proof.Machine

/-! ### BOOK -/

/-- R49: the number and slot checks, and then the read of the record. A slot whose close is under way waits (log 17). -/
def bookOrder (o : Order) (s : State) : State :=
  match slotIndex o.a.toNat s with
  | none => finishOrder .badNumber [] s
  | some n =>
    if closing n s then s
    else if s.store.slots[n].state = .free then submit [.recordRead n] (setStage .queued s)
    else finishOrder .notFree (zeros 12 ++ le 1 (slotStateCode s.store.slots[n].state)) s

/-- The slot BOOK fills from a record (R51). -/
def slotOfRecord (r : BookRecord) : Slot :=
  { state := .accepted, port := Fin.ofNat 64 r.port, primary := Fin.ofNat 48 r.primary,
    backup := if r.hasBackup then some (Fin.ofNat 48 r.backup) else none, cls := Fin.ofNat 4 r.cls,
    matchNumber := r.matchNumber, client := BitVec.ofNat 8 r.client, hostReference := BitVec.ofNat 32 r.hostReference,
    start := r.start, duration := r.duration, extension := 0,
    legMode := if r.revertive then .autoRevertive else .autoHold, activation := none }

/-- R46: two intervals overlap. -/
def overlaps (a b : Slot) : Bool := decide (a.start < finalEnd b ∧ b.start < finalEnd a)

/-- R50, check 9: the earliest member of the port's timeline that the interval overlaps. -/
def conflictOf (b : Slot) (s : State) : Option (Fin 1024) :=
  s.store.timelines[b.port].find? fun k => overlaps b s.store.slots[k]

/-- The source port is OUT_OF_SERVICE. -/
def outOfService (p : Fin 48) (s : State) : Bool := decide (healthOf p s = .outOfService)

/-- R50, check 5: a leg is OUT_OF_SERVICE. -/
def legOut (b : Slot) (s : State) : Bool :=
  outOfService b.primary s ||
    match b.backup with
    | some k => outOfService k s
    | none => false

/-- R50: the ten checks in their order, each true when it fails. -/
def bookChecks (r : BookRecord) (s : State) : List (Bool × OutcomeCode) :=
  let b := slotOfRecord r
  [(s.tariffs.current.isNone, .noTariff),
   (decide (3 < r.cls), .badClass),
   (decide (63 < r.port ∨ 47 < r.primary) || (r.hasBackup && decide (47 < r.backup)), .badPort),
   (r.hasBackup && decide (r.backup = r.primary), .sameLegs),
   (legOut b s, .portOut),
   (decide (r.duration = 0 ∨ 720 < r.duration), .badDuration),
   (decide (r.start ≤ nowMinute s), .late),
   (decide (nowMinute s + 1048576 < r.start ∨ max32 < r.start + r.duration), .range),
   ((conflictOf b s).isSome, .conflict),
   (decide (r.matchNumber = 0) || ((accountOf r.matchNumber s).isNone && (freeAccount s).isNone), .noAccount)]

/-- R50: the code of the first check that fails. -/
def bookRefusal (r : BookRecord) (s : State) : Option OutcomeCode := ((bookChecks r s).find? (·.1)).map (·.2)

/-- R50: the result of a refusal gives the earliest overlapped booking on CONFLICT and zeros otherwise. -/
def refusalResult (code : OutcomeCode) (r : BookRecord) (s : State) : List Byte :=
  if code = .conflict then zeros 16 ++ le 4 ((conflictOf (slotOfRecord r) s).map (·.val) |>.getD 0) else []

/-- R45: a booking is placed by its start minute, the earliest first. -/
def insertByStart (slots : Vector Slot 1024) (n : Fin 1024) (l : List (Fin 1024)) : List (Fin 1024) :=
  match l with
  | [] => [n]
  | k :: rest => if slots[n].start < slots[k].start then n :: k :: rest else k :: insertByStart slots n rest

/-- R45: a booking joins the timeline of its port. -/
def joinTimeline (n : Fin 1024) (s : State) : State :=
  let d := s.store.slots[n].port
  setTimeline d (insertByStart s.store.slots n s.store.timelines[d]) s

/-- R51: a booking is accepted inside the part. -/
def acceptBooking (n : Fin 1024) (b : Slot) (s : State) : State :=
  setMeter n Meter.cleared (openBooking b.matchNumber (joinTimeline n (setSlot n b s)))

/-- R48: the acceptance step: nine fields as zero, the refusal code as OK, and the state ACCEPTED last. -/
def acceptWrites (n : Fin 1024) (s : State) : List HostWrite :=
  [recordField s n 20 4 0, recordField s n 24 4 0, recordField s n 28 2 0, recordField s n 32 4 0,
   recordField s n 36 4 0, recordField s n 40 4 0, recordField s n 44 4 0, recordField s n 48 4 0,
   recordField s n 52 4 0, recordField s n 1 1 (outcomeCode .ok), recordField s n 0 1 recordAccepted]

/-- R48: a refused BOOK writes the refusal code and then the state REFUSED. -/
def refuseWrites (n : Fin 1024) (code : OutcomeCode) (s : State) : List HostWrite :=
  [recordField s n 1 1 (outcomeCode code), recordField s n 0 1 recordRefused]

/-- R51: the result of an accepted BOOK: the booking number, the start minute and the booked end. -/
def acceptResult (n : Fin 1024) (b : Slot) : List Byte := le 4 n.val ++ le 4 b.start ++ le 4 (bookedEnd b)

/-- R49 to R51: the store works from the record it read. -/
def bookFromRecord (n : Fin 1024) (r : BookRecord) (s : State) : State :=
  if r.state ≠ 1 then submit [.report .badState []] s
  else
    match bookRefusal r s with
    | some code =>
      submit ((refuseWrites n code s).map Access.write ++ [.report code (refusalResult code r s)]) s
    | none =>
      submit ((acceptWrites n s).map Access.write ++ [.report .ok (acceptResult n (slotOfRecord r))])
        (acceptBooking n (slotOfRecord r) s)

/-- BOOK_RECORD_READ (R47, R50): the read of the record completes. -/
def bookRecordRead (bytes : Vector Byte 20) (s : State) : State :=
  match s.tickets.inFlight with
  | some (.recordRead n) => bookFromRecord n (bookRecordOf bytes) (setInFlight none s)
  | some (.write _) | some (.raise _) | some (.closeWrite _) | some (.totalCheck _ _) | some (.totalWrite _)
  | some .recheck | some (.report _ _) | none => s

/-! ### CANCEL -/

/-- R61, step 2: the cancel cutoff of the booking's class in the current table. -/
def cutoffOf (b : Slot) (s : State) : Nat :=
  match s.tariffs.current with
  | some t => t.classes[b.cls].cutoff
  | none => 0

/-- R61, step 2: the cancel is late. -/
def lateCancel (b : Slot) (s : State) : Bool := decide (b.start - nowMinute s < cutoffOf b s)

/-- R61: an ACCEPTED booking is cancelled. For a late cancel the meter holds the start band (R145). -/
def cancelAccepted (n : Fin 1024) (s : State) : State :=
  let b := s.store.slots[n]
  let s1 := leaveTimeline n s
  if lateCancel b s then
    settleClose .lateCancel n (nowMinute s) true
      (setMeter n { s.tariffs.meters[n] with startBand := currentBand b.start s } s1)
  else settleClose .cancel n (nowMinute s) true s1

/-- R61, R62: CANCEL. -/
def cancelOrder (o : Order) (s : State) : State :=
  match slotIndex o.a.toNat s with
  | none => finishOrder .badNumber [] s
  | some n =>
    if closing n s then s
    else
      match s.store.slots[n].state with
      | .free => finishOrder .badState [] s
      | .accepted => cancelAccepted n (setStage .queued s)
      | .active | .overrun => closeOnAir n (nowMinute s) true true (setStage .queued s)

/-! ### EXTEND -/

/-- The member of a timeline after n. -/
def nextMember (n : Fin 1024) (l : List (Fin 1024)) : Option (Fin 1024) :=
  match l with
  | [] => none
  | k :: rest => if k = n then rest.head? else nextMember n rest

/-- R59: the gap after a booking. -/
def gapAfter (n : Fin 1024) (s : State) : Nat :=
  let b := s.store.slots[n]
  match nextMember n s.store.timelines[b.port] with
  | some k => s.store.slots[k].start - finalEnd b
  | none => max32 - finalEnd b

/-- The most minutes of extension a booking can have (R59). -/
def extensionLimit : Nat := 240

/-- R59: the grant. -/
def grantOf (n : Fin 1024) (minutes : Nat) (s : State) : Nat :=
  min minutes (min (extensionLimit - s.store.slots[n].extension) (gapAfter n s))

/-- R59: the slot with its extension raised. -/
def extendedSlot (b : Slot) (grant : Nat) : Slot := { b with extension := b.extension + grant }

/-- R59: the result of EXTEND. -/
def extendResult (b : Slot) (grant : Nat) : List Byte := le 2 grant ++ le 2 b.extension ++ le 4 (finalEnd b)

/-- R59: an EXTEND that has passed its checks. -/
def grantExtension (n : Fin 1024) (minutes : Nat) (s : State) : State :=
  let b := s.store.slots[n]
  let grant := grantOf n minutes s
  let e := extendedSlot b grant
  if grant = 0 then finishOrder (if b.extension = extensionLimit then .extendLimit else .conflict) [] s
  else
    submit [.write (recordField s n 28 2 e.extension),
            .report (if grant < minutes then .clamped else .ok) (extendResult e grant)]
      (setSlot n e (setStage .queued s))

/-- R59: EXTEND. -/
def extendOrder (o : Order) (s : State) : State :=
  match slotIndex o.a.toNat s with
  | none => finishOrder .badNumber [] s
  | some n =>
    if o.b = 0 ∨ 60 < o.b.toNat then finishOrder .badDuration [] s
    else if closing n s then s
    else if s.store.slots[n].state = .free then finishOrder .badState [] s
    else grantExtension n o.b.toNat s

/-! ### The commands -/

/-- BOOK (R49). -/
def execBook (s : State) : Host.Outcome State Fault Refusal := live (takeOrder .book bookOrder) s

/-- BOOK_RECORD_READ (R47, R50, R51). -/
def execBookRecordRead (bytes : Vector Byte 20) (s : State) : Host.Outcome State Fault Refusal :=
  live (fun t => settlePage (bookRecordRead bytes t)) s

/-- CANCEL (R61, R62). -/
def execCancel (s : State) : Host.Outcome State Fault Refusal := live (takeOrder .cancel cancelOrder) s

/-- EXTEND (R59). -/
def execExtend (s : State) : Host.Outcome State Fault Refusal := live (takeOrder .extend extendOrder) s

/-- RATING_RELEASE (R58, R141): the first close held goes on to rating once its last second has been counted. The page logic
takes the tick of the boundary once the last of them is settled (R166). -/
def execRatingRelease (s : State) : Host.Outcome State Fault Refusal := live (fun t => settlePage (releaseFirst t)) s

end Sys2Proof.Machine
end

