-- ==== Sys2Proof/Machine/PortOrders.lean ====
section
/-! DEFINITION. SWITCH (chapter 5), SET LEG (chapter 7), SET PORT and READ PORT (chapter 6). -/

namespace Sys2Proof.Machine

/-! ### SWITCH -/

/-- R82: the result of SWITCH, from the row when the order was taken and the row after it. -/
def switchResult (d : Fin 64) (target : Source) (before after : Row) : List Byte :=
  le 1 d.val ++ le 1 (sourceCode target) ++ le 1 (sourceCode before.current) ++ le 1 (boolCode after.pending.isSome)
    ++ le 1 (sourceOptCode (before.pending.map (·.target)))
    ++ le 1 ((before.pending.map fun x => causeCode x.cause).getD 0)

/-- R82: a SWITCH of an unowned port is a MANUAL request. -/
def lodgeSwitch (d : Fin 64) (target : Source) (s : State) : State :=
  finishOrder .ok (switchResult d target s.rows[d] (requestRow target .manual s.rows[d])) (request d target .manual s)

/-- R82: SWITCH. -/
def switchOrder (o : Order) (s : State) : State :=
  match deliveryIndex o.a.toNat, sourceOf o.b.toNat with
  | some d, some x => if (ownerOf d s).isSome then finishOrder .owned [] s else lodgeSwitch d x s
  | some _, none | none, _ => finishOrder .badPort [] s

/-! ### SET LEG -/

/-- The leg intended for a booking, none for an ACCEPTED one (R174). -/
def intendedLeg (b : Slot) (s : State) : Option Source := if slotOnAir b then some (intended s.rows[b.port]) else none

/-- R117, R107: the leg that the later form requests for an on-air booking, if it requests one. -/
def requestedLeg (b : Slot) (s : State) : Option Source :=
  let leg := intended s.rows[b.port]
  let chosen := chooseLater b (fun p => healthOf p s) leg
  if slotOnAir b && decide (chosen ≠ leg) then some chosen else none

/-- R117: the result of SET LEG; `b` is the slot before the order. -/
def setLegResult (n : Fin 1024) (b : Slot) (mode : LegMode) (s : State) : List Byte :=
  le 4 n.val ++ le 1 (slotStateCode b.state) ++ le 1 (legModeCode b.legMode) ++ le 1 (legModeCode mode)
    ++ le 1 (sourceOptCode (intendedLeg b s)) ++ le 1 (sourceOptCode (requestedLeg { b with legMode := mode } s))

/-- R117: the mode is stored, and the rule is applied to a booking on air. -/
def storeLegMode (n : Fin 1024) (mode : LegMode) (s : State) : State :=
  let b := s.store.slots[n]
  let s1 := setSlot n { b with legMode := mode } s
  finishOrder .ok (setLegResult n b mode s) (if slotOnAir b then applyProtection n s1 else s1)

/-- R117: SET LEG. A slot whose close is under way waits (log 17). -/
def setLegOrder (o : Order) (s : State) : State :=
  match slotIndex o.a.toNat s with
  | none => finishOrder .badNumber [] s
  | some n =>
    match legModeOf o.b.toNat with
    | none => finishOrder .range [] s
    | some mode =>
      if closing n s then s
      else if s.store.slots[n].state = .free then finishOrder .badState [] s
      else if mode = .lockBackup ∧ s.store.slots[n].backup = none then finishOrder .noBackup [] s
      else storeLegMode n mode s

/-! ### SET PORT -/

/-- R97, check 2: the lowest booking number among the slots not FREE that have the port as a leg. -/
def slotUsing (p : Fin 48) (s : State) : Option (Fin 1024) :=
  (List.finRange 1024).find? fun n => decide (s.store.slots[n].state ≠ .free) && isLeg s.store.slots[n] p

/-- A value brought into a range (R97). -/
def clampTo (low high n : Nat) : Nat := max low (min high n)

/-- R97: the hold-off taken. -/
def takenHoldOff (o : Order) : Nat := clampTo 0 10 o.c.toNat

/-- R97: the restore time taken. -/
def takenRestore (o : Order) : Nat := clampTo 10 600 (setPortRestoreTime o)

/-- R97: the severe threshold taken. -/
def takenThreshold (o : Order) : Nat := clampTo 1 65535 (setPortThreshold o)

/-- R97: some value was brought into range. -/
def wasClamped (o : Order) : Bool :=
  decide (takenHoldOff o ≠ o.c.toNat ∨ takenRestore o ≠ setPortRestoreTime o ∨ takenThreshold o ≠ setPortThreshold o)

/-- R97: the monitor stores the values taken. -/
def configured (o : Order) (m : Monitor) : Monitor :=
  { m with holdOff := takenHoldOff o, restoreTime := takenRestore o, severeThreshold := takenThreshold o,
           fastDetect := setPortFastDetect o }

/-- R98: the port goes in service. -/
def enterService (m : Monitor) : Monitor :=
  { m with inService := true, health := .ok, badCount := 0, restoreTimer := 0, erroredSeconds := 0, severeSeconds := 0,
           darkSeconds := 0, failures := 0, lastClass := .none, firstSecond := true, seen := freshSeen m }

/-- R99: the port goes out of service; its counters are kept. -/
def leaveService (m : Monitor) : Monitor :=
  { m with inService := false, health := .outOfService, badCount := 0, restoreTimer := 0, lastClass := .none,
           firstSecond := false, seen := { lightLost := false, lockLost := false, blocks := 0 } }

/-- R98, R99: the monitor after SET PORT. -/
def monitorSet (o : Order) (m : Monitor) : Monitor :=
  match m.inService, setPortInService o with
  | false, true => enterService (configured o m)
  | true, false => leaveService (configured o m)
  | false, false | true, true => configured o m

/-- R97: the result of SET PORT, from the monitor before and after. -/
def setPortResult (before after : Monitor) : List Byte :=
  le 1 after.holdOff ++ le 1 (boolCode after.fastDetect) ++ le 1 (boolCode after.inService)
    ++ le 1 (healthCode before.health) ++ le 2 after.restoreTime ++ le 1 (healthCode after.health) ++ zeros 1
    ++ le 4 after.severeThreshold

/-- R97: SET PORT is carried out. -/
def applySetPort (p : Fin 48) (o : Order) (s : State) : State :=
  finishOrder (if wasClamped o then .clamped else .ok) (setPortResult s.monitors[p] (monitorSet o s.monitors[p]))
    (updateMonitor p (monitorSet o s.monitors[p]) s)

/-- R97: SET PORT. The slot of a close that is under way is not FREE yet (R44; log 17). -/
def setPortOrder (o : Order) (s : State) : State :=
  match sourceIndex o.a.toNat with
  | none => finishOrder .badPort [] s
  | some p =>
    match slotUsing p s with
    | some n =>
      if setPortInService o then applySetPort p o s
      else finishOrder .inUse (zeros 12 ++ le 2 n.val) s
    | none => applySetPort p o s

/-! ### READ PORT -/

/-- R101: the snapshot of a monitor. -/
def readPortResult (m : Monitor) : List Byte :=
  le 1 (boolCode m.inService) ++ le 1 (boolCode m.fastDetect) ++ le 1 m.holdOff ++ le 1 (healthCode m.health)
    ++ le 2 m.restoreTime ++ le 1 m.badCount ++ le 1 (classCode m.lastClass) ++ le 4 m.severeThreshold
    ++ le 2 m.erroredSeconds ++ le 2 m.severeSeconds ++ le 2 m.darkSeconds ++ le 2 m.failures ++ le 2 m.restoreTimer

/-- R101: the clear flag sets the four counters to 0. -/
def clearCounters (m : Monitor) : Monitor :=
  { m with erroredSeconds := 0, severeSeconds := 0, darkSeconds := 0, failures := 0 }

/-- R101: READ PORT; R30: any clear flag but 0 is on. -/
def readPortOrder (o : Order) (s : State) : State :=
  match sourceIndex o.a.toNat with
  | none => finishOrder .badPort [] s
  | some p =>
    finishOrder .ok (readPortResult s.monitors[p])
      (if o.b = 0 then s else setMonitor p (clearCounters s.monitors[p]) s)

/-! ### The commands -/

/-- SWITCH (R82). -/
def execSwitch (s : State) : Host.Outcome State Fault Refusal := live (takeOrder .switch switchOrder) s

/-- SET_LEG (R117). -/
def execSetLeg (s : State) : Host.Outcome State Fault Refusal := live (takeOrder .setLeg setLegOrder) s

/-- SET_PORT (R97 to R99). -/
def execSetPort (s : State) : Host.Outcome State Fault Refusal := live (takeOrder .setPort setPortOrder) s

/-- READ_PORT (R101). -/
def execReadPort (s : State) : Host.Outcome State Fault Refusal := live (takeOrder .readPort readPortOrder) s

end Sys2Proof.Machine
end

