-- ==== Sys2Proof/Machine/Resets.lean ====
section
/-! DEFINITION. The soft reset (R14, R28) and the hard reset (R16). -/

namespace Sys2Proof.Machine

/-! ### What a soft reset completes inside the part -/

/-- The gate becomes `g`. -/
def setGate (g : Gate) (s : State) : State := { s with link := { s.link with gate := g } }

/-- R14: the account and ticket unit and the booking store complete the access in flight. A close or a CLOSE MATCH whose writes
had begun goes on from the state byte it read, and one whose writes had not loses its ticket. A BOOK works from the record
it read. A re-check with writes behind it that had been issued has had its answer, and any other is dropped (log 12). -/
def completeInFlight (cut : CutOff) (s : State) : State :=
  match s.tickets.inFlight with
  | some (.raise r) => if linkOpen s then raiseRead r (cut.slotState == 0) s else dropAccess (.closeWrite r) (setInFlight none s)
  | some (.recordRead n) => bookFromRecord n (bookRecordOf cut.record) (setInFlight none s)
  | some (.totalCheck k minute) =>
    if linkOpen s || cut.slotState != 0 then totalRead k minute (cut.slotState == 0) s
    else freeAccountSlot k (loseTicket none (raiseNumber (setInFlight none s)))
  | some (.closeWrite r) => dropAccess (.closeWrite r) (setInFlight none s)
  | some (.totalWrite k) => dropAccess (.totalWrite k) (setInFlight none s)
  | some .recheck => if linkOpen s && cut.slotState == 0 then unblockRing (setInFlight none s) else setInFlight none s
  | some (.write _) | some (.report _ _) => setInFlight none s
  | none => s

/-- The access is a write or a report, which waits for no read of its own. -/
def plainAccess (a : Access) : Bool :=
  match a with
  | .write _ | .report _ _ => true
  | .raise _ | .closeWrite _ | .totalCheck _ _ | .totalWrite _ | .recheck | .recordRead _ => false

/-- The read of an access that waited had no answer yet, so nothing goes out from there on. -/
def gateNext (a : Access) (s : State) : State := if plainAccess a then s else setGate (.muteAfter 0) s

/-- R14: the access whose turn has come begins and is completed. -/
def completeNext (cut : CutOff) (a : Access) (s : State) : State := completeInFlight cut (beginAccess a (gateNext a s))

/-- The writes let out where `issued` had been: of a ticket whose first write had been issued the other follows (R14). -/
def wholeTicket (cut : CutOff) (issued : Nat) (ticket : Bool) : Nat :=
  if ticket && decide (issued = 1) && cut.slotState == 0 then 2 else issued

/-- The access writes a ticket. -/
def ticketAccess (a : Access) : Bool :=
  match a with
  | .raise _ | .totalCheck _ _ => true
  | .write _ | .closeWrite _ | .totalWrite _ | .recheck | .recordRead _ | .report _ _ => false

/-- The accesses that wait are put aside. -/
def setWaiting (l : List Access) (s : State) : State := { s with tickets := { s.tickets with waiting := l } }

/-- R14: the accesses under way are completed inside the part, with the writes that had been issued of them: those of the one
in flight, and then of the writes and reports behind it. -/
def completeAccesses (cut : CutOff) (s : State) : State :=
  let budget := wholeTicket cut cut.accessIssued (s.tickets.inFlight.any ticketAccess)
  let s1 := completeInFlight cut (setGate (.muteAfter budget) (setWaiting [] s))
  s.tickets.waiting.foldl (fun t a => completeNext cut a t) s1

/-- R14, R141: a close that waits for the count of its last second gets it: the blocks take the tick that the clock hands out
at this instant, and the tick's command hands it out no more. The meter and tariff unit takes its boundary after that tick
(R136), so a staged table becomes current here and its number rises, where without such a close the soft reset discards it:
a choice of the model (log 12). -/
def completeTick (cut : CutOff) (s : State) : State :=
  match s.clock.rollover with
  | .boundaryFirst ended =>
    if s.store.holds.all fun h => h.counted then s else setRollover (.handed ended) (owedTick cut.order ended s)
  | .none | .tickFirst _ _ | .handed _ => s

/-- R14, R149: a close that the store holds is handed to the account and ticket unit, and its ticket is lost. -/
def completeHold (h : Hold) (s : State) : State :=
  let r := closeRaise .booking h.slot h.closeMinute false s
  closeInside r (takeClose r s)

/-- R14: the closes that the booking store is taking are completed inside the part. -/
def completeHolds (s : State) : State :=
  s.store.holds.foldl (fun t h => completeHold h t) { s with store := { s.store with holds := [] } }

/-- R21: the owning block of an order takes it. -/
def ownerTakes (o : Order) (s : State) : State :=
  match o.code with
  | .book => bookOrder o s
  | .cancel => cancelOrder o s
  | .extend => extendOrder o s
  | .switch => switchOrder o s
  | .setLeg => setLegOrder o s
  | .setPort => setPortOrder o s
  | .readPort => readPortOrder o s
  | .loadTariff => loadTariffOrder o s
  | .latchAccount => latchAccountOrder o s
  | .closeMatch => closeMatchOrder o s
  | .setClock => setClockOrder o s

/-- R28: an entry whose read had completed is examined. -/
def completeEntry (cut : CutOff) (s : State) : State :=
  match cut.entry with
  | some bytes => entryRead bytes s
  | none => s

/-- The order writes a ticket. -/
def ticketOrder (o : Order) : Bool := decide (o.code = .cancel ∨ o.code = .closeMatch)

/-- R28: an order handed to its block is taken by it, as a whole. -/
def completeDispatched (cut : CutOff) (s : State) : State :=
  match s.orders.unit with
  | .acting o .dispatched =>
    completeInFlight cut (ownerTakes o (setGate (.muteAfter (wholeTicket cut cut.orderIssued (ticketOrder o))) s))
  | .acting _ .queued | .acting _ .segmentRead | .acting _ .stopped | .idle | .reading | .reporting => s

/-- R28: a LOAD TARIFF whose read had completed goes on from the segment. One whose read had not would only stage a table that
the soft reset discards. -/
def completeSegment (cut : CutOff) (s : State) : State :=
  match cut.segment with
  | some bytes => tariffSegmentRead bytes s
  | none => s

/-- R14, R28: the order in flight is completed inside the part, with the writes that had been issued for it. -/
def completeOrder (cut : CutOff) (s : State) : State :=
  completeSegment cut (completeDispatched cut (completeEntry cut (setGate (.muteAfter cut.orderIssued) s)))

/-- R14, R28: what was begun is completed inside the part, before the soft reset: the accesses under way, the closes, and the
order in flight after them. An order whose work is an access already is completed with the accesses (log 12). -/
def completeInside (cut : CutOff) (s : State) : State :=
  completeOrder cut (completeHolds (completeTick cut (completeAccesses cut s)))

/-! ### The soft reset -/

/-- R14, R165: no window is in force, no START, halt or page is in progress and the fatal code is clear. -/
def softLink (l : Link) : Link :=
  { l with windows := build fun _ => none, start := .idle, haltWaiting := false, fatal := .none, run := .dormant,
           page := none, gate := .open }

/-- R14: the order unit returns to NEXT = END = 0 and the staged table is discarded. A re-check of the ring that had not been
made is none any more. -/
def softState (s : State) : State :=
  { s with
    link := softLink s.link
    orders := OrderUnit.hardReset
    tariffs := { s.tariffs with staged := none }
    tickets := { s.tickets with recheckIn := none } }

/-- The floor stack after a soft reset. -/
def clearFloor (s : State) : State := setAlarm { s.alarm with floor := { top := 0, middle := 0, bottom := 0 } } s

/-- R14: the flags are cleared, item 50 falls to severity 0 and the floor returns to 0, one after another in the order of the
list of R14, which sets none (log 38); ALARM follows its level at each. -/
def softClear (s : State) : State := clearFloor (setSeverity 50 0 (setFlags (alarmOnly s.link.flags) (softState s)))

/-- R14: the change from RUNNING or HELD to DORMANT latches RUN, if permitted. -/
def latchLeave (from_ : RunState) (s : State) : State := if from_ = .dormant then s else latch .run s

/-- SOFT RESET (R14). -/
def softReset (cut : CutOff) (s : State) : State :=
  settlePage (latchLeave s.link.run (softClear (completeInside cut (abandonPage cut.pageIssued s))))

/-! ### The hard reset -/

/-- HARD_RESET (R16): every block is at its hard reset values while RESETN is low. The queue, the record of the link and the
last answer are no state of the part (log 18). -/
def hardReset (s : State) : State :=
  { State.hardReset with
    pending := s.pending
    link := { Link.hardReset with log := s.link.log, answer := s.link.answer } }

/-- R31: the first own tick falls 1 s after RESETN returns high. -/
def scheduleOwn (instant : Nat) (s : State) : State :=
  { s with clock := { s.clock with nextOwn := some (instant + Config.second) } }

/-- RESET_RELEASE (R16, R31, R118): the part starts from the hard reset values, and item 48 is derived at severity 2. -/
def resetRelease (instant : Nat) (s : State) : State :=
  if s.resetn then s else setSeverity 48 2 (scheduleOwn instant { hardReset s with resetn := true })

/-! ### The commands -/

/-- SOFT_RESET (R14, R28). -/
def execSoftReset (pageIssued orderIssued : Nat) (answer : CutAnswers) (s : State) : Host.Outcome State Fault Refusal :=
  live (softReset { toCutAnswers := answer, pageIssued := pageIssued, orderIssued := orderIssued }) s

/-- HARD_RESET (R16). -/
def execHardReset (s : State) : Host.Outcome State Fault Refusal := .next (hardReset s)

/-- RESET_RELEASE (R16, R31). -/
def execResetRelease (instant : Nat) (s : State) : Host.Outcome State Fault Refusal := .next (resetRelease instant s)

end Sys2Proof.Machine
end

