-- ==== Sys2Proof/Machine/Start.lean ====
section
/-! DEFINITION. START and HALT (01 sections 1.4.1 to 1.4.3), the header checks, and the bus fault commands (R15). -/

namespace Sys2Proof.Machine

/-- The last start code becomes `c` and START is in the phase `p`. -/
def setStart (p : StartPhase) (c : StartCode) (s : State) : State :=
  { s with link := { s.link with start := p, lastStart := c } }

/-! ### The checks of START -/

/-- R10, check 2: one window descriptor fails. -/
def descriptorBad (d : WindowDescriptor) : Bool :=
  decide (3 < d.permission)
    || (decide (d.permission ≠ 0)
        && decide (d.pages = 0 ∨ 262144 < d.pages ∨ d.base % Config.pageBytes ≠ 0
                    ∨ Config.addressEnd < d.base + d.pages * Config.pageBytes))

/-- The window a descriptor describes; a NONE permission describes an unused one (01 section 1.2). -/
def windowOf (d : WindowDescriptor) : Option Window :=
  (windowPermission d.permission).map fun p =>
    { base := BitVec.ofNat 64 d.base, pages := BitVec.ofNat 32 d.pages, permission := p }

/-- R2, R10: the bytes lie wholly in one of windows 1 to 3 with READ+WRITE. -/
def placed (h : Header) (base length : Nat) : Bool :=
  h.windows.any fun d =>
    match windowOf d with
    | some w => decide (w.permission = .readWrite) && windowCovers w base length
    | none => false

/-- Two ranges of host memory overlap. -/
def rangesOverlap (a aLength b bLength : Nat) : Bool := decide (a < b + bLength ∧ b < a + aLength)

/-- The bytes of the book (R10). -/
def bookLength (h : Header) : Nat := 64 * h.bookCount

/-- The bytes of the ring (R10). -/
def ringLength (h : Header) : Nat := 32 * h.slotCount

/-- R10, check 3: a slot that is not FREE lies outside a book of `count` slots. -/
def slotOutside (count : Nat) (s : State) : Bool :=
  (List.finRange 1024).any fun n => decide (count ≤ n.val ∧ s.store.slots[n].state ≠ .free)

/-- The range overlaps AREA to AREA + 8 KiB. -/
def overlapsArea (s : State) (base length : Nat) : Bool :=
  rangesOverlap base length s.link.area.toNat Config.areaBytes

/-- R10: the six checks of START in their order, each true when it fails. -/
def startChecks (h : Header) (s : State) : List (Bool × StartCode) :=
  [(decide (h.version ≠ 1), .version),
   (h.windows.any descriptorBad, .windowBad),
   (decide (h.bookCount = 0 ∨ 1024 < h.bookCount) || slotOutside h.bookCount s, .bookCount),
   (decide (h.bookBase % 64 ≠ 0) || !placed h h.bookBase (bookLength h) || overlapsArea s h.bookBase (bookLength h),
    .bookWindow),
   (decide (h.slotCount < 16 ∨ 4096 < h.slotCount), .ringCount),
   (decide (h.ringBase % 32 ≠ 0) || !placed h h.ringBase (ringLength h) || overlapsArea s h.ringBase (ringLength h)
      || rangesOverlap h.ringBase (ringLength h) h.bookBase (bookLength h),
    .ringWindow)]

/-- R10: the code of the first check that fails. -/
def startFailure (h : Header) (s : State) : Option StartCode := ((startChecks h s).find? (·.1)).map (·.2)

/-! ### Taking a header into force -/

/-- The ring a header places. -/
def ringOf (h : Header) : Ring := { base := BitVec.ofNat 64 h.ringBase, count := h.slotCount }

/-- R11: the write position returns to 0 when the ring base or slot count differs from those kept. -/
def placeRing (r : Ring) (t : Tickets) : Tickets :=
  { t with ring := some r, writePosition := if t.ring = some r then t.writePosition else 0 }

/-- R11: windows 1 to 3, the book and the ring come into force, and OK is the last start code. -/
def takeHeader (h : Header) (s : State) : State :=
  { s with
    link := { s.link with
      windows := build fun k => (h.windows[k.val]?).bind windowOf
      lastStart := .ok
      start := .identityWrite }
    store := { s.store with bookBase := BitVec.ofNat 64 h.bookBase, bookCount := h.bookCount }
    tickets := placeRing (ringOf h) s.tickets }

/-- R175: the identity word. -/
def identityWord : Nat := 0x4864 + 1 * 2 ^ 16 + Config.siliconRevision * 2 ^ 24

/-- R11: the write of the identity word. -/
def identityWrite (s : State) : HostWrite := writeAt (areaAddress s Config.identityOffset) (le 4 identityWord)

/-- R10, R11: the part works from the header it read. -/
def headerTaken (h : Header) (s : State) : State :=
  match startFailure h s with
  | some code => setStart .idle code s
  | none => sendWrite (identityWrite s) (takeHeader h s)

/-- HEADER_READ_COMPLETE (R10). -/
def headerReadComplete (bytes : Vector Byte 80) (s : State) : State :=
  if s.link.start = .headerRead ∧ startOpen s then headerTaken (headerOf bytes) s else s

/-- IDENTITY_WRITE_COMPLETE (R11). -/
def identityWriteComplete (s : State) : State :=
  if s.link.start = .identityWrite ∧ startOpen s then enterRunning (setStart .idle s.link.lastStart s) else s

/-! ### START and HALT -/

/-- The bytes of the header that START reads (R10). -/
def headerBytes : Nat := 80

/-- R10: a START taken in DORMANT; a further one is ignored while it is in progress (R12). -/
def startDormant (s : State) : State :=
  if startInProgress s then s
  else if Config.addressEnd < s.link.area.toNat + Config.areaBytes then setStart .idle .windowBad s
  else record (.read s.link.area headerBytes) (setStart .headerRead s.link.lastStart s)

/-- R12: a START taken in HELD. -/
def startHeld (s : State) : State :=
  match s.link.fatal with
  | .none => enterRunning (setStart s.link.start .ok s)
  | .bus => setStart s.link.start .fatal s

/-- The halt waiting bit becomes `b`. -/
def setHaltWaiting (b : Bool) (s : State) : State := { s with link := { s.link with haltWaiting := b } }

/-- R12, R13: a START taken in RUNNING withdraws a waiting halt. -/
def startRunning (s : State) : State := if s.link.haltWaiting then takeEntry (setHaltWaiting false s) else s

/-- START (R10, R12). -/
def startCommand (s : State) : State :=
  match s.link.run with
  | .dormant => startDormant s
  | .held => startHeld s
  | .running => startRunning s

/-- HALT (R13). An order is in flight while the order unit is not IDLE (02 section 2.2; log 31). -/
def haltCommand (s : State) : State :=
  match s.link.run with
  | .running => if s.orders.unit = .idle then enterHeld s else setHaltWaiting true s
  | .dormant | .held => s

/-! ### Bus faults -/

/-- R15: the first bus fault, on an access already issued (0) or on the write number `n` from here (n + 1; log 11). That an
access is outstanding is the sender's to see to: a fault reported with none outstanding is taken all the same, a choice of
the model (log 11). -/
def busFaultAt (after : Nat) (s : State) : State :=
  match after with
  | 0 => takeBusFault s
  | n + 1 => if s.link.fatal = .none then { s with link := { s.link with gate := .faultAfter n } } else s

/-! ### The commands -/

/-- START (R10, R12). -/
def execStart (s : State) : Host.Outcome State Fault Refusal := live startCommand s

/-- HALT (R13). -/
def execHalt (s : State) : Host.Outcome State Fault Refusal := live haltCommand s

/-- HEADER_READ_COMPLETE (R10, R11). -/
def execHeaderReadComplete (bytes : Vector Byte 80) (s : State) : Host.Outcome State Fault Refusal :=
  live (headerReadComplete bytes) s

/-- IDENTITY_WRITE_COMPLETE (R11). -/
def execIdentityWriteComplete (s : State) : Host.Outcome State Fault Refusal := live identityWriteComplete s

/-- BUS_FAULT (R15). -/
def execBusFault (after : Nat) (s : State) : Host.Outcome State Fault Refusal := live (busFaultAt after) s

/-- COMPLETION_TIMEOUT (R15): no completion within 50 ms is a bus fault. -/
def execCompletionTimeout (after : Nat) (s : State) : Host.Outcome State Fault Refusal := live (busFaultAt after) s

/-- ORDER_TAKEN (R18): the order unit examines its conditions; it has taken an entry at once wherever they held (log 20). -/
def execOrderTaken (s : State) : Host.Outcome State Fault Refusal := live takeEntry s

/-- ENTRY_READ_COMPLETE (R19, R20). -/
def execEntryReadComplete (bytes : Vector Byte 24) (s : State) : Host.Outcome State Fault Refusal :=
  live (entryRead bytes) s

/-- PAGE_COMPLETE (R167). -/
def execPageComplete (s : State) : Host.Outcome State Fault Refusal := live pageComplete s

end Sys2Proof.Machine
end

