-- ==== Sys2Proof/Machine/Registers.lean ====
section
/-! DEFINITION. The register window (01 section 1.3): reads of the eight registers, and writes to them. -/

namespace Sys2Proof.Machine

/-! ### Reads -/

/-- A register from its fields, each a value and its lowest bit; the bits not named read 0. -/
def packed (fields : List (Nat × Nat)) : Word := BitVec.ofNat 32 ((fields.map fun f => f.1 * 2 ^ f.2).sum)

/-- R5: CTRL. -/
def readCtrl (s : State) : Word := packed [(rankingModeCode s.alarm.mode, 4), (s.alarm.spotlight.val, 8)]

/-- R8: STATUS. -/
def readStatus (s : State) : Word :=
  packed [(runStateCode s.link.run, 0), (secrefCode s.clock.secref, 2), (framerefCode s.clock.frameref, 3),
    (fatalCodeCode s.link.fatal, 4), (startCodeCode s.link.lastStart, 8), (tariffStateCode s.tariffs, 12),
    (boolCode s.tickets.blocked, 14), (boolCode s.link.haltWaiting, 15), (boolCode (startInProgress s), 16)]

/-- R7: ORDER. -/
def readOrder (s : State) : Word := packed [(s.orders.next.toNat, 0), (s.orders.endIndex.toNat, 8)]

/-- R170: FLAGS. -/
def readFlags (s : State) : Word := packed [(s.link.flags.toNat, 0), (s.link.permissions.toNat, 16)]

/-- R127: NEXT_ALARM. -/
def readNextAlarm (s : State) : Word :=
  match reportedItem s.alarm with
  | some i => packed [(i.val, 0), (s.alarm.items[i].severity.val, 8), (s.alarm.floor.top.val, 12)]
  | none => packed [(s.alarm.floor.top.val, 12), (1, 31)]

/-- R4: a read of a register. -/
def readRegister (r : Register) (s : State) : Word :=
  match r with
  | .ctrl => readCtrl s
  | .status => readStatus s
  | .areaLo => s.link.area.extractLsb' 0 32
  | .areaHi => s.link.area.extractLsb' 32 32
  | .order => readOrder s
  | .flags => readFlags s
  | .nextAlarm => readNextAlarm s
  | .minute => s.clock.minute

/-- R4: the addressed bytes of a register, in ascending order. -/
def addressedBytes (enables : BitVec 4) (w : Word) : List Byte :=
  (List.finRange 4).filterMap fun k => if enables.getLsbD k.val then some (w.extractLsb' (8 * k.val) 8) else none

/-- FLAGS_READ (R171): the flags and permissions are returned, and a read that includes byte 0 clears every latched flag. -/
def flagsRead (enables : BitVec 4) (s : State) : State :=
  let s1 : State := { s with link := { s.link with answer := addressedBytes enables (readFlags s) } }
  if enables.getLsbD 0 then setFlags (alarmOnly s.link.flags) s1 else s1

/-! ### Writes -/

/-- R6: the area base with one of its halves written; bits 11:0 of AREA_LO are ignored. -/
def areaWith (high : Bool) (value : Word) (area : Address) : Address :=
  if high then value ++ area.extractLsb' 0 32 else area.extractLsb' 32 32 ++ (value.extractLsb' 12 20 ++ (0 : BitVec 12))

/-- AREA_WRITE (R6). -/
def areaWrite (high : Bool) (value : Word) (s : State) : State :=
  if s.link.run = .dormant ∧ startInProgress s = false then
    { s with link := { s.link with area := areaWith high value s.link.area } }
  else s

/-- FLAGS_WRITE (R170): the permissions are stored, a latched flag without permission is cleared, and ALARM takes its level.
The whole write is one change of the flags: where it clears the last latched flag and sets ALARM, no message is sent. The
manual does not say whether the condition of R172 falls and rises anew there: a choice of the model (log 35). -/
def flagsWrite (value : Word) (s : State) : State :=
  let p := value.extractLsb' 16 7
  let s1 : State := { s with link := { s.link with permissions := p } }
  setFlags (withAlarmLevel (s.link.flags &&& p) (alarmLevel s1)) s1

/-- R5: the command of a CTRL write: none 0, START 1, HALT 2, SOFT RESET 3. `cut` tells how far the work under way had come
(log 12). -/
def ctrlCommand (command : BitVec 2) (cut : CutOff) (s : State) : State :=
  if command = 1 then startCommand s
  else if command = 2 then haltCommand s
  else if command = 3 then softReset cut s
  else s

/-- R5: a write to CTRL: the mode and spotlight fields first, the command second. -/
def ctrlWrite (value : Word) (cut : CutOff) (s : State) : State :=
  ctrlCommand (value.extractLsb' 0 2) cut
    (if value.getLsbD 15 then modeWrite (value.extractLsb' 4 2) (value.extractLsb' 8 6) s else s)

/-- R128: a write to NEXT_ALARM. -/
def nextAlarmRegister (value : Word) (s : State) : State :=
  nextAlarmWrite (value.getLsbD 31) (value.getLsbD 8) (value.getLsbD 9) (value.extractLsb' 0 6) s

/-- REGISTER_WRITE (R4): a write with all four byte enables, to the register that takes it. -/
def registerWrite (r : Register) (enables : BitVec 4) (value : Word) (cut : CutOff) (s : State) : State :=
  if enables ≠ 15 then s
  else
    match r with
    | .ctrl => ctrlWrite value cut s
    | .areaLo => areaWrite false value s
    | .areaHi => areaWrite true value s
    | .order => orderEndWrite value s
    | .flags => flagsWrite value s
    | .nextAlarm => nextAlarmRegister value s
    | .status | .minute => s

/-! ### The commands -/

/-- MODE_WRITE (R5, R126). -/
def execModeWrite (mode : BitVec 2) (spotlight : BitVec 6) (s : State) : Host.Outcome State Fault Refusal :=
  live (modeWrite mode spotlight) s

/-- AREA_WRITE (R6). -/
def execAreaWrite (high : Bool) (value : Word) (s : State) : Host.Outcome State Fault Refusal :=
  live (areaWrite high value) s

/-- ORDER_END_WRITE (R7, R26). -/
def execOrderEndWrite (value : Word) (s : State) : Host.Outcome State Fault Refusal := live (orderEndWrite value) s

/-- FLAGS_READ (R171). -/
def execFlagsRead (enables : BitVec 4) (s : State) : Host.Outcome State Fault Refusal := live (flagsRead enables) s

/-- FLAGS_WRITE (R170). -/
def execFlagsWrite (value : Word) (s : State) : Host.Outcome State Fault Refusal := live (flagsWrite value) s

/-- ACK (R128): with POP when `pop`. -/
def execAck (item : BitVec 6) (pop : Bool) (s : State) : Host.Outcome State Fault Refusal :=
  live (nextAlarmWrite true false pop item) s

/-- PUSH (R124, R128): with ACK and POP as given. -/
def execPush (item : BitVec 6) (ack pop : Bool) (s : State) : Host.Outcome State Fault Refusal :=
  live (nextAlarmWrite ack true pop item) s

/-- POP (R124, R128). -/
def execPop (s : State) : Host.Outcome State Fault Refusal := live (nextAlarmWrite false false true 0) s

/-- REGISTER_WRITE (R4). -/
def execRegisterWrite (register : WriteTarget) (enables : BitVec 4) (value : Word) (s : State) :
    Host.Outcome State Fault Refusal :=
  live (registerWrite register.register enables value register.cut) s

end Sys2Proof.Machine
end

