-- ==== Sys2Proof/Machine/Dispatch.lean ====
section
/-! DEFINITION. One arm for each command. -/

namespace Sys2Proof.Machine

/-- The effect of a command on everything but the queue. -/
def exec (i : Instr) (s : State) : Host.Outcome State Fault Refusal :=
  match i with
  | .start => Sys2Proof.Machine.execStart s
  | .halt => Sys2Proof.Machine.execHalt s
  | .softReset pageIssued orderIssued answer => Sys2Proof.Machine.execSoftReset pageIssued orderIssued answer s
  | .modeWrite mode spotlight => Sys2Proof.Machine.execModeWrite mode spotlight s
  | .areaWrite high value => Sys2Proof.Machine.execAreaWrite high value s
  | .orderEndWrite value => Sys2Proof.Machine.execOrderEndWrite value s
  | .flagsRead enables => Sys2Proof.Machine.execFlagsRead enables s
  | .flagsWrite value => Sys2Proof.Machine.execFlagsWrite value s
  | .ack item pop => Sys2Proof.Machine.execAck item pop s
  | .push item ack pop => Sys2Proof.Machine.execPush item ack pop s
  | .pop => Sys2Proof.Machine.execPop s
  | .registerWrite register enables value => Sys2Proof.Machine.execRegisterWrite register enables value s
  | .hardReset => Sys2Proof.Machine.execHardReset s
  | .resetRelease instant => Sys2Proof.Machine.execResetRelease instant s
  | .secrefPulse instant order => Sys2Proof.Machine.execSecrefPulse instant order s
  | .secrefTimeout order => Sys2Proof.Machine.execSecrefTimeout order s
  | .ownTick order => Sys2Proof.Machine.execOwnTick order s
  | .relockTimeout => Sys2Proof.Machine.execRelockTimeout s
  | .framerefPulse instant => Sys2Proof.Machine.execFramerefPulse instant s
  | .framerefTimeout => Sys2Proof.Machine.execFramerefTimeout s
  | .minuteBoundary order => Sys2Proof.Machine.execMinuteBoundary order s
  | .receiverObservation port seen => Sys2Proof.Machine.execReceiverObservation port seen s
  | .lossOfLightEdge port => Sys2Proof.Machine.execLossOfLightEdge port s
  | .holdOffReached port => Sys2Proof.Machine.execHoldOffReached port s
  | .restoreTimerExpiry port => Sys2Proof.Machine.execRestoreTimerExpiry port s
  | .busFault after => Sys2Proof.Machine.execBusFault after s
  | .completionTimeout after => Sys2Proof.Machine.execCompletionTimeout after s
  | .headerReadComplete bytes => Sys2Proof.Machine.execHeaderReadComplete bytes s
  | .identityWriteComplete => Sys2Proof.Machine.execIdentityWriteComplete s
  | .orderTaken => Sys2Proof.Machine.execOrderTaken s
  | .entryReadComplete bytes => Sys2Proof.Machine.execEntryReadComplete bytes s
  | .book => Sys2Proof.Machine.execBook s
  | .bookRecordRead bytes => Sys2Proof.Machine.execBookRecordRead bytes s
  | .cancel => Sys2Proof.Machine.execCancel s
  | .extend => Sys2Proof.Machine.execExtend s
  | .switch => Sys2Proof.Machine.execSwitch s
  | .setLeg => Sys2Proof.Machine.execSetLeg s
  | .setPort => Sys2Proof.Machine.execSetPort s
  | .readPort => Sys2Proof.Machine.execReadPort s
  | .loadTariff => Sys2Proof.Machine.execLoadTariff s
  | .tariffSegmentRead bytes => Sys2Proof.Machine.execTariffSegmentRead bytes s
  | .latchAccount => Sys2Proof.Machine.execLatchAccount s
  | .closeMatch => Sys2Proof.Machine.execCloseMatch s
  | .setClock => Sys2Proof.Machine.execSetClock s
  | .ratingRelease => Sys2Proof.Machine.execRatingRelease s
  | .pageComplete => Sys2Proof.Machine.execPageComplete s
  | .ticketSlotReadComplete state => Sys2Proof.Machine.execTicketSlotReadComplete state s

end Sys2Proof.Machine
end

