-- ==== Sys2Proof/Safety.lean ====
section
/-! DEFINITION. What the manual promises of every state: the laws of the blocks, in the terms the statements use. -/

namespace Sys2Proof.Machine

/-- R122: for every alarm item the acknowledged level never exceeds the severity. -/
def acksBounded (s : State) : Prop := ∀ i : Fin 51, s.alarm.items[i].acked ≤ s.alarm.items[i].severity

/-- R170, R172: a flag is set only with its permission. -/
def flagsPermitted (s : State) : Prop := s.link.flags &&& ~~~s.link.permissions = 0

/-- R130: ALARM is set exactly while its level holds. -/
def alarmFollows (s : State) : Prop := flagSet .alarm s = alarmLevel s

/-- The law of the alarm ranking unit and the flags: R122, R130, R170 and R172 together. -/
def alarmLawful (s : State) : Prop := acksBounded s ∧ flagsPermitted s ∧ alarmFollows s

/-- R39, R120: the severities of the three system items follow the references, the ring and the fatal code. -/
def systemItemsFollow (s : State) : Prop :=
  s.resetn = true →
    s.alarm.items[48].severity = clockSeverity s.clock ∧
    s.alarm.items[49].severity = (if s.tickets.blocked then 2 else 0) ∧
    s.alarm.items[50].severity = (if s.link.fatal = .bus then 3 else 0)

/-- R119, R121: the severity of every source item is the one that the bookings, the rows and the healths give it. -/
def sourceItemsFollow (s : State) : Prop :=
  ∀ (p : Fin 48) (i : Fin 51), i.val = p.val → s.alarm.items[i].severity = sourceSeverity p s

/-- R85: the law of one line monitor. The ranges are those of the table of 06 section 6.2. -/
def monitorLawful (m : Monitor) : Prop :=
  (m.health = .outOfService ↔ m.inService = false) ∧
  (0 < m.badCount → m.health = .suspect) ∧
  (0 < m.restoreTimer → m.health = .recovering) ∧
  m.holdOff ≤ 10 ∧ m.badCount ≤ 10 ∧
  10 ≤ m.restoreTime ∧ m.restoreTime ≤ 600 ∧ m.restoreTimer ≤ 600 ∧
  1 ≤ m.severeThreshold ∧ m.severeThreshold ≤ 65535 ∧
  m.erroredSeconds ≤ 65535 ∧ m.severeSeconds ≤ 65535 ∧ m.darkSeconds ≤ 65535 ∧ m.failures ≤ 65535 ∧
  m.seen.blocks ≤ 65535 ∧
  (m.inService = false → m.lastClass = .none ∧ m.firstSecond = false)

/-- R85: the law holds of every line monitor. -/
def monitorsLawful (s : State) : Prop := ∀ p : Fin 48, monitorLawful s.monitors[p]

/-- R73, R76: a pending selection never names the current source. R79: the unbooked seconds stay in 32 bits. -/
def rowLawful (r : Row) : Prop := (∀ x, r.pending = some x → x.target ≠ r.current) ∧ r.unbooked ≤ max32

/-- Every row of the selection table is lawful. -/
def rowsLawful (s : State) : Prop := ∀ d : Fin 64, rowLawful s.rows[d]

/-- R9, R12, R13, R15, R29: a fatal part is HELD and does nothing on the link, and an order goes on only in RUNNING: none is
extended, cancelled or sets the clock in HELD (R42, R64). START is in progress only in DORMANT; a halt waits only in RUNNING
for an order in flight; an order is in flight in RUNNING, or stopped by a bus fault. -/
def runLawful (s : State) : Prop :=
  (s.link.fatal = .bus →
    s.link.run = .held ∧ s.link.page = none ∧ s.tickets.inFlight = none ∧ s.tickets.waiting = [] ∧
      s.tickets.recheckIn = none) ∧
  (s.link.start ≠ .idle → s.link.run = .dormant) ∧
  (s.link.haltWaiting = true → s.link.run = .running ∧ s.orders.unit ≠ .idle) ∧
  (s.orders.unit ≠ .idle → s.link.run = .running ∨ s.link.fatal = .bus) ∧
  (∀ o stage, s.orders.unit = .acting o stage → stage = .stopped ∨ s.link.run = .running) ∧
  (s.link.run = .dormant → s.link.page = none ∧ s.tickets.inFlight = none ∧ s.tickets.waiting = [] ∧
    s.tickets.recheckIn = none)

/-- R3, R10, R14: in DORMANT windows 1 to 3 are unused, but while a START that has passed its checks writes the identity word. -/
def windowsLawful (s : State) : Prop :=
  s.link.run = .dormant → s.link.start ≠ .identityWrite → ∀ k : Fin 3, s.link.windows[k] = none

/-- R15: the part is in the fatal state, and since its link traffic was `l` it has sent interrupt messages and nothing
else. -/
def silentFrom (l : List LinkOp) (s : State) : Prop :=
  s.link.fatal = .bus ∧ s.link.run = .held ∧ ∃ n, s.link.log = l ++ List.replicate n .message

/-- R6: the exchange area base is 4 KiB aligned. -/
def areaAligned (s : State) : Prop := s.link.area.extractLsb' 0 12 = 0

/-- R31, R32, R33, R35, R38: the second count is below 60; LOCKED has a last tick and no own tick, FREE_RUN an own tick due
and a relock run of at most two pulses; PRESENT has a last pulse. -/
def clockLawful (s : State) : Prop :=
  s.clock.second ≤ 59 ∧ s.clock.relock.count ≤ 2 ∧
  (s.clock.secref = .locked → s.clock.lastTick.isSome = true ∧ s.clock.nextOwn = none) ∧
  (s.resetn = true → s.clock.secref = .freeRun → s.clock.nextOwn.isSome = true) ∧
  (s.clock.frameref = .present ↔ s.clock.lastFrame.isSome = true)

/-- The bookings of match `m` (R153). -/
def matchSlots (m : Nat) (s : State) : Nat :=
  (List.finRange 1024).countP fun n => decide (s.store.slots[n].state ≠ .free ∧ s.store.slots[n].matchNumber = m)

/-- R149, R157: the work of the account and ticket unit fits the bookings and the accounts. A close that has begun is that of
one booking not FREE, for the account of its match, and an account whose MATCH_TOTAL is under way has no booking. -/
def closesLawful (s : State) : Prop :=
  (closingSlots s).Nodup ∧ (∀ n ∈ closingSlots s, s.store.slots[n].state ≠ .free) ∧
  (∀ r, .raise r ∈ outstanding s ∨ .closeWrite r ∈ outstanding s →
    r.ticket.matchNumber = s.store.slots[r.slot].matchNumber) ∧
  ∀ k, (∃ minute, .totalCheck k minute ∈ outstanding s) ∨ .totalWrite k ∈ outstanding s →
    s.accounts[k].isOpen = true ∧ s.accounts[k].openCount = 0

/-- R153, R155: no two OPEN accounts have the same match number, a charge total is below 2^40, every booking slot not FREE
belongs to an OPEN account of its match, and the open count of an OPEN account is the number of those slots. -/
def accountsLawful (s : State) : Prop :=
  (∀ j k : Fin 128, s.accounts[j].isOpen = true → s.accounts[k].isOpen = true →
    s.accounts[j].matchNumber = s.accounts[k].matchNumber → j = k) ∧
  (∀ k : Fin 128, s.accounts[k].chargeTotal < 2 ^ 40) ∧
  (∀ n : Fin 1024, s.store.slots[n].state ≠ .free →
    ∃ k : Fin 128, s.accounts[k].isOpen = true ∧ s.accounts[k].matchNumber = s.store.slots[n].matchNumber) ∧
  (∀ k : Fin 128, s.accounts[k].isOpen = true → s.accounts[k].openCount = matchSlots s.accounts[k].matchNumber s) ∧
  closesLawful s

/-- R144: a meter's outage seconds are at or above the allowance used plus the excess seconds, as long as they have not
saturated, and in no band do the excess seconds pass the charged ones. -/
def meterLawful (m : Meter) : Prop :=
  min max32 (m.allowanceUsed + bandSum m.excess) ≤ m.outage ∧ m.outage ≤ max32 ∧ m.held ≤ max32 ∧
  ∀ b : Band, bandValue b m.excess ≤ bandValue b m.booked + bandValue b m.overrun

/-- R144: the law holds of every meter. -/
def metersLawful (s : State) : Prop := ∀ n : Fin 1024, meterLawful s.tariffs.meters[n]

/-- R97: no source port that is a leg of a booking slot not FREE is OUT_OF_SERVICE. -/
def legsInService (s : State) : Prop :=
  ∀ (n : Fin 1024) (p : Fin 48), s.store.slots[n].state ≠ .free → isLeg s.store.slots[n] p = true →
    s.monitors[p].inService = true

/-- R138: while a booking slot is not FREE a tariff table is current. -/
def tariffCurrent (s : State) : Prop := ∀ n : Fin 1024, s.store.slots[n].state ≠ .free → s.tariffs.current.isSome = true

/-- R85, R97 and R138 together: what every booking slot not FREE can rely on. -/
def portsLawful (s : State) : Prop := legsInService s ∧ monitorsLawful s ∧ tariffCurrent s

/-- R45, R46: the members of a timeline are the bookings of its port that are not FREE and whose close has not begun, each
has a duration, and none begins before the one before it has ended. -/
def timelinesLawful (s : State) : Prop :=
  (∀ (d : Fin 64) (n : Fin 1024), n ∈ s.store.timelines[d] ↔
    s.store.slots[n].state ≠ .free ∧ s.store.slots[n].port = d ∧ closing n s = false) ∧
  ∀ d : Fin 64, (∀ n ∈ s.store.timelines[d], 0 < s.store.slots[n].duration) ∧
    s.store.timelines[d].Pairwise fun j k => finalEnd s.store.slots[j] ≤ s.store.slots[k].start

/-- The access belongs to the order in flight, and not to a close or the re-check (R23). -/
def orderAccess (a : Access) : Bool :=
  match a with
  | .raise r | .closeWrite r => r.forOrder
  | .totalCheck _ _ | .totalWrite _ | .recordRead _ | .report _ _ => true
  | .write _ | .recheck => false

/-- R18, R21, R149: one order is in flight at a time, so at most one access belongs to it, and its owning block has taken it.
The slot whose record a BOOK reads stays FREE until the read is answered, a close and a MATCH_TOTAL are written whole in one
step, and nothing waits but behind an access in flight. -/
def accessesLawful (s : State) : Prop :=
  (outstanding s).countP orderAccess ≤ 1 ∧
  (0 < (outstanding s).countP orderAccess → ∃ o, s.orders.unit = .acting o .queued) ∧
  (∀ n : Fin 1024, .recordRead n ∈ outstanding s → s.store.slots[n].state = .free ∧ closing n s = false) ∧
  (∀ r k, .closeWrite r ∉ outstanding s ∧ .totalWrite k ∉ outstanding s) ∧
  (s.tickets.inFlight = none → s.tickets.waiting = [])

/-- R45, R46, R21: the law of the booking store and of the accesses that change it. -/
def bookingsLawful (s : State) : Prop := timelinesLawful s ∧ accessesLawful s

/-! ### What a command leaves, in the terms the statements use -/

/-- R172: the interrupt message that a change of the flags sends. -/
def messages (before after : BitVec 7) : List LinkOp := if before = 0 ∧ after ≠ 0 then [.message] else []

/-- s with the flags f, the interrupt message of the change sent, and nothing else changed. -/
def withFlags (f : BitVec 7) (s : State) : State :=
  { s with link := { s.link with
      flags := f
      log := s.link.log ++ messages s.link.flags f } }

/-- s with a flag latched if its permission is 1 (R170), and nothing else changed. -/
def withLatched (f : Flag) (s : State) : State :=
  withFlags (s.link.flags ||| (if permitted f s then flagBit f else 0)) s

/-- s with the alarm state a and ALARM at its level (R130), and nothing else changed. -/
def withAlarm (a : Alarm) (s : State) : State :=
  withFlags (withAlarmLevel s.link.flags (alarmLevel { s with alarm := a })) { s with alarm := a }

/-- R122, R123: the item is pending, and its severity is at or above the floor. -/
def visibleItem (a : Alarm) (i : Fin 51) : Prop :=
  a.items[i].acked < a.items[i].severity ∧ a.floor.top.val ≤ a.items[i].severity.val

/-- R128: an ACK of `item` acknowledges item i: it names it, and it is pending. -/
def acknowledges (ack : Bool) (item : BitVec 6) (a : Alarm) (i : Fin 51) : Prop :=
  ack = true ∧ item.toNat = i.val ∧ a.items[i].acked < a.items[i].severity

/-- R124, R128: what a NEXT_ALARM write makes of the alarm state a: b. -/
def nextAlarmRule (ack push pop : Bool) (item : BitVec 6) (a b : Alarm) : Prop :=
  b.mode = a.mode ∧ b.spotlight = a.spotlight ∧
  (∀ i : Fin 51, b.items[i].severity = a.items[i].severity ∧
    (acknowledges ack item a i → b.items[i].acked = a.items[i].severity) ∧
    (¬acknowledges ack item a i → b.items[i].acked = a.items[i].acked)) ∧
  ∃ f : FloorStack,
    (∀ i : Fin 51, push = true → acknowledges ack item a i →
      f.top.val = a.items[i].severity.val + 1 ∧ f.middle = a.floor.top ∧ f.bottom = a.floor.middle) ∧
    ((∀ i : Fin 51, ¬(push = true ∧ acknowledges ack item a i)) → f = a.floor) ∧
    b.floor = if pop then { top := f.middle, middle := f.bottom, bottom := 0 } else f

/-- R18: the order unit takes the entry at NEXT when its four conditions hold, by one read of the entry's bytes 0 to 23. -/
def entryTaken (s : State) : State :=
  if s.link.run = .running ∧ s.link.haltWaiting = false ∧ s.orders.unit = .idle ∧ s.orders.next ≠ s.orders.endIndex then
    { s with
      orders := { s.orders with unit := .reading }
      link := { s.link with
        log := s.link.log ++ [.read (s.link.area + BitVec.ofNat 64 (0x0100 + 64 * s.orders.next.toNat)) 24] } }
  else s

/-- The writes of host memory in a run of link traffic, in order. -/
def writesOf (l : List LinkOp) : List HostWrite :=
  l.filterMap fun op =>
    match op with
    | .write w => some w
    | .read _ _ | .message => none

/-- The writes of host memory issued so far, in order. -/
def hostWrites (s : State) : List HostWrite := writesOf s.link.log

/-- The part is out of reset and its link is open (R9, R15), with no fault or cut announced for the writes to come. -/
def linkFree (s : State) : Prop := s.resetn = true ∧ linkOpen s = true ∧ s.link.gate = .open

/-- R21: the order o has been handed to the owning block of `code`, and the link is free. -/
def handed (code : OrderCode) (o : Order) (s : State) : Prop :=
  linkFree s ∧ s.orders.unit = .acting o .dispatched ∧ o.code = code

/-- No access to the book or the ring is outstanding. -/
def accessesIdle (s : State) : Prop := s.tickets.inFlight = none ∧ s.tickets.waiting = []

/-- R24: the three writes of a report of the entry at NEXT, in order. -/
def entryWrites (s : State) (outcome : OutcomeCode) (result : List Byte) : List HostWrite :=
  reportWrites s outcome result ++ [stateWrite s outcome]

/-- R25: END once the entry at NEXT is done. -/
def endAfter (u : OrderUnit) : BitVec 5 := if u.endIndex = u.next then u.next + 1 else u.endIndex

/-- R25, R18: the order unit once the entry at NEXT is done: the next entry is being read if R18 allows. -/
def unitAfter (u : State) : OrderUnit :=
  { next := u.orders.next + 1
    endIndex := endAfter u.orders
    unit := if u.link.run = .running ∧ u.link.haltWaiting = false ∧ u.orders.next + 1 ≠ endAfter u.orders
      then .reading else .idle }

/-- R25, R13: the flags once an order is done: ORDER is latched if its entry asked for it, and RUN if a waiting halt is
completed. -/
def flagsAfter (notify : Bool) (u : State) : BitVec 7 :=
  u.link.flags ||| (if notify = true ∧ permitted .order u = true then flagBit .order else 0)
    ||| (if u.link.haltWaiting = true ∧ permitted .run u = true then flagBit .run else 0)

/-- R24, R25, R13: from u, as its owning block left it, the order in flight is reported and done, and t follows. The three
writes of its entry go out, NEXT advances past it, a waiting halt is completed, and nothing else changes. -/
def reported (notify : Bool) (outcome : OutcomeCode) (result : List Byte) (u t : State) : Prop :=
  hostWrites t = hostWrites u ++ entryWrites u outcome result ∧
  t = { u with
    orders := unitAfter u
    link := { u.link with
      run := if u.link.haltWaiting then .held else u.link.run
      haltWaiting := false
      pageDue := u.link.haltWaiting || u.link.pageDue
      flags := flagsAfter notify u
      log := t.link.log } }

/-- The closes among accesses, in their order (R149). -/
def raisesIn (l : List Access) : List Raise :=
  l.filterMap fun a =>
    match a with
    | .raise r => some r
    | .write _ | .closeWrite _ | .totalCheck _ _ | .totalWrite _ | .recheck | .recordRead _ | .report _ _ => none

/-- The closes that the accounts hold and that have not come to their end, oldest first (R149, R155). -/
def raisesOf (s : State) : List Raise := raisesIn (outstanding s)

/-- The number of closes of match `m` that have not come to their end. -/
def raisedCount (m : Nat) (s : State) : Nat := (raisesOf s).countP fun r => decide (r.ticket.matchNumber = m)

/-! ### START -/

/-- R10: the checks of START in their order. -/
def startOrder : List StartCode := [.version, .windowBad, .bookCount, .bookWindow, .ringCount, .ringWindow]

/-- 12 section 12.2: base, pages and permission of window k (1 to 3) in a header. -/
def headerWindow (bytes : Vector Byte 80) (k : Nat) : Nat × Nat × Nat :=
  (fieldAt bytes (16 + 16 * k) 8, fieldAt bytes (24 + 16 * k) 4, fieldAt bytes (28 + 16 * k) 1)

/-- R10: the bytes from base on lie in no one of windows 1 to 3 with READ+WRITE. -/
def unplaced (bytes : Vector Byte 80) (base length : Nat) : Prop :=
  ∀ k, 1 ≤ k → k ≤ 3 → ∀ wbase pages, headerWindow bytes k = (wbase, pages, 3) →
    ¬(wbase ≤ base ∧ base + length ≤ wbase + pages * 4096)

/-- Two ranges of bytes overlap. -/
def crosses (a aLength b bLength : Nat) : Prop := a < b + bLength ∧ b < a + aLength

/-- R10: the check of START that records `code` fails on a header. -/
def startFails (bytes : Vector Byte 80) (s : State) (code : StartCode) : Prop :=
  let bookBase := fieldAt bytes 8 8
  let bookBytes := 64 * fieldAt bytes 16 2
  let ringBase := fieldAt bytes 24 8
  let ringBytes := 32 * fieldAt bytes 18 2
  match code with
  | .version => fieldAt bytes 0 4 ≠ 1
  | .windowBad => ∃ k base pages permission, 1 ≤ k ∧ k ≤ 3 ∧ headerWindow bytes k = (base, pages, permission) ∧
      (3 < permission ∨ permission ≠ 0 ∧
        (pages = 0 ∨ 262144 < pages ∨ base % 4096 ≠ 0 ∨ 2 ^ 64 < base + pages * 4096))
  | .bookCount => fieldAt bytes 16 2 = 0 ∨ 1024 < fieldAt bytes 16 2 ∨
      ∃ n : Fin 1024, fieldAt bytes 16 2 ≤ n.val ∧ s.store.slots[n].state ≠ .free
  | .bookWindow => bookBase % 64 ≠ 0 ∨ unplaced bytes bookBase bookBytes ∨
      crosses bookBase bookBytes s.link.area.toNat 8192
  | .ringCount => fieldAt bytes 18 2 < 16 ∨ 4096 < fieldAt bytes 18 2
  | .ringWindow => ringBase % 32 ≠ 0 ∨ unplaced bytes ringBase ringBytes ∨
      crosses ringBase ringBytes s.link.area.toNat 8192 ∨ crosses ringBase ringBytes bookBase bookBytes
  | .none | .ok | .fatal => False

/-- R11, 01 section 1.2: the window k (1 to 3) that a header brings into force. -/
def windowInForce (bytes : Vector Byte 80) (k : Nat) : Option Window :=
  let base := BitVec.ofNat 64 (headerWindow bytes k).1
  let pages := BitVec.ofNat 32 (headerWindow bytes k).2.1
  match (headerWindow bytes k).2.2 with
  | 1 => some { base := base, pages := pages, permission := .read }
  | 2 => some { base := base, pages := pages, permission := .write }
  | 3 => some { base := base, pages := pages, permission := .readWrite }
  | _ => none

/-- R66, R67: the catch-up finds nothing to do on a timeline: its head, if there is one, starts after the current minute or
is on air short of its final end, and short of its booked end while ACTIVE. -/
def caughtUpAt (d : Fin 64) (s : State) : Prop :=
  ∀ n : Fin 1024, s.store.timelines[d].head? = some n →
    (s.store.slots[n].state = .accepted ∧ s.clock.minute.toNat < s.store.slots[n].start) ∨
    (s.store.slots[n].state = .active ∧ s.clock.minute.toNat < bookedEnd s.store.slots[n]) ∨
    (s.store.slots[n].state = .overrun ∧ s.clock.minute.toNat < finalEnd s.store.slots[n])

/-- R66, R67: the catch-up finds nothing to do. -/
def caughtUp (s : State) : Prop := ∀ d : Fin 64, caughtUpAt d s

/-! ### The clock -/

/-- R39, R40: the clock becomes c, in which a reference state has changed: CLOCK is latched, and item 48 takes the number of
references lost as its severity. -/
def withReference (c : Clock) (s : State) : State :=
  let severity : Fin 4 := (if c.secref = .freeRun then 1 else 0) + (if c.frameref = .lost then 1 else 0)
  let item : AlarmItem := { severity := severity, acked := min s.alarm.items[48].acked severity }
  withAlarm { s.alarm with items := s.alarm.items.set 48 item } (withLatched .clock { s with clock := c })

/-- R33: a pulse at `instant` comes 0.999 s to 1.001 s after the last pulse of the relock run, in nanoseconds (log 4). -/
def relockGap (r : Relock) (instant : Nat) : Prop := r.last + 999000000 ≤ instant ∧ instant ≤ r.last + 1001000000

/-- R32, R33: the command c makes a second tick at s, and w is s with the clock as the pulse, the expiry or the schedule
leaves it, before the tick is handed out. -/
def tickBy (c : Instr) (s w : State) : Prop :=
  (∃ instant order, c = .secrefPulse instant order ∧ s.clock.secref = .locked ∧
    w = { s with clock := { s.clock with lastTick := some instant } }) ∨
  (∃ instant order, c = .secrefPulse instant order ∧ s.clock.secref = .freeRun ∧ s.clock.relock.count = 2 ∧
    relockGap s.clock.relock instant ∧
    w = withReference { s.clock with
      secref := .locked
      nextOwn := none
      lastTick := some instant
      relock := { count := 0, last := instant } } s) ∨
  (∃ order due, c = .ownTick order ∧ s.clock.secref = .freeRun ∧ s.clock.nextOwn = some due ∧
    w = { s with clock := { s.clock with nextOwn := some (due + 1000000000) } }) ∨
  ∃ order last, c = .secrefTimeout order ∧ s.clock.secref = .locked ∧ s.clock.lastTick = some last ∧
    w = withReference { s.clock with
      secref := .freeRun
      lastTick := none
      nextOwn := some (last + 1500000000 + 1000000000)
      relock := { count := 0, last := 0 } } s

/-- R35: the clock once a tick of the second it holds has been handed out. At second 59 the boundary follows (log 5). -/
def clockTicked (c : Clock) : Clock :=
  if c.second < 59 then { c with second := c.second + 1 } else { c with rollover := .tickFirst (c.minute + 1) false }

/-- R79: the row of a delivery port after a tick, but for what a switch point of the same tick selects (R78). -/
def rowTicked (owned : Bool) (r q : Row) : Prop :=
  q.last = r.current ∧ q.changed = false ∧ q.owned = owned ∧
  q.unbooked =
    if r.owned = false ∧ r.current ≠ .black ∧ r.changed = false then min 4294967295 (r.unbooked + 1) else r.unbooked

/-- R140, R142, R143: a counted second of slot b adds to its meter: m becomes x. `minute` and `table` are those of the
second, and `bad` says that the port that carried it classed it SEVERE or DARK. -/
def secondCounted (b : Slot) (minute : Nat) (table : Tariff) (number : BitVec 32) (bad : Bool) (m x : Meter) : Prop :=
  let band := table.bands[Fin.ofNat 168 (minute / 60 % 168)]
  let booked := decide (minute < bookedEnd b)
  let overrun := decide (bookedEnd b ≤ minute ∧ minute < finalEnd b)
  let excess := bad && decide (table.classes[b.cls].allowance ≤ m.allowanceUsed) && (booked || overrun)
  x.booked = (if booked then bandAdd band m.booked else m.booked) ∧
  x.overrun = (if overrun then bandAdd band m.overrun else m.overrun) ∧
  x.held = (if finalEnd b ≤ minute then min 4294967295 (m.held + 1) else m.held) ∧
  x.outage = (if bad then min 4294967295 (m.outage + 1) else m.outage) ∧
  x.allowanceUsed =
    (if bad = true ∧ m.allowanceUsed < table.classes[b.cls].allowance then m.allowanceUsed + 1 else m.allowanceUsed) ∧
  x.excess = (if excess then bandAdd band m.excess else m.excess) ∧
  x.startBand = m.startBand ∧ x.firstCounted = m.firstCounted ∧ x.lastTable = some number

/-- R107, R108: the row r of a port that booking b owns once the rule in its later form has been applied with the healths
given: a chosen leg that is not the intended one is requested with cause PROTECTION. -/
def protectedRow (b : Slot) (health : Fin 48 → Health) (r : Row) : Row :=
  let chosen := chooseLater b health (intended r)
  if chosen = intended r then r
  else { r with pending := if chosen = r.current then none else some { target := chosen, cause := .protection } }

/-- R110: the row r of a port that booking b owns once the health of each of `ports` has changed, one after another, from what
`old` gives to what `new` gives. -/
def healthsTold (b : Slot) (old new : Fin 48 → Health) (ports : List (Fin 48)) (r : Row) : Row :=
  match ports with
  | [] => r
  | p :: rest =>
    let now := fun q => if q = p then new p else old q
    healthsTold b now new rest (protectedRow b now r)

/-- R76: the row r with its pending selection, if it holds one, carried out. -/
def selectionTaken (r : Row) : Row := { r with current := intended r, pending := none }

/-- R76, R107 to R111: what becomes of the source and the pending selection of port d from u to t, where every block takes its
tick at most once; `switched`: the crosspoint has taken a switch point among them. On a port with no owner nothing else moves
them. On an owned one the rule is applied at each health change of a leg, before the switch point or after it, and at the
execution, and where no leg changes its health and nothing is executed both stand. -/
def selectionMoved (switched : Bool) (d : Fin 64) (u t : State) : Prop :=
  let r := u.rows[d]
  let old := fun p : Fin 48 => u.monitors[p].health
  let new := fun p : Fin 48 => t.monitors[p].health
  let moved (q : Row) := t.rows[d].current = q.current ∧ t.rows[d].pending = q.pending
  (ownerOf d u = none → moved (if switched then selectionTaken r else r)) ∧
  ∀ n, ownerOf d u = some n →
    let b := u.store.slots[n]
    ∃ first later : List (Fin 48), (first ++ later).Nodup ∧
      (∀ p, p ∈ first ++ later ↔ isLeg b p = true ∧ new p ≠ old p) ∧
      let half := fun p => if p ∈ first then new p else old p
      let met := healthsTold b old new first r
      moved (healthsTold b half new later
        (if switched = true ∧ met.pending.isSome = true then protectedRow b half (selectionTaken met) else met))

/-- R78: a tick that the crosspoint takes is a switch point while FRAMEREF is LOST. -/
def tickSwitches (s : State) : Bool := decide (s.clock.frameref = .lost)

/-- R76, R78, R79: the crosspoint has taken a tick: from u to t. While FRAMEREF is PRESENT every current source stands, and
pending selections change by protection alone. While it is LOST the tick is a switch point too. -/
def crosspointTook (u t : State) : Prop :=
  ∀ d : Fin 64, rowTicked (ownerOf d u).isSome u.rows[d] t.rows[d] ∧
    (u.clock.frameref = .present → t.rows[d].current = u.rows[d].current) ∧
    (timelinesLawful u → selectionMoved (tickSwitches u) d u t)

/-- The crosspoint has taken no tick from u to t: nothing but pending selections changes, and those by protection alone. -/
def crosspointHeld (u t : State) : Prop :=
  ∀ d : Fin 64, t.rows[d] = { u.rows[d] with pending := t.rows[d].pending } ∧
    (timelinesLawful u → selectionMoved false d u t)

/-- R94, R76: from u to t the health of some port has changed, or the crosspoint, which takes a tick from u to t where
`crosspoint` says so, has executed a selection at it. -/
def changeMade (crosspoint : Bool) (u t : State) : Prop :=
  (∃ p : Fin 48, t.monitors[p].health ≠ u.monitors[p].health) ∨
    crosspoint = true ∧ tickSwitches u = true ∧ ∃ d : Fin 64, u.rows[d].pending.isSome = true

/-- R119, R122: b is the alarm state a with every source item derived from s, and nothing else changed: its severity, and an
acknowledged level above it lowered to it. -/
def derivedFrom (s : State) (a b : Alarm) : Prop :=
  b = { a with items := b.items } ∧
  ∀ i : Fin 51, (48 ≤ i.val → b.items[i] = a.items[i]) ∧ ∀ p : Fin 48, p.val = i.val →
    b.items[i] = { severity := sourceSeverity p s, acked := min a.items[i].acked (sourceSeverity p s) }

/-- R119, R122, R130, R172: the alarm items, the flags and the link traffic after ticks, from u to t. With no change of R94 or
R77 made by them all stand. With one the source items follow, and ALARM follows them; no other flag moves, and nothing but the
interrupt message goes out, and that only where no other flag is set. Where the items were those of the healths and rows, an
acknowledged level is lowered only to the severity. -/
def alarmsFollowed (crosspoint : Bool) (u t : State) : Prop :=
  (¬changeMade crosspoint u t → t.alarm = u.alarm ∧ t.link.flags = u.link.flags ∧ t.link.log = u.link.log) ∧
  (changeMade crosspoint u t → sourceItemsFollow t ∧ t.link.flags = withAlarmLevel u.link.flags (alarmLevel t)) ∧
  (∀ i : Fin 51, (48 ≤ i.val → t.alarm.items[i] = u.alarm.items[i]) ∧ t.alarm.items[i].acked ≤ u.alarm.items[i].acked ∧
    (sourceItemsFollow u → acksBounded u →
      t.alarm.items[i].acked = min u.alarm.items[i].acked t.alarm.items[i].severity)) ∧
  (u.link.flags &&& ~~~flagBit .alarm ≠ 0 → t.link.log = u.link.log) ∧
  ∃ n, t.link.log = u.link.log ++ List.replicate n .message

/-- 12 section 12.5: the 16 bytes of delivery port d: current source, pending target and cause, carrier leg, owning booking,
unbooked seconds. -/
def portBytes (d : Fin 64) (s : State) : List Byte :=
  let r := s.rows[d]
  le 1 (sourceCode r.current) ++
    (match r.pending with
      | none => [254, 0]
      | some x => le 1 (sourceCode x.target) ++ le 1 (causeCode x.cause)) ++
    (match ownerOf d s with
      | none => [0, 255, 255]
      | some n =>
        let b := s.store.slots[n]
        [if r.current = .port b.primary then 1 else if b.backup.map Source.port = some r.current then 2 else 3] ++
          le 2 n.val) ++
    zeros 2 ++ le 4 r.unbooked ++ zeros 4

/-- 12 section 12.5: bytes 4 to 63 of a page: the part as a whole, with the minute and the second count that the clock left at
the tick (R168). -/
def wholeBytes (time : Stamp) (s : State) : List Byte :=
  le 4 time.minute ++ le 1 time.second ++ le 1 (runStateCode s.link.run) ++
    [if s.clock.secref = .locked then 1 else 0, if s.clock.frameref = .present then 1 else 0] ++
    le 1 (tariffStateCode s.tariffs) ++ [if s.tickets.blocked then 1 else 0] ++ zeros 2 ++
    le 2 s.tickets.writePosition ++ zeros 2 ++ le 4 s.tickets.lost.toNat ++ zeros 40

/-- R59: what an EXTEND of slot n by k minutes grants, where `after` are the members of its timeline behind it: the smallest of
the minutes asked, 240 less the extension, and the gap before the next member. -/
def extensionGrant (n : Fin 1024) (k : Nat) (after : List (Fin 1024)) (s : State) : Nat :=
  let b := s.store.slots[n]
  let gap := match after with
    | j :: _ => s.store.slots[j].start - finalEnd b
    | [] => 4294967295 - finalEnd b
  min k (min (240 - b.extension) gap)

/-- R59: the part with the extension of slot n raised. -/
def extended (n : Fin 1024) (grant : Nat) (s : State) : State :=
  let b := s.store.slots[n]
  { s with store := { s.store with slots := s.store.slots.set n { b with extension := b.extension + grant } } }

/-- R15: of the writes `ws` the first n have gone out, and the announced fault falls on the next (log 11). -/
def cutAt (n : Nat) (ws : List HostWrite) (s : State) : State :=
  { s with link := { s.link with
    gate := .open
    log := s.link.log ++ (ws.take n).map .write } }

/-- R167, R168, 12 section 12.5: the writes of page `count`, begun at the tick at which the clock left `time`, of the part as it
stands in s: the start count at offset 0, the body as one snapshot, and the end count at offset 4092. Five writes for the body
are the model's (log 13). -/
def pageOf (count : BitVec 32) (time : Stamp) (s : State) : List HostWrite :=
  [writeAt (s.link.area + 4096) (le 4 count.toNat),
   writeAt (s.link.area + 4100) (wholeBytes time s),
   writeAt (s.link.area + 4160) ((List.finRange 64).flatMap fun d => portBytes d s),
   writeAt (s.link.area + 5184) ((List.finRange 48).flatMap fun p =>
     le 1 (healthCode s.monitors[p].health) ++ le 1 (classCode s.monitors[p].lastClass) ++ zeros 2),
   writeAt (s.link.area + 5376) ((List.finRange 51).flatMap fun i =>
     le 1 s.alarm.items[i].severity.val ++ le 1 s.alarm.items[i].acked.val),
   writeAt (s.link.area + 5478) (zeros 2710),
   writeAt (s.link.area + 8188) (le 4 count.toNat)]

/-- R166: no page is begun from s to t. -/
def pageKept (s t : State) : Prop := t.link.page = s.link.page ∧ t.link.pageCount = s.link.pageCount

/-- R165: from s to t the page due marks stand. -/
def marksKept (s t : State) : Prop := t.link.pageDue = s.link.pageDue ∧ t.link.pageNext = s.link.pageNext

/-- R166, R167: from s to t the page logic has taken a tick at which a page is due and the clock left `time`. One is begun,
with the state as t has it, where the part is RUNNING or HELD without a fatal code and no page is in flight; with one in flight
the mark stands for a later tick; elsewhere the mark keeps its value. A mark that a FRAMEREF pulse had set for the tick after
this one stands. `more`: it has taken a later minute boundary with it, which finds the page in flight and sets the mark. -/
def pageTaken (time : Stamp) (more : Bool) (s t : State) : Prop :=
  let open_ := s.link.run ≠ .dormant ∧ s.link.fatal = .none
  t.link.pageNext = false ∧
  (open_ → s.link.page = none →
    t.link.pageCount = s.link.pageCount + 1 ∧ t.link.page = some (pageOf (s.link.pageCount + 1) time t) ∧
    t.link.pageDue = (s.link.pageNext || more)) ∧
  (open_ → s.link.page ≠ none → pageKept s t ∧ t.link.pageDue = true) ∧
  (¬open_ → pageKept s t ∧ t.link.pageDue = (s.link.pageDue || s.link.pageNext))

/-- s, but for what the page logic does at a tick: the page, its count, the marks and the ticks it owes are those of t. -/
def withPage (t s : State) : State :=
  { s with link := { s.link with
      page := t.link.page
      pageCount := t.link.pageCount
      pageDue := t.link.pageDue
      pageNext := t.link.pageNext
      pageTicks := t.link.pageTicks } }

/-- R165: s with the page due mark set. -/
def withMark (s : State) : State := { s with link := { s.link with pageDue := true } }

/-- R166: s with a mark that a FRAMEREF pulse has set for the tick after an earlier one standing for the tick to be taken. Where
the crosspoint has taken that tick ahead, it is left for the tick after (log 5). -/
def withNextMark (s : State) : State :=
  if s.crosspointAhead then s
  else { s with link := { s.link with
    pageDue := s.link.pageDue || s.link.pageNext
    pageNext := false } }

/-- R166: from s to t the page logic, which owes the ticks of boundaries given, has taken those whose boundary the other blocks
have taken whole, in order: the first begins a page, if one may be begun, and the others find it in flight and set the mark.
With none of them the page and the marks stand. -/
def owedPaged (owed : List OwedTick) (s t : State) : Prop :=
  let taken := owed.takeWhile (pageReady t)
  t.link.pageTicks = owed.dropWhile (pageReady t) ∧ (taken = [] → pageKept s t ∧ marksKept s t) ∧
  ∀ e later, taken = e :: later → pageTaken e.time (!later.isEmpty) s t

/-- R166, R168: from s to t a boundary into `minute` has been taken after its tick. The page logic takes the tick once the
boundary's closes, tickets and re-check are through, behind the ticks it owed before, and its page shows second 0 of that
minute. -/
def boundaryPaged (minute : BitVec 32) (s t : State) : Prop :=
  owedPaged (s.link.pageTicks ++ [tickOwed { minute := minute.toNat, second := 0 } t]) s t

/-- R165, R166: from u to t the page logic has taken a tick of the second u holds. A page is due where the mark is set: before
the tick, or by a health change or an execution made in the taking of it. A tick that ends a minute waits for its boundary. Any
other begins its page, also while the tick of a boundary is owed, which it leaves owed (log 5). -/
def tickPaged (u t : State) : Prop :=
  let v := withNextMark u
  let changed := changeMade (!u.crosspointAhead) u t
  let due := v.link.pageDue = true ∨ changed
  t.link.pageTicks = u.link.pageTicks ∧
  (u.clock.second = 59 → pageKept u t ∧ (changed → marksKept (withMark u) t) ∧ (¬changed → marksKept u t)) ∧
  (u.clock.second < 59 →
    (due → pageTaken { minute := u.clock.minute.toNat, second := u.clock.second + 1 } false (withMark v) t) ∧
    (¬due → pageKept u t ∧ t.link.pageDue = v.link.pageNext ∧ t.link.pageNext = false))

/-- R84, R86: the line monitors have taken the tick, those that took it ahead of the others excepted (log 8). -/
def monitorsTook (u t : State) : Prop :=
  ∀ p : Fin 48, t.monitors[p] = if u.monitors[p].tookTick then { u.monitors[p] with tookTick := false }
    else monitorAtTick u.monitors[p]

/-- What a second tick leaves alone from u to t: the bookings, accounts, tickets and orders, the link registers, host memory,
and of the alarm ranking unit all but the source items. -/
def tickLeaves (u t : State) : Prop :=
  t = { withPage t u with
    clock := t.clock
    store := { u.store with holds := u.store.holds.map fun h => { h with counted := true } }
    rows := t.rows
    crosspointAhead := t.crosspointAhead
    monitors := t.monitors
    tariffs := t.tariffs
    alarm := { u.alarm with items := t.alarm.items }
    link := { (withPage t u).link with
      flags := t.link.flags
      log := t.link.log } } ∧
  hostWrites t = hostWrites u ∧ alarmsFollowed (!u.crosspointAhead) u t

/-- R140, R141: slot n counts the second numbered `second` of `minute`: it is on air, its close has not had its last second
counted or gone on to rating, and its first counted second is not later. -/
def countsAt (n : Fin 1024) (minute second : Nat) (u : State) : Prop :=
  slotOnAir u.store.slots[n] = true ∧ countedHold n u = false ∧ n ∉ ratedSlots u ∧
  ∃ f, u.tariffs.meters[n].firstCounted = some f ∧ (f.minute < minute ∨ f.minute = minute ∧ f.second ≤ second)

/-- R143: the source that carried a second to slot b, as t records it, is a leg whose port classed the second SEVERE or
DARK. -/
def badSecondOf (b : Slot) (t : State) : Prop :=
  ∃ p, t.rows[b.port].last = .port p ∧ isLeg b p = true ∧ badClass t.monitors[p].lastClass = true

/-- R34, R79, R84, R140: the tick of the running second has been taken: from u, with the references as they are after the
pulse or expiry, to t. The clock, the monitors, the rows and the meters move on, and a page is begun where one is due. -/
def tickTaken (u t : State) : Prop :=
  t.clock = clockTicked u.clock ∧ tickLeaves u t ∧ monitorsTook u t ∧ t.crosspointAhead = false ∧
  (u.crosspointAhead = false → crosspointTook u t) ∧ (u.crosspointAhead = true → crosspointHeld u t) ∧
  tickPaged u t ∧
  t.tariffs.current = u.tariffs.current ∧ t.tariffs.staged = u.tariffs.staged ∧
  t.tariffs.retired = u.tariffs.retired ∧ t.tariffs.number = u.tariffs.number ∧
  ∀ n : Fin 1024, ∀ table, u.tariffs.current = some table →
    (countsAt n u.clock.minute.toNat u.clock.second u → ∃ bad : Bool,
      secondCounted u.store.slots[n] u.clock.minute.toNat table u.tariffs.number bad u.tariffs.meters[n]
        t.tariffs.meters[n] ∧ (bad = true ↔ badSecondOf u.store.slots[n] t)) ∧
    (¬countsAt n u.clock.minute.toNat u.clock.second u → t.tariffs.meters[n] = u.tariffs.meters[n])

/-- R34: blocks of `early` have taken the tick of second 59 ahead of the others: from u to t (log 5, log 8). -/
def earlyTicksTaken (early : TickOrder) (u t : State) : Prop :=
  let crosspoint := !u.crosspointAhead && decide (48 ∈ early)
  t = { u with
    rows := t.rows
    crosspointAhead := u.crosspointAhead || decide (48 ∈ early)
    monitors := t.monitors
    alarm := { u.alarm with items := t.alarm.items }
    link := { u.link with
      flags := t.link.flags
      log := t.link.log
      pageDue := t.link.pageDue } } ∧
  hostWrites t = hostWrites u ∧ alarmsFollowed crosspoint u t ∧
  (changeMade crosspoint u t → t.link.pageDue = true) ∧ (¬changeMade crosspoint u t → t.link.pageDue = u.link.pageDue) ∧
  (∀ p : Fin 48, t.monitors[p] =
    if u.monitors[p].tookTick = false ∧ p.castLE (by decide) ∈ early then
      { monitorAtTick u.monitors[p] with tookTick := true } else u.monitors[p]) ∧
  (crosspoint = true → crosspointTook u t) ∧ (crosspoint = false → crosspointHeld u t)

/-- R136: the meter and tariff unit has taken a boundary, from s to t: a staged table is the current one. -/
def tariffSwapped (s t : State) : Prop :=
  (∀ table, s.tariffs.staged = some table → t.tariffs = { s.tariffs with
    current := some table
    staged := none
    retired := s.tariffs.current
    number := s.tariffs.number + 1
    meters := t.tariffs.meters }) ∧
  (s.tariffs.staged = none → t.tariffs = { s.tariffs with meters := t.tariffs.meters })

/-- R145: the band of a booking's activation minute in the table current in t. -/
def activationBandOf (b : Slot) (t : State) : Option Band :=
  b.activation.bind fun minute => t.tariffs.current.map fun x => x.bands[Fin.ofNat 168 (minute / 60 % 168)]

/-- R145: the meter m of slot b, with the start band it takes where it has none yet: that of the table current in t. -/
def withStartBand (b : Slot) (m : Meter) (t : State) : Meter := { m with startBand := m.startBand.or (activationBandOf b t) }

/-- R145: the meter m of slot b once the unit has taken a boundary. -/
def bandSet (b : Slot) (m : Meter) (t : State) : Meter := if slotOnAir b then withStartBand b m t else m

/-- R53: something is due on a timeline at the boundary into `minute`: its head closes, enters OVERRUN or activates. -/
def dueAt (minute : Nat) (d : Fin 64) (s : State) : Prop :=
  ∃ n, s.store.timelines[d].head? = some n ∧
    let b := s.store.slots[n]
    (slotOnAir b = true ∧ finalEnd b = minute ∨ b.state = .active ∧ bookedEnd b = minute ∧ 0 < b.extension ∨
      b.state = .accepted ∧ b.start = minute)

/-- R163: a re-check of the ring is made at a boundary in RUNNING, and in HELD without a fatal code. -/
def recheckDue (s : State) : Prop := s.link.run ≠ .dormant ∧ s.link.fatal = .none

/-- R163: the read of the state byte of the slot at the write position stands in the link traffic that follows that of s. -/
def slotRead (s t : State) : Prop :=
  ∀ ring, s.tickets.ring = some ring → ∃ l l', t.link.log =
    s.link.log ++ l ++ .read (ring.base + BitVec.ofNat 64 (32 * s.tickets.writePosition)) 1 :: l'

/-- R163: the ticket state after the re-check of a boundary at which no booking closes, and after which the store makes the
record writes `ws`. It is made before the work (`after` 0) or after it, and a re-check waits for the closes still held. A ring
that is not blocked is not read, and an access in flight comes first. -/
def rechecked (after : Nat) (ws : List HostWrite) (s t : State) : Prop :=
  let held := after ≠ 0 ∧ s.store.holds ≠ []
  let kept := { s.tickets with recheckIn := if held then some after else none }
  (¬recheckDue s → s.tickets.recheckIn = none → t.tickets = s.tickets ∧ hostWrites t = hostWrites s) ∧
  (recheckDue s → s.tickets.inFlight = none → s.tickets.waiting = [] →
    (s.tickets.blocked = false ∨ held → t.tickets = kept ∧ hostWrites t = hostWrites s ++ ws) ∧
    (s.tickets.blocked = true → ¬held → after = 0 → slotRead s t ∧ hostWrites t = hostWrites s ∧
      t.tickets = { kept with
        inFlight := some .recheck
        waiting := ws.map Access.write }) ∧
    (s.tickets.blocked = true → ¬held → after ≠ 0 → slotRead s t ∧ hostWrites t = hostWrites s ++ ws ∧
      t.tickets = { kept with inFlight := some .recheck })) ∧
  (recheckDue s → ∀ a, s.tickets.inFlight = some a → hostWrites t = hostWrites s ∧ t.tickets = { kept with
    waiting := s.tickets.waiting ++ (if after = 0 then [.recheck] else []) ++ ws.map Access.write ++
      (if after = 0 ∨ held then [] else [.recheck]) })

/-- A write of `bytes` at an offset of booking record n (R47). -/
def recordWrite (s : State) (n : Fin 1024) (offset : Nat) (bytes : List Byte) : HostWrite :=
  writeAt (s.store.bookBase + BitVec.ofNat 64 (64 * n.val) + BitVec.ofNat 64 offset) bytes

/-- R94, R110, R119: from s to t the health of port p has changed and been handed on. Protection has lodged its requests on
the ports that a booking with p as a leg owns, every source item is derived anew, the page due mark is set, and nothing else
but the monitors changes. -/
def healthHanded (p : Fin 48) (s t : State) : Prop :=
  t = withAlarm t.alarm { s with
    monitors := t.monitors
    rows := t.rows
    link := { s.link with pageDue := true } } ∧
  derivedFrom t s.alarm t.alarm ∧
  (timelinesLawful s → ∀ d : Fin 64,
    (∀ n, ownerOf d s = some n → isLeg s.store.slots[n] p = true →
      t.rows[d] = protectedRow s.store.slots[n] (fun q => t.monitors[q].health) s.rows[d]) ∧
    ((∀ n, ownerOf d s = some n → isLeg s.store.slots[n] p = false) → t.rows[d] = s.rows[d]))

/-! ### BOOK, LOAD TARIFF and SET PORT -/

/-- 12 section 12.2: the fields of a booking record that BOOK uses. -/
def recordPort (bytes : Vector Byte 20) : Nat := fieldAt bytes 7 1
def recordPrimary (bytes : Vector Byte 20) : Nat := fieldAt bytes 8 1
def recordBackup (bytes : Vector Byte 20) : Nat := fieldAt bytes 9 1
def recordDuration (bytes : Vector Byte 20) : Nat := fieldAt bytes 10 2
def recordStart (bytes : Vector Byte 20) : Nat := fieldAt bytes 12 4
def recordMatch (bytes : Vector Byte 20) : Nat := fieldAt bytes 4 2
def recordHasBackup (bytes : Vector Byte 20) : Bool := fieldAt bytes 3 1 % 2 == 1
def recordRevertive (bytes : Vector Byte 20) : Bool := fieldAt bytes 3 1 / 2 % 2 == 1

/-- R50: the checks of BOOK in their order. -/
def bookOrderOfChecks : List OutcomeCode :=
  [.noTariff, .badClass, .badPort, .sameLegs, .portOut, .badDuration, .late, .range, .conflict, .noAccount]

/-- R46: the interval that a record asks for overlaps that of slot b. -/
def recordCrosses (bytes : Vector Byte 20) (b : Slot) : Prop :=
  recordStart bytes < finalEnd b ∧ b.start < recordStart bytes + recordDuration bytes

/-- R50: the check of BOOK that refuses with `code` fails on a record. -/
def bookFails (bytes : Vector Byte 20) (s : State) (code : OutcomeCode) : Prop :=
  let now := s.clock.minute.toNat
  match code with
  | .noTariff => s.tariffs.current = none
  | .badClass => 3 < fieldAt bytes 2 1
  | .badPort => 63 < recordPort bytes ∨ 47 < recordPrimary bytes ∨
      recordHasBackup bytes = true ∧ 47 < recordBackup bytes
  | .sameLegs => recordHasBackup bytes = true ∧ recordBackup bytes = recordPrimary bytes
  | .portOut => ∃ p : Fin 48, (p.val = recordPrimary bytes ∨ recordHasBackup bytes = true ∧ p.val = recordBackup bytes) ∧
      s.monitors[p].health = .outOfService
  | .badDuration => recordDuration bytes = 0 ∨ 720 < recordDuration bytes
  | .late => recordStart bytes ≤ now
  | .range => now + 1048576 < recordStart bytes ∨ 4294967295 < recordStart bytes + recordDuration bytes
  | .conflict => ∃ d : Fin 64, d.val = recordPort bytes ∧
      ∃ k ∈ s.store.timelines[d], recordCrosses bytes s.store.slots[k]
  | .noAccount => recordMatch bytes = 0 ∨ accountOf (recordMatch bytes) s = none ∧ freeAccount s = none
  | .ok | .clamped | .notReady | .badOrder | .badNumber | .notFree | .badState | .extendLimit | .owned | .noBackup
  | .inUse | .window | .segment | .noMatch | .openBookings | .ringFull | .bookingsExist => False

/-- R51: slot b holds what BOOK fills it with from a record. -/
def slotFilled (bytes : Vector Byte 20) (b : Slot) : Prop :=
  b.state = .accepted ∧ b.port.val = recordPort bytes ∧ b.primary.val = recordPrimary bytes ∧
  b.backup.map (·.val) = (if recordHasBackup bytes then some (recordBackup bytes) else none) ∧
  b.cls.val = fieldAt bytes 2 1 ∧ b.matchNumber = recordMatch bytes ∧ b.client.toNat = fieldAt bytes 6 1 ∧
  b.hostReference.toNat = fieldAt bytes 16 4 ∧ b.start = recordStart bytes ∧ b.duration = recordDuration bytes ∧
  b.extension = 0 ∧ b.activation = none ∧
  b.legMode = (if recordRevertive bytes then .autoRevertive else .autoHold)

/-- R48: the writes of a refused BOOK. -/
def refusedRecord (s : State) (n : Fin 1024) (code : OutcomeCode) : List HostWrite :=
  [recordWrite s n 1 (le 1 (outcomeCode code)), recordWrite s n 0 [3]]

/-- R48: the writes of an accepted BOOK, one for each field (log 29). -/
def acceptedRecord (s : State) (n : Fin 1024) : List HostWrite :=
  [recordWrite s n 20 (zeros 4), recordWrite s n 24 (zeros 4), recordWrite s n 28 (zeros 2), recordWrite s n 32 (zeros 4),
   recordWrite s n 36 (zeros 4), recordWrite s n 40 (zeros 4), recordWrite s n 44 (zeros 4), recordWrite s n 48 (zeros 4),
   recordWrite s n 52 (zeros 4), recordWrite s n 1 [0], recordWrite s n 0 [2]]

/-- R47 to R51, R45, R154: what BOOK makes of the record it has read for slot n, inside the part and before any of its writes:
from s to u, with no access in flight. It ends in the outcome `code` with its result, and writes `ws` into the record. -/
def bookWorked (bytes : Vector Byte 20) (n : Fin 1024) (s : State) (code : OutcomeCode) (result : List Byte)
    (ws : List HostWrite) (u : State) : Prop :=
  let idle : State := { s with tickets := { s.tickets with inFlight := none } }
  (fieldAt bytes 0 1 ≠ 1 → code = .badState ∧ result = [] ∧ ws = [] ∧ u = idle) ∧
  (fieldAt bytes 0 1 = 1 → ∀ earlier c later, bookOrderOfChecks = earlier ++ c :: later →
    (∀ x ∈ earlier, ¬bookFails bytes s x) → bookFails bytes s c →
    code = c ∧ ws = refusedRecord s n c ∧ u = idle ∧ (c ≠ .conflict → result = []) ∧
    (c = .conflict → ∃ (d : Fin 64) (before : List (Fin 1024)) (k : Fin 1024) (after : List (Fin 1024)),
      d.val = recordPort bytes ∧ s.store.timelines[d] = before ++ k :: after ∧ recordCrosses bytes s.store.slots[k] ∧
      (∀ j ∈ before, ¬recordCrosses bytes s.store.slots[j]) ∧ result = zeros 16 ++ le 4 k.val)) ∧
  (fieldAt bytes 0 1 = 1 → (∀ x ∈ bookOrderOfChecks, ¬bookFails bytes s x) →
    ∃ (b : Slot) (before after : List (Fin 1024)), slotFilled bytes b ∧
      s.store.timelines[b.port] = before ++ after ∧
      (∀ k ∈ before, u.store.slots[k].start ≤ b.start) ∧ (∀ k, after.head? = some k → b.start < u.store.slots[k].start) ∧
      (∀ k, accountOf b.matchNumber s = some k →
        u.accounts = s.accounts.set k { s.accounts[k] with openCount := s.accounts[k].openCount + 1 }) ∧
      (accountOf b.matchNumber s = none → ∀ k, freeAccount s = some k → u.accounts = s.accounts.set k
        { isOpen := true, matchNumber := b.matchNumber, openCount := 1, closedCount := 0, chargeTotal := 0,
          outageTotal := 0, unwritten := 0 }) ∧
      u = { idle with
        store := { s.store with
          slots := s.store.slots.set n b
          timelines := s.store.timelines.set b.port (before ++ n :: after) }
        accounts := u.accounts
        tariffs := { s.tariffs with meters := s.tariffs.meters.set n Meter.cleared } } ∧
      code = .ok ∧ result = le 4 n.val ++ le 4 b.start ++ le 4 (b.start + b.duration) ∧ ws = acceptedRecord s n)

/-- R133: the 240 bytes from address a on lie in one of windows 0 to 3 that may be read. -/
def segmentPlaced (s : State) (a : Nat) : Prop :=
  s.link.area.toNat ≤ a ∧ a + 240 ≤ s.link.area.toNat + 8192 ∨
  ∃ (k : Fin 3) (w : Window), s.link.windows[k] = some w ∧ w.permission ≠ .write ∧
    w.base.toNat ≤ a ∧ a + 240 ≤ w.base.toNat + w.pages.toNat * 4096

/-- R134: the offsets of the fields of a segment in the order of their checks. -/
def segmentOffsets : List Nat :=
  [2, 0, 1] ++ (List.range 168).map (fun h => 8 + h) ++
    (List.range 4).flatMap fun c => [182 + 16 * c, 183 + 16 * c, 184 + 16 * c, 186 + 16 * c, 188 + 16 * c]

/-- R134: the field of a segment at an offset fails its check. -/
def segmentFails (bytes : Vector Byte 240) (offset : Nat) : Prop :=
  offset = 2 ∧ fieldAt bytes 2 2 ≠ 240 ∨ offset = 0 ∧ fieldAt bytes 0 1 ≠ 1 ∨ offset = 1 ∧ fieldAt bytes 1 1 ≠ 1 ∨
  (8 ≤ offset ∧ offset ≤ 175 ∧ 2 < fieldAt bytes offset 1) ∨
  ∃ c, c < 4 ∧
    (offset = 182 + 16 * c ∧ (fieldAt bytes offset 1 < 8 ∨ 32 < fieldAt bytes offset 1) ∨
     offset = 183 + 16 * c ∧ 8 < fieldAt bytes offset 1 ∨
     offset = 184 + 16 * c ∧ 240 < fieldAt bytes offset 2 ∨
     offset = 186 + 16 * c ∧ 3600 < fieldAt bytes offset 2 ∨
     offset = 188 + 16 * c ∧ 1440 < fieldAt bytes offset 2)

/-- 12 section 12.6: table t holds what a segment carries. -/
def tableCarried (bytes : Vector Byte 240) (t : Tariff) : Prop :=
  (∀ h : Fin 168, fieldAt bytes (8 + h.val) 1 =
    match t.bands[h] with
    | .peak => 0
    | .standard => 1
    | .night => 2) ∧
  ∀ c : Fin 4, t.classes[c] =
    { rate := { peak := fieldAt bytes (176 + 16 * c.val) 2, standard := fieldAt bytes (178 + 16 * c.val) 2,
                night := fieldAt bytes (180 + 16 * c.val) 2 },
      multiplier := fieldAt bytes (182 + 16 * c.val) 1, rebate := fieldAt bytes (183 + 16 * c.val) 1,
      minimum := fieldAt bytes (184 + 16 * c.val) 2, allowance := fieldAt bytes (186 + 16 * c.val) 2,
      cutoff := fieldAt bytes (188 + 16 * c.val) 2 }

/-- R97, R98, R99: SET PORT makes x of the monitor m: its values brought into range, and the entry into service or the way out
of it. -/
def portSet (o : Order) (m x : Monitor) : Prop :=
  x.holdOff = min 10 o.c.toNat ∧ x.restoreTime = max 10 (min 600 (o.d.toNat % 2 ^ 32)) ∧
  x.severeThreshold = max 1 (min 65535 (o.d.toNat / 2 ^ 32)) ∧ x.fastDetect = decide (o.b.toNat / 256 % 256 ≠ 0) ∧
  x.inService = decide (o.b.toNat % 256 ≠ 0) ∧ x.light = m.light ∧ x.lock = m.lock ∧ x.tookTick = m.tookTick ∧
  (m.inService = false → x.inService = true → x.health = .ok ∧ x.badCount = 0 ∧ x.restoreTimer = 0 ∧
    x.erroredSeconds = 0 ∧ x.severeSeconds = 0 ∧ x.darkSeconds = 0 ∧ x.failures = 0 ∧ x.lastClass = .none ∧
    x.firstSecond = true ∧ x.seen = { lightLost := !m.light, lockLost := !m.lock, blocks := 0 }) ∧
  (m.inService = true → x.inService = false → x.health = .outOfService ∧ x.badCount = 0 ∧ x.restoreTimer = 0 ∧
    x.lastClass = .none ∧ x.firstSecond = false ∧ x.seen = { lightLost := false, lockLost := false, blocks := 0 } ∧
    x.erroredSeconds = m.erroredSeconds ∧ x.severeSeconds = m.severeSeconds ∧ x.darkSeconds = m.darkSeconds ∧
    x.failures = m.failures) ∧
  (m.inService = x.inService → x = { m with
    holdOff := x.holdOff
    restoreTime := x.restoreTime
    severeThreshold := x.severeThreshold
    fastDetect := x.fastDetect })

/-- R155: from s to t a close has been added to the account of its match: the closed count, the charge total and the outage
total. -/
def closeAdded (r : Raise) (s t : State) : Prop :=
  (∀ k, accountOf r.ticket.matchNumber s = some k → t.accounts = s.accounts.set k { s.accounts[k] with
    closedCount := min 4294967295 (s.accounts[k].closedCount + 1)
    chargeTotal := (s.accounts[k].chargeTotal + r.ticket.charge) % 2 ^ 40
    outageTotal := min 4294967295 (s.accounts[k].outageTotal + r.ticket.outage) }) ∧
  (accountOf r.ticket.matchNumber s = none → t.accounts = s.accounts)

/-- R155, R162: from s to t a close has come to its end at the account of its match: the open count has fallen, and a lost ticket
is counted. -/
def closeEnded (lost : Bool) (r : Raise) (s t : State) : Prop :=
  (∀ k, accountOf r.ticket.matchNumber s = some k → t.accounts = s.accounts.set k { s.accounts[k] with
    openCount := s.accounts[k].openCount - 1
    unwritten := if lost then min 65535 (s.accounts[k].unwritten + 1) else s.accounts[k].unwritten }) ∧
  (accountOf r.ticket.matchNumber s = none → t.accounts = s.accounts)

/-- R149, R155, R161: from s to t a close has been handed to the account and ticket unit, which adds it to the account. With no
access in flight the ticket takes the next number and the state byte of the slot at the write position is being read for it,
and otherwise the ticket waits its turn (log 9). -/
def raisingFrom (r : Raise) (s t : State) : Prop :=
  hostWrites t = hostWrites s ∧ closeAdded r s t ∧
  (s.tickets.inFlight = none →
    t.tickets = { s.tickets with
      number := s.tickets.number + 1
      inFlight := some (.raise r) } ∧ slotRead s t) ∧
  (s.tickets.inFlight ≠ none → t.tickets = { s.tickets with waiting := s.tickets.waiting ++ [.raise r] })

/-- R160: what the ticket of a close carries of its slot. -/
def ticketOf (b : Slot) (n : Fin 1024) (x : Ticket) : Prop :=
  x.cls = b.cls.val ∧ x.client = b.client ∧ x.matchNumber = b.matchNumber ∧ x.booking = n.val ∧
  x.hostReference = b.hostReference

/-- R149, R150, R160: the ticket x of the close of booking n on air, with its meter and its charge as they stand in s. -/
def onAirTicket (n : Fin 1024) (s : State) (x : Ticket) : Prop :=
  let b := s.store.slots[n]
  let m := s.tariffs.meters[n]
  ticketOf b n x ∧ x.kind = .booking ∧ x.minute = b.activation.getD 0 ∧ x.charged = chargedSeconds m ∧
  x.outage = m.outage ∧
  ∀ table, ratingTable m s.tariffs = some table → x.charge = rate table.classes[b.cls] (withStartBand b m s)

/-- R48: the record fields that follow the meter of booking n as it stands in s. -/
def meterFields (n : Fin 1024) (s : State) (r : Raise) : Prop :=
  let m := s.tariffs.meters[n]
  r.bookedSeconds = bandSum m.booked ∧ r.overrunSeconds = bandSum m.overrun ∧ r.outageSeconds = m.outage ∧
  r.heldSeconds = m.held

/-- R73, R57: the rows once port d has been asked for BLACK with cause CLOSE. -/
def blackAsked (d : Fin 64) (s : State) : Vector Row 64 :=
  s.rows.set d { s.rows[d] with
    pending := if s.rows[d].current = .black then none else some { target := .black, cause := .close } }

/-- R54, R73, R109: the row of a port once booking b has activated on it. -/
def rowActivated (b : Slot) (s : State) (r : Row) : Row :=
  let leg := chooseAtActivation b (fun p => s.monitors[p].health)
  { r with
    owned := true
    pending := if leg = r.current then none else some { target := leg, cause := .booking } }

/-- R56, R149, R155, R161, R163: the account and the ticket state after a boundary at which one booking closes, after its tick:
the close r is added to its account, its ticket is raised in its turn, and the record writes `ws` follow it. The re-check comes
before it (`after` 0), right behind it (1), or once the closes still held have been handed over too. -/
def closedAt (after : Nat) (r : Raise) (ws : List HostWrite) (s t : State) : Prop :=
  let held := 2 ≤ after ∧ s.store.holds ≠ []
  let kept := { s.tickets with recheckIn := if held then some (after - 1) else none }
  let behind := (if after = 1 then [Access.recheck] else []) ++ ws.map Access.write ++
    (if 2 ≤ after ∧ ¬held then [.recheck] else [])
  hostWrites t = hostWrites s ∧ closeAdded r s t ∧
  (s.tickets.inFlight = none → s.tickets.waiting = [] → slotRead s t ∧ t.tickets =
    if after = 0 ∧ s.tickets.blocked = true then { kept with
      inFlight := some .recheck
      waiting := .raise r :: behind }
    else { kept with
      number := s.tickets.number + 1
      inFlight := some (.raise r)
      waiting := behind }) ∧
  ∀ a, s.tickets.inFlight = some a → t.tickets = { kept with
    waiting := s.tickets.waiting ++ (if after = 0 then [.recheck] else []) ++ .raise r :: behind }

/-- R161: the part with the next ticket number taken. -/
def numbered (s : State) : State := { s with tickets := { s.tickets with number := s.tickets.number + 1 } }

/-- R48, R161: the writes of a close whose ticket has been raised: the ticket, unless it is lost, and the record. -/
def closeTraffic (lost : Bool) (r : Raise) (s : State) : List HostWrite :=
  (if lost then [] else ticketWrites r.ticket s) ++ closeWrites r s

/-- R161: the write position after a ticket has been written into a ring. -/
def positionAfter (ring : Ring) (s : State) : Nat :=
  if s.tickets.writePosition + 1 < ring.count then s.tickets.writePosition + 1 else 0

/-- R161, R162, R122, R130: what a ticket that has been written, or lost, leaves at the flags and the alarm ranking unit, from s
to u: TICKET or TICKET_LOST is latched if permitted, and a ring that is blocked or unblocked by it raises item 49 to 2 or lowers
it to 0. -/
def ticketTold (lost : Bool) (s u : State) : Prop :=
  let f : Flag := if lost then .ticketLost else .ticket
  let latched := s.link.flags ||| if permitted f s then flagBit f else 0
  let severity : Fin 4 := if lost then 2 else 0
  (s.tickets.blocked = lost → u.alarm = s.alarm ∧ u.link.flags = latched) ∧
  (s.tickets.blocked ≠ lost →
    u.alarm = { s.alarm with
      items := s.alarm.items.set 49 { severity := severity, acked := min s.alarm.items[49].acked severity } } ∧
    u.link.flags = withAlarmLevel latched (alarmLevel u))

/-- R157, R161: from s to u the MATCH_TOTAL ticket of account k has been written into the EMPTY slot and the account is FREE, and
nothing else has changed but the flags, item 49 and the link traffic. -/
def totalTaken (k : Fin 128) (minute : Nat) (ring : Ring) (s u : State) : Prop :=
  hostWrites u = hostWrites s ++ ticketWrites (totalTicket s.accounts[k] minute) (numbered s) ∧ ticketTold false s u ∧
  u = { s with
    accounts := s.accounts.set k { s.accounts[k] with isOpen := false }
    alarm := u.alarm
    tickets := { s.tickets with
      inFlight := none
      number := s.tickets.number + 1
      writePosition := positionAfter ring s
      blocked := false }
    link := { s.link with
      flags := u.link.flags
      log := u.link.log } }

/-- log 9: with no access in flight the accesses that waited in v go on in their order, and t follows. Writes go out, a report
ends its order (R24), and a ring that is not blocked is not re-checked (R163). The first access that reads waits for its read
with the rest behind it: a close, whose ticket takes the next number (R161), check 3 of CLOSE MATCH (R157) and a re-check read
the state byte at the write position, and a BOOK reads bytes 0 to 19 of its record (R47). -/
def waitingTaken (ring : Ring) (waiting : List Access) (v t : State) : Prop :=
  let reads (a : Access) (number : BitVec 32) (rest : List Access) (address : Address) (length : Nat) := t = { v with
    tickets := { v.tickets with
      number := number
      inFlight := some a
      waiting := rest }
    link := { v.link with log := v.link.log ++ [.read address length] } }
  let slot := ring.base + BitVec.ofNat 64 (32 * v.tickets.writePosition)
  match waiting with
  | [] => t = v
  | .write w :: rest => waitingTaken ring rest { v with link := { v.link with log := v.link.log ++ [.write w] } } t
  | .report outcome result :: rest => ∀ o, v.orders.unit = .acting o .queued →
    ∃ u, reported o.notify outcome result v u ∧ waitingTaken ring rest u t
  | .recheck :: rest =>
    if v.tickets.blocked then reads .recheck v.tickets.number rest slot 1 else waitingTaken ring rest v t
  | .raise r :: rest => reads (.raise r) (v.tickets.number + 1) rest slot 1
  | .totalCheck k minute :: rest => reads (.totalCheck k minute) v.tickets.number rest slot 1
  | .recordRead n :: rest =>
    reads (.recordRead n) v.tickets.number rest (v.store.bookBase + BitVec.ofNat 64 (64 * n.val)) 20
  | .closeWrite _ :: rest | .totalWrite _ :: rest => waitingTaken ring rest v t

/-- R155, R161, R162: from s to u the close r, whose ticket has its number, has come to its end: the ticket or its loss, the
record, the open count and the FREE slot. Nothing else changes but the flags, the items of the alarm ranking unit and the link
traffic. -/
def closeTaken (lost : Bool) (r : Raise) (ring : Ring) (s u : State) : Prop :=
  hostWrites u = hostWrites s ++ closeTraffic lost r s ∧ closeEnded lost r s u ∧
  u = { s with
    store := { s.store with slots := s.store.slots.set r.slot { s.store.slots[r.slot] with state := .free } }
    accounts := u.accounts
    alarm := { s.alarm with items := u.alarm.items }
    tickets := { s.tickets with
      inFlight := none
      writePosition := if lost then s.tickets.writePosition else positionAfter ring s
      lost := if lost then s.tickets.lost + 1 else s.tickets.lost
      blocked := lost }
    link := { s.link with
      flags := u.link.flags
      log := u.link.log } } ∧
  ticketTold lost s u

/-! ### The booking store at one timeline and at all of them -/

/-- R48: from s to u the store has issued the record writes `ws`, in order. Behind an access in flight they wait their turn
(log 9). -/
def recordsWritten (ws : List HostWrite) (s u : State) : Prop :=
  (s.tickets.inFlight = none → u.tickets = s.tickets ∧ hostWrites u = hostWrites s ++ ws) ∧
  (s.tickets.inFlight ≠ none → hostWrites u = hostWrites s ∧ u.tickets = { s.tickets with
    waiting := s.tickets.waiting ++ ws.map Access.write })

/-- What the work of the store at one timeline may change, from s to u: the store, the rows, the meters, the accounts, the
accesses, the source items, and the flags and traffic that follow them. -/
def storeWorked (s u : State) : Prop :=
  u = { s with
    store := u.store
    rows := u.rows
    tariffs := { s.tariffs with meters := u.tariffs.meters }
    accounts := u.accounts
    tickets := u.tickets
    alarm := { s.alarm with items := u.alarm.items }
    link := { s.link with
      flags := u.link.flags
      log := u.link.log } } ∧
  ∀ i : Fin 51, 48 ≤ i.val → u.alarm.items[i] = s.alarm.items[i]

/-- R119, R122, R130: from s to u an activation or a close has been handed to the alarm ranking unit, once. -/
def sourcesTold (s u : State) : Prop :=
  derivedFrom u s.alarm u.alarm ∧ u.link.flags = withAlarmLevel s.link.flags (alarmLevel u)

/-- From s to u the alarm ranking unit takes nothing, and no flag moves. -/
def alarmStands (s u : State) : Prop := u.alarm = s.alarm ∧ u.link.flags = s.link.flags

/-- R57: the rows once an on-air booking of port d has closed in `minute`, `rest` being the members after it. The port is asked
for BLACK, unless the next of them starts at that minute: it activates in the same piece of work. -/
def rowsAfterClose (minute : Nat) (d : Fin 64) (rest : List (Fin 1024)) (s : State) : Vector Row 64 :=
  if rest.head?.any fun k => decide (s.store.slots[k].state = .accepted ∧ s.store.slots[k].start = minute) then s.rows
  else blackAsked d s

/-- R56, R57, R149: from s to u the on-air head n of the timeline of port d closes in `minute`, `rest` being the members after
it: its close is rated, handed over and in the account, and its slot is FREE once its ticket is through (log 9). -/
def closedOnAir (minute : Nat) (d : Fin 64) (n : Fin 1024) (rest : List (Fin 1024)) (s u : State) : Prop :=
  storeWorked s u ∧ u.store = { s.store with timelines := s.store.timelines.set d rest } ∧
  u.rows = rowsAfterClose minute d rest s ∧ u.tariffs = s.tariffs ∧ sourcesTold s u ∧
  ∃ r, raisingFrom r s u ∧ r.slot = n ∧ r.closeMinute = minute ∧ r.forOrder = false ∧ onAirTicket n s r.ticket ∧
    meterFields n s r

/-- R58, R141: from s to u the on-air head n closes in `minute` ahead of the tick that ends its last second, and is held for
its count. -/
def closeHeld (minute : Nat) (d : Fin 64) (n : Fin 1024) (rest : List (Fin 1024)) (s u : State) : Prop :=
  storeWorked s u ∧
  u.store = { s.store with
    timelines := s.store.timelines.set d rest
    holds := s.store.holds ++ [{ slot := n, closeMinute := minute, counted := false }] } ∧
  u.rows = rowsAfterClose minute d rest s ∧ u.tariffs = s.tariffs ∧ sourcesTold s u ∧ u.tickets = s.tickets ∧
  u.accounts = s.accounts ∧ hostWrites u = hostWrites s

/-- R66: from s to u the ACCEPTED head n, whose interval has passed, closes as MISSED. -/
def closedMissed (minute : Nat) (d : Fin 64) (n : Fin 1024) (rest : List (Fin 1024)) (s u : State) : Prop :=
  storeWorked s u ∧ u.store = { s.store with timelines := s.store.timelines.set d rest } ∧ u.rows = s.rows ∧
  u.tariffs = s.tariffs ∧ alarmStands s u ∧
  ∃ r, raisingFrom r s u ∧ r.slot = n ∧ r.closeMinute = minute ∧ r.forOrder = false ∧
    ticketOf s.store.slots[n] n r.ticket ∧ r.ticket.kind = .missed ∧ r.ticket.minute = s.store.slots[n].start ∧
    r.ticket.charged = 0 ∧ r.ticket.outage = 0 ∧ r.ticket.charge = 0

/-- R54, R119, R140, R145: from s to u the head n of the timeline of port d activates in `minute`: its slot, the first counted
second and the start band of its meter, the owned mark and the BOOKING request of its port, the source items, and its record. -/
def startedOnAir (minute : Nat) (first : Stamp) (band : Option Band) (d : Fin 64) (n : Fin 1024) (s u : State) : Prop :=
  storeWorked s u ∧
  u.store = { s.store with slots := s.store.slots.set n { s.store.slots[n] with
    state := .active
    activation := some minute } } ∧
  u.tariffs = { s.tariffs with meters := s.tariffs.meters.set n { s.tariffs.meters[n] with
    firstCounted := some first
    startBand := band } } ∧
  u.rows = s.rows.set d (rowActivated s.store.slots[n] s s.rows[d]) ∧ u.accounts = s.accounts ∧ sourcesTold s u ∧
  recordsWritten [recordWrite s n 20 (le 4 minute), recordWrite s n 0 [4]] s u

/-- R55: from s to u the ACTIVE head n enters OVERRUN and writes its state. -/
def overrunEntered (n : Fin 1024) (s u : State) : Prop :=
  storeWorked s u ∧
  u.store = { s.store with slots := s.store.slots.set n { s.store.slots[n] with state := .overrun } } ∧
  u.rows = s.rows ∧ u.tariffs = s.tariffs ∧ u.accounts = s.accounts ∧ alarmStands s u ∧
  recordsWritten [recordWrite s n 0 [5]] s u

/-- The band of `minute` in the current table. -/
def bandNow (minute : Nat) (s : State) : Option Band :=
  s.tariffs.current.map fun x => x.bands[Fin.ofNat 168 (minute / 60 % 168)]

/-- R140: the first counted second of a late activation: the second after the one running when the meter and tariff unit takes
it. Between a tick that ended a minute and its boundary, second 0 of the new minute is running (log 5), unless a SET CLOCK has
placed it since (R41). Between the boundary and its tick the second that the clock holds is the one after it. -/
def lateSecond (c : Clock) : Stamp :=
  let next : Stamp := if c.second < 59 then { minute := c.minute.toNat, second := c.second + 1 }
    else { minute := (c.minute + 1).toNat, second := 0 }
  match c.rollover with
  | .tickFirst minute clockSet => if clockSet then next else { minute := minute.toNat, second := 1 }
  | .boundaryFirst _ => { minute := c.minute.toNat, second := c.second }
  | .none | .handed _ => next

/-- R67: from s to u the catch-up looks at the head n, whose final end is still to come: an ACCEPTED one whose start has passed
activates late, with the second after the one running as its first counted one, and then an ACTIVE one whose booked end has
passed enters OVERRUN. -/
def headCaughtUp (d : Fin 64) (n : Fin 1024) (s u : State) : Prop :=
  let b := s.store.slots[n]
  let now := s.clock.minute.toNat
  let late := b.state = .accepted ∧ b.start ≤ now
  ∃ v,
    (late → startedOnAir now (lateSecond s.clock) (bandNow now s) d n s v) ∧
    (¬late → v = s) ∧
    (v.store.slots[n].state = .active ∧ bookedEnd b ≤ now → overrunEntered n v u) ∧
    (¬(v.store.slots[n].state = .active ∧ bookedEnd b ≤ now) → u = v)

/-- R66, R67: from s to u the catch-up brings up the timeline of port d, whose members from the head on are given: every member
whose final end has passed closes, from the head onward, and then the head is looked at. -/
def timelineCaughtUp (d : Fin 64) (members : List (Fin 1024)) (s u : State) : Prop :=
  match members with
  | [] => u = s
  | n :: rest =>
    let now := s.clock.minute.toNat
    if finalEnd s.store.slots[n] ≤ now then
      ∃ v, (s.store.slots[n].state = .accepted → closedMissed now d n rest s v) ∧
        (s.store.slots[n].state ≠ .accepted → closedOnAir now d n rest s v) ∧ timelineCaughtUp d rest v u
    else headCaughtUp d n s u

/-- R66: from s to u the catch-up takes the timelines of the ports given, one after another. -/
def portsCaughtUp (ports : List (Fin 64)) (s u : State) : Prop :=
  match ports with
  | [] => u = s
  | d :: rest => ∃ v, timelineCaughtUp d s.store.timelines[d] s v ∧ portsCaughtUp rest v u

/-- R53: from s to u the store brings the timeline of port d up to the boundary into `minute`: its head closes at its final
end, or enters OVERRUN at its booked end, and then the head, which may be the next member, activates at its start. `counted`:
the tick of the boundary has been counted; `swapped`: the meter and tariff unit has taken the boundary (log 7). -/
def timelineAtBoundary (minute : Nat) (counted swapped : Bool) (d : Fin 64) (s u : State) : Prop :=
  ∃ v,
    (match s.store.timelines[d] with
      | [] => v = s
      | n :: rest =>
        let b := s.store.slots[n]
        if slotOnAir b = true ∧ finalEnd b = minute then
          (counted = true → closedOnAir minute d n rest s v) ∧ (counted = false → closeHeld minute d n rest s v)
        else if b.state = .active ∧ bookedEnd b = minute ∧ 0 < b.extension then overrunEntered n s v
        else v = s) ∧
    match v.store.timelines[d] with
      | [] => u = v
      | n :: _ =>
        if v.store.slots[n].state = .accepted ∧ v.store.slots[n].start = minute then
          startedOnAir minute { minute := minute, second := 0 } (if swapped then bandNow minute v else none) d n v u
        else u = v

/-- R53: from s to u the store brings the timelines of the ports given up to the boundary, one after another. -/
def portsAtBoundary (minute : Nat) (counted swapped : Bool) (ports : List (Fin 64)) (s u : State) : Prop :=
  match ports with
  | [] => u = s
  | d :: rest => ∃ v, timelineAtBoundary minute counted swapped d s v ∧ portsAtBoundary minute counted swapped rest v u

/-- R136, R145: from s to u the meter and tariff unit takes a boundary, and nothing else does. -/
def tariffTaken (s u : State) : Prop :=
  u = { s with tariffs := u.tariffs } ∧ tariffSwapped s u ∧
  ∀ n : Fin 1024, u.tariffs.meters[n] = bandSet s.store.slots[n] s.tariffs.meters[n] u

/-- R35, R163: s as the boundary into `minute` finds it: the new time, unless a SET CLOCK has placed it since the tick (R42),
with `rollover` outstanding, and no re-check to be made of a ring that is not blocked. -/
def boundaryFound (minute : BitVec 32) (clockSet : Bool) (rollover : Rollover) (s : State) : State :=
  { s with
    clock := { s.clock with
      minute := if clockSet then s.clock.minute else minute
      second := if clockSet then s.clock.second else 0
      rollover := rollover }
    tickets := { s.tickets with recheckIn := none } }

/-- What the boundary into `minute` may change, from s to t: its time, the tariff tables, the page, and what the work of the
store may change; of the link registers only the flags. -/
def boundaryWorked (minute : BitVec 32) (clockSet : Bool) (s t : State) : Prop :=
  storeWorked (withPage t { boundaryFound minute clockSet .none s with tariffs := t.tariffs }) t

/-- What the boundary into `minute` may change where it comes before its tick, from s to t. -/
def earlyBoundaryWorked (minute : BitVec 32) (s t : State) : Prop :=
  storeWorked (boundaryFound minute false (.boundaryFirst s.clock.minute) s) t

/-- 12 section 12.3: the snapshot of an account, offsets 24 to 47 of an entry (R156). -/
def accountBytes (a : Account) : List Byte :=
  le 2 a.matchNumber ++ le 2 a.unwritten ++ le 2 a.openCount ++ zeros 2 ++ le 4 a.closedCount ++ le 4 a.outageTotal ++
    le 8 a.chargeTotal

end Sys2Proof.Machine
end

