-- ==== Sys2Proof/Certificates/Slice0/Obligations.lean ====
section
/-! DEFINITION. The statements for the provers. Each docstring names the rules of spec/ it rests on, and the log entries
(notes/assumptions) where a clause is the model's own choice. -/

open Sys2Proof Sys2Proof.Machine

/-! ### The queue, the reset pin and the machine right after reset -/

/-- A step runs the command at the front of the queue on the state with the rest of the queue, and an empty queue changes
nothing. The empty queue is the model's choice (log 1). -/
def Obligations.StepRunsTheFrontCommand : Prop :=
  (∀ (c : Instr) (rest : List Instr) (s : State), s.pending = c :: rest → step s = exec c { s with pending := rest }) ∧
  ∀ s : State, s.pending = [] → step s = .next s

/-- Every command answers with a next state, in every state, and leaves the queue. That it does so in every state is the
model's choice: an event that cannot arise changes nothing (log 2), so does a command while RESETN is low (log 18), and every
operation is total in states that no run reaches (log 25). -/
def Obligations.EveryCommandAnswers : Prop :=
  ∀ (c : Instr) (s : State), ∃ t, exec c s = .next t ∧ t.pending = s.pending

/-- R16, R31, R69, R139: in hard reset the part is DORMANT with no window in force, nothing under way and every output idle,
and every block is at its hard reset values: the clock with no tick or pulse to count from, every meter cleared. The queue, the
record of the link and the last answer stay (log 18). The instant of the last pulse of a relock run with count 0 has no value
in the manual, and the model holds 0 (log 14). -/
def Obligations.HardResetState : Prop :=
  ∀ s : State, ∃ t, exec .hardReset s = .next t ∧
    t.resetn = false ∧ t.pending = s.pending ∧ t.link.log = s.link.log ∧ t.link.answer = s.link.answer ∧
    t.link.run = .dormant ∧ t.link.start = .idle ∧ t.link.lastStart = .none ∧ t.link.fatal = .none ∧
    t.link.haltWaiting = false ∧ t.link.area = 0 ∧ t.link.flags = 0 ∧ t.link.permissions = 0 ∧
    t.link.pageCount = 0 ∧ t.link.pageDue = false ∧ t.link.page = none ∧ t.link.pageTicks = [] ∧
    t.link.pageNext = false ∧ (∀ k : Fin 3, t.link.windows[k] = none) ∧
    t.orders.next = 0 ∧ t.orders.endIndex = 0 ∧ t.orders.unit = .idle ∧
    t.clock.minute = 0 ∧ t.clock.second = 0 ∧ t.clock.secref = .freeRun ∧ t.clock.frameref = .lost ∧
    t.clock.lastTick = none ∧ t.clock.lastFrame = none ∧ t.clock.nextOwn = none ∧
    t.clock.relock = { count := 0, last := 0 } ∧ t.clock.rollover = .none ∧ t.crosspointAhead = false ∧
    t.store.bookCount = 0 ∧ t.store.holds = [] ∧ (∀ n : Fin 1024, t.store.slots[n] = Slot.hardReset) ∧
    (∀ d : Fin 64, t.store.timelines[d] = [] ∧ deliveryOutput d t = .black ∧ t.rows[d].current = .black ∧
      t.rows[d].pending = none ∧ t.rows[d].unbooked = 0 ∧ t.rows[d].changed = false ∧ t.rows[d].owned = false ∧
      t.rows[d].last = .black) ∧
    (∀ p : Fin 48, t.monitors[p] = Monitor.hardReset) ∧
    (∀ i : Fin 51, t.alarm.items[i].severity = 0 ∧ t.alarm.items[i].acked = 0) ∧
    t.alarm.mode = .fixed ∧ t.alarm.spotlight = 0 ∧ t.alarm.floor = { top := 0, middle := 0, bottom := 0 } ∧
    t.tariffs.current = none ∧ t.tariffs.staged = none ∧ t.tariffs.retired = none ∧ t.tariffs.number = 0 ∧
    (∀ n : Fin 1024, t.tariffs.meters[n] = Meter.cleared) ∧ (∀ k : Fin 128, t.accounts[k] = Account.hardReset) ∧
    t.tickets.ring = none ∧ t.tickets.writePosition = 0 ∧ t.tickets.number = 0 ∧ t.tickets.lost = 0 ∧
    t.tickets.blocked = false ∧ t.tickets.recheckIn = none ∧ accessesIdle t

/-- R16, R31, R118: when RESETN returns high the part is at State.reset, with the first own tick one second later, and the
first alarm reported is item 48 at severity 2. While RESETN is low nothing but its return, or a further fall, is taken
(log 18), and a return that follows no fall changes nothing (log 2). -/
def Obligations.ResetReleaseState : Prop :=
  (∀ (instant : Nat) (s : State),
    (s.resetn = true → exec (.resetRelease instant) s = .next s) ∧
    (s.resetn = false → ∃ t, exec (.resetRelease instant) s = .next t ∧
      t = { State.reset with
        pending := s.pending
        link := { State.reset.link with log := s.link.log, answer := s.link.answer }
        clock := { State.reset.clock with nextOwn := some (instant + 1000000000) } } ∧
      (reportedItem t.alarm).map (·.val) = some 48 ∧ (t.alarm.items[48].severity).val = 2)) ∧
  ∀ (c : Instr) (s : State), s.resetn = false → c ≠ .hardReset → (∀ i, c ≠ .resetRelease i) → exec c s = .next s

/-! ### The laws of the manual -/

/-- The state right after reset is lawful. -/
def Obligations.LawsHoldAtReset : Prop :=
  alarmLawful State.reset ∧ systemItemsFollow State.reset ∧ sourceItemsFollow State.reset ∧ monitorsLawful State.reset ∧
    legsInService State.reset ∧ tariffCurrent State.reset ∧ rowsLawful State.reset ∧ runLawful State.reset ∧ areaAligned State.reset ∧
    clockLawful State.reset ∧ accountsLawful State.reset ∧ metersLawful State.reset ∧ bookingsLawful State.reset ∧
    windowsLawful State.reset

/-- R122, R130, R170, R172: no step lets an acknowledged level exceed its severity, a flag stand without its permission, or
ALARM leave its level. -/
def Obligations.AlarmLawKept : Prop := ∀ s t : State, alarmLawful s → step s = .next t → alarmLawful t

/-- R39, R119, R120, R121: through every step the severities of items 48, 49 and 50 follow the references, the ring and the
fatal code, and those of the source items 0 to 47 follow the healths, the current sources and the bookings on air: an
execution, an activation, a close and a health change are each handed on. -/
def Obligations.ItemSeverityLawsKept : Prop :=
  (∀ s t : State, systemItemsFollow s → step s = .next t → systemItemsFollow t) ∧
  ∀ s t : State, bookingsLawful s → sourceItemsFollow s → step s = .next t → sourceItemsFollow t

/-- R45, R46, R21: every step keeps the law of the timelines: their members are the bookings of their port that are not FREE
and whose close has not begun, in order, each with a duration, none beginning before the one before it has ended. At most one
access to the book and the ring belongs to the order in flight, and the slot whose record is being read is FREE (log 9). -/
def Obligations.TimelineLawKept : Prop := ∀ s t : State, bookingsLawful s → step s = .next t → bookingsLawful t

/-- R85, R97, R138: through every step the monitors stay lawful, no leg of a slot not FREE is OUT_OF_SERVICE, and a slot not
FREE finds a current tariff. -/
def Obligations.PortsLawKept : Prop := ∀ s t : State, portsLawful s → step s = .next t → portsLawful t

/-- R73, R76, R79: after every step a pending selection differs from the current source. -/
def Obligations.RowLawKept : Prop := ∀ s t : State, rowsLawful s → step s = .next t → rowsLawful t

/-- R153, R155, R144: after every step no two OPEN accounts have one match number, every charge total is below 2^40, every
booking slot not FREE belongs to an OPEN account of its match, and the open count of an OPEN account is the number of those
slots. A close that has begun is that of one booking not FREE (R149; log 9). In every meter the outage seconds are at or above
the allowance used plus the excess seconds, and the excess of a band is no more than its charged seconds. -/
def Obligations.AccountAndMeterLawsKept : Prop :=
  (∀ s t : State, bookingsLawful s → accountsLawful s → step s = .next t → accountsLawful t) ∧
  ∀ s t : State, metersLawful s → step s = .next t → metersLawful t

/-- R31 to R35, R38: every step keeps the second count below 60 and the schedules of the clock in step with its states. -/
def Obligations.ClockLawKept : Prop := ∀ s t : State, clockLawful s → step s = .next t → clockLawful t

/-- R3, R9, R10, R12, R13, R15, R29, R42, R64: every step keeps the law of the run states: a fatal part is HELD with nothing
under way on the link, START is in progress only in DORMANT, a halt waits only in RUNNING for an order in flight, an order is
in flight only in RUNNING or after a bus fault, which stops it where it stands, so that no order is taken in HELD (log 26), and
a DORMANT part has no page and no access to the book or the ring under way. In DORMANT windows 1 to 3 are unused, but while a
START that has passed its checks writes the identity word. -/
def Obligations.RunLawKept : Prop :=
  (∀ s t : State, runLawful s → step s = .next t → runLawful t) ∧
  ∀ s t : State, windowsLawful s → step s = .next t → windowsLawful t

/-- R6: every step keeps the exchange area base 4 KiB aligned. -/
def Obligations.AreaStaysAligned : Prop := ∀ s t : State, areaAligned s → step s = .next t → areaAligned t

/-- R15: in the fatal state no command but a soft reset or a hard reset lets the part put anything but interrupt messages on
the link, or ends the fatal state. -/
def Obligations.FatalPartIsSilent : Prop :=
  ∀ (l : List LinkOp) (c : Instr) (rest : List Instr) (s t : State),
    silentFrom l s → s.resetn = true → s.pending = c :: rest → c ≠ .hardReset → (∀ p o a, c ≠ .softReset p o a) →
    (∀ e v cut, c = .registerWrite ⟨.ctrl, cut⟩ e v → v.extractLsb' 0 2 ≠ 3) → step s = .next t →
    silentFrom l t ∧ t.resetn = true

/-! ### The register window -/

/-- R5, R126: the mode and spotlight fields of a CTRL write are taken, each left where it names nothing, and ALARM follows. -/
def Obligations.ModeWriteTaken : Prop :=
  ∀ (mode : BitVec 2) (spotlight : BitVec 6) (s : State), s.resetn = true →
    ∃ a : Alarm, exec (.modeWrite mode spotlight) s = .next (withAlarm a s) ∧
      a.mode = (if mode = 0 then .fixed else if mode = 1 then .spotlight else if mode = 2 then .inhibit
        else s.alarm.mode) ∧
      a.spotlight.val = (if spotlight.toNat ≤ 50 then spotlight.toNat else s.alarm.spotlight.val) ∧
      a.items = s.alarm.items ∧ a.floor = s.alarm.floor

/-- R124, R128: the three commands of NEXT_ALARM: the ACK sets the acknowledged level of a pending item it names to its
severity, the PUSH of the same write puts that severity plus 1 on the floor stack, the POP comes after both, and ALARM
follows. -/
def Obligations.NextAlarmWriteTaken : Prop :=
  (∀ (item : BitVec 6) (pop : Bool) (s : State), s.resetn = true →
    ∃ a : Alarm, exec (.ack item pop) s = .next (withAlarm a s) ∧ nextAlarmRule true false pop item s.alarm a) ∧
  (∀ (item : BitVec 6) (ack pop : Bool) (s : State), s.resetn = true →
    ∃ a : Alarm, exec (.push item ack pop) s = .next (withAlarm a s) ∧ nextAlarmRule ack true pop item s.alarm a) ∧
  ∀ s : State, s.resetn = true →
    ∃ a : Alarm, exec .pop s = .next (withAlarm a s) ∧ nextAlarmRule false false true 0 s.alarm a

/-- R171, R4: a read of FLAGS returns the addressed bytes of the flags and permissions as they stand, and clears the latched
flags when it includes byte 0. ALARM is left. -/
def Obligations.FlagsReadTaken : Prop :=
  ∀ (enables : BitVec 4) (s : State), s.resetn = true →
    exec (.flagsRead enables) s = .next { s with
      link := { s.link with
        flags := if enables.getLsbD 0 then s.link.flags &&& 8 else s.link.flags
        answer := (List.finRange 4).filterMap fun k =>
          if enables.getLsbD k.val then
            some (BitVec.ofNat 8 ((s.link.flags.toNat + s.link.permissions.toNat * 2 ^ 16) / 2 ^ (8 * k.val)))
          else none } }

/-- R170, R130: a write to FLAGS stores bits 22:16 as the permissions, clears the latched flags that lose theirs, latches
none, and puts ALARM at its level. The write is one change of the flags, with one message at most: the model's choice where it
clears the last latched flag and raises ALARM (log 35). -/
def Obligations.FlagsWriteTaken : Prop :=
  ∀ (value : Word) (s : State), s.resetn = true →
    ∃ f : BitVec 7, exec (.flagsWrite value) s =
      .next (withFlags f { s with link := { s.link with permissions := value.extractLsb' 16 7 } }) ∧
      (∀ k : Fin 7, k.val ≠ 3 → f.getLsbD k.val = (s.link.flags.getLsbD k.val && value.getLsbD (16 + k.val))) ∧
      (f.getLsbD 3 = true ↔ s.alarm.mode ≠ .inhibit ∧ value.getLsbD 19 = true ∧ ∃ i : Fin 51, visibleItem s.alarm i)

/-- R6: AREA_LO and AREA_HI are taken in DORMANT with no START in progress, bits 11:0 of AREA_LO being ignored, and ignored
in every other case. -/
def Obligations.AreaWriteTaken : Prop :=
  ∀ (high : Bool) (value : Word) (s : State), s.resetn = true →
    exec (.areaWrite high value) s = .next (if s.link.run = .dormant ∧ s.link.start = .idle then
      { s with link := { s.link with
          area := BitVec.ofNat 64 (if high then value.toNat * 2 ^ 32 + s.link.area.toNat % 2 ^ 32
            else s.link.area.toNat / 2 ^ 32 * 2 ^ 32 + value.toNat / 2 ^ 12 * 2 ^ 12) } }
      else s)

/-- R7, R9, R18, R26: a write to ORDER stores its END field in every run state and in the fatal state and changes nothing
else, but that an idle unit in RUNNING with no halt waiting takes the entry at NEXT when NEXT ≠ END. ORDER_TAKEN examines the
same conditions (log 20). -/
def Obligations.OrderEntryTaken : Prop :=
  ∀ s : State, s.resetn = true → runLawful s →
    (∀ value : Word, exec (.orderEndWrite value) s = .next (entryTaken
      { s with orders := { s.orders with endIndex := BitVec.ofNat 5 (value.toNat / 2 ^ 8 % 2 ^ 5) } })) ∧
    exec .orderTaken s = .next (entryTaken s)

/-- R4: a write with fewer than four byte enables, or to STATUS or MINUTE, is ignored, and any other write does what the
command of that register does. A CTRL write takes its mode fields first and its command second (R5), and a NEXT_ALARM write
with no command only leaves ALARM at its level. A SOFT RESET written to CTRL meets the work under way as far as the operand
says it had come, as SOFT_RESET does (log 12). -/
def Obligations.RegisterWriteTaken : Prop :=
  ∀ (enables : BitVec 4) (v : Word) (cut : CutOff) (s : State), s.resetn = true →
    (∀ r, enables ≠ 15 ∨ r = .status ∨ r = .minute → exec (.registerWrite ⟨r, cut⟩ enables v) s = .next s) ∧
    exec (.registerWrite ⟨.areaLo, cut⟩ 15 v) s = exec (.areaWrite false v) s ∧
    exec (.registerWrite ⟨.areaHi, cut⟩ 15 v) s = exec (.areaWrite true v) s ∧
    exec (.registerWrite ⟨.order, cut⟩ 15 v) s = exec (.orderEndWrite v) s ∧
    exec (.registerWrite ⟨.flags, cut⟩ 15 v) s = exec (.flagsWrite v) s ∧
    (v.getLsbD 8 = true → exec (.registerWrite ⟨.nextAlarm, cut⟩ 15 v) s =
      exec (.push (v.extractLsb' 0 6) (v.getLsbD 31) (v.getLsbD 9)) s) ∧
    (v.getLsbD 8 = false → v.getLsbD 31 = true → exec (.registerWrite ⟨.nextAlarm, cut⟩ 15 v) s =
      exec (.ack (v.extractLsb' 0 6) (v.getLsbD 9)) s) ∧
    (v.getLsbD 8 = false → v.getLsbD 31 = false → v.getLsbD 9 = true →
      exec (.registerWrite ⟨.nextAlarm, cut⟩ 15 v) s = exec .pop s) ∧
    (v.getLsbD 8 = false → v.getLsbD 31 = false → v.getLsbD 9 = false →
      exec (.registerWrite ⟨.nextAlarm, cut⟩ 15 v) s = .next (withAlarm s.alarm s)) ∧
    ∃ u, exec (.modeWrite (v.extractLsb' 4 2) (v.extractLsb' 8 6)) s = .next u ∧
      exec (.registerWrite ⟨.ctrl, cut⟩ 15 v) s =
        (if v.extractLsb' 0 2 = 1 then exec .start (if v.getLsbD 15 then u else s)
         else if v.extractLsb' 0 2 = 2 then exec .halt (if v.getLsbD 15 then u else s)
         else if v.extractLsb' 0 2 = 3 then
           exec (.softReset cut.pageIssued cut.orderIssued cut.toCutAnswers) (if v.getLsbD 15 then u else s)
         else .next (if v.getLsbD 15 then u else s))

/-- R127, R125: NEXT_ALARM reads the reported item: its number, its severity and the floor, or NONE and the floor. -/
def Obligations.NextAlarmReads : Prop :=
  ∀ s : State,
    ((readRegister .nextAlarm s).extractLsb' 12 3).toNat = s.alarm.floor.top.val ∧
    (s.alarm.mode = .inhibit ∨ (∀ i : Fin 51, ¬visibleItem s.alarm i) →
      (readRegister .nextAlarm s).getLsbD 31 = true ∧ (readRegister .nextAlarm s).extractLsb' 0 6 = 0 ∧
      (readRegister .nextAlarm s).extractLsb' 8 2 = 0) ∧
    ∀ i : Fin 51, s.alarm.mode ≠ .inhibit → visibleItem s.alarm i →
      (s.alarm.mode = .spotlight ∧ visibleItem s.alarm s.alarm.spotlight → i = s.alarm.spotlight) →
      (s.alarm.mode = .fixed ∨ ¬visibleItem s.alarm s.alarm.spotlight → ∀ j : Fin 51, visibleItem s.alarm j →
        s.alarm.items[j].severity < s.alarm.items[i].severity ∨
        s.alarm.items[j].severity = s.alarm.items[i].severity ∧ i ≤ j) →
      (readRegister .nextAlarm s).getLsbD 31 = false ∧
      ((readRegister .nextAlarm s).extractLsb' 0 6).toNat = i.val ∧
      ((readRegister .nextAlarm s).extractLsb' 8 2).toNat = s.alarm.items[i].severity.val

/-- R4 to R8, R37: each field of STATUS, ORDER, CTRL, MINUTE, AREA_LO and AREA_HI (01 section 1.3) reads as the state it shows.
With the area base 4 KiB aligned bits 11:0 of AREA_LO read 0 (AreaStaysAligned). -/
def Obligations.StatusReads : Prop :=
  ∀ s : State,
    (readRegister .status s).extractLsb' 0 2 = (match s.link.run with | .dormant => 0 | .running => 1 | .held => 2) ∧
    (readRegister .status s).getLsbD 2 = (s.clock.secref == .locked) ∧
    (readRegister .status s).getLsbD 3 = (s.clock.frameref == .present) ∧
    (readRegister .status s).extractLsb' 4 4 = (if s.link.fatal = .bus then 1 else 0) ∧
    (readRegister .status s).extractLsb' 8 4 = (match s.link.lastStart with
      | .none => 0 | .ok => 1 | .version => 2 | .windowBad => 3 | .bookCount => 4 | .bookWindow => 5 | .ringCount => 6
      | .ringWindow => 7 | .fatal => 8) ∧
    (readRegister .status s).extractLsb' 12 2 = (match s.tariffs.current, s.tariffs.staged with
      | none, none => 0 | some _, none => 1 | some _, some _ => 2 | none, some _ => 3) ∧
    (readRegister .status s).getLsbD 14 = s.tickets.blocked ∧
    (readRegister .status s).getLsbD 15 = s.link.haltWaiting ∧
    (readRegister .status s).getLsbD 16 = (s.link.start != .idle) ∧
    (readRegister .order s).extractLsb' 0 5 = s.orders.next ∧ (readRegister .order s).extractLsb' 8 5 = s.orders.endIndex ∧
    (readRegister .ctrl s).extractLsb' 0 2 = 0 ∧
    (readRegister .ctrl s).extractLsb' 4 2 = (match s.alarm.mode with | .fixed => 0 | .spotlight => 1 | .inhibit => 2) ∧
    ((readRegister .ctrl s).extractLsb' 8 6).toNat = s.alarm.spotlight.val ∧ (readRegister .ctrl s).getLsbD 15 = false ∧
    readRegister .minute s = s.clock.minute ∧
    (readRegister .areaLo s).toNat = s.link.area.toNat % 2 ^ 32 ∧ (readRegister .areaHi s).toNat = s.link.area.toNat / 2 ^ 32 ∧
    (areaAligned s → (readRegister .areaLo s).extractLsb' 0 12 = 0 ∧
      (readRegister .areaLo s).extractLsb' 12 20 = s.link.area.extractLsb' 12 20)

/-! ### The run states, START, HALT and the resets -/

/-- R10: a START taken in DORMANT reads 80 bytes of the header from AREA, or records WINDOW_BAD when AREA + 8 KiB passes
2^64. It is ignored while one is in progress (R12). -/
def Obligations.StartTakenInDormant : Prop :=
  ∀ s : State, s.resetn = true → s.link.run = .dormant →
    (s.link.start ≠ .idle → exec .start s = .next s) ∧
    (s.link.start = .idle → 2 ^ 64 < s.link.area.toNat + 8192 →
      exec .start s = .next { s with link := { s.link with lastStart := .windowBad } }) ∧
    (s.link.start = .idle → s.link.area.toNat + 8192 ≤ 2 ^ 64 →
      exec .start s = .next { s with link := { s.link with
        start := .headerRead
        log := s.link.log ++ [.read s.link.area 80] } })

/-- R12, R13, R9, R65 to R67: a START in HELD enters RUNNING, or records FATAL; in RUNNING it withdraws a waiting halt. The
state that follows a resume is given whole: the catch-up takes the timelines in order of delivery port, D0 first, and at each
of them every close, on air or as MISSED, from the head onward, and then a late activation and a late OVERRUN. Then the entry
at NEXT is taken if there is one. A close is added to its account as it is handed over (R155). That its ticket, the open count
of the account and the FREE slot wait until the slot of the ring has been read, and that closes and record writes wait behind
an access in flight, is the model's choice (log 9); so is the start band of a booking closed before the tariff unit has given
it one, that of the table current at the close (log 7). A late activation between the tick that ends a minute and its boundary,
or between the boundary and its tick, counts from the second after the one running there (R140, log 5). -/
def Obligations.StartTakenInHeldOrRunning : Prop :=
  ∀ s : State, s.resetn = true →
    (s.link.run = .running → s.link.haltWaiting = false → exec .start s = .next s) ∧
    (s.link.run = .running → s.link.haltWaiting = true → s.link.fatal = .none →
      exec .start s = .next (entryTaken { s with link := { s.link with haltWaiting := false } })) ∧
    (s.link.run = .held → s.link.fatal = .bus →
      exec .start s = .next { s with link := { s.link with lastStart := .fatal } }) ∧
    (s.link.run = .held → linkFree s → s.orders.unit = .idle →
      let s1 := withLatched .run { s with link := { s.link with
        run := .running
        lastStart := .ok
        pageDue := true } }
      ∃ t, exec .start s = .next t ∧ t.link.run = .running ∧ t.link.lastStart = .ok ∧ t.link.pageDue = true ∧
        t.link.haltWaiting = s.link.haltWaiting ∧ t.clock = s.clock ∧ t.monitors = s.monitors ∧
        (permitted .run s = true → flagSet .run t = true) ∧
        (caughtUp s → t = entryTaken s1) ∧
        (bookingsLawful s → ∃ u, portsCaughtUp (List.finRange 64) s1 u ∧ t = entryTaken u))

/-- R13: a HALT in RUNNING enters HELD at once when no order is in flight and waits for it otherwise; in DORMANT and HELD it
has no effect. An order is in flight while the order unit is not IDLE (log 31). -/
def Obligations.HaltTaken : Prop :=
  ∀ s : State, s.resetn = true →
    (s.link.run ≠ .running → exec .halt s = .next s) ∧
    (s.link.run = .running → s.orders.unit ≠ .idle →
      exec .halt s = .next { s with link := { s.link with haltWaiting := true } }) ∧
    (s.link.run = .running → s.orders.unit = .idle →
      exec .halt s = .next (withLatched .run { s with link := { s.link with
        run := .held
        pageDue := true } }))

/-- R10, R11, R175: the part makes the six checks of START in order on the header it has read. The first that fails leaves
its code and DORMANT; when none fails the windows, the book and the ring come into force and the identity word is written.
Its revision is free (log 15). A completion that no START waits for changes nothing (log 2). -/
def Obligations.HeaderReadTaken : Prop :=
  ∀ (bytes : Vector Byte 80) (s : State), s.resetn = true →
    (s.link.start ≠ .headerRead → exec (.headerReadComplete bytes) s = .next s) ∧
    (s.link.start = .headerRead → s.link.fatal = .none → s.link.gate = .open →
      (∀ earlier code later, startOrder = earlier ++ code :: later → (∀ c ∈ earlier, ¬startFails bytes s c) →
        startFails bytes s code →
        exec (.headerReadComplete bytes) s = .next { s with link := { s.link with
          start := .idle
          lastStart := code } }) ∧
      ((∀ c ∈ startOrder, ¬startFails bytes s c) → ∃ t, exec (.headerReadComplete bytes) s = .next t ∧
        let ring : Ring := { base := BitVec.ofNat 64 (fieldAt bytes 24 8), count := fieldAt bytes 18 2 }
        (∀ k : Fin 3, t.link.windows[k] = windowInForce bytes (k.val + 1)) ∧
        t = { s with
          link := { s.link with
            windows := t.link.windows
            lastStart := .ok
            start := .identityWrite
            log := s.link.log ++
              [.write (writeAt (s.link.area + 4) [0x64, 0x48, 0x01, BitVec.ofNat 8 Config.siliconRevision])] }
          store := { s.store with
            bookBase := BitVec.ofNat 64 (fieldAt bytes 8 8)
            bookCount := fieldAt bytes 16 2 }
          tickets := { s.tickets with
            ring := some ring
            writePosition := if s.tickets.ring = some ring then s.tickets.writePosition else 0 } }))

/-- R11, R65 to R67: when the identity write completes, START is no longer in progress and RUNNING is entered. The state that
follows is given whole, with the catch-up at every timeline, D0 first. A completion that no START waits for changes nothing
(log 2). A close is added to its account as it is handed over (R155). That its ticket, the open count of the account and the
FREE slot wait until the slot of the ring has been read is the model's choice (log 9); so is the start band of a booking closed
before the tariff unit has given it one, that of the table current at the close (log 7). A late activation counts from the
second after the one running, also while tick and boundary are apart (R140, log 5). -/
def Obligations.IdentityWriteResumes : Prop :=
  ∀ s : State, s.resetn = true →
    (s.link.start ≠ .identityWrite → exec .identityWriteComplete s = .next s) ∧
    (s.link.start = .identityWrite → s.link.fatal = .none → s.link.gate = .open → s.orders.unit = .idle →
      let s1 := withLatched .run { s with link := { s.link with
        run := .running
        start := .idle
        pageDue := true } }
      ∃ t, exec .identityWriteComplete s = .next t ∧ t.link.run = .running ∧ t.link.start = .idle ∧
        t.link.lastStart = s.link.lastStart ∧ t.link.pageDue = true ∧ t.clock = s.clock ∧ t.monitors = s.monitors ∧
        (permitted .run s = true → flagSet .run t = true) ∧
        (caughtUp s → t = entryTaken s1) ∧
        (bookingsLawful s → ∃ u, portsCaughtUp (List.finRange 64) s1 u ∧ t = entryTaken u))

/-- R15, R29, R68, R162, R164: the first bus fault records BUS, enters HELD, stops every access, ends START, a waiting halt and
a page, and raises item 50 to 3; later faults are ignored. Each close whose ticket is not written yet stands inside the part
and loses its ticket: a ticket that waited takes its number, the lost-ticket count rises, its account counts the ticket as
unwritten and its open count falls, and its slot is FREE. Both commands do it, and a fault is taken also when no access is
outstanding, the model's choice (log 11). The account takes a close when it is handed over, and the ticket its number when its
turn comes to be raised (log 9). A fault announced for a write to come is this fault once the writes ahead of that one have
gone out: in a page, which it leaves torn (R169); in the ticket of a close, or behind it in its record, where the ticket counts
as lost too (log 33); and in the record of an EXTEND, whose extension stands inside the part while its order stops (R29). The
writes of a page, a ticket and a record are divided as log 13 and log 29 say. -/
def Obligations.BusFaultTaken : Prop :=
  ∀ (c : Nat → Instr) (s : State), c = .busFault ∨ c = .completionTimeout → s.resetn = true →
    (∀ after, s.link.fatal = .bus → exec (c after) s = .next s) ∧
    (∀ n, s.link.fatal = .none →
      exec (c (n + 1)) s = .next { s with link := { s.link with gate := .faultAfter n } }) ∧
    (s.link.fatal = .none → ∃ t, exec (c 0) s = .next t ∧
      t.link.fatal = .bus ∧ t.link.run = .held ∧ t.link.haltWaiting = false ∧ t.link.start = .idle ∧
      t.link.page = none ∧ t.link.gate = .open ∧
      t.link.lastStart = (if s.link.start = .headerRead then .fatal else s.link.lastStart) ∧
      t.link.pageCount = s.link.pageCount ∧ hostWrites t = hostWrites s ∧
      (s.link.run ≠ .held → permitted .run s = true → flagSet .run t = true) ∧
      (t.alarm.items[50].severity).val = 3 ∧ (∀ i : Fin 51, i ≠ 50 → t.alarm.items[i] = s.alarm.items[i]) ∧
      accessesIdle t ∧ t.tickets.ring = s.tickets.ring ∧ t.tickets.writePosition = s.tickets.writePosition ∧
      t.tickets.blocked = s.tickets.blocked ∧
      t.orders.next = s.orders.next ∧ t.orders.endIndex = s.orders.endIndex ∧
      (∀ o stage, s.orders.unit = .acting o stage → t.orders.unit = .acting o .stopped) ∧
      t.clock = s.clock ∧ t.rows = s.rows ∧ t.monitors = s.monitors ∧ t.tariffs = s.tariffs ∧
      t.store = { s.store with slots := t.store.slots } ∧
      (∀ n : Fin 1024, t.store.slots[n] =
        if n ∈ ratedSlots s then { s.store.slots[n] with state := .free } else s.store.slots[n]) ∧
      (bookingsLawful s → accountsLawful s →
        t.tickets.number.toNat = (s.tickets.number.toNat + (raisesIn s.tickets.waiting).length) % 2 ^ 32 ∧
        t.tickets.lost.toNat = (s.tickets.lost.toNat + (raisesOf s).length) % 2 ^ 32 ∧
        (raisesOf s ≠ [] → permitted .ticketLost s = true → flagSet .ticketLost t = true) ∧
        ∀ k : Fin 128,
          let a := s.accounts[k]
          let m := a.matchNumber
          (a.isOpen = false ∨ raisedCount m s = 0 → t.accounts[k] = a) ∧
          (a.isOpen = true → raisedCount m s ≠ 0 → t.accounts[k] = { a with
            openCount := a.openCount - raisedCount m s
            unwritten := min 65535 (a.unwritten + raisedCount m s) }))) ∧
    ∀ n, linkOpen s = true → s.link.gate = .faultAfter n →
      (∀ ws, s.link.page = some ws →
        (n < ws.length → exec .pageComplete s = exec (c 0) (cutAt n ws s)) ∧
        (ws.length ≤ n → exec .pageComplete s = .next (withLatched .page { s with link := { s.link with
          page := none
          gate := .faultAfter (n - ws.length)
          log := s.link.log ++ ws.map .write } }))) ∧
      (∀ r ring, s.tickets.inFlight = some (.raise r) → s.tickets.ring = some ring → s.link.pageTicks = [] →
        (n < 2 → exec (.ticketSlotReadComplete 0) s = exec (c 0) (cutAt n (closeTraffic false r s) s)) ∧
        (2 ≤ n → n < (closeTraffic false r s).length → ∃ v, exec (.ticketSlotReadComplete 0) s = exec (c 0) v ∧
          hostWrites v = hostWrites s ++ (closeTraffic false r s).take n ∧ ticketTold false s v ∧
          v = { s with
            alarm := v.alarm
            tickets := { s.tickets with
              writePosition := positionAfter ring s
              blocked := false }
            link := { s.link with
              flags := v.link.flags
              log := v.link.log
              gate := .open } })) ∧
      ∀ (o : Order) (k : Fin 1024) (before after : List (Fin 1024)),
        n = 0 → s.orders.unit = .acting o .dispatched → o.code = .extend → accessesIdle s →
        k.val = o.a.toNat → k.val < s.store.bookCount → 1 ≤ o.b.toNat → o.b.toNat ≤ 60 →
        closing k s = false → s.store.slots[k].state ≠ .free →
        s.store.timelines[s.store.slots[k].port] = before ++ k :: after → k ∉ before →
        0 < extensionGrant k o.b.toNat after s →
        exec .extend s = exec (c 0) { extended k (extensionGrant k o.b.toNat after s) s with
          orders := { s.orders with unit := .acting o .stopped }
          link := { s.link with gate := .open } }

/-- R14, R28: a soft reset, in any run state, enters DORMANT with no window in force, nothing in progress, NEXT = END = 0, the
latched flags, the fatal code, the staged table and the floor cleared, and RUN latched on leaving RUNNING or HELD. With nothing
under way it keeps the rest, the acknowledged levels of the items other than 50 among it. The page due mark is kept, and a mark
that a FRAMEREF pulse has set for a tick that the page logic owed stands with it (log 5). It leaves no close under way: with no
order in flight each slot whose close had begun is FREE. What it completes inside the part, and how far that had come, is told
by its operand (log 12). -/
def Obligations.SoftResetTaken : Prop :=
  ∀ (cut : CutOff) (s : State), s.resetn = true →
    ∃ t, exec (.softReset cut.pageIssued cut.orderIssued cut.toCutAnswers) s = .next t ∧
      t.link.run = .dormant ∧ (∀ k : Fin 3, t.link.windows[k] = none) ∧ t.link.start = .idle ∧ t.link.fatal = .none ∧
      t.link.haltWaiting = false ∧ t.link.page = none ∧ t.link.gate = .open ∧ t.link.area = s.link.area ∧
      (s.link.start ≠ .headerRead ∨ s.link.page = none → t.link.lastStart = s.link.lastStart) ∧
      t.link.permissions = s.link.permissions ∧ t.link.pageCount = s.link.pageCount ∧
      (s.link.pageDue = true → t.link.pageDue = true) ∧
      (s.link.pageNext = true → t.link.pageDue = true ∨ t.link.pageNext = true) ∧
      t.orders = { next := 0, endIndex := 0, unit := .idle } ∧ accessesIdle t ∧ t.store.holds = [] ∧
      (∀ k : Fin 7, k.val ≠ 3 → k.val ≠ 5 → t.link.flags.getLsbD k.val = false) ∧
      (flagSet .run t = true ↔ s.link.run ≠ .dormant ∧ permitted .run s = true) ∧
      t.tariffs.staged = none ∧ (t.alarm.items[50].severity).val = 0 ∧
      t.alarm.floor = { top := 0, middle := 0, bottom := 0 } ∧ t.alarm.mode = s.alarm.mode ∧
      t.alarm.spotlight = s.alarm.spotlight ∧ t.tickets.ring = s.tickets.ring ∧
      (bookingsLawful s → s.orders.unit = .idle → ∀ n ∈ closingSlots s, t.store.slots[n].state = .free) ∧
      ((∀ e, s.clock.rollover ≠ .boundaryFirst e) ∨ (∀ h ∈ s.store.holds, h.counted = true) →
        t.tariffs = { s.tariffs with staged := none, meters := t.tariffs.meters }) ∧
      (s.link.page = none → s.store.holds = [] → accessesIdle s → s.orders.unit = .idle →
        hostWrites t = hostWrites s ∧ t.clock = s.clock ∧ t.store = s.store ∧ t.rows = s.rows ∧
        t.monitors = s.monitors ∧ t.accounts = s.accounts ∧ t.tickets = { s.tickets with recheckIn := none } ∧
        t.tariffs.meters = s.tariffs.meters ∧ (∀ i : Fin 51, i ≠ 50 → t.alarm.items[i] = s.alarm.items[i]) ∧
        (s.link.pageTicks = [] → t.link.pageDue = s.link.pageDue))

/-- R166, R167: the writes of the page in flight go out in order, and then PAGE is latched. With no page in flight nothing
happens (log 2). That all seven go out at PAGE_COMPLETE, and that the body is five of them, is the model's choice (log 13). The
page logic takes the ticks of boundaries that it owes when their last close, ticket or re-check is through: each of the three
commands that can bring it does first what it does without such a tick outstanding. Of several that are through the first
begins a page, and the others find it in flight and set the mark; those behind wait for their own (log 5). The page shows the
minute and the second count that the clock left at its tick (R168). -/
def Obligations.PageCompleted : Prop :=
  (∀ s : State, linkFree s →
    (s.link.page = none → exec .pageComplete s = .next s) ∧
    ∀ ws, s.link.page = some ws → exec .pageComplete s = .next (withLatched .page { s with link := { s.link with
      page := none
      log := s.link.log ++ ws.map .write } })) ∧
  ∀ (c : Instr) (s : State), linkFree s → s.link.pageTicks ≠ [] →
    (c = .ratingRelease ∨ (∃ x, c = .ticketSlotReadComplete x) ∨ ∃ x, c = .bookRecordRead x) →
    ∃ u t, exec c { s with link := { s.link with pageTicks := [] } } = .next u ∧ exec c s = .next t ∧
      let v : State := { u with link := { u.link with pageTicks := s.link.pageTicks } }
      t = withPage t v ∧ owedPaged s.link.pageTicks v t

/-! ### The network clock -/

/-- R32 to R35, R76 to R79, R84, R140 to R143, R165, R166: a SECREF pulse while LOCKED, the third pulse of a relock run, an own
tick and the end of the 1.5 s are each a tick, in whichever order the blocks take it. While FRAMEREF is LOST the tick is a
switch point too. A pending selection stands but for what protection requests at the health change of a leg (R107, R110) and at
an execution (R111), and but for that switch point. A page is begun at a tick with the page due mark set, also while that of a
boundary waits for its tickets (log 5) and where a health change or an execution made in the taking of the tick sets it. The
link registers stand; of the alarm ranking unit only the source items move, an acknowledged level being lowered only to the
severity (R122), and ALARM with them. What becomes of a pending selection and of an acknowledged level is said for the states
that TimelineLawKept, AlarmLawKept and ItemSeverityLawsKept keep. A boundary that its tick has left outstanding is taken first,
with the tariff swap ahead of the timelines and the ring re-check behind the closes, the model's choice (log 5). Instants are
in nanoseconds (log 4). A block that took the tick ahead of the others (`tookTick`, `crosspointAhead`) only clears its mark
(log 5, log 8). Model's choices too: the first counted second is compared by the minute numbers, also across the wrap of the
minute (log 34); a slot whose ticket waits for its read is counted no more (log 9); and the page's writes are divided as log 13
says; a change of a reference state is taken ahead of what the tick changes, CLOCK first (log 36, log 37). -/
def Obligations.SecondTicksTaken : Prop :=
  ∀ (c : Instr) (s w : State), s.resetn = true → tickBy c s w →
    (w.clock.rollover = .none → ∃ t, exec c s = .next t ∧ tickTaken w t) ∧
    ∀ minute clockSet, w.clock.rollover = .tickFirst minute clockSet →
      ∃ u t, exec (.minuteBoundary ⟨[], true, 0, 64⟩) w = .next u ∧ exec c s = .next t ∧ tickTaken u t

/-- R34, R35, R136, R142, R145: the tick of a second 59 whose boundary has been taken before it is counted for the minute it
ends, under the table current until then; the meter and tariff unit takes the boundary after it, and the page logic the tick
last (R166). It does not move the minute again. What else the tick moves and leaves is what SecondTicksTaken says. Once a soft
reset has had the blocks take that tick, its command brings only the page (log 5, log 7, log 12). Model's choices too: the
comparison with the first counted second across the wrap of the minute (log 34), the slots whose ticket waits for its read,
counted no more (log 9), the division of the page's writes (log 13), and a change of a reference state ahead of what the tick
changes (log 36, log 37). -/
def Obligations.OwedTickTaken : Prop :=
  ∀ (c : Instr) (s w : State), s.resetn = true → tickBy c s w →
    (∀ ended, w.clock.rollover = .boundaryFirst ended →
      ∃ t, exec c s = .next t ∧ t.clock = { w.clock with rollover := .none } ∧ tickLeaves w t ∧ monitorsTook w t ∧
        t.crosspointAhead = false ∧ (w.crosspointAhead = false → crosspointTook w t) ∧
        (w.crosspointAhead = true → crosspointHeld w t) ∧ tariffSwapped w t ∧
        (changeMade (!w.crosspointAhead) w t → boundaryPaged (ended + 1) (withMark w) t) ∧
        (¬changeMade (!w.crosspointAhead) w t → boundaryPaged (ended + 1) w t) ∧
        ∀ n : Fin 1024, ∀ table, w.tariffs.current = some table →
          let b := w.store.slots[n]
          let m := w.tariffs.meters[n]
          (countsAt n ended.toNat 59 w → ∃ bad x, secondCounted b ended.toNat table w.tariffs.number bad m x ∧
            (bad = true ↔ badSecondOf b t) ∧ t.tariffs.meters[n] = bandSet b x t) ∧
          (¬countsAt n ended.toNat 59 w → t.tariffs.meters[n] = bandSet b m t)) ∧
    ∀ ended, w.clock.rollover = .handed ended → ∃ t, exec c s = .next t ∧
      t = withPage t { w with clock := { w.clock with rollover := .none } } ∧ boundaryPaged (ended + 1) w t

/-- R33: a SECREF pulse in FREE_RUN that does not complete a relock run is no tick and acts on that run alone, and its count
returns to 0 when 1.001 s have passed. An own tick or the end of the relock run while LOCKED, or the end of the 1.5 s in
FREE_RUN, does not arise, and nothing happens (log 2). -/
def Obligations.RelockRunTaken : Prop :=
  ∀ (instant : Nat) (order : TickOrder) (s : State), s.resetn = true →
    (s.clock.secref = .freeRun → s.clock.relock.count = 0 ∨ ¬relockGap s.clock.relock instant →
      exec (.secrefPulse instant order) s =
        .next { s with clock := { s.clock with relock := { count := 1, last := instant } } }) ∧
    (s.clock.secref = .freeRun → s.clock.relock.count = 1 → relockGap s.clock.relock instant →
      exec (.secrefPulse instant order) s =
        .next { s with clock := { s.clock with relock := { count := 2, last := instant } } }) ∧
    (s.clock.secref = .freeRun → exec .relockTimeout s = .next { s with clock := { s.clock with
      relock := { count := 0, last := s.clock.relock.last } } }) ∧
    (s.clock.secref = .locked → exec (.ownTick order) s = .next s ∧ exec .relockTimeout s = .next s) ∧
    (s.clock.secref = .freeRun → exec (.secrefTimeout order) s = .next s)

/-- R38, R76, R77, R111, R119, R122, R130, R166: a FRAMEREF pulse is a switch point: each port with a pending selection takes
it and sets its change mark, and holds none after it but one that protection lodges. The source items follow and ALARM with
them, and nothing else changes but the clock, its item and the page due marks. The page due mark is set, for the tick after the
one under way where the crosspoint has taken that one, which the model keeps in a mark of its own (log 5). In LOST it returns
the reference to PRESENT first. 100 ms without a pulse lose the reference, and in LOST, where that expiry does not arise,
nothing happens (log 2). At a change of the reference CLOCK is latched ahead of item 48's severity, so that where ALARM alone
was set and falls with the item no message is sent: a choice of the model (log 36); that the item is taken ahead of the
executions is another (log 37). -/
def Obligations.FramerefTaken : Prop :=
  ∀ s : State, s.resetn = true →
    (∀ instant, ∃ t, exec (.framerefPulse instant) s = .next t ∧
      (let c : Clock := { s.clock with frameref := .present, lastFrame := some instant }
       let u := if s.clock.frameref = .present then { s with clock := c } else withReference c s
       t.clock = c ∧ hostWrites t = hostWrites s ∧ ((∀ d : Fin 64, s.rows[d].pending = none) → t = u) ∧
       ((∃ d : Fin 64, s.rows[d].pending.isSome = true) → derivedFrom t u.alarm t.alarm ∧
        t = withAlarm t.alarm { u with
          rows := t.rows
          link := { u.link with
            pageDue := if crosspointTicked s then s.link.pageDue else true
            pageNext := if crosspointTicked s then true else s.link.pageNext } }) ∧
       ∀ d : Fin 64,
        t.rows[d] = { s.rows[d] with
          current := ((s.rows[d].pending.map (·.target)).getD s.rows[d].current)
          pending := t.rows[d].pending
          changed := s.rows[d].changed || s.rows[d].pending.isSome } ∧
        (timelinesLawful s → selectionMoved true d s t ∧ ∀ x, t.rows[d].pending = some x →
          x.cause = .protection ∧ s.rows[d].pending.isSome = true ∧ (ownerOf d s).isSome = true))) ∧
    (s.clock.frameref = .present → exec .framerefTimeout s =
      .next (withReference { s.clock with frameref := .lost, lastFrame := none } s)) ∧
    (s.clock.frameref = .lost → exec .framerefTimeout s = .next s)

/-- R34, R35, R53, R64, R136, R145, R163, R166: the boundary into a new minute: the second count returns to 0, the ring is
re-checked in RUNNING and in HELD without a fatal code, and, where the store has nothing due or the part is not RUNNING, no
booking changes. Taken after its tick it makes a staged table the current one and a page is begun; taken before it, the meter
and tariff unit takes it after that tick (log 5, log 7). The operand `early` has blocks take the tick ahead of its command
first. A SET CLOCK between the two keeps the new time (R42). With no second 59 ending nothing happens (log 2). In every state
of a run nothing waits but behind an access in flight (TimelineLawKept), and this is said for such states. With bookings due on
any number of ports the store takes the timelines in order of delivery port, D0 first; this is said for a ring that is not
blocked and with no access in flight. Model's choices: the re-check comes where the operand says, waits for the closes of the
boundary that are still held (log 21), and waits with every close and record write behind an access in flight (log 9); the
writes of the page and of a record are divided as log 13 and log 29 say. -/
def Obligations.MinuteBoundaryTaken : Prop :=
  (∀ (early : TickOrder) (boundary : Bool) (swapAfter recheckAfter : Nat) (s : State), s.resetn = true →
    let whole : Instr := .minuteBoundary ⟨[], true, swapAfter, recheckAfter⟩
    let awaited := s.clock.rollover = .none ∧ s.clock.second = 59 ∨ ∃ ended, s.clock.rollover = .boundaryFirst ended
    (awaited → ∃ u, exec (.minuteBoundary ⟨early, false, swapAfter, recheckAfter⟩) s = .next u ∧ earlyTicksTaken early s u ∧
      exec (.minuteBoundary ⟨early, true, swapAfter, recheckAfter⟩) s = exec whole u) ∧
    (¬awaited → exec (.minuteBoundary ⟨early, boundary, swapAfter, recheckAfter⟩) s =
      if boundary then exec whole s else .next s) ∧
    ((∃ ended, s.clock.rollover = .boundaryFirst ended ∨ s.clock.rollover = .handed ended) ∨
      s.clock.rollover = .none ∧ s.clock.second ≠ 59 → exec whole s = .next s) ∧
    ∀ minute clockSet,
      (s.clock.rollover = .none ∧ s.clock.second = 59 ∧ minute = s.clock.minute + 1 ∧ clockSet = false ∨
        s.clock.rollover = .tickFirst minute clockSet) →
      s.link.gate ≠ .muteAfter 0 → (s.tickets.inFlight = none → s.tickets.waiting = []) →
      (s.link.run = .running → ∀ d, ¬dueAt minute.toNat d s) →
      ∃ t, exec whole s = .next t ∧
        t.clock = { s.clock with
          minute := if clockSet then s.clock.minute else minute
          second := if clockSet then s.clock.second else 0
          rollover := if s.clock.rollover = .none then .boundaryFirst s.clock.minute else .none } ∧
        t.store = s.store ∧ t.rows = s.rows ∧ t.accounts = s.accounts ∧ alarmStands s t ∧ rechecked recheckAfter [] s t ∧
        (s.clock.rollover = .none → earlyBoundaryWorked minute s t ∧ t.tariffs = s.tariffs) ∧
        (s.clock.rollover ≠ .none → boundaryWorked minute clockSet s t ∧ tariffSwapped s t ∧ boundaryPaged minute s t ∧
          ∀ n : Fin 1024, t.tariffs.meters[n] = bandSet s.store.slots[n] s.tariffs.meters[n] t)) ∧
  ∀ (early : TickOrder) (swapAfter : Nat) (minute : BitVec 32) (clockSet : Bool) (s : State),
    linkFree s → bookingsLawful s → s.link.run = .running → accessesIdle s → s.tickets.blocked = false →
    (s.clock.rollover = .tickFirst minute clockSet → ∃ u v w t,
      exec (.minuteBoundary ⟨early, true, swapAfter, 0⟩) s = .next t ∧
      portsAtBoundary minute.toNat true false ((List.finRange 64).take swapAfter) (boundaryFound minute clockSet .none s) u ∧
      tariffTaken u v ∧ portsAtBoundary minute.toNat true true ((List.finRange 64).drop swapAfter) v w ∧
      t = withPage t w ∧ boundaryPaged minute w t) ∧
    (s.clock.rollover = .none → s.clock.second = 59 → minute = s.clock.minute + 1 → ∃ t,
      exec (.minuteBoundary ⟨[], true, swapAfter, 0⟩) s = .next t ∧
      portsAtBoundary minute.toNat false false (List.finRange 64)
        (boundaryFound minute false (.boundaryFirst s.clock.minute) s) t)

/-- R53, R54, R48, R119, R122, R130, R140, R145, R163: at the boundary into its start minute the ACCEPTED head of a timeline
activates: its slot, the start band and first counted second of its meter, the owned mark and the BOOKING request of its port,
the severities of the source items, and its record. The other slots stand. Taken before its tick, the boundary leaves the start
band to the meter and tariff unit, which takes it after that tick (log 7). The alarm items follow the activation once, ALARM
follows them, and nothing else changes but the clock, the page and the ring re-check. The timeline is the only one with
something due. Model's choices: where the ring is blocked the re-check comes before the record writes or after them (log 21);
both wait behind an access in flight (log 9); a record is one write for each field, and the page's writes are divided as log 13
says (log 29). -/
def Obligations.BoundaryActivates : Prop :=
  ∀ (early : TickOrder) (swapAfter recheckAfter : Nat) (minute : BitVec 32) (clockSet : Bool) (d : Fin 64) (n : Fin 1024)
    (s : State),
    linkFree s → (s.tickets.inFlight = none → s.tickets.waiting = []) → s.link.run = .running →
    s.store.timelines[d].head? = some n →
    s.store.slots[n].state = .accepted → s.store.slots[n].start = minute.toNat → s.store.slots[n].port = d →
    (∀ e, e ≠ d → ¬dueAt minute.toNat e s) →
    let activated (t : State) :=
      t.store = { s.store with slots := s.store.slots.set n { s.store.slots[n] with
        state := .active
        activation := some minute.toNat } } ∧
      t.rows = s.rows.set d (rowActivated s.store.slots[n] s s.rows[d]) ∧ sourcesTold s t ∧ t.accounts = s.accounts ∧
      rechecked recheckAfter [recordWrite s n 20 (le 4 minute.toNat), recordWrite s n 0 [4]] s t
    let met (band : Option Band) : Meter := { s.tariffs.meters[n] with
      firstCounted := some { minute := minute.toNat, second := 0 }
      startBand := band }
    (s.clock.rollover = .tickFirst minute clockSet →
      ∃ t, exec (.minuteBoundary ⟨early, true, swapAfter, recheckAfter⟩) s = .next t ∧ activated t ∧
        boundaryWorked minute clockSet s t ∧ tariffSwapped s t ∧ boundaryPaged minute s t ∧
        (∀ k : Fin 1024, k ≠ n → t.tariffs.meters[k] = bandSet s.store.slots[k] s.tariffs.meters[k] t) ∧
        t.tariffs.meters[n] = met (bandNow minute.toNat t)) ∧
    (s.clock.rollover = .none → s.clock.second = 59 → minute = s.clock.minute + 1 →
      ∃ t, exec (.minuteBoundary ⟨[], true, swapAfter, recheckAfter⟩) s = .next t ∧ activated t ∧
        earlyBoundaryWorked minute s t ∧ t.tariffs = { s.tariffs with meters := s.tariffs.meters.set n (met none) })

/-- R53, R55 to R58, R45, R119, R122, R130, R149, R155, R163: at the boundary an ACTIVE head at its booked end with extension
enters OVERRUN and writes its state, before its tick or after it. An on-air head at its final end leaves its timeline and
closes. Taken before its tick, the close is held for the count of its last second; taken after it, the close goes to rating,
its account takes it, its ticket takes the next number, and when the slot of the ring has been read the ticket, the ENDED
record and the FREE slot follow. The port is asked for BLACK, unless the next member starts at that minute: it takes over and
activates in the same piece of work. The alarm items follow each close and each activation, ALARM follows them, and nothing
else changes but the clock, the page and the ring re-check. Nothing else is due. Model's choices: a booking closed before the
tariff unit has given it its start band takes that of the table current at the close (log 7); a close ends with its ticket, and
waits with the record writes behind an access in flight (log 9); the re-check takes its place among the closes as the operand
says (log 21); the writes of a record and of the page are divided as log 29 and log 13 say. -/
def Obligations.BoundaryEndsBookings : Prop :=
  ∀ (early : TickOrder) (swapAfter recheckAfter : Nat) (minute : BitVec 32) (clockSet : Bool) (d : Fin 64) (n : Fin 1024)
    (rest : List (Fin 1024)) (s : State),
    linkFree s → (s.tickets.inFlight = none → s.tickets.waiting = []) → s.link.run = .running →
    s.store.timelines[d] = n :: rest → n ∉ rest → s.store.slots[n].port = d → (∀ e, e ≠ d → ¬dueAt minute.toNat e s) →
    let b := s.store.slots[n]
    let starts (k : Fin 1024) := s.store.slots[k].state = .accepted ∧ s.store.slots[k].start = minute.toNat
    let cleared : Store := { s.store with timelines := s.store.timelines.set d rest }
    (s.clock.rollover = .tickFirst minute clockSet → b.state = .active → bookedEnd b = minute.toNat → 0 < b.extension →
      ∃ t, exec (.minuteBoundary ⟨early, true, swapAfter, recheckAfter⟩) s = .next t ∧
        t.store = { s.store with slots := s.store.slots.set n { b with state := .overrun } } ∧
        t.rows = s.rows ∧ t.accounts = s.accounts ∧ alarmStands s t ∧ boundaryWorked minute clockSet s t ∧
        tariffSwapped s t ∧ boundaryPaged minute s t ∧
        (∀ k : Fin 1024, t.tariffs.meters[k] = bandSet s.store.slots[k] s.tariffs.meters[k] t) ∧
        rechecked recheckAfter [recordWrite s n 0 [5]] s t) ∧
    (s.clock.rollover = .none → s.clock.second = 59 → minute = s.clock.minute + 1 → b.state = .active →
      bookedEnd b = minute.toNat → 0 < b.extension →
      ∃ t, exec (.minuteBoundary ⟨[], true, swapAfter, recheckAfter⟩) s = .next t ∧
        t.store = { s.store with slots := s.store.slots.set n { b with state := .overrun } } ∧
        t.rows = s.rows ∧ t.accounts = s.accounts ∧ alarmStands s t ∧ earlyBoundaryWorked minute s t ∧ t.tariffs = s.tariffs ∧
        rechecked recheckAfter [recordWrite s n 0 [5]] s t) ∧
    (s.clock.rollover = .none → s.clock.second = 59 → minute = s.clock.minute + 1 → slotOnAir b = true →
      finalEnd b = minute.toNat → (∀ k, rest.head? = some k → ¬starts k) →
      ∃ t, exec (.minuteBoundary ⟨[], true, swapAfter, recheckAfter⟩) s = .next t ∧
        t.store = { cleared with holds := s.store.holds ++ [{ slot := n, closeMinute := minute.toNat, counted := false }] } ∧
        t.rows = blackAsked d s ∧ sourcesTold s t ∧ t.tariffs = s.tariffs ∧ t.accounts = s.accounts ∧
        earlyBoundaryWorked minute s t ∧
        (recheckAfter = 0 → rechecked 0 [] s t) ∧
        (recheckAfter ≠ 0 → t.tickets = { s.tickets with recheckIn := some recheckAfter } ∧ hostWrites t = hostWrites s)) ∧
    (s.clock.rollover = .tickFirst minute clockSet → slotOnAir b = true → finalEnd b = minute.toNat →
      ∃ r t, exec (.minuteBoundary ⟨early, true, swapAfter, recheckAfter⟩) s = .next t ∧
        r.slot = n ∧ r.closeMinute = minute.toNat ∧ r.forOrder = false ∧ meterFields n s r ∧
        (onAirTicket n s r.ticket ∨ onAirTicket n { s with tariffs := t.tariffs } r.ticket) ∧
        closeAdded r s t ∧ boundaryWorked minute clockSet s t ∧ tariffSwapped s t ∧ boundaryPaged minute s t ∧
        ((∀ k, rest.head? = some k → ¬starts k) → sourcesTold s t ∧
          t.store = cleared ∧ t.rows = blackAsked d s ∧ closedAt recheckAfter r [] s t ∧
          (∀ k : Fin 1024, t.tariffs.meters[k] = bandSet s.store.slots[k] s.tariffs.meters[k] t) ∧
          (recheckAfter = 0 → s.tickets.blocked = false → s.tickets.inFlight = none → s.store.holds = [] →
            ∀ ring (state : Byte), s.tickets.ring = some ring → ∃ u v,
              closeTaken (state != 0) r ring t u ∧ exec (.ticketSlotReadComplete state) t = .next v ∧
              v = withPage v u ∧ v.link.pageTicks = [] ∧ owedPaged t.link.pageTicks u v)) ∧
        ∀ k, rest.head? = some k → starts k → s.store.slots[k].port = d →
          t.store = { cleared with slots := s.store.slots.set k { s.store.slots[k] with
            state := .active
            activation := some minute.toNat } } ∧
          t.rows = s.rows.set d (rowActivated s.store.slots[k] s s.rows[d]) ∧
          (∃ a, derivedFrom { s with store := cleared } s.alarm a ∧ derivedFrom t a t.alarm) ∧
          t.link.flags = withAlarmLevel s.link.flags (alarmLevel t) ∧
          t.tariffs.meters[k] = { s.tariffs.meters[k] with
            firstCounted := some { minute := minute.toNat, second := 0 }
            startBand := t.tariffs.current.map fun x => x.bands[Fin.ofNat 168 (minute.toNat / 60 % 168)] } ∧
          (∀ j : Fin 1024, j ≠ k → t.tariffs.meters[j] = bandSet s.store.slots[j] s.tariffs.meters[j] t) ∧
          closedAt recheckAfter r [recordWrite s k 20 (le 4 minute.toNat), recordWrite s k 0 [4]] s t)

/-! ### The line monitors and protection -/

/-- R84, R86, R87, R88, R90, R91, R92, R93: what a monitor makes of the second that a tick ends: in service its class, its
counter, its health, bad count and restore timer. The tick that finds the first-second mark set clears it and classes nothing,
and out of service the monitor stands. -/
def Obligations.MonitorJudgesSecond : Prop :=
  (∀ m : Monitor, m.inService = false → monitorAtTick m = m) ∧
  (∀ m : Monitor, m.inService = true → m.firstSecond = true → monitorAtTick m = { m with
    firstSecond := false
    seen := { lightLost := !m.light, lockLost := !m.lock, blocks := 0 } }) ∧
  ∀ m : Monitor, m.inService = true → m.firstSecond = false →
    let dark := m.seen.lightLost = true
    let severe := ¬dark ∧ (m.seen.lockLost = true ∨ m.severeThreshold ≤ m.seen.blocks)
    let errored := ¬dark ∧ ¬severe ∧ 1 ≤ m.seen.blocks
    let bad := dark ∨ severe
    let x := monitorAtTick m
    (x.lastClass = .dark ↔ dark) ∧ (x.lastClass = .severe ↔ severe) ∧ (x.lastClass = .errored ↔ errored) ∧
    (x.lastClass = .clean ↔ ¬bad ∧ ¬errored) ∧
    (dark → x.darkSeconds = min 65535 (m.darkSeconds + 1) ∧ x.severeSeconds = m.severeSeconds ∧
      x.erroredSeconds = m.erroredSeconds) ∧
    (severe → x.severeSeconds = min 65535 (m.severeSeconds + 1) ∧ x.darkSeconds = m.darkSeconds ∧
      x.erroredSeconds = m.erroredSeconds) ∧
    (errored → x.erroredSeconds = min 65535 (m.erroredSeconds + 1) ∧ x.darkSeconds = m.darkSeconds ∧
      x.severeSeconds = m.severeSeconds) ∧
    (¬bad ∧ ¬errored → x.erroredSeconds = m.erroredSeconds ∧ x.darkSeconds = m.darkSeconds ∧
      x.severeSeconds = m.severeSeconds) ∧
    x.seen = { lightLost := !m.light, lockLost := !m.lock, blocks := 0 } ∧
    (m.health = .ok → bad → x.health = (if m.holdOff ≤ 1 then .failed else .suspect) ∧
      x.badCount = (if m.holdOff ≤ 1 then 0 else 1)) ∧
    (m.health = .ok → ¬bad → x.health = .ok ∧ x.badCount = m.badCount) ∧
    (m.health = .suspect → bad → x.health = (if m.holdOff ≤ m.badCount + 1 then .failed else .suspect) ∧
      x.badCount = (if m.holdOff ≤ m.badCount + 1 then 0 else m.badCount + 1)) ∧
    (m.health = .suspect → ¬bad → x.health = .ok ∧ x.badCount = 0) ∧
    (m.health = .failed → bad → x.health = .failed) ∧
    (m.health = .failed → ¬bad → x.health = .recovering ∧ x.restoreTimer = m.restoreTime) ∧
    (m.health = .recovering → bad → x.health = .failed ∧ x.restoreTimer = 0) ∧
    (m.health = .recovering → ¬bad → x.restoreTimer = m.restoreTimer - 1 ∧
      x.health = (if m.restoreTimer ≤ 1 then .ok else .recovering)) ∧
    x.failures = (if x.health = .failed ∧ m.health ≠ .failed then min 65535 (m.failures + 1) else m.failures) ∧
    x.inService = true ∧ x.firstSecond = false ∧ x.holdOff = m.holdOff ∧ x.restoreTime = m.restoreTime ∧
    x.severeThreshold = m.severeThreshold ∧ x.fastDetect = m.fastDetect

/-- R84, R95: what a receiver reports is gathered for the second in progress, for a port in service, and an edge of light
under fast detect takes an OK, SUSPECT or RECOVERING port to FAILED at once. A report that changes no health changes nothing
but its monitor. How the levels follow the reports is the model's reading, and an edge that comes with light already absent,
which cannot arise, is taken as an edge: a choice of the model (log 22). -/
def Obligations.ObservationTaken : Prop :=
  ∀ (p : Fin 48) (s : State), s.resetn = true →
    let m := s.monitors[p]
    exec (.receiverObservation p .erroredBlock) s = .next { s with monitors := s.monitors.set p { m with
      seen := { m.seen with blocks := if m.inService = true ∧ m.lock = true then min 65535 (m.seen.blocks + 1)
        else m.seen.blocks } } } ∧
    (∀ held, exec (.receiverObservation p (.lock held)) s = .next { s with monitors := s.monitors.set p { m with
      lock := held
      seen := { m.seen with lockLost := m.seen.lockLost || (m.inService && !held) } } }) ∧
    exec (.receiverObservation p (.light true)) s =
      .next { s with monitors := s.monitors.set p { m with light := true } } ∧
    (m.light = false → exec (.receiverObservation p (.light false)) s = .next s) ∧
    (m.light = true → exec (.receiverObservation p (.light false)) s = exec (.lossOfLightEdge p) s) ∧
    (m.fastDetect = false ∨ m.health = .failed ∨ m.health = .outOfService →
      exec (.lossOfLightEdge p) s = .next { s with monitors := s.monitors.set p { m with
        light := false
        seen := { m.seen with lightLost := m.seen.lightLost || m.inService } } }) ∧
    (m.fastDetect = true → m.health = .ok ∨ m.health = .suspect ∨ m.health = .recovering →
      ∃ t, exec (.lossOfLightEdge p) s = .next t ∧ healthHanded p s t ∧ t.monitors = s.monitors.set p { m with
        light := false
        seen := { m.seen with lightLost := m.seen.lightLost || m.inService }
        health := .failed
        badCount := 0
        restoreTimer := 0
        failures := min 65535 (m.failures + 1) })

/-- R90, R91, R93: the tick at which a bad count reaches the hold-off takes the port to FAILED, and the one at which a restore
timer falls to 0 takes it to OK. Each command has the monitor take that tick ahead of the other blocks, and has no effect
where the tick would not do so (log 8). -/
def Obligations.HoldOffAndRestoreTaken : Prop :=
  ∀ (p : Fin 48) (s : State), s.resetn = true →
    let m := s.monitors[p]
    let bad := m.seen.lightLost = true ∨ m.seen.lockLost = true ∨ m.severeThreshold ≤ m.seen.blocks
    let takes := m.inService = true ∧ m.firstSecond = false ∧ m.tookTick = false
    (takes ∧ bad ∧ (m.health = .ok ∧ m.holdOff ≤ 1 ∨ m.health = .suspect ∧ m.holdOff ≤ m.badCount + 1) →
      ∃ t, exec (.holdOffReached p) s = .next t ∧ healthHanded p s t ∧ t.monitors[p].health = .failed ∧
        t.monitors[p].badCount = 0 ∧ t.monitors[p].tookTick = true ∧
        t.monitors = s.monitors.set p { monitorAtTick m with tookTick := true }) ∧
    (takes ∧ ¬bad ∧ m.health = .recovering ∧ m.restoreTimer ≤ 1 →
      ∃ t, exec (.restoreTimerExpiry p) s = .next t ∧ healthHanded p s t ∧ t.monitors[p].health = .ok ∧
        t.monitors[p].restoreTimer = 0 ∧ t.monitors[p].tookTick = true ∧
        t.monitors = s.monitors.set p { monitorAtTick m with tookTick := true }) ∧
    (¬(takes ∧ bad ∧ (m.health = .ok ∧ m.holdOff ≤ 1 ∨ m.health = .suspect ∧ m.holdOff ≤ m.badCount + 1)) →
      exec (.holdOffReached p) s = .next s) ∧
    (¬(takes ∧ ¬bad ∧ m.health = .recovering ∧ m.restoreTimer ≤ 1) → exec (.restoreTimerExpiry p) s = .next s)

/-- R105, R106, R107: the leg the selection rule chooses, at activation from the healths alone, and afterwards from the
intended leg, for every mode and every pair of healths of two ports in service. -/
def Obligations.SelectionRuleChooses : Prop :=
  ∀ (b : Slot) (health : Fin 48 → Health) (k : Fin 48), health b.primary ≠ .outOfService → health k ≠ .outOfService →
    (b.legMode = .lockPrimary ∨ b.backup = none → ∀ leg,
      chooseAtActivation b health = .port b.primary ∧ chooseLater b health leg = .port b.primary) ∧
    (b.backup = some k → k ≠ b.primary →
      (b.legMode = .lockBackup → ∀ leg, chooseAtActivation b health = .port k ∧ chooseLater b health leg = .port k) ∧
      (b.legMode = .autoRevertive ∨ b.legMode = .autoHold →
        (chooseAtActivation b health = .port k ↔
          (health b.primary = .failed ∨ health b.primary = .recovering) ∧ health k = .ok) ∧
        (chooseAtActivation b health = .port k ∨ chooseAtActivation b health = .port b.primary) ∧
        (chooseLater b health (.port b.primary) =
          if health b.primary = .failed ∧ health k = .ok then .port k else .port b.primary) ∧
        (chooseLater b health (.port k) =
          if health k = .failed ∧ health b.primary = .ok ∨ b.legMode = .autoRevertive ∧ health b.primary = .ok then
            .port b.primary else .port k)))

/-- R73: a request for the current source clears the pending selection, and any other becomes it; the current source and
every other row stay. -/
def Obligations.RequestTaken : Prop :=
  ∀ (d : Fin 64) (target : Source) (cause : Cause) (s : State),
    let t := request d target cause s
    t.rows[d] = { s.rows[d] with
      pending := if target = s.rows[d].current then none else some { target := target, cause := cause } } ∧
    (∀ e : Fin 64, e ≠ d → t.rows[e] = s.rows[e]) ∧ t = { s with rows := t.rows }

/-! ### The orders -/

/-- R18 to R20, R24, R25, R30: the entry read is refused with NOT_READY or BAD_ORDER, or handed to its owning block with its
arguments. A completion that no read waits for changes nothing (log 2). -/
def Obligations.EntryReadTaken : Prop :=
  ∀ (bytes : Vector Byte 24) (s : State), linkFree s →
    (s.orders.unit ≠ .reading → exec (.entryReadComplete bytes) s = .next s) ∧
    (s.orders.unit = .reading →
      let notify := fieldAt bytes 2 1 == 1
      let code := fieldAt bytes 1 1
      (fieldAt bytes 0 1 ≠ 1 → ∃ t, exec (.entryReadComplete bytes) s = .next t ∧ reported notify .notReady [] s t) ∧
      (fieldAt bytes 0 1 = 1 → code = 0 ∨ 11 < code →
        ∃ t, exec (.entryReadComplete bytes) s = .next t ∧ reported notify .badOrder [] s t) ∧
      (fieldAt bytes 0 1 = 1 → 1 ≤ code → code ≤ 11 → ∃ o : Order,
        exec (.entryReadComplete bytes) s =
          .next { s with orders := { s.orders with unit := .acting o .dispatched } } ∧
        [OrderCode.book, .cancel, .extend, .switch, .setLeg, .setPort, .readPort, .loadTariff, .latchAccount, .closeMatch,
          .setClock][code - 1]? = some o.code ∧
        o.notify = notify ∧ o.a.toNat = fieldAt bytes 4 4 ∧ o.b.toNat = fieldAt bytes 8 4 ∧
        o.c.toNat = fieldAt bytes 12 4 ∧ o.d.toNat = fieldAt bytes 16 8))

/-- R49, R47: BOOK n is refused with BAD_NUMBER or NOT_FREE, or the record of a FREE slot is read; behind an access in flight
the read waits its turn (log 9). An order whose slot's close is under way waits (log 17). -/
def Obligations.BookTaken : Prop :=
  ∀ (o : Order) (s : State), handed .book o s →
    (s.store.bookCount ≤ o.a.toNat ∨ 1024 ≤ o.a.toNat →
      ∃ t, exec .book s = .next t ∧ reported o.notify .badNumber [] s t) ∧
    ∀ n : Fin 1024, n.val = o.a.toNat → n.val < s.store.bookCount →
      (closing n s = true → exec .book s = .next s) ∧
      (closing n s = false → s.store.slots[n].state ≠ .free →
        ∃ t, exec .book s = .next t ∧
          reported o.notify .notFree (zeros 12 ++ le 1 (slotStateCode s.store.slots[n].state)) s t) ∧
      (closing n s = false → s.store.slots[n].state = .free →
        let queued : State := { s with orders := { s.orders with unit := .acting o .queued } }
        (accessesIdle s → exec .book s = .next { queued with
          tickets := { s.tickets with inFlight := some (.recordRead n) }
          link := { s.link with
            log := s.link.log ++ [.read (s.store.bookBase + BitVec.ofNat 64 (64 * n.val)) 20] } }) ∧
        (s.tickets.inFlight ≠ none → exec .book s = .next { queued with
          tickets := { s.tickets with waiting := s.tickets.waiting ++ [.recordRead n] } }))

/-- R47 to R51, R45, R154, R23: BOOK works from the record it has read. A record that is not NEW is left; the first check that
fails is written into it and refuses the order; otherwise the slot is filled, joins the timeline of its port by its start
minute, counts in the account of its match and finds a cleared meter, and the record is written before the entry. Behind the
accesses that waited for the read, the record and the report wait their turn: writes go first, and the ticket of a close takes
its number and reads its slot, or the re-check of a blocked ring reads it, before them (log 9). LATE and RANGE are judged by
the minute at which the read completes (log 32), and each field of the record is one write (log 29). The page logic has no tick
of a boundary outstanding (PageCompleted has that case). -/
def Obligations.BookRecordTaken : Prop :=
  ∀ (bytes : Vector Byte 20) (n : Fin 1024) (o : Order) (s : State), linkFree s → s.orders.unit = .acting o .queued →
    s.tickets.inFlight = some (.recordRead n) → s.link.pageTicks = [] →
    ∃ code result ws u, bookWorked bytes n s code result ws u ∧
      (∀ earlier : List HostWrite, s.tickets.waiting = earlier.map Access.write → ∃ t, exec (.bookRecordRead bytes) s = .next t ∧
        reported o.notify code result { u with
          tickets := { s.tickets with
            inFlight := none
            waiting := [] }
          link := { s.link with log := s.link.log ++ (earlier ++ ws).map LinkOp.write } } t) ∧
      ∀ (ring : Ring) (earlier : List HostWrite) (a : Access) (later : List Access),
        s.tickets.waiting = earlier.map Access.write ++ a :: later → s.tickets.ring = some ring →
        ((∃ r, a = .raise r) ∨ a = .recheck ∧ s.tickets.blocked = true) →
        exec (.bookRecordRead bytes) s = .next { u with
          tickets := { s.tickets with
            number := if a = .recheck then s.tickets.number else s.tickets.number + 1
            inFlight := some a
            waiting := later ++ ws.map Access.write ++ [.report code result] }
          link := { s.link with log := s.link.log ++ earlier.map LinkOp.write ++
            [.read (ring.base + BitVec.ofNat 64 (32 * s.tickets.writePosition)) 1] } }

/-- R61, R62, R119, R149, R150, R152: CANCEL is refused with BAD_NUMBER or BAD_STATE, or closes its booking: the booking leaves
its timeline and its close is rated and handed to the account and ticket unit, which adds it to the account and raises its
ticket in its turn: ticket, record, FREE slot and report follow when the slot of the ring has been read (TicketSlotReadTaken;
log 9). An ACCEPTED booking is a late cancel at the minimum charge below the cutoff and costs nothing above it; an on-air one
is rated, its port asked for BLACK, and the source items follow, ALARM with them. Model's choices: an on-air booking that
activated ahead of its tick and is cancelled before the tariff unit takes the boundary is priced with the start band of the
table current at the CANCEL (log 7); an order whose slot's close is under way waits (log 17). -/
def Obligations.CancelTaken : Prop :=
  ∀ (o : Order) (s : State), handed .cancel o s →
    (s.store.bookCount ≤ o.a.toNat ∨ 1024 ≤ o.a.toNat →
      ∃ t, exec .cancel s = .next t ∧ reported o.notify .badNumber [] s t) ∧
    ∀ n : Fin 1024, n.val = o.a.toNat → n.val < s.store.bookCount →
      let b := s.store.slots[n]
      let m := s.tariffs.meters[n]
      let now := s.clock.minute.toNat
      (closing n s = true → exec .cancel s = .next s) ∧
      (closing n s = false → b.state = .free →
        ∃ t, exec .cancel s = .next t ∧ reported o.notify .badState [] s t) ∧
      (closing n s = false → b.state ≠ .free → (s.tickets.inFlight = none → s.tickets.waiting = []) →
        ∃ r t, exec .cancel s = .next t ∧ r.slot = n ∧ r.closeMinute = now ∧ r.forOrder = true ∧
          ticketOf b n r.ticket ∧ meterFields n s r ∧ raisingFrom r s t ∧
          storeWorked { s with orders := { s.orders with unit := .acting o .queued } } t ∧
          t.store = { s.store with
            timelines := s.store.timelines.set b.port (s.store.timelines[b.port].filter fun k => decide (k ≠ n)) } ∧
          (b.state = .accepted → ∀ table, s.tariffs.current = some table →
            let late := b.start - now < table.classes[b.cls].cutoff
            let band := table.bands[Fin.ofNat 168 (b.start / 60 % 168)]
            t.rows = s.rows ∧ alarmStands s t ∧ r.ticket.minute = b.start ∧ r.ticket.charged = 0 ∧
            r.ticket.outage = 0 ∧
            (late → r.ticket.kind = .lateCancel ∧
              r.ticket.charge = table.classes[b.cls].minimum * bandValue band table.classes[b.cls].rate ∧
              t.tariffs = { s.tariffs with meters := s.tariffs.meters.set n { m with startBand := some band } }) ∧
            (¬late → r.ticket.kind = .cancel ∧ r.ticket.charge = 0 ∧ t.tariffs = s.tariffs)) ∧
          (b.state ≠ .accepted → onAirTicket n s r.ticket ∧ t.tariffs = s.tariffs ∧
            sourcesTold s t ∧
            ((∀ k ∈ s.store.timelines[b.port], k ≠ n → s.store.slots[k].start ≠ now) →
              t.rows = blackAsked b.port s)))

/-- R59: EXTEND checks its number, its minutes and its slot, and grants the smallest of the minutes asked, 240 less the
extension, and the gap before the next member of the timeline. A grant of 0 is refused with EXTEND_LIMIT or CONFLICT. Behind
an access in flight the booking is extended at once, and its record write and its report wait (log 9). An order whose slot's
close is under way waits (log 17). -/
def Obligations.ExtendTaken : Prop :=
  ∀ (o : Order) (s : State), handed .extend o s →
    (s.store.bookCount ≤ o.a.toNat ∨ 1024 ≤ o.a.toNat →
      ∃ t, exec .extend s = .next t ∧ reported o.notify .badNumber [] s t) ∧
    ∀ n : Fin 1024, n.val = o.a.toNat → n.val < s.store.bookCount →
      let b := s.store.slots[n]
      let k := o.b.toNat
      (k = 0 ∨ 60 < k → ∃ t, exec .extend s = .next t ∧ reported o.notify .badDuration [] s t) ∧
      (1 ≤ k → k ≤ 60 → closing n s = true → exec .extend s = .next s) ∧
      (1 ≤ k → k ≤ 60 → closing n s = false → b.state = .free →
        ∃ t, exec .extend s = .next t ∧ reported o.notify .badState [] s t) ∧
      (1 ≤ k → k ≤ 60 → closing n s = false → b.state ≠ .free →
        ∀ before after, s.store.timelines[b.port] = before ++ n :: after → n ∉ before →
        let grant := extensionGrant n k after s
        (grant = 0 → ∃ t, exec .extend s = .next t ∧
          reported o.notify (if b.extension = 240 then .extendLimit else .conflict) [] s t) ∧
        (0 < grant →
          let outcome : OutcomeCode := if grant < k then .clamped else .ok
          let result := le 2 grant ++ le 2 (b.extension + grant) ++ le 4 (finalEnd b + grant)
          let field := recordWrite s n 28 (le 2 (b.extension + grant))
          (accessesIdle s → ∃ t, exec .extend s = .next t ∧ reported o.notify outcome result
            { extended n grant s with link := { s.link with log := s.link.log ++ [.write field] } } t) ∧
          (s.tickets.inFlight ≠ none → exec .extend s = .next { extended n grant s with
            orders := { s.orders with unit := .acting o .queued }
            tickets := { s.tickets with waiting := s.tickets.waiting ++ [.write field, .report outcome result] } })))

/-- R82, R73, R174: SWITCH is refused with BAD_PORT or OWNED, or is a MANUAL request on its port; its result shows the port
before and after. -/
def Obligations.SwitchTaken : Prop :=
  ∀ (o : Order) (s : State), handed .switch o s →
    (64 ≤ o.a.toNat ∨ (48 ≤ o.b.toNat ∧ o.b.toNat ≠ 255) →
      ∃ t, exec .switch s = .next t ∧ reported o.notify .badPort [] s t) ∧
    ∀ (d : Fin 64) (target : Source), d.val = o.a.toNat →
      (o.b.toNat = 255 ∧ target = .black ∨ ∃ p : Fin 48, p.val = o.b.toNat ∧ target = .port p) →
      ((ownerOf d s).isSome = true → ∃ t, exec .switch s = .next t ∧ reported o.notify .owned [] s t) ∧
      (ownerOf d s = none → ∃ t, exec .switch s = .next t ∧
        let r := s.rows[d]
        reported o.notify .ok
          (le 1 d.val ++ le 1 o.b.toNat ++ le 1 (sourceCode r.current) ++ [if target = r.current then 0 else 1] ++
            (match r.pending with
              | none => [254, 0]
              | some x => le 1 (sourceCode x.target) ++ le 1 (causeCode x.cause)))
          { s with rows := s.rows.set d { r with
              pending := if target = r.current then none else some { target := target, cause := .manual } } } t)

/-- R117, R105, R107, R174: SET LEG checks its number, its mode and its slot and stores the mode; for a booking on air the rule
is applied, and a chosen leg that is not the intended one is requested with cause PROTECTION. An order whose slot's close is
under way waits (log 17). -/
def Obligations.SetLegTaken : Prop :=
  ∀ (o : Order) (s : State), handed .setLeg o s →
    (s.store.bookCount ≤ o.a.toNat ∨ 1024 ≤ o.a.toNat →
      ∃ t, exec .setLeg s = .next t ∧ reported o.notify .badNumber [] s t) ∧
    ∀ n : Fin 1024, n.val = o.a.toNat → n.val < s.store.bookCount →
      let b := s.store.slots[n]
      (4 ≤ o.b.toNat → ∃ t, exec .setLeg s = .next t ∧ reported o.notify .range [] s t) ∧
      ∀ mode, [LegMode.autoRevertive, .autoHold, .lockPrimary, .lockBackup][o.b.toNat]? = some mode →
        let legal := ¬(mode = .lockBackup ∧ b.backup = none)
        let b1 : Slot := { b with legMode := mode }
        let s1 : State := { s with store := { s.store with slots := s.store.slots.set n b1 } }
        let leg := intended s.rows[b.port]
        let chosen := chooseLater b1 (fun p => s.monitors[p].health) leg
        let asked := slotOnAir b = true ∧ chosen ≠ leg
        (closing n s = true → exec .setLeg s = .next s) ∧
        (closing n s = false → b.state = .free →
          ∃ t, exec .setLeg s = .next t ∧ reported o.notify .badState [] s t) ∧
        (closing n s = false → b.state ≠ .free → ¬legal →
          ∃ t, exec .setLeg s = .next t ∧ reported o.notify .noBackup [] s t) ∧
        (closing n s = false → b.state ≠ .free → legal → ∃ t, exec .setLeg s = .next t ∧
          reported o.notify .ok
            (le 4 n.val ++ le 1 (slotStateCode b.state) ++ le 1 (legModeCode b.legMode) ++ le 1 (legModeCode mode) ++
              le 1 (if slotOnAir b then sourceCode leg else 254) ++ le 1 (if asked then sourceCode chosen else 254))
            { s1 with rows := if asked then s.rows.set b.port { s.rows[b.port] with
                pending := if chosen = s.rows[b.port].current then none
                  else some { target := chosen, cause := .protection } } else s.rows } t)

/-- R97, R98, R99, R94: SET PORT is refused with BAD_PORT, or with IN_USE when it would take a leg of a booking out of
service; otherwise the monitor takes its values, brought into range, enters or leaves service, and a change of health is
handed on. The slot of a close that is under way is not FREE yet, and counts (log 17). -/
def Obligations.SetPortTaken : Prop :=
  ∀ (o : Order) (s : State), handed .setPort o s →
    (48 ≤ o.a.toNat → ∃ t, exec .setPort s = .next t ∧ reported o.notify .badPort [] s t) ∧
    ∀ p : Fin 48, p.val = o.a.toNat →
      let off := o.b.toNat % 256 = 0
      let user (n : Fin 1024) := s.store.slots[n].state ≠ .free ∧ isLeg s.store.slots[n] p = true
      (∀ n, off → user n → (∀ k, k < n → ¬user k) → ∃ t, exec .setPort s = .next t ∧
        reported o.notify .inUse (zeros 12 ++ le 2 n.val) s t) ∧
      (¬off ∨ (∀ n, ¬user n) → ∃ x u t, exec .setPort s = .next t ∧ portSet o s.monitors[p] x ∧
        (x.health = s.monitors[p].health → u = { s with monitors := s.monitors.set p x }) ∧
        (x.health ≠ s.monitors[p].health → healthHanded p s u ∧ u.monitors = s.monitors.set p x) ∧
        reported o.notify
          (if x.holdOff = o.c.toNat ∧ x.restoreTime = o.d.toNat % 2 ^ 32 ∧ x.severeThreshold = o.d.toNat / 2 ^ 32 then .ok
            else .clamped)
          (le 1 x.holdOff ++ le 1 (boolCode x.fastDetect) ++ le 1 (boolCode x.inService) ++
            le 1 (healthCode s.monitors[p].health) ++ le 2 x.restoreTime ++ le 1 (healthCode x.health) ++ [0] ++
            le 4 x.severeThreshold) u t)

/-- R101: READ PORT is refused with BAD_PORT, or reports the snapshot of its monitor and clears the four counters when asked
to. -/
def Obligations.ReadPortTaken : Prop :=
  ∀ (o : Order) (s : State), handed .readPort o s →
    (48 ≤ o.a.toNat → ∃ t, exec .readPort s = .next t ∧ reported o.notify .badPort [] s t) ∧
    ∀ p : Fin 48, p.val = o.a.toNat → ∃ t, exec .readPort s = .next t ∧
      let m := s.monitors[p]
      reported o.notify .ok
        (le 1 (boolCode m.inService) ++ le 1 (boolCode m.fastDetect) ++ le 1 m.holdOff ++ le 1 (healthCode m.health) ++
          le 2 m.restoreTime ++ le 1 m.badCount ++ le 1 (classCode m.lastClass) ++ le 4 m.severeThreshold ++
          le 2 m.erroredSeconds ++ le 2 m.severeSeconds ++ le 2 m.darkSeconds ++ le 2 m.failures ++ le 2 m.restoreTimer)
        (if o.b = 0 then s else { s with monitors := s.monitors.set p { m with
          erroredSeconds := 0
          severeSeconds := 0
          darkSeconds := 0
          failures := 0 } }) t

/-- R133: LOAD TARIFF is refused with WINDOW, or with SEGMENT and offset 65,535 for a wrong length, before any access;
otherwise it reads the 240 bytes of the segment. -/
def Obligations.LoadTariffTaken : Prop :=
  ∀ (o : Order) (s : State), handed .loadTariff o s →
    (¬segmentPlaced s o.d.toNat → ∃ t, exec .loadTariff s = .next t ∧ reported o.notify .window [] s t) ∧
    (segmentPlaced s o.d.toNat → o.a.toNat ≠ 240 → ∃ t, exec .loadTariff s = .next t ∧
      reported o.notify .segment (zeros 6 ++ le 2 65535) s t) ∧
    (segmentPlaced s o.d.toNat → o.a.toNat = 240 → exec .loadTariff s = .next { s with
      orders := { s.orders with unit := .acting o .segmentRead }
      link := { s.link with log := s.link.log ++ [.read o.d 240] } })

/-- R134, R135, R132, R137: the first check of a segment that fails refuses LOAD TARIFF with its offset; otherwise the table it
carries is staged, and the result gives the minute of the next boundary that the meter and tariff unit takes (log 32). A
completion that no LOAD TARIFF waits for changes nothing (log 2). -/
def Obligations.TariffSegmentTaken : Prop :=
  ∀ (bytes : Vector Byte 240) (s : State), linkFree s →
    ((∀ o, s.orders.unit ≠ .acting o .segmentRead) → exec (.tariffSegmentRead bytes) s = .next s) ∧
    ∀ o, s.orders.unit = .acting o .segmentRead →
      let effect : BitVec 32 := match s.clock.rollover with
        | .tickFirst minute _ => minute
        | .boundaryFirst ended => ended + 1
        | .none | .handed _ => s.clock.minute + 1
      (∀ earlier offset later, segmentOffsets = earlier ++ offset :: later → (∀ x ∈ earlier, ¬segmentFails bytes x) →
        segmentFails bytes offset → ∃ t, exec (.tariffSegmentRead bytes) s = .next t ∧
          reported o.notify .segment (zeros 6 ++ le 2 offset) s t) ∧
      ((∀ x ∈ segmentOffsets, ¬segmentFails bytes x) → ∃ table t, exec (.tariffSegmentRead bytes) s = .next t ∧
        tableCarried bytes table ∧
        reported o.notify .ok
          (le 4 effect.toNat ++ [if s.tariffs.current.isSome then 2 else 3] ++
            [if s.tariffs.staged.isSome then 1 else 0])
          { s with tariffs := { s.tariffs with staged := some table } } t)

/-- R156, R157: LATCH ACCOUNT reports the snapshot of an OPEN account; CLOSE MATCH is refused with OPEN_BOOKINGS while the
account has bookings, and otherwise reads the state byte of the slot at the write position, in its turn (log 9). Both are
refused with NO_MATCH without an OPEN account. Where a close of the match is under way either order waits (log 17). -/
def Obligations.AccountOrdersTaken : Prop :=
  ∀ (o : Order) (s : State),
    let waits := ∃ n ∈ closingSlots s, s.store.slots[n].matchNumber = o.a.toNat
    (∀ c code, (c = .latchAccount ∧ code = .latchAccount ∨ c = .closeMatch ∧ code = .closeMatch) → handed code o s →
      (waits → exec c s = .next s) ∧
      (¬waits → (∀ k : Fin 128, ¬(s.accounts[k].isOpen = true ∧ s.accounts[k].matchNumber = o.a.toNat)) →
        ∃ t, exec c s = .next t ∧ reported o.notify .noMatch [] s t)) ∧
    ∀ k : Fin 128, s.accounts[k].isOpen = true → s.accounts[k].matchNumber = o.a.toNat → accountsLawful s → ¬waits →
      let a := s.accounts[k]
      (handed .latchAccount o s → ∃ t, exec .latchAccount s = .next t ∧ reported o.notify .ok (accountBytes a) s t) ∧
      (handed .closeMatch o s → 0 < a.openCount → ∃ t, exec .closeMatch s = .next t ∧
        reported o.notify .openBookings (accountBytes a) s t) ∧
      (handed .closeMatch o s → a.openCount = 0 →
        let check : Access := .totalCheck k s.clock.minute.toNat
        let queued : State := { s with orders := { s.orders with unit := .acting o .queued } }
        (accessesIdle s → ∀ ring, s.tickets.ring = some ring → exec .closeMatch s = .next { queued with
          tickets := { s.tickets with inFlight := some check }
          link := { s.link with log := s.link.log ++
            [.read (ring.base + BitVec.ofNat 64 (32 * s.tickets.writePosition)) 1] } }) ∧
        (s.tickets.inFlight ≠ none → exec .closeMatch s = .next { queued with
          tickets := { s.tickets with waiting := s.tickets.waiting ++ [check] } }))

/-- R41, R42: SET CLOCK is refused while a slot of the book is not FREE; otherwise the minute is the argument and the second
count 0, and the result shows the time before it. A boundary outstanding after its tick has brought the new minute already,
and keeps its own (log 5). While a close is under way the order waits for the slot to be FREE (log 17). -/
def Obligations.SetClockTaken : Prop :=
  ∀ (o : Order) (s : State), handed .setClock o s →
    (closingSlots s ≠ [] → exec .setClock s = .next s) ∧
    (closingSlots s = [] → (∃ n : Fin 1024, n.val < s.store.bookCount ∧ s.store.slots[n].state ≠ .free) →
      ∃ t, exec .setClock s = .next t ∧ reported o.notify .bookingsExist [] s t) ∧
    (closingSlots s = [] → (∀ n : Fin 1024, n.val < s.store.bookCount → s.store.slots[n].state = .free) →
      ((∀ m b, s.clock.rollover ≠ .tickFirst m b) → ∃ t, exec .setClock s = .next t ∧
        reported o.notify .ok (le 4 s.clock.minute.toNat ++ le 4 o.a.toNat ++ le 1 s.clock.second)
          { s with clock := { s.clock with
            minute := o.a
            second := 0 } } t) ∧
      ∀ m b, s.clock.rollover = .tickFirst m b → ∃ t, exec .setClock s = .next t ∧
        reported o.notify .ok
          (le 4 (if b then s.clock.minute else m).toNat ++ le 4 o.a.toNat ++ le 1 (if b then s.clock.second else 0))
          { s with clock := { s.clock with
            minute := o.a
            second := 0
            rollover := .tickFirst m true } } t)

/-! ### Closes, tickets and rating -/

/-- R58, R141, R149, R150, R155, R163: the first held close, the model's choice among several (log 10), goes on to rating once
its last second has been counted: its account takes it, its ticket is raised in its turn, and record and FREE slot follow when
the slot of the ring has been read (log 9; TicketSlotReadTaken). A re-check that waits for the closes of the boundary follows
the last of them (log 21). A booking that the tariff unit has given no start band yet is priced with that of the table current
at the release (log 7). Until the count, or with no close held, nothing happens (log 2). The page logic has no tick of a
boundary outstanding (PageCompleted has that case). -/
def Obligations.RatingReleased : Prop :=
  ∀ s : State, linkFree s → s.link.pageTicks = [] → (s.tickets.inFlight = none → s.tickets.waiting = []) →
    (s.store.holds = [] → exec .ratingRelease s = .next s) ∧
    ∀ h rest, s.store.holds = h :: rest →
      (h.counted = false → exec .ratingRelease s = .next s) ∧
      (h.counted = true → ∃ r t, exec .ratingRelease s = .next t ∧
        let left := match s.tickets.recheckIn with
          | some (k + 2) => if rest = [] then none else some (k + 1)
          | _ => none
        let behind := if s.tickets.recheckIn.isSome = true ∧ left = none then [Access.recheck] else []
        r.slot = h.slot ∧ r.closeMinute = h.closeMinute ∧ r.forOrder = false ∧ onAirTicket h.slot s r.ticket ∧
        meterFields h.slot s r ∧ hostWrites t = hostWrites s ∧
        closeAdded r s t ∧
        (s.tickets.inFlight = none → slotRead s t ∧ t.tickets = { s.tickets with
          number := s.tickets.number + 1
          recheckIn := left
          inFlight := some (.raise r)
          waiting := behind }) ∧
        (s.tickets.inFlight ≠ none → t.tickets = { s.tickets with
          recheckIn := left
          waiting := s.tickets.waiting ++ .raise r :: behind }) ∧
        t.store = { s.store with holds := rest } ∧ storeWorked s t ∧ t.rows = s.rows ∧ t.tariffs = s.tariffs ∧
        alarmStands s t)

/-- R48, R56, R61, R149, R155, R161 to R164, R157: the state byte of the slot at the write position has been read. The close it
was read for comes to its end: its ticket goes into an EMPTY slot, which unblocks the ring, and is lost at any other, which
blocks it, its record is written, the open count of its account falls, its slot is FREE, and a CANCEL is reported. CLOSE MATCH
writes its MATCH_TOTAL, which latches TICKET, if permitted, and unblocks the ring, and frees the account, or is refused with
RING_FULL; a re-check unblocks the ring on EMPTY. The accesses that wait go on behind it, up to the next one that reads (log
9). A ticket is two writes and a record one for each field (log 29), and with no access in flight nothing happens (log 2). The
page logic has no tick of a boundary outstanding (PageCompleted has that case). -/
def Obligations.TicketSlotReadTaken : Prop :=
  ∀ (state : Byte) (s : State) (ring : Ring), linkFree s → s.tickets.ring = some ring → s.link.pageTicks = [] →
    let idle : State := { s with tickets := { s.tickets with inFlight := none } }
    let goesOn (v t : State) := exec (.ticketSlotReadComplete state) s = .next t ∧
      waitingTaken ring s.tickets.waiting { v with tickets := { v.tickets with waiting := [] } } t
    (s.tickets.inFlight = none → exec (.ticketSlotReadComplete state) s = .next s) ∧
    (∀ r, s.tickets.inFlight = some (.raise r) → ∃ u v t, goesOn v t ∧ closeTaken (state != 0) r ring s u ∧
      (r.forOrder = false → v = u) ∧
      (∀ o, r.forOrder = true → s.orders.unit = .acting o .queued →
        reported o.notify .ok
          (le 1 (ticketKindCode r.ticket.kind) ++ zeros 3 ++ le 4 r.ticket.charge ++ le 4 s.tickets.number.toNat)
          u v)) ∧
    (∀ k minute o, s.tickets.inFlight = some (.totalCheck k minute) → s.orders.unit = .acting o .queued →
      (state ≠ 0 → ∃ v t, goesOn v t ∧ reported o.notify .ringFull (accountBytes s.accounts[k]) idle v) ∧
      (state = 0 → ∃ u v t, goesOn v t ∧ totalTaken k minute ring s u ∧
        reported o.notify .ok (accountBytes s.accounts[k] ++ le 4 (s.tickets.number + 1).toNat) u v)) ∧
    (s.tickets.inFlight = some .recheck →
      (state ≠ 0 ∨ s.tickets.blocked = false → ∃ t, goesOn idle t) ∧
      (state = 0 → s.tickets.blocked = true → ∃ t, goesOn (withAlarm
        { s.alarm with items := s.alarm.items.set 49 { severity := 0, acked := 0 } }
        { idle with tickets := { idle.tickets with blocked := false } }) t))

/-- R150, R151, R152: the charge of a close. Gross, rebate and charge are those of the steps; with the meter and the values of
the class within their ranges (R134, R144) the rebate never passes the gross, and the terms keep the ranges of the table; a
meter with no counted second gives the charge of a late cancel. -/
def Obligations.RatingLaw : Prop :=
  ∀ (c : ClassTariff) (m : Meter) (band : Band), m.startBand = some band →
    let booked := 8 * (m.booked.peak * c.rate.peak + m.booked.standard * c.rate.standard + m.booked.night * c.rate.night)
    let overrun := (m.overrun.peak * c.rate.peak + m.overrun.standard * c.rate.standard +
      m.overrun.night * c.rate.night) * c.multiplier
    let total := m.booked.peak + m.booked.standard + m.booked.night +
      (m.overrun.peak + m.overrun.standard + m.overrun.night)
    let short := if total < c.minimum * 60 then c.minimum * 60 - total else 0
    let start := match band with
      | .peak => c.rate.peak
      | .standard => c.rate.standard
      | .night => c.rate.night
    let gross8 := booked + overrun + 8 * (short * start)
    let rebate8 := c.rebate * (m.excess.peak * c.rate.peak + m.excess.standard * c.rate.standard +
      m.excess.night * c.rate.night)
    rate c m = (gross8 - rebate8 + 240) / 480 ∧
    (total = 0 → m.excess = { peak := 0, standard := 0, night := 0 } → rate c m = c.minimum * start) ∧
    (8 ≤ c.multiplier → c.multiplier ≤ 32 → c.rebate ≤ 8 → c.minimum ≤ 240 →
      c.rate.peak ≤ 65535 → c.rate.standard ≤ 65535 → c.rate.night ≤ 65535 →
      m.excess.peak ≤ m.booked.peak + m.overrun.peak → m.excess.standard ≤ m.booked.standard + m.overrun.standard →
      m.excess.night ≤ m.booked.night + m.overrun.night →
      m.booked.peak + m.booked.standard + m.booked.night ≤ 43200 →
      m.overrun.peak + m.overrun.standard + m.overrun.night ≤ 14400 →
      rebate8 ≤ gross8 ∧ total ≤ 57600 ∧ short ≤ 14400 ∧ gross8 ≤ 52847424000 ∧ rate c m ≤ 110098800)
end

