-- ==== Sys2Proof/Laws/State.lean ====
section
/-! SUPPORT. The small lemmas of the state: what a table and its entries read as after an update. -/

namespace Sys2Proof.Machine

/-- An entry of a built table. -/
@[simp] theorem build_get {α : Type} {n : Nat} (f : Fin n → α) (i : Nat) (h : i < n) : (build f)[i] = f ⟨i, h⟩ := by
  simp [build]

/-- An entry of a built table, by its number as a bounded one. -/
@[simp] theorem build_getFin {α : Type} {n : Nat} (f : Fin n → α) (i : Fin n) : (build f)[i] = f i := by
  simp [Fin.getElem_fin]

end Sys2Proof.Machine
end

