-- ==== Sys2Proof/Laws/Frames.lean ====
section
/-! SUPPORT. What each shared operation leaves alone: one theorem for each operation names every part of the state that it
never writes. -/

namespace Sys2Proof.Machine

/-- A part of the state that every step of a fold leaves alone is left alone by the fold. -/
theorem foldl_keeps {α β γ : Type} (part : β → γ) {f : β → α → β} (h : ∀ t a, part (f t a) = part t) (l : List α)
    (s : β) : part (l.foldl f s) = part s := by
  induction l generalizing s with
  | nil => rfl
  | cons a l ih => rw [List.foldl_cons, ih, h]

/-- Whatever every order of an owning block leaves alone, the command that hands it the order leaves alone. -/
theorem takeOrder_keeps {γ : Type} (part : State → γ) {act : Order → State → State} (code : OrderCode)
    (h : ∀ o t, part (act o t) = part t) (s : State) : part (takeOrder code act s) = part s := by
  simp only [takeOrder]
  split <;> simp [h]

@[simp] theorem record_keeps (op : LinkOp) (s : State) :
    (record op s).resetn = s.resetn ∧ (record op s).pending = s.pending ∧ (record op s).orders = s.orders ∧
    (record op s).clock = s.clock ∧ (record op s).store = s.store ∧ (record op s).rows = s.rows ∧
    (record op s).crosspointAhead = s.crosspointAhead ∧ (record op s).monitors = s.monitors ∧
    (record op s).alarm = s.alarm ∧ (record op s).tariffs = s.tariffs ∧ (record op s).accounts = s.accounts ∧
    (record op s).tickets = s.tickets := by
  simp [record]

@[simp] theorem setFlags_keeps (f : BitVec 7) (s : State) :
    (setFlags f s).resetn = s.resetn ∧ (setFlags f s).pending = s.pending ∧ (setFlags f s).orders = s.orders ∧
    (setFlags f s).clock = s.clock ∧ (setFlags f s).store = s.store ∧ (setFlags f s).rows = s.rows ∧
    (setFlags f s).crosspointAhead = s.crosspointAhead ∧ (setFlags f s).monitors = s.monitors ∧
    (setFlags f s).alarm = s.alarm ∧ (setFlags f s).tariffs = s.tariffs ∧ (setFlags f s).accounts = s.accounts ∧
    (setFlags f s).tickets = s.tickets := by
  simp only [setFlags]
  (repeat' split) <;> simp [*]

@[simp] theorem latch_keeps (f : Flag) (s : State) :
    (latch f s).resetn = s.resetn ∧ (latch f s).pending = s.pending ∧ (latch f s).orders = s.orders ∧
    (latch f s).clock = s.clock ∧ (latch f s).store = s.store ∧ (latch f s).rows = s.rows ∧
    (latch f s).crosspointAhead = s.crosspointAhead ∧ (latch f s).monitors = s.monitors ∧
    (latch f s).alarm = s.alarm ∧ (latch f s).tariffs = s.tariffs ∧ (latch f s).accounts = s.accounts ∧
    (latch f s).tickets = s.tickets := by
  simp only [latch]
  (repeat' split) <;> simp [*]

@[simp] theorem followAlarm_keeps (s : State) :
    (followAlarm s).resetn = s.resetn ∧ (followAlarm s).pending = s.pending ∧ (followAlarm s).orders = s.orders ∧
    (followAlarm s).clock = s.clock ∧ (followAlarm s).store = s.store ∧ (followAlarm s).rows = s.rows ∧
    (followAlarm s).crosspointAhead = s.crosspointAhead ∧ (followAlarm s).monitors = s.monitors ∧
    (followAlarm s).alarm = s.alarm ∧ (followAlarm s).tariffs = s.tariffs ∧ (followAlarm s).accounts = s.accounts ∧
    (followAlarm s).tickets = s.tickets := by
  simp [followAlarm]

@[simp] theorem setAlarm_keeps (a : Alarm) (s : State) :
    (setAlarm a s).resetn = s.resetn ∧ (setAlarm a s).pending = s.pending ∧ (setAlarm a s).orders = s.orders ∧
    (setAlarm a s).clock = s.clock ∧ (setAlarm a s).store = s.store ∧ (setAlarm a s).rows = s.rows ∧
    (setAlarm a s).crosspointAhead = s.crosspointAhead ∧ (setAlarm a s).monitors = s.monitors ∧
    (setAlarm a s).tariffs = s.tariffs ∧ (setAlarm a s).accounts = s.accounts ∧ (setAlarm a s).tickets = s.tickets := by
  simp [setAlarm]

@[simp] theorem setSeverity_keeps (i : Fin 51) (severity : Fin 4) (s : State) :
    (setSeverity i severity s).resetn = s.resetn ∧ (setSeverity i severity s).pending = s.pending ∧
    (setSeverity i severity s).orders = s.orders ∧ (setSeverity i severity s).clock = s.clock ∧
    (setSeverity i severity s).store = s.store ∧ (setSeverity i severity s).rows = s.rows ∧
    (setSeverity i severity s).crosspointAhead = s.crosspointAhead ∧
    (setSeverity i severity s).monitors = s.monitors ∧ (setSeverity i severity s).tariffs = s.tariffs ∧
    (setSeverity i severity s).accounts = s.accounts ∧ (setSeverity i severity s).tickets = s.tickets := by
  simp [setSeverity]

@[simp] theorem nextAlarmWrite_keeps (ack push pop : Bool) (item : BitVec 6) (s : State) :
    (nextAlarmWrite ack push pop item s).resetn = s.resetn ∧
    (nextAlarmWrite ack push pop item s).pending = s.pending ∧
    (nextAlarmWrite ack push pop item s).orders = s.orders ∧ (nextAlarmWrite ack push pop item s).clock = s.clock ∧
    (nextAlarmWrite ack push pop item s).store = s.store ∧ (nextAlarmWrite ack push pop item s).rows = s.rows ∧
    (nextAlarmWrite ack push pop item s).crosspointAhead = s.crosspointAhead ∧
    (nextAlarmWrite ack push pop item s).monitors = s.monitors ∧
    (nextAlarmWrite ack push pop item s).tariffs = s.tariffs ∧
    (nextAlarmWrite ack push pop item s).accounts = s.accounts ∧
    (nextAlarmWrite ack push pop item s).tickets = s.tickets := by
  simp [nextAlarmWrite]

@[simp] theorem modeWrite_keeps (mode : BitVec 2) (spotlight : BitVec 6) (s : State) :
    (modeWrite mode spotlight s).resetn = s.resetn ∧ (modeWrite mode spotlight s).pending = s.pending ∧
    (modeWrite mode spotlight s).orders = s.orders ∧ (modeWrite mode spotlight s).clock = s.clock ∧
    (modeWrite mode spotlight s).store = s.store ∧ (modeWrite mode spotlight s).rows = s.rows ∧
    (modeWrite mode spotlight s).crosspointAhead = s.crosspointAhead ∧
    (modeWrite mode spotlight s).monitors = s.monitors ∧ (modeWrite mode spotlight s).tariffs = s.tariffs ∧
    (modeWrite mode spotlight s).accounts = s.accounts ∧ (modeWrite mode spotlight s).tickets = s.tickets := by
  simp [modeWrite]

@[simp] theorem setAccount_keeps (k : Fin 128) (a : Account) (s : State) :
    (setAccount k a s).resetn = s.resetn ∧ (setAccount k a s).pending = s.pending ∧
    (setAccount k a s).link = s.link ∧ (setAccount k a s).orders = s.orders ∧ (setAccount k a s).clock = s.clock ∧
    (setAccount k a s).store = s.store ∧ (setAccount k a s).rows = s.rows ∧
    (setAccount k a s).crosspointAhead = s.crosspointAhead ∧ (setAccount k a s).monitors = s.monitors ∧
    (setAccount k a s).alarm = s.alarm ∧ (setAccount k a s).tariffs = s.tariffs ∧
    (setAccount k a s).tickets = s.tickets := by
  simp [setAccount]

@[simp] theorem changeAccount_keeps (m : Nat) (f : Account → Account) (s : State) :
    (changeAccount m f s).resetn = s.resetn ∧ (changeAccount m f s).pending = s.pending ∧
    (changeAccount m f s).link = s.link ∧ (changeAccount m f s).orders = s.orders ∧
    (changeAccount m f s).clock = s.clock ∧ (changeAccount m f s).store = s.store ∧
    (changeAccount m f s).rows = s.rows ∧ (changeAccount m f s).crosspointAhead = s.crosspointAhead ∧
    (changeAccount m f s).monitors = s.monitors ∧ (changeAccount m f s).alarm = s.alarm ∧
    (changeAccount m f s).tariffs = s.tariffs ∧ (changeAccount m f s).tickets = s.tickets := by
  simp only [changeAccount]
  (repeat' split) <;> simp [*]

@[simp] theorem openBooking_keeps (m : Nat) (s : State) :
    (openBooking m s).resetn = s.resetn ∧ (openBooking m s).pending = s.pending ∧ (openBooking m s).link = s.link ∧
    (openBooking m s).orders = s.orders ∧ (openBooking m s).clock = s.clock ∧ (openBooking m s).store = s.store ∧
    (openBooking m s).rows = s.rows ∧ (openBooking m s).crosspointAhead = s.crosspointAhead ∧
    (openBooking m s).monitors = s.monitors ∧ (openBooking m s).alarm = s.alarm ∧
    (openBooking m s).tariffs = s.tariffs ∧ (openBooking m s).tickets = s.tickets := by
  simp only [openBooking]
  (repeat' split) <;> simp [*]

@[simp] theorem freeAccountSlot_keeps (k : Fin 128) (s : State) :
    (freeAccountSlot k s).resetn = s.resetn ∧ (freeAccountSlot k s).pending = s.pending ∧
    (freeAccountSlot k s).link = s.link ∧ (freeAccountSlot k s).orders = s.orders ∧
    (freeAccountSlot k s).clock = s.clock ∧ (freeAccountSlot k s).store = s.store ∧
    (freeAccountSlot k s).rows = s.rows ∧ (freeAccountSlot k s).crosspointAhead = s.crosspointAhead ∧
    (freeAccountSlot k s).monitors = s.monitors ∧ (freeAccountSlot k s).alarm = s.alarm ∧
    (freeAccountSlot k s).tariffs = s.tariffs ∧ (freeAccountSlot k s).tickets = s.tickets := by
  simp [freeAccountSlot]

@[simp] theorem loseTicket_keeps (m : Option Nat) (s : State) :
    (loseTicket m s).resetn = s.resetn ∧ (loseTicket m s).pending = s.pending ∧ (loseTicket m s).orders = s.orders ∧
    (loseTicket m s).clock = s.clock ∧ (loseTicket m s).store = s.store ∧ (loseTicket m s).rows = s.rows ∧
    (loseTicket m s).crosspointAhead = s.crosspointAhead ∧ (loseTicket m s).monitors = s.monitors ∧
    (loseTicket m s).alarm = s.alarm ∧ (loseTicket m s).tariffs = s.tariffs := by
  simp only [loseTicket]
  (repeat' split) <;> simp [*]

@[simp] theorem raiseNumber_keeps (s : State) :
    (raiseNumber s).resetn = s.resetn ∧ (raiseNumber s).pending = s.pending ∧ (raiseNumber s).link = s.link ∧
    (raiseNumber s).orders = s.orders ∧ (raiseNumber s).clock = s.clock ∧ (raiseNumber s).store = s.store ∧
    (raiseNumber s).rows = s.rows ∧ (raiseNumber s).crosspointAhead = s.crosspointAhead ∧
    (raiseNumber s).monitors = s.monitors ∧ (raiseNumber s).alarm = s.alarm ∧ (raiseNumber s).tariffs = s.tariffs ∧
    (raiseNumber s).accounts = s.accounts := by
  simp [raiseNumber]

@[simp] theorem setSlot_keeps (n : Fin 1024) (b : Slot) (s : State) :
    (setSlot n b s).resetn = s.resetn ∧ (setSlot n b s).pending = s.pending ∧ (setSlot n b s).link = s.link ∧
    (setSlot n b s).orders = s.orders ∧ (setSlot n b s).clock = s.clock ∧ (setSlot n b s).rows = s.rows ∧
    (setSlot n b s).crosspointAhead = s.crosspointAhead ∧ (setSlot n b s).monitors = s.monitors ∧
    (setSlot n b s).alarm = s.alarm ∧ (setSlot n b s).tariffs = s.tariffs ∧ (setSlot n b s).accounts = s.accounts ∧
    (setSlot n b s).tickets = s.tickets := by
  simp [setSlot]

@[simp] theorem takeClose_keeps (r : Raise) (s : State) :
    (takeClose r s).resetn = s.resetn ∧ (takeClose r s).pending = s.pending ∧ (takeClose r s).link = s.link ∧
    (takeClose r s).orders = s.orders ∧ (takeClose r s).clock = s.clock ∧ (takeClose r s).store = s.store ∧
    (takeClose r s).rows = s.rows ∧ (takeClose r s).crosspointAhead = s.crosspointAhead ∧
    (takeClose r s).monitors = s.monitors ∧ (takeClose r s).alarm = s.alarm ∧ (takeClose r s).tariffs = s.tariffs := by
  simp [takeClose]

@[simp] theorem loseRaise_keeps (r : Raise) (s : State) :
    (loseRaise r s).resetn = s.resetn ∧ (loseRaise r s).pending = s.pending ∧ (loseRaise r s).orders = s.orders ∧
    (loseRaise r s).clock = s.clock ∧ (loseRaise r s).store = s.store ∧ (loseRaise r s).rows = s.rows ∧
    (loseRaise r s).crosspointAhead = s.crosspointAhead ∧ (loseRaise r s).monitors = s.monitors ∧
    (loseRaise r s).alarm = s.alarm ∧ (loseRaise r s).tariffs = s.tariffs := by
  simp [loseRaise]

@[simp] theorem endClose_keeps (r : Raise) (s : State) :
    (endClose r s).resetn = s.resetn ∧ (endClose r s).pending = s.pending ∧ (endClose r s).link = s.link ∧
    (endClose r s).orders = s.orders ∧ (endClose r s).clock = s.clock ∧ (endClose r s).rows = s.rows ∧
    (endClose r s).crosspointAhead = s.crosspointAhead ∧ (endClose r s).monitors = s.monitors ∧
    (endClose r s).alarm = s.alarm ∧ (endClose r s).tariffs = s.tariffs ∧ (endClose r s).tickets = s.tickets := by
  simp [endClose]

@[simp] theorem closeInside_keeps (r : Raise) (s : State) :
    (closeInside r s).resetn = s.resetn ∧ (closeInside r s).pending = s.pending ∧
    (closeInside r s).orders = s.orders ∧ (closeInside r s).clock = s.clock ∧ (closeInside r s).rows = s.rows ∧
    (closeInside r s).crosspointAhead = s.crosspointAhead ∧ (closeInside r s).monitors = s.monitors ∧
    (closeInside r s).alarm = s.alarm ∧ (closeInside r s).tariffs = s.tariffs := by
  simp [closeInside]

@[simp] theorem enterHeld_keeps (s : State) :
    (enterHeld s).resetn = s.resetn ∧ (enterHeld s).pending = s.pending ∧ (enterHeld s).orders = s.orders ∧
    (enterHeld s).clock = s.clock ∧ (enterHeld s).store = s.store ∧ (enterHeld s).rows = s.rows ∧
    (enterHeld s).crosspointAhead = s.crosspointAhead ∧ (enterHeld s).monitors = s.monitors ∧
    (enterHeld s).alarm = s.alarm ∧ (enterHeld s).tariffs = s.tariffs ∧ (enterHeld s).accounts = s.accounts ∧
    (enterHeld s).tickets = s.tickets := by
  simp [enterHeld]

@[simp] theorem dropAccess_keeps (a : Access) (s : State) :
    (dropAccess a s).resetn = s.resetn ∧ (dropAccess a s).pending = s.pending ∧ (dropAccess a s).orders = s.orders ∧
    (dropAccess a s).clock = s.clock ∧ (dropAccess a s).rows = s.rows ∧
    (dropAccess a s).crosspointAhead = s.crosspointAhead ∧ (dropAccess a s).monitors = s.monitors ∧
    (dropAccess a s).alarm = s.alarm ∧ (dropAccess a s).tariffs = s.tariffs := by
  simp only [dropAccess]
  (repeat' split) <;> simp [*]

@[simp] theorem clearAccesses_keeps (s : State) :
    (clearAccesses s).resetn = s.resetn ∧ (clearAccesses s).pending = s.pending ∧ (clearAccesses s).link = s.link ∧
    (clearAccesses s).orders = s.orders ∧ (clearAccesses s).clock = s.clock ∧ (clearAccesses s).store = s.store ∧
    (clearAccesses s).rows = s.rows ∧ (clearAccesses s).crosspointAhead = s.crosspointAhead ∧
    (clearAccesses s).monitors = s.monitors ∧ (clearAccesses s).alarm = s.alarm ∧
    (clearAccesses s).tariffs = s.tariffs ∧ (clearAccesses s).accounts = s.accounts := by
  simp [clearAccesses]

@[simp] theorem dropAccesses_keeps (s : State) :
    (dropAccesses s).resetn = s.resetn ∧ (dropAccesses s).pending = s.pending ∧ (dropAccesses s).orders = s.orders ∧
    (dropAccesses s).clock = s.clock ∧ (dropAccesses s).rows = s.rows ∧
    (dropAccesses s).crosspointAhead = s.crosspointAhead ∧ (dropAccesses s).monitors = s.monitors ∧
    (dropAccesses s).alarm = s.alarm ∧ (dropAccesses s).tariffs = s.tariffs := by
  simp [dropAccesses, foldl_keeps State.resetn, foldl_keeps State.pending, foldl_keeps State.orders,
      foldl_keeps State.clock, foldl_keeps State.rows, foldl_keeps State.crosspointAhead, foldl_keeps State.monitors,
      foldl_keeps State.alarm, foldl_keeps State.tariffs]

@[simp] theorem takeBusFault_keeps (s : State) :
    (takeBusFault s).resetn = s.resetn ∧ (takeBusFault s).pending = s.pending ∧ (takeBusFault s).clock = s.clock ∧
    (takeBusFault s).rows = s.rows ∧ (takeBusFault s).crosspointAhead = s.crosspointAhead ∧
    (takeBusFault s).monitors = s.monitors ∧ (takeBusFault s).tariffs = s.tariffs := by
  simp only [takeBusFault]
  (repeat' split) <;> simp [*]

@[simp] theorem sendWrite_keeps (w : HostWrite) (s : State) :
    (sendWrite w s).resetn = s.resetn ∧ (sendWrite w s).pending = s.pending ∧ (sendWrite w s).clock = s.clock ∧
    (sendWrite w s).rows = s.rows ∧ (sendWrite w s).crosspointAhead = s.crosspointAhead ∧
    (sendWrite w s).monitors = s.monitors ∧ (sendWrite w s).tariffs = s.tariffs := by
  simp only [sendWrite]
  (repeat' split) <;> simp [*]

@[simp] theorem issue_keeps (w : HostWrite) (s : State) :
    (issue w s).resetn = s.resetn ∧ (issue w s).pending = s.pending ∧ (issue w s).clock = s.clock ∧
    (issue w s).rows = s.rows ∧ (issue w s).crosspointAhead = s.crosspointAhead ∧ (issue w s).monitors = s.monitors ∧
    (issue w s).tariffs = s.tariffs := by
  simp only [issue]
  (repeat' split) <;> simp [*]

@[simp] theorem issueAll_keeps (ws : List HostWrite) (s : State) :
    (issueAll ws s).resetn = s.resetn ∧ (issueAll ws s).pending = s.pending ∧ (issueAll ws s).clock = s.clock ∧
    (issueAll ws s).rows = s.rows ∧ (issueAll ws s).crosspointAhead = s.crosspointAhead ∧
    (issueAll ws s).monitors = s.monitors ∧ (issueAll ws s).tariffs = s.tariffs := by
  induction ws generalizing s with
  | nil => simp [issueAll]
  | cons w ws ih => simpa [issueAll] using ih (issue w s)

@[simp] theorem issueRead_keeps (address : Address) (length : Nat) (s : State) :
    (issueRead address length s).resetn = s.resetn ∧ (issueRead address length s).pending = s.pending ∧
    (issueRead address length s).orders = s.orders ∧ (issueRead address length s).clock = s.clock ∧
    (issueRead address length s).store = s.store ∧ (issueRead address length s).rows = s.rows ∧
    (issueRead address length s).crosspointAhead = s.crosspointAhead ∧
    (issueRead address length s).monitors = s.monitors ∧ (issueRead address length s).alarm = s.alarm ∧
    (issueRead address length s).tariffs = s.tariffs ∧ (issueRead address length s).accounts = s.accounts ∧
    (issueRead address length s).tickets = s.tickets := by
  simp only [issueRead]
  (repeat' split) <;> simp [*]

@[simp] theorem setUnit_keeps (u : UnitState) (s : State) :
    (setUnit u s).resetn = s.resetn ∧ (setUnit u s).pending = s.pending ∧ (setUnit u s).link = s.link ∧
    (setUnit u s).clock = s.clock ∧ (setUnit u s).store = s.store ∧ (setUnit u s).rows = s.rows ∧
    (setUnit u s).crosspointAhead = s.crosspointAhead ∧ (setUnit u s).monitors = s.monitors ∧
    (setUnit u s).alarm = s.alarm ∧ (setUnit u s).tariffs = s.tariffs ∧ (setUnit u s).accounts = s.accounts ∧
    (setUnit u s).tickets = s.tickets := by
  simp [setUnit]

@[simp] theorem takeEntry_keeps (s : State) :
    (takeEntry s).resetn = s.resetn ∧ (takeEntry s).pending = s.pending ∧ (takeEntry s).clock = s.clock ∧
    (takeEntry s).store = s.store ∧ (takeEntry s).rows = s.rows ∧ (takeEntry s).crosspointAhead = s.crosspointAhead ∧
    (takeEntry s).monitors = s.monitors ∧ (takeEntry s).alarm = s.alarm ∧ (takeEntry s).tariffs = s.tariffs ∧
    (takeEntry s).accounts = s.accounts ∧ (takeEntry s).tickets = s.tickets := by
  simp only [takeEntry]
  (repeat' split) <;> simp [*]

@[simp] theorem afterOrder_keeps (s : State) :
    (afterOrder s).resetn = s.resetn ∧ (afterOrder s).pending = s.pending ∧ (afterOrder s).clock = s.clock ∧
    (afterOrder s).store = s.store ∧ (afterOrder s).rows = s.rows ∧
    (afterOrder s).crosspointAhead = s.crosspointAhead ∧ (afterOrder s).monitors = s.monitors ∧
    (afterOrder s).alarm = s.alarm ∧ (afterOrder s).tariffs = s.tariffs ∧ (afterOrder s).accounts = s.accounts ∧
    (afterOrder s).tickets = s.tickets := by
  simp only [afterOrder]
  (repeat' split) <;> simp [*]

@[simp] theorem orderDone_keeps (notify : Bool) (s : State) :
    (orderDone notify s).resetn = s.resetn ∧ (orderDone notify s).pending = s.pending ∧
    (orderDone notify s).clock = s.clock ∧ (orderDone notify s).store = s.store ∧
    (orderDone notify s).rows = s.rows ∧ (orderDone notify s).crosspointAhead = s.crosspointAhead ∧
    (orderDone notify s).monitors = s.monitors ∧ (orderDone notify s).alarm = s.alarm ∧
    (orderDone notify s).tariffs = s.tariffs ∧ (orderDone notify s).accounts = s.accounts ∧
    (orderDone notify s).tickets = s.tickets := by
  simp only [orderDone]
  (repeat' split) <;> simp [*]

@[simp] theorem report_keeps (notify : Bool) (outcome : OutcomeCode) (result : List Byte) (s : State) :
    (report notify outcome result s).resetn = s.resetn ∧ (report notify outcome result s).pending = s.pending ∧
    (report notify outcome result s).clock = s.clock ∧ (report notify outcome result s).rows = s.rows ∧
    (report notify outcome result s).crosspointAhead = s.crosspointAhead ∧
    (report notify outcome result s).monitors = s.monitors ∧ (report notify outcome result s).tariffs = s.tariffs := by
  simp only [report]
  (repeat' split) <;> simp [*]

@[simp] theorem finishOrder_keeps (outcome : OutcomeCode) (result : List Byte) (s : State) :
    (finishOrder outcome result s).resetn = s.resetn ∧ (finishOrder outcome result s).pending = s.pending ∧
    (finishOrder outcome result s).clock = s.clock ∧ (finishOrder outcome result s).rows = s.rows ∧
    (finishOrder outcome result s).crosspointAhead = s.crosspointAhead ∧
    (finishOrder outcome result s).monitors = s.monitors ∧ (finishOrder outcome result s).tariffs = s.tariffs := by
  simp only [finishOrder]
  (repeat' split) <;> simp [*]

@[simp] theorem setStage_keeps (stage : Stage) (s : State) :
    (setStage stage s).resetn = s.resetn ∧ (setStage stage s).pending = s.pending ∧
    (setStage stage s).link = s.link ∧ (setStage stage s).clock = s.clock ∧ (setStage stage s).store = s.store ∧
    (setStage stage s).rows = s.rows ∧ (setStage stage s).crosspointAhead = s.crosspointAhead ∧
    (setStage stage s).monitors = s.monitors ∧ (setStage stage s).alarm = s.alarm ∧
    (setStage stage s).tariffs = s.tariffs ∧ (setStage stage s).accounts = s.accounts ∧
    (setStage stage s).tickets = s.tickets := by
  simp only [setStage]
  (repeat' split) <;> simp [*]

@[simp] theorem examineEntry_keeps (bytes : Vector Byte 24) (s : State) :
    (examineEntry bytes s).resetn = s.resetn ∧ (examineEntry bytes s).pending = s.pending ∧
    (examineEntry bytes s).clock = s.clock ∧ (examineEntry bytes s).rows = s.rows ∧
    (examineEntry bytes s).crosspointAhead = s.crosspointAhead ∧ (examineEntry bytes s).monitors = s.monitors ∧
    (examineEntry bytes s).tariffs = s.tariffs := by
  simp only [examineEntry]
  (repeat' split) <;> simp [*]

@[simp] theorem entryRead_keeps (bytes : Vector Byte 24) (s : State) :
    (entryRead bytes s).resetn = s.resetn ∧ (entryRead bytes s).pending = s.pending ∧
    (entryRead bytes s).clock = s.clock ∧ (entryRead bytes s).rows = s.rows ∧
    (entryRead bytes s).crosspointAhead = s.crosspointAhead ∧ (entryRead bytes s).monitors = s.monitors ∧
    (entryRead bytes s).tariffs = s.tariffs := by
  simp only [entryRead]
  (repeat' split) <;> simp [*]

@[simp] theorem orderEndWrite_keeps (value : Word) (s : State) :
    (orderEndWrite value s).resetn = s.resetn ∧ (orderEndWrite value s).pending = s.pending ∧
    (orderEndWrite value s).clock = s.clock ∧ (orderEndWrite value s).store = s.store ∧
    (orderEndWrite value s).rows = s.rows ∧ (orderEndWrite value s).crosspointAhead = s.crosspointAhead ∧
    (orderEndWrite value s).monitors = s.monitors ∧ (orderEndWrite value s).alarm = s.alarm ∧
    (orderEndWrite value s).tariffs = s.tariffs ∧ (orderEndWrite value s).accounts = s.accounts ∧
    (orderEndWrite value s).tickets = s.tickets := by
  simp [orderEndWrite]

@[simp] theorem setInFlight_keeps (a : Option Access) (s : State) :
    (setInFlight a s).resetn = s.resetn ∧ (setInFlight a s).pending = s.pending ∧ (setInFlight a s).link = s.link ∧
    (setInFlight a s).orders = s.orders ∧ (setInFlight a s).clock = s.clock ∧ (setInFlight a s).store = s.store ∧
    (setInFlight a s).rows = s.rows ∧ (setInFlight a s).crosspointAhead = s.crosspointAhead ∧
    (setInFlight a s).monitors = s.monitors ∧ (setInFlight a s).alarm = s.alarm ∧
    (setInFlight a s).tariffs = s.tariffs ∧ (setInFlight a s).accounts = s.accounts := by
  simp [setInFlight]

@[simp] theorem unblockRing_keeps (s : State) :
    (unblockRing s).resetn = s.resetn ∧ (unblockRing s).pending = s.pending ∧ (unblockRing s).orders = s.orders ∧
    (unblockRing s).clock = s.clock ∧ (unblockRing s).store = s.store ∧ (unblockRing s).rows = s.rows ∧
    (unblockRing s).crosspointAhead = s.crosspointAhead ∧ (unblockRing s).monitors = s.monitors ∧
    (unblockRing s).tariffs = s.tariffs ∧ (unblockRing s).accounts = s.accounts := by
  simp only [unblockRing]
  (repeat' split) <;> simp [*]

@[simp] theorem blockRing_keeps (s : State) :
    (blockRing s).resetn = s.resetn ∧ (blockRing s).pending = s.pending ∧ (blockRing s).orders = s.orders ∧
    (blockRing s).clock = s.clock ∧ (blockRing s).store = s.store ∧ (blockRing s).rows = s.rows ∧
    (blockRing s).crosspointAhead = s.crosspointAhead ∧ (blockRing s).monitors = s.monitors ∧
    (blockRing s).tariffs = s.tariffs ∧ (blockRing s).accounts = s.accounts := by
  simp only [blockRing]
  (repeat' split) <;> simp [*]

@[simp] theorem ticketWritten_keeps (s : State) :
    (ticketWritten s).resetn = s.resetn ∧ (ticketWritten s).pending = s.pending ∧
    (ticketWritten s).orders = s.orders ∧ (ticketWritten s).clock = s.clock ∧ (ticketWritten s).store = s.store ∧
    (ticketWritten s).rows = s.rows ∧ (ticketWritten s).crosspointAhead = s.crosspointAhead ∧
    (ticketWritten s).monitors = s.monitors ∧ (ticketWritten s).tariffs = s.tariffs ∧
    (ticketWritten s).accounts = s.accounts := by
  simp [ticketWritten]

@[simp] theorem recordClose_keeps (r : Raise) (s : State) :
    (recordClose r s).resetn = s.resetn ∧ (recordClose r s).pending = s.pending ∧ (recordClose r s).clock = s.clock ∧
    (recordClose r s).rows = s.rows ∧ (recordClose r s).crosspointAhead = s.crosspointAhead ∧
    (recordClose r s).monitors = s.monitors ∧ (recordClose r s).tariffs = s.tariffs := by
  simp [recordClose]

@[simp] theorem finishClose_keeps (r : Raise) (number : BitVec 32) (s : State) :
    (finishClose r number s).resetn = s.resetn ∧ (finishClose r number s).pending = s.pending ∧
    (finishClose r number s).clock = s.clock ∧ (finishClose r number s).rows = s.rows ∧
    (finishClose r number s).crosspointAhead = s.crosspointAhead ∧ (finishClose r number s).monitors = s.monitors ∧
    (finishClose r number s).tariffs = s.tariffs := by
  simp only [finishClose]
  (repeat' split) <;> simp [*]

@[simp] theorem lostClose_keeps (r : Raise) (s : State) :
    (lostClose r s).resetn = s.resetn ∧ (lostClose r s).pending = s.pending ∧ (lostClose r s).clock = s.clock ∧
    (lostClose r s).rows = s.rows ∧ (lostClose r s).crosspointAhead = s.crosspointAhead ∧
    (lostClose r s).monitors = s.monitors ∧ (lostClose r s).tariffs = s.tariffs := by
  simp [lostClose]

@[simp] theorem beginAccess_keeps (a : Access) (s : State) :
    (beginAccess a s).resetn = s.resetn ∧ (beginAccess a s).pending = s.pending ∧ (beginAccess a s).clock = s.clock ∧
    (beginAccess a s).rows = s.rows ∧ (beginAccess a s).crosspointAhead = s.crosspointAhead ∧
    (beginAccess a s).monitors = s.monitors ∧ (beginAccess a s).tariffs = s.tariffs := by
  simp only [beginAccess]
  (repeat' split) <;> simp [*]

@[simp] theorem pump_keeps (accesses : List Access) (s : State) :
    (pump accesses s).resetn = s.resetn ∧ (pump accesses s).pending = s.pending ∧ (pump accesses s).clock = s.clock ∧
    (pump accesses s).rows = s.rows ∧ (pump accesses s).crosspointAhead = s.crosspointAhead ∧
    (pump accesses s).monitors = s.monitors ∧ (pump accesses s).tariffs = s.tariffs := by
  induction accesses generalizing s with
  | nil => simp [pump]
  | cons a rest ih =>
    simp only [pump]
    split
    · simp
    · simpa using ih (beginAccess a s)

@[simp] theorem pumpWaiting_keeps (s : State) :
    (pumpWaiting s).resetn = s.resetn ∧ (pumpWaiting s).pending = s.pending ∧ (pumpWaiting s).clock = s.clock ∧
    (pumpWaiting s).rows = s.rows ∧ (pumpWaiting s).crosspointAhead = s.crosspointAhead ∧
    (pumpWaiting s).monitors = s.monitors ∧ (pumpWaiting s).tariffs = s.tariffs := by
  simp [pumpWaiting]

@[simp] theorem submit_keeps (accesses : List Access) (s : State) :
    (submit accesses s).resetn = s.resetn ∧ (submit accesses s).pending = s.pending ∧
    (submit accesses s).clock = s.clock ∧ (submit accesses s).rows = s.rows ∧
    (submit accesses s).crosspointAhead = s.crosspointAhead ∧ (submit accesses s).monitors = s.monitors ∧
    (submit accesses s).tariffs = s.tariffs := by
  simp [submit]

@[simp] theorem writeClose_keeps (r : Raise) (s : State) :
    (writeClose r s).resetn = s.resetn ∧ (writeClose r s).pending = s.pending ∧ (writeClose r s).clock = s.clock ∧
    (writeClose r s).rows = s.rows ∧ (writeClose r s).crosspointAhead = s.crosspointAhead ∧
    (writeClose r s).monitors = s.monitors ∧ (writeClose r s).tariffs = s.tariffs := by
  simp only [writeClose]
  (repeat' split) <;> simp [*]

@[simp] theorem raiseRead_keeps (r : Raise) (empty : Bool) (s : State) :
    (raiseRead r empty s).resetn = s.resetn ∧ (raiseRead r empty s).pending = s.pending ∧
    (raiseRead r empty s).clock = s.clock ∧ (raiseRead r empty s).rows = s.rows ∧
    (raiseRead r empty s).crosspointAhead = s.crosspointAhead ∧ (raiseRead r empty s).monitors = s.monitors ∧
    (raiseRead r empty s).tariffs = s.tariffs := by
  simp only [raiseRead]
  (repeat' split) <;> simp [*]

@[simp] theorem totalRead_keeps (k : Fin 128) (minute : Nat) (empty : Bool) (s : State) :
    (totalRead k minute empty s).resetn = s.resetn ∧ (totalRead k minute empty s).pending = s.pending ∧
    (totalRead k minute empty s).clock = s.clock ∧ (totalRead k minute empty s).rows = s.rows ∧
    (totalRead k minute empty s).crosspointAhead = s.crosspointAhead ∧
    (totalRead k minute empty s).monitors = s.monitors ∧ (totalRead k minute empty s).tariffs = s.tariffs := by
  simp only [totalRead]
  (repeat' split) <;> simp [*]

@[simp] theorem ticketSlotRead_keeps (state : Byte) (s : State) :
    (ticketSlotRead state s).resetn = s.resetn ∧ (ticketSlotRead state s).pending = s.pending ∧
    (ticketSlotRead state s).clock = s.clock ∧ (ticketSlotRead state s).rows = s.rows ∧
    (ticketSlotRead state s).crosspointAhead = s.crosspointAhead ∧ (ticketSlotRead state s).monitors = s.monitors ∧
    (ticketSlotRead state s).tariffs = s.tariffs := by
  simp only [ticketSlotRead]
  (repeat' split) <;> simp [*]

@[simp] theorem setRow_keeps (d : Fin 64) (r : Row) (s : State) :
    (setRow d r s).resetn = s.resetn ∧ (setRow d r s).pending = s.pending ∧ (setRow d r s).link = s.link ∧
    (setRow d r s).orders = s.orders ∧ (setRow d r s).clock = s.clock ∧ (setRow d r s).store = s.store ∧
    (setRow d r s).crosspointAhead = s.crosspointAhead ∧ (setRow d r s).monitors = s.monitors ∧
    (setRow d r s).alarm = s.alarm ∧ (setRow d r s).tariffs = s.tariffs ∧ (setRow d r s).accounts = s.accounts ∧
    (setRow d r s).tickets = s.tickets := by
  simp [setRow]

@[simp] theorem request_keeps (d : Fin 64) (target : Source) (cause : Cause) (s : State) :
    (request d target cause s).resetn = s.resetn ∧ (request d target cause s).pending = s.pending ∧
    (request d target cause s).link = s.link ∧ (request d target cause s).orders = s.orders ∧
    (request d target cause s).clock = s.clock ∧ (request d target cause s).store = s.store ∧
    (request d target cause s).crosspointAhead = s.crosspointAhead ∧
    (request d target cause s).monitors = s.monitors ∧ (request d target cause s).alarm = s.alarm ∧
    (request d target cause s).tariffs = s.tariffs ∧ (request d target cause s).accounts = s.accounts ∧
    (request d target cause s).tickets = s.tickets := by
  simp [request]

@[simp] theorem applyProtection_keeps (n : Fin 1024) (s : State) :
    (applyProtection n s).resetn = s.resetn ∧ (applyProtection n s).pending = s.pending ∧
    (applyProtection n s).link = s.link ∧ (applyProtection n s).orders = s.orders ∧
    (applyProtection n s).clock = s.clock ∧ (applyProtection n s).store = s.store ∧
    (applyProtection n s).crosspointAhead = s.crosspointAhead ∧ (applyProtection n s).monitors = s.monitors ∧
    (applyProtection n s).alarm = s.alarm ∧ (applyProtection n s).tariffs = s.tariffs ∧
    (applyProtection n s).accounts = s.accounts ∧ (applyProtection n s).tickets = s.tickets := by
  simp only [applyProtection]
  (repeat' split) <;> simp [*]

@[simp] theorem applyActivation_keeps (n : Fin 1024) (s : State) :
    (applyActivation n s).resetn = s.resetn ∧ (applyActivation n s).pending = s.pending ∧
    (applyActivation n s).link = s.link ∧ (applyActivation n s).orders = s.orders ∧
    (applyActivation n s).clock = s.clock ∧ (applyActivation n s).store = s.store ∧
    (applyActivation n s).crosspointAhead = s.crosspointAhead ∧ (applyActivation n s).monitors = s.monitors ∧
    (applyActivation n s).alarm = s.alarm ∧ (applyActivation n s).tariffs = s.tariffs ∧
    (applyActivation n s).accounts = s.accounts ∧ (applyActivation n s).tickets = s.tickets := by
  simp [applyActivation]

@[simp] theorem protectPort_keeps (cond : Slot → Bool) (d : Fin 64) (s : State) :
    (protectPort cond d s).resetn = s.resetn ∧ (protectPort cond d s).pending = s.pending ∧
    (protectPort cond d s).link = s.link ∧ (protectPort cond d s).orders = s.orders ∧
    (protectPort cond d s).clock = s.clock ∧ (protectPort cond d s).store = s.store ∧
    (protectPort cond d s).crosspointAhead = s.crosspointAhead ∧ (protectPort cond d s).monitors = s.monitors ∧
    (protectPort cond d s).alarm = s.alarm ∧ (protectPort cond d s).tariffs = s.tariffs ∧
    (protectPort cond d s).accounts = s.accounts ∧ (protectPort cond d s).tickets = s.tickets := by
  simp only [protectPort]
  (repeat' split) <;> simp [*]

@[simp] theorem protectHealth_keeps (p : Fin 48) (s : State) :
    (protectHealth p s).resetn = s.resetn ∧ (protectHealth p s).pending = s.pending ∧
    (protectHealth p s).link = s.link ∧ (protectHealth p s).orders = s.orders ∧ (protectHealth p s).clock = s.clock ∧
    (protectHealth p s).store = s.store ∧ (protectHealth p s).crosspointAhead = s.crosspointAhead ∧
    (protectHealth p s).monitors = s.monitors ∧ (protectHealth p s).alarm = s.alarm ∧
    (protectHealth p s).tariffs = s.tariffs ∧ (protectHealth p s).accounts = s.accounts ∧
    (protectHealth p s).tickets = s.tickets := by
  simp [protectHealth, foldl_keeps State.resetn, foldl_keeps State.pending, foldl_keeps State.link,
      foldl_keeps State.orders, foldl_keeps State.clock, foldl_keeps State.store, foldl_keeps State.crosspointAhead,
      foldl_keeps State.monitors, foldl_keeps State.alarm, foldl_keeps State.tariffs, foldl_keeps State.accounts,
      foldl_keeps State.tickets]

@[simp] theorem deriveSources_keeps (s : State) :
    (deriveSources s).resetn = s.resetn ∧ (deriveSources s).pending = s.pending ∧
    (deriveSources s).orders = s.orders ∧ (deriveSources s).clock = s.clock ∧ (deriveSources s).store = s.store ∧
    (deriveSources s).rows = s.rows ∧ (deriveSources s).crosspointAhead = s.crosspointAhead ∧
    (deriveSources s).monitors = s.monitors ∧ (deriveSources s).tariffs = s.tariffs ∧
    (deriveSources s).accounts = s.accounts ∧ (deriveSources s).tickets = s.tickets := by
  simp [deriveSources]

@[simp] theorem markPage_keeps (s : State) :
    (markPage s).resetn = s.resetn ∧ (markPage s).pending = s.pending ∧ (markPage s).orders = s.orders ∧
    (markPage s).clock = s.clock ∧ (markPage s).store = s.store ∧ (markPage s).rows = s.rows ∧
    (markPage s).crosspointAhead = s.crosspointAhead ∧ (markPage s).monitors = s.monitors ∧
    (markPage s).alarm = s.alarm ∧ (markPage s).tariffs = s.tariffs ∧ (markPage s).accounts = s.accounts ∧
    (markPage s).tickets = s.tickets := by
  simp [markPage]

@[simp] theorem handExecutions_keeps (ports : List (Fin 64)) (s : State) :
    (handExecutions ports s).resetn = s.resetn ∧ (handExecutions ports s).pending = s.pending ∧
    (handExecutions ports s).orders = s.orders ∧ (handExecutions ports s).clock = s.clock ∧
    (handExecutions ports s).store = s.store ∧ (handExecutions ports s).crosspointAhead = s.crosspointAhead ∧
    (handExecutions ports s).monitors = s.monitors ∧ (handExecutions ports s).tariffs = s.tariffs ∧
    (handExecutions ports s).accounts = s.accounts ∧ (handExecutions ports s).tickets = s.tickets := by
  simp only [handExecutions]
  split <;>
    simp [foldl_keeps State.resetn, foldl_keeps State.pending, foldl_keeps State.orders, foldl_keeps State.clock,
        foldl_keeps State.store, foldl_keeps State.crosspointAhead, foldl_keeps State.monitors,
        foldl_keeps State.tariffs, foldl_keeps State.accounts, foldl_keeps State.tickets]

@[simp] theorem switchPoint_keeps (inside : Bool) (s : State) :
    (switchPoint inside s).resetn = s.resetn ∧ (switchPoint inside s).pending = s.pending ∧
    (switchPoint inside s).orders = s.orders ∧ (switchPoint inside s).clock = s.clock ∧
    (switchPoint inside s).store = s.store ∧ (switchPoint inside s).crosspointAhead = s.crosspointAhead ∧
    (switchPoint inside s).monitors = s.monitors ∧ (switchPoint inside s).tariffs = s.tariffs ∧
    (switchPoint inside s).accounts = s.accounts ∧ (switchPoint inside s).tickets = s.tickets := by
  simp [switchPoint]

@[simp] theorem tickRows_keeps (s : State) :
    (tickRows s).resetn = s.resetn ∧ (tickRows s).pending = s.pending ∧ (tickRows s).link = s.link ∧
    (tickRows s).orders = s.orders ∧ (tickRows s).clock = s.clock ∧ (tickRows s).store = s.store ∧
    (tickRows s).crosspointAhead = s.crosspointAhead ∧ (tickRows s).monitors = s.monitors ∧
    (tickRows s).alarm = s.alarm ∧ (tickRows s).tariffs = s.tariffs ∧ (tickRows s).accounts = s.accounts ∧
    (tickRows s).tickets = s.tickets := by
  simp [tickRows]

@[simp] theorem crosspointTick_keeps (s : State) :
    (crosspointTick s).resetn = s.resetn ∧ (crosspointTick s).pending = s.pending ∧
    (crosspointTick s).orders = s.orders ∧ (crosspointTick s).clock = s.clock ∧ (crosspointTick s).store = s.store ∧
    (crosspointTick s).crosspointAhead = s.crosspointAhead ∧ (crosspointTick s).monitors = s.monitors ∧
    (crosspointTick s).tariffs = s.tariffs ∧ (crosspointTick s).accounts = s.accounts ∧
    (crosspointTick s).tickets = s.tickets := by
  simp only [crosspointTick]
  (repeat' split) <;> simp [*]

@[simp] theorem setMonitor_keeps (p : Fin 48) (m : Monitor) (s : State) :
    (setMonitor p m s).resetn = s.resetn ∧ (setMonitor p m s).pending = s.pending ∧
    (setMonitor p m s).link = s.link ∧ (setMonitor p m s).orders = s.orders ∧ (setMonitor p m s).clock = s.clock ∧
    (setMonitor p m s).store = s.store ∧ (setMonitor p m s).rows = s.rows ∧
    (setMonitor p m s).crosspointAhead = s.crosspointAhead ∧ (setMonitor p m s).alarm = s.alarm ∧
    (setMonitor p m s).tariffs = s.tariffs ∧ (setMonitor p m s).accounts = s.accounts ∧
    (setMonitor p m s).tickets = s.tickets := by
  simp [setMonitor]

@[simp] theorem healthChanged_keeps (p : Fin 48) (s : State) :
    (healthChanged p s).resetn = s.resetn ∧ (healthChanged p s).pending = s.pending ∧
    (healthChanged p s).orders = s.orders ∧ (healthChanged p s).clock = s.clock ∧
    (healthChanged p s).store = s.store ∧ (healthChanged p s).crosspointAhead = s.crosspointAhead ∧
    (healthChanged p s).monitors = s.monitors ∧ (healthChanged p s).tariffs = s.tariffs ∧
    (healthChanged p s).accounts = s.accounts ∧ (healthChanged p s).tickets = s.tickets := by
  simp [healthChanged]

@[simp] theorem updateMonitor_keeps (p : Fin 48) (m : Monitor) (s : State) :
    (updateMonitor p m s).resetn = s.resetn ∧ (updateMonitor p m s).pending = s.pending ∧
    (updateMonitor p m s).orders = s.orders ∧ (updateMonitor p m s).clock = s.clock ∧
    (updateMonitor p m s).store = s.store ∧ (updateMonitor p m s).crosspointAhead = s.crosspointAhead ∧
    (updateMonitor p m s).tariffs = s.tariffs ∧ (updateMonitor p m s).accounts = s.accounts ∧
    (updateMonitor p m s).tickets = s.tickets := by
  simp only [updateMonitor]
  (repeat' split) <;> simp [*]

@[simp] theorem monitorTick_keeps (p : Fin 48) (s : State) :
    (monitorTick p s).resetn = s.resetn ∧ (monitorTick p s).pending = s.pending ∧
    (monitorTick p s).orders = s.orders ∧ (monitorTick p s).clock = s.clock ∧ (monitorTick p s).store = s.store ∧
    (monitorTick p s).crosspointAhead = s.crosspointAhead ∧ (monitorTick p s).tariffs = s.tariffs ∧
    (monitorTick p s).accounts = s.accounts ∧ (monitorTick p s).tickets = s.tickets := by
  simp only [monitorTick]
  (repeat' split) <;> simp [*]

@[simp] theorem takeTickEarly_keeps (p : Fin 48) (s : State) :
    (takeTickEarly p s).resetn = s.resetn ∧ (takeTickEarly p s).pending = s.pending ∧
    (takeTickEarly p s).orders = s.orders ∧ (takeTickEarly p s).clock = s.clock ∧
    (takeTickEarly p s).store = s.store ∧ (takeTickEarly p s).crosspointAhead = s.crosspointAhead ∧
    (takeTickEarly p s).tariffs = s.tariffs ∧ (takeTickEarly p s).accounts = s.accounts ∧
    (takeTickEarly p s).tickets = s.tickets := by
  simp [takeTickEarly]

@[simp] theorem holdOffReached_keeps (p : Fin 48) (s : State) :
    (holdOffReached p s).resetn = s.resetn ∧ (holdOffReached p s).pending = s.pending ∧
    (holdOffReached p s).orders = s.orders ∧ (holdOffReached p s).clock = s.clock ∧
    (holdOffReached p s).store = s.store ∧ (holdOffReached p s).crosspointAhead = s.crosspointAhead ∧
    (holdOffReached p s).tariffs = s.tariffs ∧ (holdOffReached p s).accounts = s.accounts ∧
    (holdOffReached p s).tickets = s.tickets := by
  simp only [holdOffReached]
  (repeat' split) <;> simp [*]

@[simp] theorem restoreExpired_keeps (p : Fin 48) (s : State) :
    (restoreExpired p s).resetn = s.resetn ∧ (restoreExpired p s).pending = s.pending ∧
    (restoreExpired p s).orders = s.orders ∧ (restoreExpired p s).clock = s.clock ∧
    (restoreExpired p s).store = s.store ∧ (restoreExpired p s).crosspointAhead = s.crosspointAhead ∧
    (restoreExpired p s).tariffs = s.tariffs ∧ (restoreExpired p s).accounts = s.accounts ∧
    (restoreExpired p s).tickets = s.tickets := by
  simp only [restoreExpired]
  (repeat' split) <;> simp [*]

@[simp] theorem receiverObservation_keeps (p : Fin 48) (seen : Observation) (s : State) :
    (receiverObservation p seen s).resetn = s.resetn ∧ (receiverObservation p seen s).pending = s.pending ∧
    (receiverObservation p seen s).orders = s.orders ∧ (receiverObservation p seen s).clock = s.clock ∧
    (receiverObservation p seen s).store = s.store ∧
    (receiverObservation p seen s).crosspointAhead = s.crosspointAhead ∧
    (receiverObservation p seen s).tariffs = s.tariffs ∧ (receiverObservation p seen s).accounts = s.accounts ∧
    (receiverObservation p seen s).tickets = s.tickets := by
  simp [receiverObservation]

@[simp] theorem lossOfLight_keeps (p : Fin 48) (s : State) :
    (lossOfLight p s).resetn = s.resetn ∧ (lossOfLight p s).pending = s.pending ∧
    (lossOfLight p s).orders = s.orders ∧ (lossOfLight p s).clock = s.clock ∧ (lossOfLight p s).store = s.store ∧
    (lossOfLight p s).crosspointAhead = s.crosspointAhead ∧ (lossOfLight p s).tariffs = s.tariffs ∧
    (lossOfLight p s).accounts = s.accounts ∧ (lossOfLight p s).tickets = s.tickets := by
  simp [lossOfLight]

@[simp] theorem countMeters_keeps (e : EndedSecond) (s : State) :
    (countMeters e s).resetn = s.resetn ∧ (countMeters e s).pending = s.pending ∧ (countMeters e s).link = s.link ∧
    (countMeters e s).orders = s.orders ∧ (countMeters e s).clock = s.clock ∧ (countMeters e s).rows = s.rows ∧
    (countMeters e s).crosspointAhead = s.crosspointAhead ∧ (countMeters e s).monitors = s.monitors ∧
    (countMeters e s).alarm = s.alarm ∧ (countMeters e s).accounts = s.accounts ∧
    (countMeters e s).tickets = s.tickets := by
  simp [countMeters]

@[simp] theorem setMeter_keeps (n : Fin 1024) (m : Meter) (s : State) :
    (setMeter n m s).resetn = s.resetn ∧ (setMeter n m s).pending = s.pending ∧ (setMeter n m s).link = s.link ∧
    (setMeter n m s).orders = s.orders ∧ (setMeter n m s).clock = s.clock ∧ (setMeter n m s).store = s.store ∧
    (setMeter n m s).rows = s.rows ∧ (setMeter n m s).crosspointAhead = s.crosspointAhead ∧
    (setMeter n m s).monitors = s.monitors ∧ (setMeter n m s).alarm = s.alarm ∧
    (setMeter n m s).accounts = s.accounts ∧ (setMeter n m s).tickets = s.tickets := by
  simp [setMeter]

@[simp] theorem swapTariff_keeps (s : State) :
    (swapTariff s).resetn = s.resetn ∧ (swapTariff s).pending = s.pending ∧ (swapTariff s).link = s.link ∧
    (swapTariff s).orders = s.orders ∧ (swapTariff s).clock = s.clock ∧ (swapTariff s).store = s.store ∧
    (swapTariff s).rows = s.rows ∧ (swapTariff s).crosspointAhead = s.crosspointAhead ∧
    (swapTariff s).monitors = s.monitors ∧ (swapTariff s).alarm = s.alarm ∧ (swapTariff s).accounts = s.accounts ∧
    (swapTariff s).tickets = s.tickets := by
  simp only [swapTariff]
  (repeat' split) <;> simp [*]

@[simp] theorem setStartBands_keeps (s : State) :
    (setStartBands s).resetn = s.resetn ∧ (setStartBands s).pending = s.pending ∧ (setStartBands s).link = s.link ∧
    (setStartBands s).orders = s.orders ∧ (setStartBands s).clock = s.clock ∧ (setStartBands s).store = s.store ∧
    (setStartBands s).rows = s.rows ∧ (setStartBands s).crosspointAhead = s.crosspointAhead ∧
    (setStartBands s).monitors = s.monitors ∧ (setStartBands s).alarm = s.alarm ∧
    (setStartBands s).accounts = s.accounts ∧ (setStartBands s).tickets = s.tickets := by
  simp [setStartBands]

@[simp] theorem takeTariffBoundary_keeps (s : State) :
    (takeTariffBoundary s).resetn = s.resetn ∧ (takeTariffBoundary s).pending = s.pending ∧
    (takeTariffBoundary s).link = s.link ∧ (takeTariffBoundary s).orders = s.orders ∧
    (takeTariffBoundary s).clock = s.clock ∧ (takeTariffBoundary s).store = s.store ∧
    (takeTariffBoundary s).rows = s.rows ∧ (takeTariffBoundary s).crosspointAhead = s.crosspointAhead ∧
    (takeTariffBoundary s).monitors = s.monitors ∧ (takeTariffBoundary s).alarm = s.alarm ∧
    (takeTariffBoundary s).accounts = s.accounts ∧ (takeTariffBoundary s).tickets = s.tickets := by
  simp [takeTariffBoundary]

@[simp] theorem setTimeline_keeps (d : Fin 64) (l : List (Fin 1024)) (s : State) :
    (setTimeline d l s).resetn = s.resetn ∧ (setTimeline d l s).pending = s.pending ∧
    (setTimeline d l s).link = s.link ∧ (setTimeline d l s).orders = s.orders ∧ (setTimeline d l s).clock = s.clock ∧
    (setTimeline d l s).rows = s.rows ∧ (setTimeline d l s).crosspointAhead = s.crosspointAhead ∧
    (setTimeline d l s).monitors = s.monitors ∧ (setTimeline d l s).alarm = s.alarm ∧
    (setTimeline d l s).tariffs = s.tariffs ∧ (setTimeline d l s).accounts = s.accounts ∧
    (setTimeline d l s).tickets = s.tickets := by
  simp [setTimeline]

@[simp] theorem leaveTimeline_keeps (n : Fin 1024) (s : State) :
    (leaveTimeline n s).resetn = s.resetn ∧ (leaveTimeline n s).pending = s.pending ∧
    (leaveTimeline n s).link = s.link ∧ (leaveTimeline n s).orders = s.orders ∧ (leaveTimeline n s).clock = s.clock ∧
    (leaveTimeline n s).rows = s.rows ∧ (leaveTimeline n s).crosspointAhead = s.crosspointAhead ∧
    (leaveTimeline n s).monitors = s.monitors ∧ (leaveTimeline n s).alarm = s.alarm ∧
    (leaveTimeline n s).tariffs = s.tariffs ∧ (leaveTimeline n s).accounts = s.accounts ∧
    (leaveTimeline n s).tickets = s.tickets := by
  simp [leaveTimeline]

@[simp] theorem makeRecheck_keeps (s : State) :
    (makeRecheck s).resetn = s.resetn ∧ (makeRecheck s).pending = s.pending ∧ (makeRecheck s).clock = s.clock ∧
    (makeRecheck s).rows = s.rows ∧ (makeRecheck s).crosspointAhead = s.crosspointAhead ∧
    (makeRecheck s).monitors = s.monitors ∧ (makeRecheck s).tariffs = s.tariffs := by
  simp [makeRecheck]

@[simp] theorem countRecheck_keeps (s : State) :
    (countRecheck s).resetn = s.resetn ∧ (countRecheck s).pending = s.pending ∧ (countRecheck s).clock = s.clock ∧
    (countRecheck s).rows = s.rows ∧ (countRecheck s).crosspointAhead = s.crosspointAhead ∧
    (countRecheck s).monitors = s.monitors ∧ (countRecheck s).tariffs = s.tariffs := by
  simp only [countRecheck]
  (repeat' split) <;> simp [*]

@[simp] theorem lastRecheck_keeps (s : State) :
    (lastRecheck s).resetn = s.resetn ∧ (lastRecheck s).pending = s.pending ∧ (lastRecheck s).clock = s.clock ∧
    (lastRecheck s).rows = s.rows ∧ (lastRecheck s).crosspointAhead = s.crosspointAhead ∧
    (lastRecheck s).monitors = s.monitors ∧ (lastRecheck s).tariffs = s.tariffs := by
  simp only [lastRecheck]
  (repeat' split) <;> simp [*]

@[simp] theorem settleClose_keeps (kind : TicketKind) (n : Fin 1024) (closeMinute : Nat) (forOrder : Bool) (s : State) :
    (settleClose kind n closeMinute forOrder s).resetn = s.resetn ∧
    (settleClose kind n closeMinute forOrder s).pending = s.pending ∧
    (settleClose kind n closeMinute forOrder s).clock = s.clock ∧
    (settleClose kind n closeMinute forOrder s).rows = s.rows ∧
    (settleClose kind n closeMinute forOrder s).crosspointAhead = s.crosspointAhead ∧
    (settleClose kind n closeMinute forOrder s).monitors = s.monitors ∧
    (settleClose kind n closeMinute forOrder s).tariffs = s.tariffs := by
  simp [settleClose]

@[simp] theorem handToAlarms_keeps (s : State) :
    (handToAlarms s).resetn = s.resetn ∧ (handToAlarms s).pending = s.pending ∧ (handToAlarms s).orders = s.orders ∧
    (handToAlarms s).clock = s.clock ∧ (handToAlarms s).store = s.store ∧ (handToAlarms s).rows = s.rows ∧
    (handToAlarms s).crosspointAhead = s.crosspointAhead ∧ (handToAlarms s).monitors = s.monitors ∧
    (handToAlarms s).tariffs = s.tariffs ∧ (handToAlarms s).accounts = s.accounts ∧
    (handToAlarms s).tickets = s.tickets := by
  simp [handToAlarms]

@[simp] theorem beginClose_keeps (n : Fin 1024) (minute : Nat) (s : State) :
    (beginClose n minute s).resetn = s.resetn ∧ (beginClose n minute s).pending = s.pending ∧
    (beginClose n minute s).orders = s.orders ∧ (beginClose n minute s).clock = s.clock ∧
    (beginClose n minute s).crosspointAhead = s.crosspointAhead ∧ (beginClose n minute s).monitors = s.monitors ∧
    (beginClose n minute s).tariffs = s.tariffs ∧ (beginClose n minute s).accounts = s.accounts ∧
    (beginClose n minute s).tickets = s.tickets := by
  simp only [beginClose]
  (repeat' split) <;> simp [*]

@[simp] theorem holdClose_keeps (n : Fin 1024) (minute : Nat) (s : State) :
    (holdClose n minute s).resetn = s.resetn ∧ (holdClose n minute s).pending = s.pending ∧
    (holdClose n minute s).link = s.link ∧ (holdClose n minute s).orders = s.orders ∧
    (holdClose n minute s).clock = s.clock ∧ (holdClose n minute s).rows = s.rows ∧
    (holdClose n minute s).crosspointAhead = s.crosspointAhead ∧ (holdClose n minute s).monitors = s.monitors ∧
    (holdClose n minute s).alarm = s.alarm ∧ (holdClose n minute s).tariffs = s.tariffs ∧
    (holdClose n minute s).accounts = s.accounts ∧ (holdClose n minute s).tickets = s.tickets := by
  simp [holdClose]

@[simp] theorem closeOnAir_keeps (n : Fin 1024) (minute : Nat) (counted forOrder : Bool) (s : State) :
    (closeOnAir n minute counted forOrder s).resetn = s.resetn ∧
    (closeOnAir n minute counted forOrder s).pending = s.pending ∧
    (closeOnAir n minute counted forOrder s).clock = s.clock ∧
    (closeOnAir n minute counted forOrder s).crosspointAhead = s.crosspointAhead ∧
    (closeOnAir n minute counted forOrder s).monitors = s.monitors ∧
    (closeOnAir n minute counted forOrder s).tariffs = s.tariffs := by
  simp only [closeOnAir]
  (repeat' split) <;> simp [*]

@[simp] theorem closeMissed_keeps (n : Fin 1024) (minute : Nat) (s : State) :
    (closeMissed n minute s).resetn = s.resetn ∧ (closeMissed n minute s).pending = s.pending ∧
    (closeMissed n minute s).clock = s.clock ∧ (closeMissed n minute s).rows = s.rows ∧
    (closeMissed n minute s).crosspointAhead = s.crosspointAhead ∧ (closeMissed n minute s).monitors = s.monitors ∧
    (closeMissed n minute s).tariffs = s.tariffs := by
  simp [closeMissed]

@[simp] theorem markOwned_keeps (d : Fin 64) (s : State) :
    (markOwned d s).resetn = s.resetn ∧ (markOwned d s).pending = s.pending ∧ (markOwned d s).link = s.link ∧
    (markOwned d s).orders = s.orders ∧ (markOwned d s).clock = s.clock ∧ (markOwned d s).store = s.store ∧
    (markOwned d s).crosspointAhead = s.crosspointAhead ∧ (markOwned d s).monitors = s.monitors ∧
    (markOwned d s).alarm = s.alarm ∧ (markOwned d s).tariffs = s.tariffs ∧ (markOwned d s).accounts = s.accounts ∧
    (markOwned d s).tickets = s.tickets := by
  simp [markOwned]

@[simp] theorem activate_keeps (n : Fin 1024) (minute : Nat) (first : Stamp) (band : Option Band) (s : State) :
    (activate n minute first band s).resetn = s.resetn ∧ (activate n minute first band s).pending = s.pending ∧
    (activate n minute first band s).clock = s.clock ∧
    (activate n minute first band s).crosspointAhead = s.crosspointAhead ∧
    (activate n minute first band s).monitors = s.monitors := by
  simp [activate]

@[simp] theorem enterOverrun_keeps (n : Fin 1024) (s : State) :
    (enterOverrun n s).resetn = s.resetn ∧ (enterOverrun n s).pending = s.pending ∧
    (enterOverrun n s).clock = s.clock ∧ (enterOverrun n s).rows = s.rows ∧
    (enterOverrun n s).crosspointAhead = s.crosspointAhead ∧ (enterOverrun n s).monitors = s.monitors ∧
    (enterOverrun n s).tariffs = s.tariffs := by
  simp [enterOverrun]

@[simp] theorem boundaryClose_keeps (n : Fin 1024) (minute : Nat) (counted : Bool) (s : State) :
    (boundaryClose n minute counted s).resetn = s.resetn ∧ (boundaryClose n minute counted s).pending = s.pending ∧
    (boundaryClose n minute counted s).clock = s.clock ∧
    (boundaryClose n minute counted s).crosspointAhead = s.crosspointAhead ∧
    (boundaryClose n minute counted s).monitors = s.monitors ∧ (boundaryClose n minute counted s).tariffs = s.tariffs := by
  simp only [boundaryClose]
  (repeat' split) <;> simp [*]

@[simp] theorem boundaryHead_keeps (minute : Nat) (counted : Bool) (d : Fin 64) (s : State) :
    (boundaryHead minute counted d s).resetn = s.resetn ∧ (boundaryHead minute counted d s).pending = s.pending ∧
    (boundaryHead minute counted d s).clock = s.clock ∧
    (boundaryHead minute counted d s).crosspointAhead = s.crosspointAhead ∧
    (boundaryHead minute counted d s).monitors = s.monitors ∧ (boundaryHead minute counted d s).tariffs = s.tariffs := by
  simp only [boundaryHead]
  (repeat' split) <;> simp [*]

@[simp] theorem boundaryStart_keeps (minute : Nat) (swapped : Bool) (d : Fin 64) (s : State) :
    (boundaryStart minute swapped d s).resetn = s.resetn ∧ (boundaryStart minute swapped d s).pending = s.pending ∧
    (boundaryStart minute swapped d s).clock = s.clock ∧
    (boundaryStart minute swapped d s).crosspointAhead = s.crosspointAhead ∧
    (boundaryStart minute swapped d s).monitors = s.monitors := by
  simp only [boundaryStart]
  (repeat' split) <;> simp [*]

@[simp] theorem boundaryTimeline_keeps (minute : Nat) (counted swapped : Bool) (d : Fin 64) (s : State) :
    (boundaryTimeline minute counted swapped d s).resetn = s.resetn ∧
    (boundaryTimeline minute counted swapped d s).pending = s.pending ∧
    (boundaryTimeline minute counted swapped d s).clock = s.clock ∧
    (boundaryTimeline minute counted swapped d s).crosspointAhead = s.crosspointAhead ∧
    (boundaryTimeline minute counted swapped d s).monitors = s.monitors := by
  simp [boundaryTimeline]

@[simp] theorem storeTimelines_keeps (taken : Bool) (minute : Nat) (counted swapped : Bool) (ports : List (Fin 64)) (s : State) :
    (storeTimelines taken minute counted swapped ports s).resetn = s.resetn ∧
    (storeTimelines taken minute counted swapped ports s).pending = s.pending ∧
    (storeTimelines taken minute counted swapped ports s).clock = s.clock ∧
    (storeTimelines taken minute counted swapped ports s).crosspointAhead = s.crosspointAhead ∧
    (storeTimelines taken minute counted swapped ports s).monitors = s.monitors := by
  simp only [storeTimelines]
  split <;>
    simp [foldl_keeps State.resetn, foldl_keeps State.pending, foldl_keeps State.clock,
        foldl_keeps State.crosspointAhead, foldl_keeps State.monitors]

@[simp] theorem openRecheck_keeps (recheckAfter : Nat) (s : State) :
    (openRecheck recheckAfter s).resetn = s.resetn ∧ (openRecheck recheckAfter s).pending = s.pending ∧
    (openRecheck recheckAfter s).clock = s.clock ∧ (openRecheck recheckAfter s).rows = s.rows ∧
    (openRecheck recheckAfter s).crosspointAhead = s.crosspointAhead ∧
    (openRecheck recheckAfter s).monitors = s.monitors ∧ (openRecheck recheckAfter s).tariffs = s.tariffs := by
  simp only [openRecheck]
  (repeat' split) <;> simp [*]

@[simp] theorem boundaryCounted_keeps (minute swapAfter recheckAfter : Nat) (s : State) :
    (boundaryCounted minute swapAfter recheckAfter s).resetn = s.resetn ∧
    (boundaryCounted minute swapAfter recheckAfter s).pending = s.pending ∧
    (boundaryCounted minute swapAfter recheckAfter s).clock = s.clock ∧
    (boundaryCounted minute swapAfter recheckAfter s).crosspointAhead = s.crosspointAhead ∧
    (boundaryCounted minute swapAfter recheckAfter s).monitors = s.monitors := by
  simp [boundaryCounted]

@[simp] theorem boundaryUncounted_keeps (minute recheckAfter : Nat) (s : State) :
    (boundaryUncounted minute recheckAfter s).resetn = s.resetn ∧
    (boundaryUncounted minute recheckAfter s).pending = s.pending ∧
    (boundaryUncounted minute recheckAfter s).clock = s.clock ∧
    (boundaryUncounted minute recheckAfter s).crosspointAhead = s.crosspointAhead ∧
    (boundaryUncounted minute recheckAfter s).monitors = s.monitors := by
  simp [boundaryUncounted]

@[simp] theorem catchUpCloses_keeps (members : List (Fin 1024)) (s : State) :
    (catchUpCloses members s).resetn = s.resetn ∧ (catchUpCloses members s).pending = s.pending ∧
    (catchUpCloses members s).clock = s.clock ∧ (catchUpCloses members s).crosspointAhead = s.crosspointAhead ∧
    (catchUpCloses members s).monitors = s.monitors ∧ (catchUpCloses members s).tariffs = s.tariffs := by
  induction members generalizing s with
  | nil => simp [catchUpCloses]
  | cons n rest ih =>
    simp only [catchUpCloses]
    (repeat' split) <;> simp [ih]

@[simp] theorem catchUpStart_keeps (d : Fin 64) (s : State) :
    (catchUpStart d s).resetn = s.resetn ∧ (catchUpStart d s).pending = s.pending ∧
    (catchUpStart d s).clock = s.clock ∧ (catchUpStart d s).crosspointAhead = s.crosspointAhead ∧
    (catchUpStart d s).monitors = s.monitors := by
  simp only [catchUpStart]
  (repeat' split) <;> simp [*]

@[simp] theorem catchUpPhase_keeps (d : Fin 64) (s : State) :
    (catchUpPhase d s).resetn = s.resetn ∧ (catchUpPhase d s).pending = s.pending ∧
    (catchUpPhase d s).clock = s.clock ∧ (catchUpPhase d s).rows = s.rows ∧
    (catchUpPhase d s).crosspointAhead = s.crosspointAhead ∧ (catchUpPhase d s).monitors = s.monitors ∧
    (catchUpPhase d s).tariffs = s.tariffs := by
  simp only [catchUpPhase]
  (repeat' split) <;> simp [*]

@[simp] theorem catchUpTimeline_keeps (d : Fin 64) (s : State) :
    (catchUpTimeline d s).resetn = s.resetn ∧ (catchUpTimeline d s).pending = s.pending ∧
    (catchUpTimeline d s).clock = s.clock ∧ (catchUpTimeline d s).crosspointAhead = s.crosspointAhead ∧
    (catchUpTimeline d s).monitors = s.monitors := by
  simp [catchUpTimeline]

@[simp] theorem catchUp_keeps (s : State) :
    (catchUp s).resetn = s.resetn ∧ (catchUp s).pending = s.pending ∧ (catchUp s).clock = s.clock ∧
    (catchUp s).crosspointAhead = s.crosspointAhead ∧ (catchUp s).monitors = s.monitors := by
  simp [catchUp, foldl_keeps State.resetn, foldl_keeps State.pending, foldl_keeps State.clock,
      foldl_keeps State.crosspointAhead, foldl_keeps State.monitors]

@[simp] theorem enterRunning_keeps (s : State) :
    (enterRunning s).resetn = s.resetn ∧ (enterRunning s).pending = s.pending ∧ (enterRunning s).clock = s.clock ∧
    (enterRunning s).crosspointAhead = s.crosspointAhead ∧ (enterRunning s).monitors = s.monitors := by
  simp [enterRunning]

@[simp] theorem releaseFirst_keeps (s : State) :
    (releaseFirst s).resetn = s.resetn ∧ (releaseFirst s).pending = s.pending ∧ (releaseFirst s).clock = s.clock ∧
    (releaseFirst s).rows = s.rows ∧ (releaseFirst s).crosspointAhead = s.crosspointAhead ∧
    (releaseFirst s).monitors = s.monitors ∧ (releaseFirst s).tariffs = s.tariffs := by
  simp only [releaseFirst]
  (repeat' split) <;> simp [*]

@[simp] theorem beginPage_keeps (time : Stamp) (s : State) :
    (beginPage time s).resetn = s.resetn ∧ (beginPage time s).pending = s.pending ∧ (beginPage time s).orders = s.orders ∧
    (beginPage time s).clock = s.clock ∧ (beginPage time s).store = s.store ∧ (beginPage time s).rows = s.rows ∧
    (beginPage time s).crosspointAhead = s.crosspointAhead ∧ (beginPage time s).monitors = s.monitors ∧
    (beginPage time s).alarm = s.alarm ∧ (beginPage time s).tariffs = s.tariffs ∧ (beginPage time s).accounts = s.accounts ∧
    (beginPage time s).tickets = s.tickets := by
  simp [beginPage]

@[simp] theorem nextMark_keeps (s : State) :
    (nextMark s).resetn = s.resetn ∧ (nextMark s).pending = s.pending ∧ (nextMark s).orders = s.orders ∧
    (nextMark s).clock = s.clock ∧ (nextMark s).store = s.store ∧ (nextMark s).rows = s.rows ∧
    (nextMark s).crosspointAhead = s.crosspointAhead ∧ (nextMark s).monitors = s.monitors ∧
    (nextMark s).alarm = s.alarm ∧ (nextMark s).tariffs = s.tariffs ∧ (nextMark s).accounts = s.accounts ∧
    (nextMark s).tickets = s.tickets := by
  simp [nextMark]

@[simp] theorem pageTick_keeps (boundary : Bool) (time : Stamp) (s : State) :
    (pageTick boundary time s).resetn = s.resetn ∧ (pageTick boundary time s).pending = s.pending ∧
    (pageTick boundary time s).orders = s.orders ∧ (pageTick boundary time s).clock = s.clock ∧
    (pageTick boundary time s).store = s.store ∧ (pageTick boundary time s).rows = s.rows ∧
    (pageTick boundary time s).crosspointAhead = s.crosspointAhead ∧ (pageTick boundary time s).monitors = s.monitors ∧
    (pageTick boundary time s).alarm = s.alarm ∧ (pageTick boundary time s).tariffs = s.tariffs ∧
    (pageTick boundary time s).accounts = s.accounts ∧ (pageTick boundary time s).tickets = s.tickets := by
  simp only [pageTick]
  (repeat' split) <;> simp [*]

/-- What every tick of the page logic keeps, the ticks of the boundaries it owes keep. -/
theorem takeOwed_holds {P : State → Prop} (h : ∀ time t, P t → P (pageTick true time t)) (ticks : List OwedTick) {s : State}
    (good : P s) : P (takeOwed ticks s) := by
  induction ticks generalizing s with
  | nil => exact good
  | cons e rest ih => exact ih (h e.time s good)

@[simp] theorem takeOwed_keeps (ticks : List OwedTick) (s : State) :
    (takeOwed ticks s).resetn = s.resetn ∧ (takeOwed ticks s).pending = s.pending ∧
    (takeOwed ticks s).orders = s.orders ∧ (takeOwed ticks s).clock = s.clock ∧
    (takeOwed ticks s).store = s.store ∧ (takeOwed ticks s).rows = s.rows ∧
    (takeOwed ticks s).crosspointAhead = s.crosspointAhead ∧ (takeOwed ticks s).monitors = s.monitors ∧
    (takeOwed ticks s).alarm = s.alarm ∧ (takeOwed ticks s).tariffs = s.tariffs ∧
    (takeOwed ticks s).accounts = s.accounts ∧ (takeOwed ticks s).tickets = s.tickets :=
  takeOwed_holds (P := fun t => t.resetn = s.resetn ∧ t.pending = s.pending ∧ t.orders = s.orders ∧ t.clock = s.clock ∧
    t.store = s.store ∧ t.rows = s.rows ∧ t.crosspointAhead = s.crosspointAhead ∧ t.monitors = s.monitors ∧
    t.alarm = s.alarm ∧ t.tariffs = s.tariffs ∧ t.accounts = s.accounts ∧ t.tickets = s.tickets)
    (fun _ _ h => by simpa using h) ticks (by simp)

@[simp] theorem settlePage_keeps (s : State) :
    (settlePage s).resetn = s.resetn ∧ (settlePage s).pending = s.pending ∧ (settlePage s).orders = s.orders ∧
    (settlePage s).clock = s.clock ∧ (settlePage s).store = s.store ∧ (settlePage s).rows = s.rows ∧
    (settlePage s).crosspointAhead = s.crosspointAhead ∧ (settlePage s).monitors = s.monitors ∧
    (settlePage s).alarm = s.alarm ∧ (settlePage s).tariffs = s.tariffs ∧ (settlePage s).accounts = s.accounts ∧
    (settlePage s).tickets = s.tickets := by
  simp [settlePage]

@[simp] theorem boundaryPage_keeps (minute : BitVec 32) (s : State) :
    (boundaryPage minute s).resetn = s.resetn ∧ (boundaryPage minute s).pending = s.pending ∧
    (boundaryPage minute s).orders = s.orders ∧
    (boundaryPage minute s).clock = s.clock ∧ (boundaryPage minute s).store = s.store ∧ (boundaryPage minute s).rows = s.rows ∧
    (boundaryPage minute s).crosspointAhead = s.crosspointAhead ∧ (boundaryPage minute s).monitors = s.monitors ∧
    (boundaryPage minute s).alarm = s.alarm ∧ (boundaryPage minute s).tariffs = s.tariffs ∧
    (boundaryPage minute s).accounts = s.accounts ∧ (boundaryPage minute s).tickets = s.tickets := by
  simp [boundaryPage]

@[simp] theorem secondPage_keeps (ahead : Bool) (s : State) :
    (secondPage ahead s).resetn = s.resetn ∧ (secondPage ahead s).pending = s.pending ∧ (secondPage ahead s).orders = s.orders ∧
    (secondPage ahead s).clock = s.clock ∧ (secondPage ahead s).store = s.store ∧ (secondPage ahead s).rows = s.rows ∧
    (secondPage ahead s).crosspointAhead = s.crosspointAhead ∧ (secondPage ahead s).monitors = s.monitors ∧
    (secondPage ahead s).alarm = s.alarm ∧ (secondPage ahead s).tariffs = s.tariffs ∧ (secondPage ahead s).accounts = s.accounts ∧
    (secondPage ahead s).tickets = s.tickets := by
  simp only [secondPage]
  (repeat' split) <;> simp [*]

@[simp] theorem endPage_keeps (s : State) :
    (endPage s).resetn = s.resetn ∧ (endPage s).pending = s.pending ∧ (endPage s).orders = s.orders ∧
    (endPage s).clock = s.clock ∧ (endPage s).store = s.store ∧ (endPage s).rows = s.rows ∧
    (endPage s).crosspointAhead = s.crosspointAhead ∧ (endPage s).monitors = s.monitors ∧
    (endPage s).alarm = s.alarm ∧ (endPage s).tariffs = s.tariffs ∧ (endPage s).accounts = s.accounts ∧
    (endPage s).tickets = s.tickets := by
  simp [endPage]

@[simp] theorem pageComplete_keeps (s : State) :
    (pageComplete s).resetn = s.resetn ∧ (pageComplete s).pending = s.pending ∧ (pageComplete s).clock = s.clock ∧
    (pageComplete s).rows = s.rows ∧ (pageComplete s).crosspointAhead = s.crosspointAhead ∧
    (pageComplete s).monitors = s.monitors ∧ (pageComplete s).tariffs = s.tariffs := by
  simp only [pageComplete]
  (repeat' split) <;> simp [*]

@[simp] theorem abandonPage_keeps (issued : Nat) (s : State) :
    (abandonPage issued s).resetn = s.resetn ∧ (abandonPage issued s).pending = s.pending ∧
    (abandonPage issued s).clock = s.clock ∧ (abandonPage issued s).rows = s.rows ∧
    (abandonPage issued s).crosspointAhead = s.crosspointAhead ∧ (abandonPage issued s).monitors = s.monitors ∧
    (abandonPage issued s).tariffs = s.tariffs := by
  simp only [abandonPage]
  (repeat' split) <;> simp [*]

@[simp] theorem crosspointBlock_keeps (s : State) :
    (crosspointBlock s).resetn = s.resetn ∧ (crosspointBlock s).pending = s.pending ∧
    (crosspointBlock s).orders = s.orders ∧ (crosspointBlock s).clock = s.clock ∧
    (crosspointBlock s).store = s.store ∧ (crosspointBlock s).monitors = s.monitors ∧
    (crosspointBlock s).tariffs = s.tariffs ∧ (crosspointBlock s).accounts = s.accounts ∧
    (crosspointBlock s).tickets = s.tickets := by
  simp only [crosspointBlock]
  (repeat' split) <;> simp [*]

@[simp] theorem blockTick_keeps (k : Fin 49) (s : State) :
    (blockTick k s).resetn = s.resetn ∧ (blockTick k s).pending = s.pending ∧ (blockTick k s).orders = s.orders ∧
    (blockTick k s).clock = s.clock ∧ (blockTick k s).store = s.store ∧ (blockTick k s).tariffs = s.tariffs ∧
    (blockTick k s).accounts = s.accounts ∧ (blockTick k s).tickets = s.tickets := by
  simp only [blockTick]
  (repeat' split) <;> simp [*]

@[simp] theorem blockAhead_keeps (k : Fin 49) (s : State) :
    (blockAhead k s).resetn = s.resetn ∧ (blockAhead k s).pending = s.pending ∧ (blockAhead k s).orders = s.orders ∧
    (blockAhead k s).clock = s.clock ∧ (blockAhead k s).store = s.store ∧ (blockAhead k s).tariffs = s.tariffs ∧
    (blockAhead k s).accounts = s.accounts ∧ (blockAhead k s).tickets = s.tickets := by
  simp only [blockAhead]
  (repeat' split) <;> simp [*]

@[simp] theorem ticksAhead_keeps (early : TickOrder) (s : State) :
    (ticksAhead early s).resetn = s.resetn ∧ (ticksAhead early s).pending = s.pending ∧
    (ticksAhead early s).orders = s.orders ∧ (ticksAhead early s).clock = s.clock ∧
    (ticksAhead early s).store = s.store ∧ (ticksAhead early s).tariffs = s.tariffs ∧
    (ticksAhead early s).accounts = s.accounts ∧ (ticksAhead early s).tickets = s.tickets := by
  simp [ticksAhead, foldl_keeps State.resetn, foldl_keeps State.pending, foldl_keeps State.orders,
      foldl_keeps State.clock, foldl_keeps State.store, foldl_keeps State.tariffs, foldl_keeps State.accounts,
      foldl_keeps State.tickets]

@[simp] theorem blocksTick_keeps (order done : List (Fin 49)) (s : State) :
    (blocksTick order done s).resetn = s.resetn ∧ (blocksTick order done s).pending = s.pending ∧
    (blocksTick order done s).orders = s.orders ∧ (blocksTick order done s).clock = s.clock ∧
    (blocksTick order done s).store = s.store ∧ (blocksTick order done s).tariffs = s.tariffs ∧
    (blocksTick order done s).accounts = s.accounts ∧ (blocksTick order done s).tickets = s.tickets := by
  induction order generalizing s done with
  | nil => simp [blocksTick]
  | cons b rest ih =>
    simp only [blocksTick]
    (repeat' split) <;> simp [ih]

@[simp] theorem handTick_keeps (order : TickOrder) (e : EndedSecond) (s : State) :
    (handTick order e s).resetn = s.resetn ∧ (handTick order e s).pending = s.pending ∧
    (handTick order e s).orders = s.orders ∧ (handTick order e s).clock = s.clock ∧
    (handTick order e s).accounts = s.accounts ∧ (handTick order e s).tickets = s.tickets := by
  simp [handTick]

@[simp] theorem owedTick_keeps (order : TickOrder) (ended : BitVec 32) (s : State) :
    (owedTick order ended s).resetn = s.resetn ∧ (owedTick order ended s).pending = s.pending ∧
    (owedTick order ended s).orders = s.orders ∧ (owedTick order ended s).clock = s.clock ∧
    (owedTick order ended s).accounts = s.accounts ∧ (owedTick order ended s).tickets = s.tickets := by
  simp [owedTick]

@[simp] theorem setRollover_keeps (r : Rollover) (s : State) :
    (setRollover r s).resetn = s.resetn ∧ (setRollover r s).pending = s.pending ∧ (setRollover r s).link = s.link ∧
    (setRollover r s).orders = s.orders ∧ (setRollover r s).store = s.store ∧ (setRollover r s).rows = s.rows ∧
    (setRollover r s).crosspointAhead = s.crosspointAhead ∧ (setRollover r s).monitors = s.monitors ∧
    (setRollover r s).alarm = s.alarm ∧ (setRollover r s).tariffs = s.tariffs ∧
    (setRollover r s).accounts = s.accounts ∧ (setRollover r s).tickets = s.tickets := by
  simp [setRollover]

@[simp] theorem setTime_keeps (minute : BitVec 32) (second : Nat) (s : State) :
    (setTime minute second s).resetn = s.resetn ∧ (setTime minute second s).pending = s.pending ∧
    (setTime minute second s).link = s.link ∧ (setTime minute second s).orders = s.orders ∧
    (setTime minute second s).store = s.store ∧ (setTime minute second s).rows = s.rows ∧
    (setTime minute second s).crosspointAhead = s.crosspointAhead ∧ (setTime minute second s).monitors = s.monitors ∧
    (setTime minute second s).alarm = s.alarm ∧ (setTime minute second s).tariffs = s.tariffs ∧
    (setTime minute second s).accounts = s.accounts ∧ (setTime minute second s).tickets = s.tickets := by
  simp [setTime]

@[simp] theorem rollTime_keeps (minute : BitVec 32) (clockSet : Bool) (s : State) :
    (rollTime minute clockSet s).resetn = s.resetn ∧ (rollTime minute clockSet s).pending = s.pending ∧
    (rollTime minute clockSet s).link = s.link ∧ (rollTime minute clockSet s).orders = s.orders ∧
    (rollTime minute clockSet s).store = s.store ∧ (rollTime minute clockSet s).rows = s.rows ∧
    (rollTime minute clockSet s).crosspointAhead = s.crosspointAhead ∧
    (rollTime minute clockSet s).monitors = s.monitors ∧ (rollTime minute clockSet s).alarm = s.alarm ∧
    (rollTime minute clockSet s).tariffs = s.tariffs ∧ (rollTime minute clockSet s).accounts = s.accounts ∧
    (rollTime minute clockSet s).tickets = s.tickets := by
  simp only [rollTime]
  (repeat' split) <;> simp [*]

@[simp] theorem boundaryAfterTick_keeps (minute : BitVec 32) (clockSet : Bool) (swapAfter recheckAfter : Nat) (s : State) :
    (boundaryAfterTick minute clockSet swapAfter recheckAfter s).resetn = s.resetn ∧
    (boundaryAfterTick minute clockSet swapAfter recheckAfter s).pending = s.pending ∧
    (boundaryAfterTick minute clockSet swapAfter recheckAfter s).crosspointAhead = s.crosspointAhead ∧
    (boundaryAfterTick minute clockSet swapAfter recheckAfter s).monitors = s.monitors := by
  simp [boundaryAfterTick]

@[simp] theorem boundaryBeforeTick_keeps (recheckAfter : Nat) (s : State) :
    (boundaryBeforeTick recheckAfter s).resetn = s.resetn ∧ (boundaryBeforeTick recheckAfter s).pending = s.pending ∧
    (boundaryBeforeTick recheckAfter s).crosspointAhead = s.crosspointAhead ∧
    (boundaryBeforeTick recheckAfter s).monitors = s.monitors := by
  simp [boundaryBeforeTick]

@[simp] theorem takeBoundary_keeps (swapAfter recheckAfter : Nat) (s : State) :
    (takeBoundary swapAfter recheckAfter s).resetn = s.resetn ∧
    (takeBoundary swapAfter recheckAfter s).pending = s.pending ∧
    (takeBoundary swapAfter recheckAfter s).crosspointAhead = s.crosspointAhead ∧
    (takeBoundary swapAfter recheckAfter s).monitors = s.monitors := by
  simp only [takeBoundary]
  (repeat' split) <;> simp [*]

@[simp] theorem minuteBoundary_keeps (early : TickOrder) (boundary : Bool) (swapAfter recheckAfter : Nat) (s : State) :
    (minuteBoundary early boundary swapAfter recheckAfter s).resetn = s.resetn ∧
    (minuteBoundary early boundary swapAfter recheckAfter s).pending = s.pending := by
  simp only [minuteBoundary]
  (repeat' split) <;> simp [*]

@[simp] theorem settleBoundary_keeps (s : State) :
    (settleBoundary s).resetn = s.resetn ∧ (settleBoundary s).pending = s.pending ∧
    (settleBoundary s).crosspointAhead = s.crosspointAhead ∧ (settleBoundary s).monitors = s.monitors := by
  simp only [settleBoundary]
  (repeat' split) <;> simp [*]

@[simp] theorem completeSecond_keeps (ahead : Bool) (s : State) :
    (completeSecond ahead s).resetn = s.resetn ∧ (completeSecond ahead s).pending = s.pending ∧
    (completeSecond ahead s).orders = s.orders ∧ (completeSecond ahead s).store = s.store ∧ (completeSecond ahead s).rows = s.rows ∧
    (completeSecond ahead s).crosspointAhead = s.crosspointAhead ∧ (completeSecond ahead s).monitors = s.monitors ∧
    (completeSecond ahead s).alarm = s.alarm ∧ (completeSecond ahead s).tariffs = s.tariffs ∧
    (completeSecond ahead s).accounts = s.accounts ∧ (completeSecond ahead s).tickets = s.tickets := by
  simp only [completeSecond]
  (repeat' split) <;> simp [*]

@[simp] theorem secondTick_keeps (order : TickOrder) (s : State) :
    (secondTick order s).resetn = s.resetn ∧ (secondTick order s).pending = s.pending := by
  simp only [secondTick]
  (repeat' split) <;> simp [*]

@[simp] theorem referenceChanged_keeps (s : State) :
    (referenceChanged s).resetn = s.resetn ∧ (referenceChanged s).pending = s.pending ∧
    (referenceChanged s).orders = s.orders ∧ (referenceChanged s).clock = s.clock ∧
    (referenceChanged s).store = s.store ∧ (referenceChanged s).rows = s.rows ∧
    (referenceChanged s).crosspointAhead = s.crosspointAhead ∧ (referenceChanged s).monitors = s.monitors ∧
    (referenceChanged s).tariffs = s.tariffs ∧ (referenceChanged s).accounts = s.accounts ∧
    (referenceChanged s).tickets = s.tickets := by
  simp [referenceChanged]

@[simp] theorem changeReference_keeps (c : Clock) (s : State) :
    (changeReference c s).resetn = s.resetn ∧ (changeReference c s).pending = s.pending ∧
    (changeReference c s).orders = s.orders ∧ (changeReference c s).store = s.store ∧
    (changeReference c s).rows = s.rows ∧ (changeReference c s).crosspointAhead = s.crosspointAhead ∧
    (changeReference c s).monitors = s.monitors ∧ (changeReference c s).tariffs = s.tariffs ∧
    (changeReference c s).accounts = s.accounts ∧ (changeReference c s).tickets = s.tickets := by
  simp [changeReference]

@[simp] theorem pulseFreeRun_keeps (instant : Nat) (order : TickOrder) (s : State) :
    (pulseFreeRun instant order s).resetn = s.resetn ∧ (pulseFreeRun instant order s).pending = s.pending := by
  simp only [pulseFreeRun]
  (repeat' split) <;> simp [*]

@[simp] theorem secrefPulse_keeps (instant : Nat) (order : TickOrder) (s : State) :
    (secrefPulse instant order s).resetn = s.resetn ∧ (secrefPulse instant order s).pending = s.pending := by
  simp only [secrefPulse]
  (repeat' split) <;> simp [*]

@[simp] theorem secrefTimeout_keeps (order : TickOrder) (s : State) :
    (secrefTimeout order s).resetn = s.resetn ∧ (secrefTimeout order s).pending = s.pending := by
  simp only [secrefTimeout]
  (repeat' split) <;> simp [*]

@[simp] theorem ownTick_keeps (order : TickOrder) (s : State) :
    (ownTick order s).resetn = s.resetn ∧ (ownTick order s).pending = s.pending := by
  simp only [ownTick]
  (repeat' split) <;> simp [*]

@[simp] theorem relockTimeout_keeps (s : State) :
    (relockTimeout s).resetn = s.resetn ∧ (relockTimeout s).pending = s.pending ∧ (relockTimeout s).link = s.link ∧
    (relockTimeout s).orders = s.orders ∧ (relockTimeout s).store = s.store ∧ (relockTimeout s).rows = s.rows ∧
    (relockTimeout s).crosspointAhead = s.crosspointAhead ∧ (relockTimeout s).monitors = s.monitors ∧
    (relockTimeout s).alarm = s.alarm ∧ (relockTimeout s).tariffs = s.tariffs ∧
    (relockTimeout s).accounts = s.accounts ∧ (relockTimeout s).tickets = s.tickets := by
  simp only [relockTimeout]
  (repeat' split) <;> simp [*]

@[simp] theorem pulseSwitch_keeps (s : State) :
    (pulseSwitch s).resetn = s.resetn ∧ (pulseSwitch s).pending = s.pending ∧ (pulseSwitch s).orders = s.orders ∧
    (pulseSwitch s).clock = s.clock ∧ (pulseSwitch s).store = s.store ∧
    (pulseSwitch s).crosspointAhead = s.crosspointAhead ∧ (pulseSwitch s).monitors = s.monitors ∧
    (pulseSwitch s).tariffs = s.tariffs ∧ (pulseSwitch s).accounts = s.accounts ∧ (pulseSwitch s).tickets = s.tickets := by
  simp only [pulseSwitch]
  (repeat' split) <;> simp [*]

@[simp] theorem framerefPulse_keeps (instant : Nat) (s : State) :
    (framerefPulse instant s).resetn = s.resetn ∧ (framerefPulse instant s).pending = s.pending ∧
    (framerefPulse instant s).orders = s.orders ∧ (framerefPulse instant s).store = s.store ∧
    (framerefPulse instant s).crosspointAhead = s.crosspointAhead ∧ (framerefPulse instant s).monitors = s.monitors ∧
    (framerefPulse instant s).tariffs = s.tariffs ∧ (framerefPulse instant s).accounts = s.accounts ∧
    (framerefPulse instant s).tickets = s.tickets := by
  simp only [framerefPulse]
  (repeat' split) <;> simp [*]

@[simp] theorem framerefTimeout_keeps (s : State) :
    (framerefTimeout s).resetn = s.resetn ∧ (framerefTimeout s).pending = s.pending ∧
    (framerefTimeout s).orders = s.orders ∧ (framerefTimeout s).store = s.store ∧ (framerefTimeout s).rows = s.rows ∧
    (framerefTimeout s).crosspointAhead = s.crosspointAhead ∧ (framerefTimeout s).monitors = s.monitors ∧
    (framerefTimeout s).tariffs = s.tariffs ∧ (framerefTimeout s).accounts = s.accounts ∧
    (framerefTimeout s).tickets = s.tickets := by
  simp only [framerefTimeout]
  (repeat' split) <;> simp [*]

@[simp] theorem bookOrder_keeps (o : Order) (s : State) :
    (bookOrder o s).resetn = s.resetn ∧ (bookOrder o s).pending = s.pending ∧ (bookOrder o s).clock = s.clock ∧
    (bookOrder o s).rows = s.rows ∧ (bookOrder o s).crosspointAhead = s.crosspointAhead ∧
    (bookOrder o s).monitors = s.monitors ∧ (bookOrder o s).tariffs = s.tariffs := by
  simp only [bookOrder]
  (repeat' split) <;> simp [*]

@[simp] theorem joinTimeline_keeps (n : Fin 1024) (s : State) :
    (joinTimeline n s).resetn = s.resetn ∧ (joinTimeline n s).pending = s.pending ∧
    (joinTimeline n s).link = s.link ∧ (joinTimeline n s).orders = s.orders ∧ (joinTimeline n s).clock = s.clock ∧
    (joinTimeline n s).rows = s.rows ∧ (joinTimeline n s).crosspointAhead = s.crosspointAhead ∧
    (joinTimeline n s).monitors = s.monitors ∧ (joinTimeline n s).alarm = s.alarm ∧
    (joinTimeline n s).tariffs = s.tariffs ∧ (joinTimeline n s).accounts = s.accounts ∧
    (joinTimeline n s).tickets = s.tickets := by
  simp [joinTimeline]

@[simp] theorem acceptBooking_keeps (n : Fin 1024) (b : Slot) (s : State) :
    (acceptBooking n b s).resetn = s.resetn ∧ (acceptBooking n b s).pending = s.pending ∧
    (acceptBooking n b s).link = s.link ∧ (acceptBooking n b s).orders = s.orders ∧
    (acceptBooking n b s).clock = s.clock ∧ (acceptBooking n b s).rows = s.rows ∧
    (acceptBooking n b s).crosspointAhead = s.crosspointAhead ∧ (acceptBooking n b s).monitors = s.monitors ∧
    (acceptBooking n b s).alarm = s.alarm ∧ (acceptBooking n b s).tickets = s.tickets := by
  simp [acceptBooking]

@[simp] theorem bookFromRecord_keeps (n : Fin 1024) (r : BookRecord) (s : State) :
    (bookFromRecord n r s).resetn = s.resetn ∧ (bookFromRecord n r s).pending = s.pending ∧
    (bookFromRecord n r s).clock = s.clock ∧ (bookFromRecord n r s).rows = s.rows ∧
    (bookFromRecord n r s).crosspointAhead = s.crosspointAhead ∧ (bookFromRecord n r s).monitors = s.monitors := by
  simp only [bookFromRecord]
  (repeat' split) <;> simp [*]

@[simp] theorem bookRecordRead_keeps (bytes : Vector Byte 20) (s : State) :
    (bookRecordRead bytes s).resetn = s.resetn ∧ (bookRecordRead bytes s).pending = s.pending ∧
    (bookRecordRead bytes s).clock = s.clock ∧ (bookRecordRead bytes s).rows = s.rows ∧
    (bookRecordRead bytes s).crosspointAhead = s.crosspointAhead ∧ (bookRecordRead bytes s).monitors = s.monitors := by
  simp only [bookRecordRead]
  (repeat' split) <;> simp [*]

@[simp] theorem cancelAccepted_keeps (n : Fin 1024) (s : State) :
    (cancelAccepted n s).resetn = s.resetn ∧ (cancelAccepted n s).pending = s.pending ∧
    (cancelAccepted n s).clock = s.clock ∧ (cancelAccepted n s).rows = s.rows ∧
    (cancelAccepted n s).crosspointAhead = s.crosspointAhead ∧ (cancelAccepted n s).monitors = s.monitors := by
  simp only [cancelAccepted]
  (repeat' split) <;> simp [*]

@[simp] theorem cancelOrder_keeps (o : Order) (s : State) :
    (cancelOrder o s).resetn = s.resetn ∧ (cancelOrder o s).pending = s.pending ∧ (cancelOrder o s).clock = s.clock ∧
    (cancelOrder o s).crosspointAhead = s.crosspointAhead ∧ (cancelOrder o s).monitors = s.monitors := by
  simp only [cancelOrder]
  (repeat' split) <;> simp [*]

@[simp] theorem grantExtension_keeps (n : Fin 1024) (minutes : Nat) (s : State) :
    (grantExtension n minutes s).resetn = s.resetn ∧ (grantExtension n minutes s).pending = s.pending ∧
    (grantExtension n minutes s).clock = s.clock ∧ (grantExtension n minutes s).rows = s.rows ∧
    (grantExtension n minutes s).crosspointAhead = s.crosspointAhead ∧
    (grantExtension n minutes s).monitors = s.monitors ∧ (grantExtension n minutes s).tariffs = s.tariffs := by
  simp only [grantExtension]
  (repeat' split) <;> simp [*]

@[simp] theorem extendOrder_keeps (o : Order) (s : State) :
    (extendOrder o s).resetn = s.resetn ∧ (extendOrder o s).pending = s.pending ∧ (extendOrder o s).clock = s.clock ∧
    (extendOrder o s).rows = s.rows ∧ (extendOrder o s).crosspointAhead = s.crosspointAhead ∧
    (extendOrder o s).monitors = s.monitors ∧ (extendOrder o s).tariffs = s.tariffs := by
  simp only [extendOrder]
  (repeat' split) <;> simp [*]

@[simp] theorem lodgeSwitch_keeps (d : Fin 64) (target : Source) (s : State) :
    (lodgeSwitch d target s).resetn = s.resetn ∧ (lodgeSwitch d target s).pending = s.pending ∧
    (lodgeSwitch d target s).clock = s.clock ∧ (lodgeSwitch d target s).crosspointAhead = s.crosspointAhead ∧
    (lodgeSwitch d target s).monitors = s.monitors ∧ (lodgeSwitch d target s).tariffs = s.tariffs := by
  simp [lodgeSwitch]

@[simp] theorem switchOrder_keeps (o : Order) (s : State) :
    (switchOrder o s).resetn = s.resetn ∧ (switchOrder o s).pending = s.pending ∧ (switchOrder o s).clock = s.clock ∧
    (switchOrder o s).crosspointAhead = s.crosspointAhead ∧ (switchOrder o s).monitors = s.monitors ∧
    (switchOrder o s).tariffs = s.tariffs := by
  simp only [switchOrder]
  (repeat' split) <;> simp [*]

@[simp] theorem storeLegMode_keeps (n : Fin 1024) (mode : LegMode) (s : State) :
    (storeLegMode n mode s).resetn = s.resetn ∧ (storeLegMode n mode s).pending = s.pending ∧
    (storeLegMode n mode s).clock = s.clock ∧ (storeLegMode n mode s).crosspointAhead = s.crosspointAhead ∧
    (storeLegMode n mode s).monitors = s.monitors ∧ (storeLegMode n mode s).tariffs = s.tariffs := by
  simp only [storeLegMode]
  (repeat' split) <;> simp [*]

@[simp] theorem setLegOrder_keeps (o : Order) (s : State) :
    (setLegOrder o s).resetn = s.resetn ∧ (setLegOrder o s).pending = s.pending ∧ (setLegOrder o s).clock = s.clock ∧
    (setLegOrder o s).crosspointAhead = s.crosspointAhead ∧ (setLegOrder o s).monitors = s.monitors ∧
    (setLegOrder o s).tariffs = s.tariffs := by
  simp only [setLegOrder]
  (repeat' split) <;> simp [*]

@[simp] theorem applySetPort_keeps (p : Fin 48) (o : Order) (s : State) :
    (applySetPort p o s).resetn = s.resetn ∧ (applySetPort p o s).pending = s.pending ∧
    (applySetPort p o s).clock = s.clock ∧ (applySetPort p o s).crosspointAhead = s.crosspointAhead ∧
    (applySetPort p o s).tariffs = s.tariffs := by
  simp only [applySetPort]
  (repeat' split) <;> simp [*]

@[simp] theorem setPortOrder_keeps (o : Order) (s : State) :
    (setPortOrder o s).resetn = s.resetn ∧ (setPortOrder o s).pending = s.pending ∧
    (setPortOrder o s).clock = s.clock ∧ (setPortOrder o s).crosspointAhead = s.crosspointAhead ∧
    (setPortOrder o s).tariffs = s.tariffs := by
  simp only [setPortOrder]
  (repeat' split) <;> simp [*]

@[simp] theorem readPortOrder_keeps (o : Order) (s : State) :
    (readPortOrder o s).resetn = s.resetn ∧ (readPortOrder o s).pending = s.pending ∧
    (readPortOrder o s).clock = s.clock ∧ (readPortOrder o s).rows = s.rows ∧
    (readPortOrder o s).crosspointAhead = s.crosspointAhead ∧ (readPortOrder o s).tariffs = s.tariffs := by
  simp only [readPortOrder]
  (repeat' split) <;> simp [*]

@[simp] theorem readSegment_keeps (address : Address) (s : State) :
    (readSegment address s).resetn = s.resetn ∧ (readSegment address s).pending = s.pending ∧
    (readSegment address s).clock = s.clock ∧ (readSegment address s).store = s.store ∧
    (readSegment address s).rows = s.rows ∧ (readSegment address s).crosspointAhead = s.crosspointAhead ∧
    (readSegment address s).monitors = s.monitors ∧ (readSegment address s).alarm = s.alarm ∧
    (readSegment address s).tariffs = s.tariffs ∧ (readSegment address s).accounts = s.accounts ∧
    (readSegment address s).tickets = s.tickets := by
  simp only [readSegment]
  (repeat' split) <;> simp [*]

@[simp] theorem loadTariffOrder_keeps (o : Order) (s : State) :
    (loadTariffOrder o s).resetn = s.resetn ∧ (loadTariffOrder o s).pending = s.pending ∧
    (loadTariffOrder o s).clock = s.clock ∧ (loadTariffOrder o s).rows = s.rows ∧
    (loadTariffOrder o s).crosspointAhead = s.crosspointAhead ∧ (loadTariffOrder o s).monitors = s.monitors ∧
    (loadTariffOrder o s).tariffs = s.tariffs := by
  simp only [loadTariffOrder]
  (repeat' split) <;> simp [*]

@[simp] theorem stageTariff_keeps (t : Tariff) (s : State) :
    (stageTariff t s).resetn = s.resetn ∧ (stageTariff t s).pending = s.pending ∧ (stageTariff t s).link = s.link ∧
    (stageTariff t s).orders = s.orders ∧ (stageTariff t s).clock = s.clock ∧ (stageTariff t s).store = s.store ∧
    (stageTariff t s).rows = s.rows ∧ (stageTariff t s).crosspointAhead = s.crosspointAhead ∧
    (stageTariff t s).monitors = s.monitors ∧ (stageTariff t s).alarm = s.alarm ∧
    (stageTariff t s).accounts = s.accounts ∧ (stageTariff t s).tickets = s.tickets := by
  simp [stageTariff]

@[simp] theorem segmentTaken_keeps (bytes : Vector Byte 240) (s : State) :
    (segmentTaken bytes s).resetn = s.resetn ∧ (segmentTaken bytes s).pending = s.pending ∧
    (segmentTaken bytes s).clock = s.clock ∧ (segmentTaken bytes s).rows = s.rows ∧
    (segmentTaken bytes s).crosspointAhead = s.crosspointAhead ∧ (segmentTaken bytes s).monitors = s.monitors := by
  simp only [segmentTaken]
  (repeat' split) <;> simp [*]

@[simp] theorem tariffSegmentRead_keeps (bytes : Vector Byte 240) (s : State) :
    (tariffSegmentRead bytes s).resetn = s.resetn ∧ (tariffSegmentRead bytes s).pending = s.pending ∧
    (tariffSegmentRead bytes s).clock = s.clock ∧ (tariffSegmentRead bytes s).rows = s.rows ∧
    (tariffSegmentRead bytes s).crosspointAhead = s.crosspointAhead ∧
    (tariffSegmentRead bytes s).monitors = s.monitors := by
  simp only [tariffSegmentRead]
  (repeat' split) <;> simp [*]

@[simp] theorem latchAccountOrder_keeps (o : Order) (s : State) :
    (latchAccountOrder o s).resetn = s.resetn ∧ (latchAccountOrder o s).pending = s.pending ∧
    (latchAccountOrder o s).clock = s.clock ∧ (latchAccountOrder o s).rows = s.rows ∧
    (latchAccountOrder o s).crosspointAhead = s.crosspointAhead ∧ (latchAccountOrder o s).monitors = s.monitors ∧
    (latchAccountOrder o s).tariffs = s.tariffs := by
  simp only [latchAccountOrder]
  (repeat' split) <;> simp [*]

@[simp] theorem closeMatchOrder_keeps (o : Order) (s : State) :
    (closeMatchOrder o s).resetn = s.resetn ∧ (closeMatchOrder o s).pending = s.pending ∧
    (closeMatchOrder o s).clock = s.clock ∧ (closeMatchOrder o s).rows = s.rows ∧
    (closeMatchOrder o s).crosspointAhead = s.crosspointAhead ∧ (closeMatchOrder o s).monitors = s.monitors ∧
    (closeMatchOrder o s).tariffs = s.tariffs := by
  simp only [closeMatchOrder]
  (repeat' split) <;> simp [*]

@[simp] theorem setClockOrder_keeps (o : Order) (s : State) :
    (setClockOrder o s).resetn = s.resetn ∧ (setClockOrder o s).pending = s.pending ∧
    (setClockOrder o s).rows = s.rows ∧ (setClockOrder o s).crosspointAhead = s.crosspointAhead ∧
    (setClockOrder o s).monitors = s.monitors ∧ (setClockOrder o s).tariffs = s.tariffs := by
  simp only [setClockOrder]
  (repeat' split) <;> simp [*]

@[simp] theorem setStart_keeps (p : StartPhase) (c : StartCode) (s : State) :
    (setStart p c s).resetn = s.resetn ∧ (setStart p c s).pending = s.pending ∧ (setStart p c s).orders = s.orders ∧
    (setStart p c s).clock = s.clock ∧ (setStart p c s).store = s.store ∧ (setStart p c s).rows = s.rows ∧
    (setStart p c s).crosspointAhead = s.crosspointAhead ∧ (setStart p c s).monitors = s.monitors ∧
    (setStart p c s).alarm = s.alarm ∧ (setStart p c s).tariffs = s.tariffs ∧
    (setStart p c s).accounts = s.accounts ∧ (setStart p c s).tickets = s.tickets := by
  simp [setStart]

@[simp] theorem takeHeader_keeps (h : Header) (s : State) :
    (takeHeader h s).resetn = s.resetn ∧ (takeHeader h s).pending = s.pending ∧ (takeHeader h s).orders = s.orders ∧
    (takeHeader h s).clock = s.clock ∧ (takeHeader h s).rows = s.rows ∧
    (takeHeader h s).crosspointAhead = s.crosspointAhead ∧ (takeHeader h s).monitors = s.monitors ∧
    (takeHeader h s).alarm = s.alarm ∧ (takeHeader h s).tariffs = s.tariffs ∧ (takeHeader h s).accounts = s.accounts := by
  simp [takeHeader]

@[simp] theorem headerTaken_keeps (h : Header) (s : State) :
    (headerTaken h s).resetn = s.resetn ∧ (headerTaken h s).pending = s.pending ∧ (headerTaken h s).clock = s.clock ∧
    (headerTaken h s).rows = s.rows ∧ (headerTaken h s).crosspointAhead = s.crosspointAhead ∧
    (headerTaken h s).monitors = s.monitors ∧ (headerTaken h s).tariffs = s.tariffs := by
  simp only [headerTaken]
  (repeat' split) <;> simp [*]

@[simp] theorem headerReadComplete_keeps (bytes : Vector Byte 80) (s : State) :
    (headerReadComplete bytes s).resetn = s.resetn ∧ (headerReadComplete bytes s).pending = s.pending ∧
    (headerReadComplete bytes s).clock = s.clock ∧ (headerReadComplete bytes s).rows = s.rows ∧
    (headerReadComplete bytes s).crosspointAhead = s.crosspointAhead ∧
    (headerReadComplete bytes s).monitors = s.monitors ∧ (headerReadComplete bytes s).tariffs = s.tariffs := by
  simp only [headerReadComplete]
  (repeat' split) <;> simp [*]

@[simp] theorem identityWriteComplete_keeps (s : State) :
    (identityWriteComplete s).resetn = s.resetn ∧ (identityWriteComplete s).pending = s.pending ∧
    (identityWriteComplete s).clock = s.clock ∧ (identityWriteComplete s).crosspointAhead = s.crosspointAhead ∧
    (identityWriteComplete s).monitors = s.monitors := by
  simp only [identityWriteComplete]
  (repeat' split) <;> simp [*]

@[simp] theorem startDormant_keeps (s : State) :
    (startDormant s).resetn = s.resetn ∧ (startDormant s).pending = s.pending ∧ (startDormant s).orders = s.orders ∧
    (startDormant s).clock = s.clock ∧ (startDormant s).store = s.store ∧ (startDormant s).rows = s.rows ∧
    (startDormant s).crosspointAhead = s.crosspointAhead ∧ (startDormant s).monitors = s.monitors ∧
    (startDormant s).alarm = s.alarm ∧ (startDormant s).tariffs = s.tariffs ∧
    (startDormant s).accounts = s.accounts ∧ (startDormant s).tickets = s.tickets := by
  simp only [startDormant]
  (repeat' split) <;> simp [*]

@[simp] theorem startHeld_keeps (s : State) :
    (startHeld s).resetn = s.resetn ∧ (startHeld s).pending = s.pending ∧ (startHeld s).clock = s.clock ∧
    (startHeld s).crosspointAhead = s.crosspointAhead ∧ (startHeld s).monitors = s.monitors := by
  simp only [startHeld]
  (repeat' split) <;> simp [*]

@[simp] theorem setHaltWaiting_keeps (b : Bool) (s : State) :
    (setHaltWaiting b s).resetn = s.resetn ∧ (setHaltWaiting b s).pending = s.pending ∧
    (setHaltWaiting b s).orders = s.orders ∧ (setHaltWaiting b s).clock = s.clock ∧
    (setHaltWaiting b s).store = s.store ∧ (setHaltWaiting b s).rows = s.rows ∧
    (setHaltWaiting b s).crosspointAhead = s.crosspointAhead ∧ (setHaltWaiting b s).monitors = s.monitors ∧
    (setHaltWaiting b s).alarm = s.alarm ∧ (setHaltWaiting b s).tariffs = s.tariffs ∧
    (setHaltWaiting b s).accounts = s.accounts ∧ (setHaltWaiting b s).tickets = s.tickets := by
  simp [setHaltWaiting]

@[simp] theorem startRunning_keeps (s : State) :
    (startRunning s).resetn = s.resetn ∧ (startRunning s).pending = s.pending ∧ (startRunning s).clock = s.clock ∧
    (startRunning s).store = s.store ∧ (startRunning s).rows = s.rows ∧
    (startRunning s).crosspointAhead = s.crosspointAhead ∧ (startRunning s).monitors = s.monitors ∧
    (startRunning s).alarm = s.alarm ∧ (startRunning s).tariffs = s.tariffs ∧
    (startRunning s).accounts = s.accounts ∧ (startRunning s).tickets = s.tickets := by
  simp only [startRunning]
  (repeat' split) <;> simp [*]

@[simp] theorem startCommand_keeps (s : State) :
    (startCommand s).resetn = s.resetn ∧ (startCommand s).pending = s.pending ∧ (startCommand s).clock = s.clock ∧
    (startCommand s).crosspointAhead = s.crosspointAhead ∧ (startCommand s).monitors = s.monitors := by
  simp only [startCommand]
  (repeat' split) <;> simp [*]

@[simp] theorem haltCommand_keeps (s : State) :
    (haltCommand s).resetn = s.resetn ∧ (haltCommand s).pending = s.pending ∧ (haltCommand s).orders = s.orders ∧
    (haltCommand s).clock = s.clock ∧ (haltCommand s).store = s.store ∧ (haltCommand s).rows = s.rows ∧
    (haltCommand s).crosspointAhead = s.crosspointAhead ∧ (haltCommand s).monitors = s.monitors ∧
    (haltCommand s).alarm = s.alarm ∧ (haltCommand s).tariffs = s.tariffs ∧ (haltCommand s).accounts = s.accounts ∧
    (haltCommand s).tickets = s.tickets := by
  simp only [haltCommand]
  (repeat' split) <;> simp [*]

@[simp] theorem busFaultAt_keeps (after : Nat) (s : State) :
    (busFaultAt after s).resetn = s.resetn ∧ (busFaultAt after s).pending = s.pending ∧
    (busFaultAt after s).clock = s.clock ∧ (busFaultAt after s).rows = s.rows ∧
    (busFaultAt after s).crosspointAhead = s.crosspointAhead ∧ (busFaultAt after s).monitors = s.monitors ∧
    (busFaultAt after s).tariffs = s.tariffs := by
  simp only [busFaultAt]
  (repeat' split) <;> simp [*]

@[simp] theorem setGate_keeps (g : Gate) (s : State) :
    (setGate g s).resetn = s.resetn ∧ (setGate g s).pending = s.pending ∧ (setGate g s).orders = s.orders ∧
    (setGate g s).clock = s.clock ∧ (setGate g s).store = s.store ∧ (setGate g s).rows = s.rows ∧
    (setGate g s).crosspointAhead = s.crosspointAhead ∧ (setGate g s).monitors = s.monitors ∧
    (setGate g s).alarm = s.alarm ∧ (setGate g s).tariffs = s.tariffs ∧ (setGate g s).accounts = s.accounts ∧
    (setGate g s).tickets = s.tickets := by
  simp [setGate]

@[simp] theorem completeInFlight_keeps (cut : CutOff) (s : State) :
    (completeInFlight cut s).resetn = s.resetn ∧ (completeInFlight cut s).pending = s.pending ∧
    (completeInFlight cut s).clock = s.clock ∧ (completeInFlight cut s).rows = s.rows ∧
    (completeInFlight cut s).crosspointAhead = s.crosspointAhead ∧ (completeInFlight cut s).monitors = s.monitors := by
  simp only [completeInFlight]
  (repeat' split) <;> simp [*]

@[simp] theorem gateNext_keeps (a : Access) (s : State) :
    (gateNext a s).resetn = s.resetn ∧ (gateNext a s).pending = s.pending ∧ (gateNext a s).orders = s.orders ∧
    (gateNext a s).clock = s.clock ∧ (gateNext a s).store = s.store ∧ (gateNext a s).rows = s.rows ∧
    (gateNext a s).crosspointAhead = s.crosspointAhead ∧ (gateNext a s).monitors = s.monitors ∧
    (gateNext a s).alarm = s.alarm ∧ (gateNext a s).tariffs = s.tariffs ∧ (gateNext a s).accounts = s.accounts ∧
    (gateNext a s).tickets = s.tickets := by
  simp only [gateNext]
  split <;> simp

@[simp] theorem completeNext_keeps (cut : CutOff) (a : Access) (s : State) :
    (completeNext cut a s).resetn = s.resetn ∧ (completeNext cut a s).pending = s.pending ∧
    (completeNext cut a s).clock = s.clock ∧ (completeNext cut a s).rows = s.rows ∧
    (completeNext cut a s).crosspointAhead = s.crosspointAhead ∧ (completeNext cut a s).monitors = s.monitors := by
  simp [completeNext]

@[simp] theorem setWaiting_keeps (l : List Access) (s : State) :
    (setWaiting l s).resetn = s.resetn ∧ (setWaiting l s).pending = s.pending ∧ (setWaiting l s).link = s.link ∧
    (setWaiting l s).orders = s.orders ∧ (setWaiting l s).clock = s.clock ∧ (setWaiting l s).store = s.store ∧
    (setWaiting l s).rows = s.rows ∧ (setWaiting l s).crosspointAhead = s.crosspointAhead ∧
    (setWaiting l s).monitors = s.monitors ∧ (setWaiting l s).alarm = s.alarm ∧
    (setWaiting l s).tariffs = s.tariffs ∧ (setWaiting l s).accounts = s.accounts := by
  simp [setWaiting]

@[simp] theorem completeAccesses_keeps (cut : CutOff) (s : State) :
    (completeAccesses cut s).resetn = s.resetn ∧ (completeAccesses cut s).pending = s.pending ∧
    (completeAccesses cut s).clock = s.clock ∧ (completeAccesses cut s).rows = s.rows ∧
    (completeAccesses cut s).crosspointAhead = s.crosspointAhead ∧ (completeAccesses cut s).monitors = s.monitors := by
  simp [completeAccesses, foldl_keeps State.resetn, foldl_keeps State.pending, foldl_keeps State.clock,
      foldl_keeps State.rows, foldl_keeps State.crosspointAhead, foldl_keeps State.monitors]

@[simp] theorem completeTick_keeps (cut : CutOff) (s : State) :
    (completeTick cut s).resetn = s.resetn ∧ (completeTick cut s).pending = s.pending ∧
    (completeTick cut s).orders = s.orders ∧ (completeTick cut s).accounts = s.accounts ∧
    (completeTick cut s).tickets = s.tickets := by
  simp only [completeTick]
  (repeat' split) <;> simp [*]

@[simp] theorem completeHold_keeps (h : Hold) (s : State) :
    (completeHold h s).resetn = s.resetn ∧ (completeHold h s).pending = s.pending ∧
    (completeHold h s).orders = s.orders ∧ (completeHold h s).clock = s.clock ∧ (completeHold h s).rows = s.rows ∧
    (completeHold h s).crosspointAhead = s.crosspointAhead ∧ (completeHold h s).monitors = s.monitors ∧
    (completeHold h s).alarm = s.alarm ∧ (completeHold h s).tariffs = s.tariffs := by
  simp [completeHold]

@[simp] theorem completeHolds_keeps (s : State) :
    (completeHolds s).resetn = s.resetn ∧ (completeHolds s).pending = s.pending ∧
    (completeHolds s).orders = s.orders ∧ (completeHolds s).clock = s.clock ∧ (completeHolds s).rows = s.rows ∧
    (completeHolds s).crosspointAhead = s.crosspointAhead ∧ (completeHolds s).monitors = s.monitors ∧
    (completeHolds s).alarm = s.alarm ∧ (completeHolds s).tariffs = s.tariffs := by
  simp [completeHolds, foldl_keeps State.resetn, foldl_keeps State.pending, foldl_keeps State.orders,
      foldl_keeps State.clock, foldl_keeps State.rows, foldl_keeps State.crosspointAhead, foldl_keeps State.monitors,
      foldl_keeps State.alarm, foldl_keeps State.tariffs]

@[simp] theorem ownerTakes_keeps (o : Order) (s : State) :
    (ownerTakes o s).resetn = s.resetn ∧ (ownerTakes o s).pending = s.pending ∧
    (ownerTakes o s).crosspointAhead = s.crosspointAhead := by
  simp only [ownerTakes]
  (repeat' split) <;> simp [*]

@[simp] theorem completeEntry_keeps (cut : CutOff) (s : State) :
    (completeEntry cut s).resetn = s.resetn ∧ (completeEntry cut s).pending = s.pending ∧
    (completeEntry cut s).clock = s.clock ∧ (completeEntry cut s).rows = s.rows ∧
    (completeEntry cut s).crosspointAhead = s.crosspointAhead ∧ (completeEntry cut s).monitors = s.monitors ∧
    (completeEntry cut s).tariffs = s.tariffs := by
  simp only [completeEntry]
  (repeat' split) <;> simp [*]

@[simp] theorem completeDispatched_keeps (cut : CutOff) (s : State) :
    (completeDispatched cut s).resetn = s.resetn ∧ (completeDispatched cut s).pending = s.pending ∧
    (completeDispatched cut s).crosspointAhead = s.crosspointAhead := by
  simp only [completeDispatched]
  (repeat' split) <;> simp [*]

@[simp] theorem completeSegment_keeps (cut : CutOff) (s : State) :
    (completeSegment cut s).resetn = s.resetn ∧ (completeSegment cut s).pending = s.pending ∧
    (completeSegment cut s).clock = s.clock ∧ (completeSegment cut s).rows = s.rows ∧
    (completeSegment cut s).crosspointAhead = s.crosspointAhead ∧ (completeSegment cut s).monitors = s.monitors := by
  simp only [completeSegment]
  (repeat' split) <;> simp [*]

@[simp] theorem completeOrder_keeps (cut : CutOff) (s : State) :
    (completeOrder cut s).resetn = s.resetn ∧ (completeOrder cut s).pending = s.pending ∧
    (completeOrder cut s).crosspointAhead = s.crosspointAhead := by
  simp [completeOrder]

@[simp] theorem completeInside_keeps (cut : CutOff) (s : State) :
    (completeInside cut s).resetn = s.resetn ∧ (completeInside cut s).pending = s.pending := by
  simp [completeInside]

@[simp] theorem softState_keeps (s : State) :
    (softState s).resetn = s.resetn ∧ (softState s).pending = s.pending ∧ (softState s).clock = s.clock ∧
    (softState s).store = s.store ∧ (softState s).rows = s.rows ∧ (softState s).crosspointAhead = s.crosspointAhead ∧
    (softState s).monitors = s.monitors ∧ (softState s).alarm = s.alarm ∧ (softState s).accounts = s.accounts := by
  simp [softState]

@[simp] theorem clearFloor_keeps (s : State) :
    (clearFloor s).resetn = s.resetn ∧ (clearFloor s).pending = s.pending ∧ (clearFloor s).orders = s.orders ∧
    (clearFloor s).clock = s.clock ∧ (clearFloor s).store = s.store ∧ (clearFloor s).rows = s.rows ∧
    (clearFloor s).crosspointAhead = s.crosspointAhead ∧ (clearFloor s).monitors = s.monitors ∧
    (clearFloor s).tariffs = s.tariffs ∧ (clearFloor s).accounts = s.accounts ∧ (clearFloor s).tickets = s.tickets := by
  simp [clearFloor]

@[simp] theorem softClear_keeps (s : State) :
    (softClear s).resetn = s.resetn ∧ (softClear s).pending = s.pending ∧ (softClear s).clock = s.clock ∧
    (softClear s).store = s.store ∧ (softClear s).rows = s.rows ∧ (softClear s).crosspointAhead = s.crosspointAhead ∧
    (softClear s).monitors = s.monitors ∧ (softClear s).accounts = s.accounts := by
  simp [softClear]

@[simp] theorem latchLeave_keeps (from_ : RunState) (s : State) :
    (latchLeave from_ s).resetn = s.resetn ∧ (latchLeave from_ s).pending = s.pending ∧
    (latchLeave from_ s).orders = s.orders ∧ (latchLeave from_ s).clock = s.clock ∧
    (latchLeave from_ s).store = s.store ∧ (latchLeave from_ s).rows = s.rows ∧
    (latchLeave from_ s).crosspointAhead = s.crosspointAhead ∧ (latchLeave from_ s).monitors = s.monitors ∧
    (latchLeave from_ s).alarm = s.alarm ∧ (latchLeave from_ s).tariffs = s.tariffs ∧
    (latchLeave from_ s).accounts = s.accounts ∧ (latchLeave from_ s).tickets = s.tickets := by
  simp only [latchLeave]
  (repeat' split) <;> simp [*]

@[simp] theorem softReset_keeps (cut : CutOff) (s : State) :
    (softReset cut s).resetn = s.resetn ∧ (softReset cut s).pending = s.pending := by
  simp [softReset]

@[simp] theorem scheduleOwn_keeps (instant : Nat) (s : State) :
    (scheduleOwn instant s).resetn = s.resetn ∧ (scheduleOwn instant s).pending = s.pending ∧
    (scheduleOwn instant s).link = s.link ∧ (scheduleOwn instant s).orders = s.orders ∧
    (scheduleOwn instant s).store = s.store ∧ (scheduleOwn instant s).rows = s.rows ∧
    (scheduleOwn instant s).crosspointAhead = s.crosspointAhead ∧ (scheduleOwn instant s).monitors = s.monitors ∧
    (scheduleOwn instant s).alarm = s.alarm ∧ (scheduleOwn instant s).tariffs = s.tariffs ∧
    (scheduleOwn instant s).accounts = s.accounts ∧ (scheduleOwn instant s).tickets = s.tickets := by
  simp [scheduleOwn]

@[simp] theorem flagsRead_keeps (enables : BitVec 4) (s : State) :
    (flagsRead enables s).resetn = s.resetn ∧ (flagsRead enables s).pending = s.pending ∧
    (flagsRead enables s).orders = s.orders ∧ (flagsRead enables s).clock = s.clock ∧
    (flagsRead enables s).store = s.store ∧ (flagsRead enables s).rows = s.rows ∧
    (flagsRead enables s).crosspointAhead = s.crosspointAhead ∧ (flagsRead enables s).monitors = s.monitors ∧
    (flagsRead enables s).alarm = s.alarm ∧ (flagsRead enables s).tariffs = s.tariffs ∧
    (flagsRead enables s).accounts = s.accounts ∧ (flagsRead enables s).tickets = s.tickets := by
  simp only [flagsRead]
  (repeat' split) <;> simp [*]

@[simp] theorem areaWrite_keeps (high : Bool) (value : Word) (s : State) :
    (areaWrite high value s).resetn = s.resetn ∧ (areaWrite high value s).pending = s.pending ∧
    (areaWrite high value s).orders = s.orders ∧ (areaWrite high value s).clock = s.clock ∧
    (areaWrite high value s).store = s.store ∧ (areaWrite high value s).rows = s.rows ∧
    (areaWrite high value s).crosspointAhead = s.crosspointAhead ∧ (areaWrite high value s).monitors = s.monitors ∧
    (areaWrite high value s).alarm = s.alarm ∧ (areaWrite high value s).tariffs = s.tariffs ∧
    (areaWrite high value s).accounts = s.accounts ∧ (areaWrite high value s).tickets = s.tickets := by
  simp only [areaWrite]
  (repeat' split) <;> simp [*]

@[simp] theorem flagsWrite_keeps (value : Word) (s : State) :
    (flagsWrite value s).resetn = s.resetn ∧ (flagsWrite value s).pending = s.pending ∧
    (flagsWrite value s).orders = s.orders ∧ (flagsWrite value s).clock = s.clock ∧
    (flagsWrite value s).store = s.store ∧ (flagsWrite value s).rows = s.rows ∧
    (flagsWrite value s).crosspointAhead = s.crosspointAhead ∧ (flagsWrite value s).monitors = s.monitors ∧
    (flagsWrite value s).alarm = s.alarm ∧ (flagsWrite value s).tariffs = s.tariffs ∧
    (flagsWrite value s).accounts = s.accounts ∧ (flagsWrite value s).tickets = s.tickets := by
  simp [flagsWrite]

@[simp] theorem ctrlCommand_keeps (command : BitVec 2) (cut : CutOff) (s : State) :
    (ctrlCommand command cut s).resetn = s.resetn ∧ (ctrlCommand command cut s).pending = s.pending := by
  simp only [ctrlCommand]
  (repeat' split) <;> simp [*]

@[simp] theorem ctrlWrite_keeps (value : Word) (cut : CutOff) (s : State) :
    (ctrlWrite value cut s).resetn = s.resetn ∧ (ctrlWrite value cut s).pending = s.pending := by
  simp only [ctrlWrite]
  (repeat' split) <;> simp [*]

@[simp] theorem nextAlarmRegister_keeps (value : Word) (s : State) :
    (nextAlarmRegister value s).resetn = s.resetn ∧ (nextAlarmRegister value s).pending = s.pending ∧
    (nextAlarmRegister value s).orders = s.orders ∧ (nextAlarmRegister value s).clock = s.clock ∧
    (nextAlarmRegister value s).store = s.store ∧ (nextAlarmRegister value s).rows = s.rows ∧
    (nextAlarmRegister value s).crosspointAhead = s.crosspointAhead ∧
    (nextAlarmRegister value s).monitors = s.monitors ∧ (nextAlarmRegister value s).tariffs = s.tariffs ∧
    (nextAlarmRegister value s).accounts = s.accounts ∧ (nextAlarmRegister value s).tickets = s.tickets := by
  simp [nextAlarmRegister]

@[simp] theorem registerWrite_keeps (r : Register) (enables : BitVec 4) (value : Word) (cut : CutOff) (s : State) :
    (registerWrite r enables value cut s).resetn = s.resetn ∧
    (registerWrite r enables value cut s).pending = s.pending := by
  simp only [registerWrite]
  (repeat' split) <;> simp [*]

end Sys2Proof.Machine
end

