-- ==== Sys2Proof/Laws/Alarm.lean ====
section
/-! SUPPORT. Every operation keeps the law of the alarm ranking unit and the flags (R122, R130, R170, R172). -/

namespace Sys2Proof.Machine

/-- What every step of a fold keeps, the fold keeps. -/
theorem foldl_closed {α β : Type} {P : β → Prop} {f : β → α → β} (h : ∀ t a, P t → P (f t a)) (l : List α) {s : β}
    (hs : P s) : P (l.foldl f s) := by
  induction l generalizing s with
  | nil => exact hs
  | cons a l ih => exact ih (h s a hs)

/-- A permitted flag lies inside the permissions. -/
theorem flagBit_inside (f : Flag) (p : BitVec 7) (hp : p &&& flagBit f ≠ 0) : flagBit f &&& ~~~p = 0 := by
  revert hp; cases f <;> simp only [flagBit] <;> revert p <;> decide

theorem or_inside {x y p : BitVec 7} (hx : x &&& ~~~p = 0) (hy : y &&& ~~~p = 0) : (x ||| y) &&& ~~~p = 0 := by
  rw [BitVec.and_comm, BitVec.and_or_distrib_left, BitVec.and_comm, hx, BitVec.and_comm, hy]; rfl

theorem and_inside {x p : BitVec 7} (y : BitVec 7) (hx : x &&& ~~~p = 0) : (x &&& y) &&& ~~~p = 0 := by
  rw [BitVec.and_assoc, BitVec.and_comm y, ← BitVec.and_assoc, hx]; simp

/-- A latched flag other than ALARM leaves ALARM. -/
theorem latched_alarm (f : Flag) (hf : f ≠ .alarm) (x : BitVec 7) :
    (x ||| flagBit f) &&& flagBit .alarm = x &&& flagBit .alarm := by
  cases f <;> first | exact absurd rfl hf | (simp only [flagBit]; revert x; decide)

theorem withAlarmLevel_alarm (x : BitVec 7) (b : Bool) : (withAlarmLevel x b &&& flagBit .alarm != 0) = b := by
  revert x b; decide

theorem alarmOnly_alarm (x : BitVec 7) : alarmOnly x &&& flagBit .alarm = x &&& flagBit .alarm := by
  revert x; decide

/-- A state with the same flags, permissions and alarm state is as lawful. -/
theorem alarm_congr {s t : State} (h : alarmLawful s)
    (e : t.link = s.link ∧ t.alarm = s.alarm) : alarmLawful t := by
  obtain ⟨ha, hp, hl⟩ := h
  refine ⟨?_, ?_, ?_⟩
  · simpa only [acksBounded, e.2] using ha
  · simpa only [flagsPermitted, e.1] using hp
  · simpa only [alarmFollows, flagSet, alarmLevel, permitted, e.1, e.2] using hl

theorem record_alarm (op : LinkOp) {s : State} (h : alarmLawful s) : alarmLawful (record op s) := h

/-- Flags that stay inside the permissions and hold ALARM at its level are lawful. -/
theorem setFlags_alarm (f : BitVec 7) {s : State} (ha : acksBounded s) (hp : f &&& ~~~s.link.permissions = 0)
    (hl : (f &&& flagBit .alarm != 0) = alarmLevel s) : alarmLawful (setFlags f s) := by
  simp only [setFlags]
  split <;> exact ⟨ha, hp, hl⟩

theorem latch_alarm (f : Flag) {s : State} (h : alarmLawful s) (hf : f ≠ .alarm) : alarmLawful (latch f s) := by
  simp only [latch]
  split
  · rename_i hp
    obtain ⟨ha, hs, hl⟩ := h
    refine setFlags_alarm _ ha (or_inside hs (flagBit_inside f _ ?_)) ?_
    · simpa [permitted] using hp
    · rw [latched_alarm f hf]; exact hl
  · exact h


/-- A new alarm state whose acknowledged levels are bounded is lawful: ALARM follows it. -/
theorem setAlarm_alarm {a : Alarm} (ha : ∀ i : Fin 51, a.items[i].acked ≤ a.items[i].severity) {s : State}
    (hs : flagsPermitted s) : alarmLawful (setAlarm a s) := by
  simp only [setAlarm, followAlarm]
  refine setFlags_alarm _ ha ?_ (withAlarmLevel_alarm _ _)
  simp only [withAlarmLevel]
  split
  · rename_i hl
    refine or_inside hs (flagBit_inside _ _ ?_)
    simp only [alarmLevel, permitted, Bool.and_eq_true, bne_iff_ne] at hl
    exact hl.2
  · exact and_inside _ hs

theorem setSeverity_alarm (i : Fin 51) (severity : Fin 4) {s : State} (h : alarmLawful s) :
    alarmLawful (setSeverity i severity s) := by
  refine setAlarm_alarm (fun j => ?_) h.2.1
  by_cases hj : i = j
  · subst hj; simp [itemAt]
  · simpa [Vector.getElem_set, Fin.val_inj, hj] using h.1 j

theorem ackItem_bounded (i : Fin 51) (push : Bool) {a : Alarm}
    (ha : ∀ j : Fin 51, a.items[j].acked ≤ a.items[j].severity) (j : Fin 51) :
    (ackItem i push a).items[j].acked ≤ (ackItem i push a).items[j].severity := by
  by_cases hj : i = j
  · subst hj; simp [ackItem]
  · simpa [ackItem, Vector.getElem_set, Fin.val_inj, hj] using ha j

theorem acknowledged_cases (ack push : Bool) (item : BitVec 6) (a : Alarm) :
    acknowledged ack push item a = a ∨ ∃ i, acknowledged ack push item a = ackItem i push a := by
  simp only [acknowledged]
  split
  · exact .inr ⟨_, rfl⟩
  · exact .inl rfl

theorem acknowledged_bounded (ack push : Bool) (item : BitVec 6) {a : Alarm}
    (ha : ∀ j : Fin 51, a.items[j].acked ≤ a.items[j].severity) (j : Fin 51) :
    (acknowledged ack push item a).items[j].acked ≤ (acknowledged ack push item a).items[j].severity := by
  obtain e | ⟨i, e⟩ := acknowledged_cases ack push item a
  · rw [e]; exact ha j
  · rw [e]; exact ackItem_bounded i push ha j

theorem nextAlarmWrite_alarm (ack push pop : Bool) (item : BitVec 6) {s : State} (h : alarmLawful s) :
    alarmLawful (nextAlarmWrite ack push pop item s) := by
  refine setAlarm_alarm (fun j => ?_) h.2.1
  cases pop <;> exact acknowledged_bounded ack push item h.1 j

theorem modeWrite_alarm (mode : BitVec 2) (spotlight : BitVec 6) {s : State} (h : alarmLawful s) :
    alarmLawful (modeWrite mode spotlight s) := by
  refine setAlarm_alarm (fun j => ?_) h.2.1
  simpa [modeWritten] using h.1 j

theorem changeAccount_alarm (m : Nat) (f : Account → Account) {s : State} (good : alarmLawful s) :
    alarmLawful (changeAccount m f s) := by
  exact alarm_congr good (by simp)

theorem freeAccountSlot_alarm (k : Fin 128) {s : State} (good : alarmLawful s) :
    alarmLawful (freeAccountSlot k s) := by
  exact alarm_congr good (by simp)

theorem loseTicket_alarm (m : Option Nat) {s : State} (good : alarmLawful s) : alarmLawful (loseTicket m s) := by
  simp only [loseTicket]
  (repeat' split) <;>
    (repeat (with_reducible first | apply changeAccount_alarm | apply latch_alarm)) <;> first | exact good | decide

theorem raiseNumber_alarm {s : State} (good : alarmLawful s) : alarmLawful (raiseNumber s) := by
  exact alarm_congr good (by simp)

theorem setSlot_alarm (n : Fin 1024) (b : Slot) {s : State} (good : alarmLawful s) : alarmLawful (setSlot n b s) := by
  exact alarm_congr good (by simp)

theorem takeClose_alarm (r : Raise) {s : State} (good : alarmLawful s) : alarmLawful (takeClose r s) := by
  exact alarm_congr good (by simp)

theorem loseRaise_alarm (r : Raise) {s : State} (good : alarmLawful s) : alarmLawful (loseRaise r s) := by
  simp only [loseRaise]
  (repeat (with_reducible first | apply loseTicket_alarm))
  exact good

theorem endClose_alarm (r : Raise) {s : State} (good : alarmLawful s) : alarmLawful (endClose r s) := by
  exact alarm_congr good (by simp)

theorem closeInside_alarm (r : Raise) {s : State} (good : alarmLawful s) : alarmLawful (closeInside r s) := by
  simp only [closeInside]
  (repeat (with_reducible first | apply endClose_alarm | apply loseRaise_alarm | apply raiseNumber_alarm))
  exact good

theorem enterHeld_alarm {s : State} (good : alarmLawful s) : alarmLawful (enterHeld s) := by
  simp only [enterHeld]
  (repeat (with_reducible first | apply latch_alarm)) <;> first | exact good | decide

theorem dropAccess_alarm (a : Access) {s : State} (good : alarmLawful s) : alarmLawful (dropAccess a s) := by
  simp only [dropAccess]
  (repeat' split) <;>
    (repeat (with_reducible first
          | apply closeInside_alarm | apply endClose_alarm | apply loseRaise_alarm | apply freeAccountSlot_alarm
          | apply loseTicket_alarm)) <;> exact good

theorem clearAccesses_alarm {s : State} (good : alarmLawful s) : alarmLawful (clearAccesses s) := by
  exact alarm_congr good (by simp)

theorem dropAccesses_alarm {s : State} (good : alarmLawful s) : alarmLawful (dropAccesses s) := by
  exact foldl_closed (fun t a ht => dropAccess_alarm a ht) _ (clearAccesses_alarm good)

theorem takeBusFault_alarm {s : State} (good : alarmLawful s) : alarmLawful (takeBusFault s) := by
  simp only [takeBusFault]
  (repeat' split) <;>
    (repeat (with_reducible first
          | apply setSeverity_alarm | apply enterHeld_alarm | apply dropAccesses_alarm)) <;> exact good

theorem sendWrite_alarm (w : HostWrite) {s : State} (good : alarmLawful s) : alarmLawful (sendWrite w s) := by
  simp only [sendWrite]
  (repeat' split) <;>
    (repeat (with_reducible first | apply record_alarm | apply takeBusFault_alarm)) <;> exact good

theorem issue_alarm (w : HostWrite) {s : State} (good : alarmLawful s) : alarmLawful (issue w s) := by
  simp only [issue]
  (repeat' split) <;>
    (repeat (with_reducible first | apply sendWrite_alarm)) <;> exact good

theorem issueAll_alarm (ws : List HostWrite) {s : State} (good : alarmLawful s) : alarmLawful (issueAll ws s) := by
  induction ws generalizing s with
  | nil => exact good
  | cons w ws ih => exact ih (issue_alarm w good)

theorem issueRead_alarm (address : Address) (length : Nat) {s : State} (good : alarmLawful s) :
    alarmLawful (issueRead address length s) := by
  simp only [issueRead]
  (repeat' split) <;>
    (repeat (with_reducible first | apply record_alarm)) <;> exact good

theorem setUnit_alarm (u : UnitState) {s : State} (good : alarmLawful s) : alarmLawful (setUnit u s) := by
  exact alarm_congr good (by simp)

theorem takeEntry_alarm {s : State} (good : alarmLawful s) : alarmLawful (takeEntry s) := by
  simp only [takeEntry]
  (repeat' split) <;>
    (repeat (with_reducible first | apply setUnit_alarm | apply issueRead_alarm)) <;> exact good

theorem afterOrder_alarm {s : State} (good : alarmLawful s) : alarmLawful (afterOrder s) := by
  simp only [afterOrder]
  (repeat' split) <;>
    (repeat (with_reducible first | apply enterHeld_alarm | apply takeEntry_alarm)) <;> exact good

theorem orderDone_alarm (notify : Bool) {s : State} (good : alarmLawful s) : alarmLawful (orderDone notify s) := by
  simp only [orderDone]
  (repeat' split) <;>
    (repeat (with_reducible first | apply afterOrder_alarm | apply latch_alarm)) <;> first | exact good | decide

theorem report_alarm (notify : Bool) (outcome : OutcomeCode) (result : List Byte) {s : State} (good : alarmLawful s) :
    alarmLawful (report notify outcome result s) := by
  simp only [report]
  (repeat' split) <;>
    (repeat (with_reducible first
          | apply issueAll_alarm | apply setUnit_alarm | apply issue_alarm | apply orderDone_alarm)) <;> exact good

theorem finishOrder_alarm (outcome : OutcomeCode) (result : List Byte) {s : State} (good : alarmLawful s) :
    alarmLawful (finishOrder outcome result s) := by
  simp only [finishOrder]
  (repeat' split) <;>
    (repeat (with_reducible first | apply report_alarm)) <;> exact good

theorem setStage_alarm (stage : Stage) {s : State} (good : alarmLawful s) : alarmLawful (setStage stage s) := by
  exact alarm_congr good (by simp)

theorem examineEntry_alarm (bytes : Vector Byte 24) {s : State} (good : alarmLawful s) :
    alarmLawful (examineEntry bytes s) := by
  simp only [examineEntry]
  (repeat' split) <;>
    (repeat (with_reducible first | apply report_alarm | apply setUnit_alarm)) <;> exact good

theorem entryRead_alarm (bytes : Vector Byte 24) {s : State} (good : alarmLawful s) :
    alarmLawful (entryRead bytes s) := by
  simp only [entryRead]
  (repeat' split) <;>
    (repeat (with_reducible first | apply examineEntry_alarm)) <;> exact good

theorem orderEndWrite_alarm (value : Word) {s : State} (good : alarmLawful s) :
    alarmLawful (orderEndWrite value s) := by
  simp only [orderEndWrite]
  (repeat (with_reducible first | apply takeEntry_alarm))
  exact good

theorem setInFlight_alarm (a : Option Access) {s : State} (good : alarmLawful s) : alarmLawful (setInFlight a s) := by
  exact alarm_congr good (by simp)

theorem unblockRing_alarm {s : State} (good : alarmLawful s) : alarmLawful (unblockRing s) := by
  simp only [unblockRing]
  (repeat' split) <;>
    (repeat (with_reducible first | apply setSeverity_alarm)) <;> exact good

theorem blockRing_alarm {s : State} (good : alarmLawful s) : alarmLawful (blockRing s) := by
  simp only [blockRing]
  (repeat' split) <;>
    (repeat (with_reducible first | apply setSeverity_alarm)) <;> exact good

theorem ticketWritten_alarm {s : State} (good : alarmLawful s) : alarmLawful (ticketWritten s) := by
  simp only [ticketWritten]
  (repeat (with_reducible first | apply unblockRing_alarm | apply latch_alarm)) <;> first | exact good | decide

theorem recordClose_alarm (r : Raise) {s : State} (good : alarmLawful s) : alarmLawful (recordClose r s) := by
  simp only [recordClose]
  (repeat (with_reducible first | apply issueAll_alarm))
  exact good

theorem finishClose_alarm (r : Raise) (number : BitVec 32) {s : State} (good : alarmLawful s) :
    alarmLawful (finishClose r number s) := by
  simp only [finishClose]
  (repeat' split) <;>
    (repeat (with_reducible first | apply finishOrder_alarm | apply endClose_alarm)) <;> exact good

theorem lostClose_alarm (r : Raise) {s : State} (good : alarmLawful s) : alarmLawful (lostClose r s) := by
  simp only [lostClose]
  (repeat (with_reducible first | apply finishClose_alarm | apply recordClose_alarm))
  exact good

theorem beginAccess_alarm (a : Access) {s : State} (good : alarmLawful s) : alarmLawful (beginAccess a s) := by
  simp only [beginAccess]
  (repeat' split) <;>
    (repeat (with_reducible first
          | apply issue_alarm | apply finishOrder_alarm | apply setInFlight_alarm | apply issueRead_alarm
          | apply lostClose_alarm | apply loseRaise_alarm | apply raiseNumber_alarm
          | apply setStage_alarm)) <;> exact good

theorem pump_alarm (accesses : List Access) {s : State} (good : alarmLawful s) : alarmLawful (pump accesses s) := by
  induction accesses generalizing s with
  | nil => exact good
  | cons a rest ih =>
    simp only [pump]
    split
    · exact good
    · exact ih (beginAccess_alarm a good)

theorem pumpWaiting_alarm {s : State} (good : alarmLawful s) : alarmLawful (pumpWaiting s) := by
  simp only [pumpWaiting]
  (repeat (with_reducible first | apply pump_alarm))
  exact good

theorem submit_alarm (accesses : List Access) {s : State} (good : alarmLawful s) :
    alarmLawful (submit accesses s) := by
  simp only [submit]
  (repeat (with_reducible first | apply pumpWaiting_alarm))
  exact good

theorem writeClose_alarm (r : Raise) {s : State} (good : alarmLawful s) : alarmLawful (writeClose r s) := by
  simp only [writeClose]
  (repeat' split) <;>
    (repeat (with_reducible first
          | apply issueAll_alarm | apply setInFlight_alarm | apply recordClose_alarm | apply ticketWritten_alarm
          | apply finishClose_alarm)) <;> exact good

theorem raiseRead_alarm (r : Raise) (empty : Bool) {s : State} (good : alarmLawful s) :
    alarmLawful (raiseRead r empty s) := by
  simp only [raiseRead]
  (repeat' split) <;>
    (repeat (with_reducible first
          | apply setInFlight_alarm | apply writeClose_alarm | apply lostClose_alarm
          | apply blockRing_alarm | apply loseRaise_alarm)) <;> exact good

theorem totalRead_alarm (k : Fin 128) (minute : Nat) (empty : Bool) {s : State} (good : alarmLawful s) :
    alarmLawful (totalRead k minute empty s) := by
  simp only [totalRead]
  (repeat' split) <;>
    (repeat (with_reducible first
          | apply setInFlight_alarm | apply raiseNumber_alarm | apply issueAll_alarm | apply finishOrder_alarm
          | apply freeAccountSlot_alarm | apply ticketWritten_alarm)) <;> exact good

theorem ticketSlotRead_alarm (state : Byte) {s : State} (good : alarmLawful s) :
    alarmLawful (ticketSlotRead state s) := by
  simp only [ticketSlotRead]
  (repeat' split) <;>
    (repeat (with_reducible first
          | apply pumpWaiting_alarm | apply raiseRead_alarm | apply totalRead_alarm | apply unblockRing_alarm
          | apply setInFlight_alarm)) <;> exact good

theorem request_alarm (d : Fin 64) (target : Source) (cause : Cause) {s : State} (good : alarmLawful s) :
    alarmLawful (request d target cause s) := by
  exact alarm_congr good (by simp)

theorem applyProtection_alarm (n : Fin 1024) {s : State} (good : alarmLawful s) :
    alarmLawful (applyProtection n s) := by
  exact alarm_congr good (by simp)

theorem applyActivation_alarm (n : Fin 1024) {s : State} (good : alarmLawful s) :
    alarmLawful (applyActivation n s) := by
  exact alarm_congr good (by simp)

theorem protectPort_alarm (cond : Slot → Bool) (d : Fin 64) {s : State} (good : alarmLawful s) :
    alarmLawful (protectPort cond d s) := by
  exact alarm_congr good (by simp)

theorem protectHealth_alarm (p : Fin 48) {s : State} (good : alarmLawful s) : alarmLawful (protectHealth p s) := by
  exact alarm_congr good (by simp)

theorem deriveSources_alarm {s : State} (h : alarmLawful s) : alarmLawful (deriveSources s) := by
  refine setAlarm_alarm (fun j => ?_) h.2.1
  simp only [derivedItems, build_getFin]
  split
  · simp [itemAt]
  · exact h.1 j

theorem markPage_alarm {s : State} (good : alarmLawful s) : alarmLawful (markPage s) := by
  simp only [markPage]
  exact good

theorem handExecutions_alarm (ports :
    List (Fin 64)) {s : State} (good : alarmLawful s) : alarmLawful (handExecutions ports s) := by
  simp only [handExecutions]
  split
  · exact good
  · exact markPage_alarm (deriveSources_alarm (foldl_closed (fun t d ht => protectPort_alarm _ d ht) _ good))

theorem switchPoint_alarm (inside : Bool) {s : State} (good : alarmLawful s) :
    alarmLawful (switchPoint inside s) := by
  simp only [switchPoint]
  (repeat (with_reducible first | apply handExecutions_alarm))
  exact good

theorem tickRows_alarm {s : State} (good : alarmLawful s) : alarmLawful (tickRows s) := by
  exact alarm_congr good (by simp)

theorem crosspointTick_alarm {s : State} (good : alarmLawful s) : alarmLawful (crosspointTick s) := by
  simp only [crosspointTick]
  (repeat' split) <;>
    (repeat (with_reducible first | apply switchPoint_alarm | apply tickRows_alarm)) <;> exact good

theorem setMonitor_alarm (p : Fin 48) (m : Monitor) {s : State} (good : alarmLawful s) :
    alarmLawful (setMonitor p m s) := by
  exact alarm_congr good (by simp)

theorem healthChanged_alarm (p : Fin 48) {s : State} (good : alarmLawful s) : alarmLawful (healthChanged p s) := by
  simp only [healthChanged]
  (repeat (with_reducible first | apply markPage_alarm | apply deriveSources_alarm | apply protectHealth_alarm))
  exact good

theorem updateMonitor_alarm (p : Fin 48) (m : Monitor) {s : State} (good : alarmLawful s) :
    alarmLawful (updateMonitor p m s) := by
  simp only [updateMonitor]
  (repeat' split) <;>
    (repeat (with_reducible first | apply setMonitor_alarm | apply healthChanged_alarm)) <;> exact good

theorem monitorTick_alarm (p : Fin 48) {s : State} (good : alarmLawful s) : alarmLawful (monitorTick p s) := by
  simp only [monitorTick]
  (repeat' split) <;>
    (repeat (with_reducible first | apply setMonitor_alarm | apply updateMonitor_alarm)) <;> exact good

theorem takeTickEarly_alarm (p : Fin 48) {s : State} (good : alarmLawful s) : alarmLawful (takeTickEarly p s) := by
  simp only [takeTickEarly]
  (repeat (with_reducible first | apply updateMonitor_alarm))
  exact good

theorem holdOffReached_alarm (p : Fin 48) {s : State} (good : alarmLawful s) : alarmLawful (holdOffReached p s) := by
  simp only [holdOffReached]
  (repeat' split) <;>
    (repeat (with_reducible first | apply takeTickEarly_alarm)) <;> exact good

theorem restoreExpired_alarm (p : Fin 48) {s : State} (good : alarmLawful s) : alarmLawful (restoreExpired p s) := by
  simp only [restoreExpired]
  (repeat' split) <;>
    (repeat (with_reducible first | apply takeTickEarly_alarm)) <;> exact good

theorem receiverObservation_alarm (p : Fin 48) (seen : Observation) {s : State} (good : alarmLawful s) :
    alarmLawful (receiverObservation p seen s) := by
  simp only [receiverObservation]
  (repeat (with_reducible first | apply updateMonitor_alarm))
  exact good

theorem lossOfLight_alarm (p : Fin 48) {s : State} (good : alarmLawful s) : alarmLawful (lossOfLight p s) := by
  simp only [lossOfLight]
  (repeat (with_reducible first | apply updateMonitor_alarm))
  exact good

theorem countMeters_alarm (e : EndedSecond) {s : State} (good : alarmLawful s) : alarmLawful (countMeters e s) := by
  exact alarm_congr good (by simp)

theorem setMeter_alarm (n : Fin 1024) (m : Meter) {s : State} (good : alarmLawful s) :
    alarmLawful (setMeter n m s) := by
  exact alarm_congr good (by simp)

theorem takeTariffBoundary_alarm {s : State} (good : alarmLawful s) : alarmLawful (takeTariffBoundary s) := by
  exact alarm_congr good (by simp)

theorem leaveTimeline_alarm (n : Fin 1024) {s : State} (good : alarmLawful s) : alarmLawful (leaveTimeline n s) := by
  exact alarm_congr good (by simp)

theorem makeRecheck_alarm {s : State} (good : alarmLawful s) : alarmLawful (makeRecheck s) := by
  simp only [makeRecheck]
  (repeat (with_reducible first | apply submit_alarm))
  exact good

theorem countRecheck_alarm {s : State} (good : alarmLawful s) : alarmLawful (countRecheck s) := by
  simp only [countRecheck]
  (repeat' split) <;>
    (repeat (with_reducible first | apply makeRecheck_alarm)) <;> exact good

theorem lastRecheck_alarm {s : State} (good : alarmLawful s) : alarmLawful (lastRecheck s) := by
  simp only [lastRecheck]
  (repeat' split) <;>
    (repeat (with_reducible first | apply makeRecheck_alarm)) <;> exact good

theorem settleClose_alarm (kind : TicketKind) (n : Fin 1024) (closeMinute : Nat) (forOrder : Bool) {s : State}
    (good : alarmLawful s) : alarmLawful (settleClose kind n closeMinute forOrder s) := by
  simp only [settleClose]
  (repeat (with_reducible first | apply submit_alarm | apply takeClose_alarm))
  exact good

theorem handToAlarms_alarm {s : State} (good : alarmLawful s) : alarmLawful (handToAlarms s) := by
  simp only [handToAlarms]
  (repeat (with_reducible first | apply deriveSources_alarm))
  exact good

theorem beginClose_alarm (n : Fin 1024) (minute : Nat) {s : State} (good : alarmLawful s) :
    alarmLawful (beginClose n minute s) := by
  simp only [beginClose]
  (repeat' split) <;>
    (repeat (with_reducible first
          | apply leaveTimeline_alarm | apply handToAlarms_alarm | apply request_alarm)) <;> exact good

theorem holdClose_alarm (n : Fin 1024) (minute : Nat) {s : State} (good : alarmLawful s) :
    alarmLawful (holdClose n minute s) := by
  exact alarm_congr good (by simp)

theorem closeOnAir_alarm (n : Fin 1024) (minute : Nat) (counted forOrder : Bool) {s : State} (good : alarmLawful s) :
    alarmLawful (closeOnAir n minute counted forOrder s) := by
  simp only [closeOnAir]
  (repeat' split) <;>
    (repeat (with_reducible first
          | apply beginClose_alarm | apply settleClose_alarm | apply holdClose_alarm)) <;> exact good

theorem closeMissed_alarm (n : Fin 1024) (minute : Nat) {s : State} (good : alarmLawful s) :
    alarmLawful (closeMissed n minute s) := by
  simp only [closeMissed]
  (repeat (with_reducible first | apply settleClose_alarm | apply leaveTimeline_alarm))
  exact good

theorem markOwned_alarm (d : Fin 64) {s : State} (good : alarmLawful s) : alarmLawful (markOwned d s) := by
  exact alarm_congr good (by simp)

theorem activate_alarm (n : Fin 1024) (minute : Nat) (first : Stamp) (band : Option Band) {s : State}
    (good : alarmLawful s) : alarmLawful (activate n minute first band s) := by
  simp only [activate]
  (repeat (with_reducible first
        | apply setSlot_alarm | apply setMeter_alarm | apply handToAlarms_alarm | apply markOwned_alarm
        | apply applyActivation_alarm | apply submit_alarm))
  exact good

theorem enterOverrun_alarm (n : Fin 1024) {s : State} (good : alarmLawful s) : alarmLawful (enterOverrun n s) := by
  simp only [enterOverrun]
  (repeat (with_reducible first | apply submit_alarm | apply setSlot_alarm))
  exact good

theorem boundaryClose_alarm (n : Fin 1024) (minute : Nat) (counted : Bool) {s : State} (good : alarmLawful s) :
    alarmLawful (boundaryClose n minute counted s) := by
  simp only [boundaryClose]
  (repeat' split) <;>
    (repeat (with_reducible first | apply closeOnAir_alarm | apply countRecheck_alarm)) <;> exact good

theorem boundaryHead_alarm (minute : Nat) (counted : Bool) (d : Fin 64) {s : State} (good : alarmLawful s) :
    alarmLawful (boundaryHead minute counted d s) := by
  simp only [boundaryHead]
  (repeat' split) <;>
    (repeat (with_reducible first | apply boundaryClose_alarm | apply enterOverrun_alarm)) <;> exact good

theorem boundaryStart_alarm (minute : Nat) (swapped : Bool) (d : Fin 64) {s : State} (good : alarmLawful s) :
    alarmLawful (boundaryStart minute swapped d s) := by
  simp only [boundaryStart]
  (repeat' split) <;>
    (repeat (with_reducible first | apply activate_alarm)) <;> exact good

theorem boundaryTimeline_alarm (minute : Nat) (counted swapped : Bool) (d : Fin 64) {s : State}
    (good : alarmLawful s) : alarmLawful (boundaryTimeline minute counted swapped d s) := by
  simp only [boundaryTimeline]
  (repeat (with_reducible first | apply boundaryStart_alarm | apply boundaryHead_alarm))
  exact good

theorem storeTimelines_alarm (taken : Bool) (minute : Nat) (counted swapped : Bool) (ports :
    List (Fin 64)) {s : State} (good : alarmLawful s) : alarmLawful (storeTimelines taken minute counted swapped ports s) := by
  simp only [storeTimelines]
  split
  · exact foldl_closed (fun t d ht => boundaryTimeline_alarm _ _ _ d ht) _ good
  · exact good

theorem openRecheck_alarm (recheckAfter : Nat) {s : State} (good : alarmLawful s) :
    alarmLawful (openRecheck recheckAfter s) := by
  simp only [openRecheck]
  (repeat' split) <;>
    (repeat (with_reducible first | apply makeRecheck_alarm)) <;> exact good

theorem boundaryCounted_alarm (minute swapAfter recheckAfter : Nat) {s : State} (good : alarmLawful s) :
    alarmLawful (boundaryCounted minute swapAfter recheckAfter s) := by
  simp only [boundaryCounted]
  (repeat (with_reducible first
        | apply storeTimelines_alarm | apply openRecheck_alarm | apply lastRecheck_alarm
        | apply takeTariffBoundary_alarm))
  exact good

theorem boundaryUncounted_alarm (minute recheckAfter : Nat) {s : State} (good : alarmLawful s) :
    alarmLawful (boundaryUncounted minute recheckAfter s) := by
  simp only [boundaryUncounted]
  (repeat (with_reducible first | apply lastRecheck_alarm | apply storeTimelines_alarm | apply openRecheck_alarm))
  exact good

theorem catchUpCloses_alarm (members :
    List (Fin 1024)) {s : State} (good : alarmLawful s) : alarmLawful (catchUpCloses members s) := by
  induction members generalizing s with
  | nil => exact good
  | cons n rest ih =>
    simp only [catchUpCloses]
    (repeat' split) <;> 
      first
        | with_reducible exact good
        | with_reducible exact ih (closeOnAir_alarm _ _ _ _ good)
        | with_reducible exact ih (closeMissed_alarm _ _ good)

theorem catchUpStart_alarm (d : Fin 64) {s : State} (good : alarmLawful s) : alarmLawful (catchUpStart d s) := by
  simp only [catchUpStart]
  (repeat' split) <;>
    (repeat (with_reducible first | apply activate_alarm)) <;> exact good

theorem catchUpPhase_alarm (d : Fin 64) {s : State} (good : alarmLawful s) : alarmLawful (catchUpPhase d s) := by
  simp only [catchUpPhase]
  (repeat' split) <;>
    (repeat (with_reducible first | apply enterOverrun_alarm)) <;> exact good

theorem catchUpTimeline_alarm (d : Fin 64) {s : State} (good : alarmLawful s) :
    alarmLawful (catchUpTimeline d s) := by
  simp only [catchUpTimeline]
  (repeat (with_reducible first | apply catchUpPhase_alarm | apply catchUpStart_alarm | apply catchUpCloses_alarm))
  exact good

theorem catchUp_alarm {s : State} (good : alarmLawful s) : alarmLawful (catchUp s) := by
  exact foldl_closed (fun t d ht => catchUpTimeline_alarm d ht) _ good

theorem enterRunning_alarm {s : State} (good : alarmLawful s) : alarmLawful (enterRunning s) := by
  simp only [enterRunning]
  (repeat (with_reducible first
        | apply takeEntry_alarm | apply catchUp_alarm | apply latch_alarm)) <;> first | exact good | decide

theorem releaseFirst_alarm {s : State} (good : alarmLawful s) : alarmLawful (releaseFirst s) := by
  simp only [releaseFirst]
  (repeat' split) <;>
    (repeat (with_reducible first
          | apply lastRecheck_alarm | apply countRecheck_alarm | apply settleClose_alarm)) <;> exact good

theorem beginPage_alarm (time : Stamp) {s : State} (good : alarmLawful s) : alarmLawful (beginPage time s) := by
  simp only [beginPage]
  exact good

theorem nextMark_alarm {s : State} (good : alarmLawful s) : alarmLawful (nextMark s) := by
  simp only [nextMark]
  exact good

theorem pageTick_alarm (boundary : Bool) (time : Stamp) {s : State} (good : alarmLawful s) :
    alarmLawful (pageTick boundary time s) := by
  simp only [pageTick]
  (repeat' split) <;>
    (repeat (with_reducible first
          | apply nextMark_alarm | apply beginPage_alarm | apply markPage_alarm)) <;> exact good

theorem settlePage_alarm {s : State} (good : alarmLawful s) : alarmLawful (settlePage s) := by
  simp only [settlePage]
  refine takeOwed_holds (P := alarmLawful) (fun time _ => pageTick_alarm true time) _ ?_
  exact good

theorem boundaryPage_alarm (minute : BitVec 32) {s : State} (good : alarmLawful s) :
    alarmLawful (boundaryPage minute s) := by
  simp only [boundaryPage]
  (repeat (with_reducible first | apply settlePage_alarm | apply pageTick_alarm))
  exact good

theorem secondPage_alarm (ahead : Bool) {s : State} (good : alarmLawful s) : alarmLawful (secondPage ahead s) := by
  simp only [secondPage]
  apply pageTick_alarm
  split
  · exact good
  · exact nextMark_alarm good

theorem endPage_alarm {s : State} (good : alarmLawful s) : alarmLawful (endPage s) := by
  simp only [endPage]
  exact good

theorem pageComplete_alarm {s : State} (good : alarmLawful s) : alarmLawful (pageComplete s) := by
  simp only [pageComplete]
  (repeat' split) <;>
    (repeat (with_reducible first
          | apply issueAll_alarm | apply latch_alarm | apply endPage_alarm)) <;> first | exact good | decide

theorem abandonPage_alarm (issued : Nat) {s : State} (good : alarmLawful s) : alarmLawful (abandonPage issued s) := by
  simp only [abandonPage]
  (repeat' split) <;>
    (repeat (with_reducible first | apply endPage_alarm | apply issueAll_alarm)) <;> exact good

theorem crosspointBlock_alarm {s : State} (good : alarmLawful s) : alarmLawful (crosspointBlock s) := by
  simp only [crosspointBlock]
  (repeat' split) <;>
    (repeat (with_reducible first | apply crosspointTick_alarm)) <;> exact good

theorem blockTick_alarm (k : Fin 49) {s : State} (good : alarmLawful s) : alarmLawful (blockTick k s) := by
  simp only [blockTick]
  (repeat' split) <;>
    (repeat (with_reducible first | apply monitorTick_alarm | apply crosspointBlock_alarm)) <;> exact good

theorem blockAhead_alarm (k : Fin 49) {s : State} (good : alarmLawful s) : alarmLawful (blockAhead k s) := by
  simp only [blockAhead]
  split
  · split
    · exact good
    · exact takeTickEarly_alarm _ good
  · split
    · exact good
    · exact crosspointTick_alarm good

theorem ticksAhead_alarm (early : TickOrder) {s : State} (good : alarmLawful s) :
    alarmLawful (ticksAhead early s) := by
  exact foldl_closed (fun t k ht => blockAhead_alarm k ht) _ good

theorem blocksTick_alarm (order done :
    List (Fin 49)) {s : State} (good : alarmLawful s) : alarmLawful (blocksTick order done s) := by
  induction order generalizing s done with
  | nil => exact good
  | cons b rest ih =>
    simp only [blocksTick]
    split
    · exact ih _ good
    · exact ih _ (blockTick_alarm b good)

theorem handTick_alarm (order : TickOrder) (e : EndedSecond) {s : State} (good : alarmLawful s) :
    alarmLawful (handTick order e s) := by
  simp only [handTick]
  (repeat (with_reducible first | apply countMeters_alarm | apply blocksTick_alarm))
  exact good

theorem owedTick_alarm (order : TickOrder) (ended : BitVec 32) {s : State} (good : alarmLawful s) :
    alarmLawful (owedTick order ended s) := by
  simp only [owedTick]
  (repeat (with_reducible first | apply takeTariffBoundary_alarm | apply handTick_alarm))
  exact good

theorem setRollover_alarm (r : Rollover) {s : State} (good : alarmLawful s) : alarmLawful (setRollover r s) := by
  exact alarm_congr good (by simp)

theorem setTime_alarm (minute : BitVec 32) (second : Nat) {s : State} (good : alarmLawful s) :
    alarmLawful (setTime minute second s) := by
  exact alarm_congr good (by simp)

theorem rollTime_alarm (minute : BitVec 32) (clockSet : Bool) {s : State} (good : alarmLawful s) :
    alarmLawful (rollTime minute clockSet s) := by
  exact alarm_congr good (by simp)

theorem boundaryAfterTick_alarm (minute : BitVec 32) (clockSet : Bool) (swapAfter recheckAfter : Nat) {s : State}
    (good : alarmLawful s) : alarmLawful (boundaryAfterTick minute clockSet swapAfter recheckAfter s) := by
  simp only [boundaryAfterTick]
  (repeat (with_reducible first
        | apply boundaryPage_alarm | apply boundaryCounted_alarm | apply rollTime_alarm | apply setRollover_alarm))
  exact good

theorem boundaryBeforeTick_alarm (recheckAfter : Nat) {s : State} (good : alarmLawful s) :
    alarmLawful (boundaryBeforeTick recheckAfter s) := by
  simp only [boundaryBeforeTick]
  (repeat (with_reducible first | apply boundaryUncounted_alarm | apply setRollover_alarm | apply setTime_alarm))
  exact good

theorem takeBoundary_alarm (swapAfter recheckAfter : Nat) {s : State} (good : alarmLawful s) :
    alarmLawful (takeBoundary swapAfter recheckAfter s) := by
  simp only [takeBoundary]
  (repeat' split) <;>
    (repeat (with_reducible first | apply boundaryAfterTick_alarm | apply boundaryBeforeTick_alarm)) <;> exact good

theorem minuteBoundary_alarm (early : TickOrder) (boundary : Bool) (swapAfter recheckAfter : Nat) {s : State}
    (good : alarmLawful s) : alarmLawful (minuteBoundary early boundary swapAfter recheckAfter s) := by
  simp only [minuteBoundary]
  (repeat' split) <;>
    (repeat (with_reducible first | apply ticksAhead_alarm | apply takeBoundary_alarm)) <;> exact good

theorem settleBoundary_alarm {s : State} (good : alarmLawful s) : alarmLawful (settleBoundary s) := by
  simp only [settleBoundary]
  (repeat' split) <;>
    (repeat (with_reducible first | apply boundaryAfterTick_alarm)) <;> exact good

theorem completeSecond_alarm (ahead : Bool) {s : State} (good : alarmLawful s) : alarmLawful (completeSecond ahead s) := by
  simp only [completeSecond]
  (repeat' split) <;>
    (repeat (with_reducible first | apply secondPage_alarm | apply setRollover_alarm)) <;> exact good

theorem secondTick_alarm (order : TickOrder) {s : State} (good : alarmLawful s) :
    alarmLawful (secondTick order s) := by
  simp only [secondTick]
  (repeat' split) <;>
    (repeat (with_reducible first
          | apply settleBoundary_alarm | apply boundaryPage_alarm | apply setRollover_alarm | apply owedTick_alarm
          | apply completeSecond_alarm | apply handTick_alarm)) <;> exact good

theorem referenceChanged_alarm {s : State} (good : alarmLawful s) : alarmLawful (referenceChanged s) := by
  simp only [referenceChanged]
  (repeat (with_reducible first | apply setSeverity_alarm | apply latch_alarm)) <;> first | exact good | decide

theorem changeReference_alarm (c : Clock) {s : State} (good : alarmLawful s) : alarmLawful (changeReference c s) := by
  simp only [changeReference]
  (repeat (with_reducible first | apply referenceChanged_alarm))
  exact good

theorem pulseFreeRun_alarm (instant : Nat) (order : TickOrder) {s : State} (good : alarmLawful s) :
    alarmLawful (pulseFreeRun instant order s) := by
  simp only [pulseFreeRun]
  (repeat' split) <;>
    (repeat (with_reducible first | apply secondTick_alarm | apply changeReference_alarm)) <;> exact good

theorem secrefPulse_alarm (instant : Nat) (order : TickOrder) {s : State} (good : alarmLawful s) :
    alarmLawful (secrefPulse instant order s) := by
  simp only [secrefPulse]
  (repeat' split) <;>
    (repeat (with_reducible first | apply secondTick_alarm | apply pulseFreeRun_alarm)) <;> exact good

theorem secrefTimeout_alarm (order : TickOrder) {s : State} (good : alarmLawful s) :
    alarmLawful (secrefTimeout order s) := by
  simp only [secrefTimeout]
  (repeat' split) <;>
    (repeat (with_reducible first | apply secondTick_alarm | apply changeReference_alarm)) <;> exact good

theorem ownTick_alarm (order : TickOrder) {s : State} (good : alarmLawful s) : alarmLawful (ownTick order s) := by
  simp only [ownTick]
  (repeat' split) <;>
    (repeat (with_reducible first | apply secondTick_alarm)) <;> exact good

theorem pulseSwitch_alarm {s : State} (good : alarmLawful s) : alarmLawful (pulseSwitch s) := by
  simp only [pulseSwitch]
  split <;> exact switchPoint_alarm _ good

theorem framerefPulse_alarm (instant : Nat) {s : State} (good : alarmLawful s) :
    alarmLawful (framerefPulse instant s) := by
  simp only [framerefPulse]
  (repeat' split) <;>
    (repeat (with_reducible first | apply pulseSwitch_alarm | apply changeReference_alarm)) <;> exact good

theorem framerefTimeout_alarm {s : State} (good : alarmLawful s) : alarmLawful (framerefTimeout s) := by
  simp only [framerefTimeout]
  (repeat' split) <;>
    (repeat (with_reducible first | apply changeReference_alarm)) <;> exact good

theorem bookOrder_alarm (o : Order) {s : State} (good : alarmLawful s) : alarmLawful (bookOrder o s) := by
  simp only [bookOrder]
  (repeat' split) <;>
    (repeat (with_reducible first
          | apply finishOrder_alarm | apply submit_alarm | apply setStage_alarm)) <;> exact good

theorem acceptBooking_alarm (n : Fin 1024) (b : Slot) {s : State} (good : alarmLawful s) :
    alarmLawful (acceptBooking n b s) := by
  exact alarm_congr good (by simp)

theorem bookFromRecord_alarm (n : Fin 1024) (r : BookRecord) {s : State} (good : alarmLawful s) :
    alarmLawful (bookFromRecord n r s) := by
  simp only [bookFromRecord]
  (repeat' split) <;>
    (repeat (with_reducible first | apply submit_alarm | apply acceptBooking_alarm)) <;> exact good

theorem bookRecordRead_alarm (bytes : Vector Byte 20) {s : State} (good : alarmLawful s) :
    alarmLawful (bookRecordRead bytes s) := by
  simp only [bookRecordRead]
  (repeat' split) <;>
    (repeat (with_reducible first | apply bookFromRecord_alarm | apply setInFlight_alarm)) <;> exact good

theorem cancelAccepted_alarm (n : Fin 1024) {s : State} (good : alarmLawful s) :
    alarmLawful (cancelAccepted n s) := by
  simp only [cancelAccepted]
  (repeat' split) <;>
    (repeat (with_reducible first
          | apply leaveTimeline_alarm | apply settleClose_alarm | apply setMeter_alarm)) <;> exact good

theorem cancelOrder_alarm (o : Order) {s : State} (good : alarmLawful s) : alarmLawful (cancelOrder o s) := by
  simp only [cancelOrder]
  (repeat' split) <;>
    (repeat (with_reducible first
          | apply finishOrder_alarm | apply cancelAccepted_alarm | apply setStage_alarm
          | apply closeOnAir_alarm)) <;> exact good

theorem grantExtension_alarm (n : Fin 1024) (minutes : Nat) {s : State} (good : alarmLawful s) :
    alarmLawful (grantExtension n minutes s) := by
  simp only [grantExtension]
  (repeat' split) <;>
    (repeat (with_reducible first
          | apply finishOrder_alarm | apply submit_alarm | apply setSlot_alarm | apply setStage_alarm)) <;> exact good

theorem extendOrder_alarm (o : Order) {s : State} (good : alarmLawful s) : alarmLawful (extendOrder o s) := by
  simp only [extendOrder]
  (repeat' split) <;>
    (repeat (with_reducible first | apply finishOrder_alarm | apply grantExtension_alarm)) <;> exact good

theorem lodgeSwitch_alarm (d : Fin 64) (target : Source) {s : State} (good : alarmLawful s) :
    alarmLawful (lodgeSwitch d target s) := by
  simp only [lodgeSwitch]
  (repeat (with_reducible first | apply finishOrder_alarm | apply request_alarm))
  exact good

theorem switchOrder_alarm (o : Order) {s : State} (good : alarmLawful s) : alarmLawful (switchOrder o s) := by
  simp only [switchOrder]
  (repeat' split) <;>
    (repeat (with_reducible first | apply finishOrder_alarm | apply lodgeSwitch_alarm)) <;> exact good

theorem storeLegMode_alarm (n : Fin 1024) (mode : LegMode) {s : State} (good : alarmLawful s) :
    alarmLawful (storeLegMode n mode s) := by
  simp only [storeLegMode]
  (repeat' split) <;>
    (repeat (with_reducible first
          | apply setSlot_alarm | apply finishOrder_alarm | apply applyProtection_alarm)) <;> exact good

theorem setLegOrder_alarm (o : Order) {s : State} (good : alarmLawful s) : alarmLawful (setLegOrder o s) := by
  simp only [setLegOrder]
  (repeat' split) <;>
    (repeat (with_reducible first | apply finishOrder_alarm | apply storeLegMode_alarm)) <;> exact good

theorem applySetPort_alarm (p : Fin 48) (o : Order) {s : State} (good : alarmLawful s) :
    alarmLawful (applySetPort p o s) := by
  simp only [applySetPort]
  (repeat' split) <;>
    (repeat (with_reducible first | apply finishOrder_alarm | apply updateMonitor_alarm)) <;> exact good

theorem setPortOrder_alarm (o : Order) {s : State} (good : alarmLawful s) : alarmLawful (setPortOrder o s) := by
  simp only [setPortOrder]
  (repeat' split) <;>
    (repeat (with_reducible first | apply finishOrder_alarm | apply applySetPort_alarm)) <;> exact good

theorem readPortOrder_alarm (o : Order) {s : State} (good : alarmLawful s) : alarmLawful (readPortOrder o s) := by
  simp only [readPortOrder]
  (repeat' split) <;>
    (repeat (with_reducible first | apply finishOrder_alarm | apply setMonitor_alarm)) <;> exact good

theorem readSegment_alarm (address : Address) {s : State} (good : alarmLawful s) :
    alarmLawful (readSegment address s) := by
  simp only [readSegment]
  (repeat' split) <;>
    (repeat (with_reducible first | apply setStage_alarm | apply issueRead_alarm)) <;> exact good

theorem loadTariffOrder_alarm (o : Order) {s : State} (good : alarmLawful s) : alarmLawful (loadTariffOrder o s) := by
  simp only [loadTariffOrder]
  (repeat' split) <;>
    (repeat (with_reducible first | apply finishOrder_alarm | apply readSegment_alarm)) <;> exact good

theorem stageTariff_alarm (t : Tariff) {s : State} (good : alarmLawful s) : alarmLawful (stageTariff t s) := by
  exact alarm_congr good (by simp)

theorem segmentTaken_alarm (bytes : Vector Byte 240) {s : State} (good : alarmLawful s) :
    alarmLawful (segmentTaken bytes s) := by
  simp only [segmentTaken]
  (repeat' split) <;>
    (repeat (with_reducible first | apply finishOrder_alarm | apply stageTariff_alarm)) <;> exact good

theorem tariffSegmentRead_alarm (bytes : Vector Byte 240) {s : State} (good : alarmLawful s) :
    alarmLawful (tariffSegmentRead bytes s) := by
  simp only [tariffSegmentRead]
  (repeat' split) <;>
    (repeat (with_reducible first | apply segmentTaken_alarm)) <;> exact good

theorem latchAccountOrder_alarm (o : Order) {s : State} (good : alarmLawful s) :
    alarmLawful (latchAccountOrder o s) := by
  simp only [latchAccountOrder]
  (repeat' split) <;>
    (repeat (with_reducible first | apply finishOrder_alarm)) <;> exact good

theorem closeMatchOrder_alarm (o : Order) {s : State} (good : alarmLawful s) : alarmLawful (closeMatchOrder o s) := by
  simp only [closeMatchOrder]
  (repeat' split) <;>
    (repeat (with_reducible first
          | apply finishOrder_alarm | apply submit_alarm | apply setStage_alarm)) <;> exact good

theorem setClockOrder_alarm (o : Order) {s : State} (good : alarmLawful s) : alarmLawful (setClockOrder o s) := by
  simp only [setClockOrder]
  (repeat' split) <;>
    (repeat (with_reducible first
          | apply finishOrder_alarm | apply setRollover_alarm | apply setTime_alarm)) <;> exact good

theorem setStart_alarm (p : StartPhase) (c : StartCode) {s : State} (good : alarmLawful s) :
    alarmLawful (setStart p c s) := by
  simp only [setStart]
  exact good

theorem takeHeader_alarm (h : Header) {s : State} (good : alarmLawful s) : alarmLawful (takeHeader h s) := by
  simp only [takeHeader]
  exact good

theorem headerTaken_alarm (h : Header) {s : State} (good : alarmLawful s) : alarmLawful (headerTaken h s) := by
  simp only [headerTaken]
  (repeat' split) <;>
    (repeat (with_reducible first
          | apply setStart_alarm | apply sendWrite_alarm | apply takeHeader_alarm)) <;> exact good

theorem headerReadComplete_alarm (bytes : Vector Byte 80) {s : State} (good : alarmLawful s) :
    alarmLawful (headerReadComplete bytes s) := by
  simp only [headerReadComplete]
  (repeat' split) <;>
    (repeat (with_reducible first | apply headerTaken_alarm)) <;> exact good

theorem identityWriteComplete_alarm {s : State} (good : alarmLawful s) : alarmLawful (identityWriteComplete s) := by
  simp only [identityWriteComplete]
  (repeat' split) <;>
    (repeat (with_reducible first | apply enterRunning_alarm | apply setStart_alarm)) <;> exact good

theorem startDormant_alarm {s : State} (good : alarmLawful s) : alarmLawful (startDormant s) := by
  simp only [startDormant]
  (repeat' split) <;>
    (repeat (with_reducible first | apply setStart_alarm | apply record_alarm)) <;> exact good

theorem startHeld_alarm {s : State} (good : alarmLawful s) : alarmLawful (startHeld s) := by
  simp only [startHeld]
  (repeat' split) <;>
    (repeat (with_reducible first | apply enterRunning_alarm | apply setStart_alarm)) <;> exact good

theorem setHaltWaiting_alarm (b : Bool) {s : State} (good : alarmLawful s) : alarmLawful (setHaltWaiting b s) := by
  simp only [setHaltWaiting]
  exact good

theorem startRunning_alarm {s : State} (good : alarmLawful s) : alarmLawful (startRunning s) := by
  simp only [startRunning]
  (repeat' split) <;>
    (repeat (with_reducible first | apply takeEntry_alarm | apply setHaltWaiting_alarm)) <;> exact good

theorem startCommand_alarm {s : State} (good : alarmLawful s) : alarmLawful (startCommand s) := by
  simp only [startCommand]
  (repeat' split) <;>
    (repeat (with_reducible first
          | apply startDormant_alarm | apply startHeld_alarm | apply startRunning_alarm)) <;> exact good

theorem haltCommand_alarm {s : State} (good : alarmLawful s) : alarmLawful (haltCommand s) := by
  simp only [haltCommand]
  (repeat' split) <;>
    (repeat (with_reducible first | apply enterHeld_alarm | apply setHaltWaiting_alarm)) <;> exact good

theorem busFaultAt_alarm (after : Nat) {s : State} (good : alarmLawful s) : alarmLawful (busFaultAt after s) := by
  simp only [busFaultAt]
  (repeat' split) <;>
    (repeat (with_reducible first | apply takeBusFault_alarm)) <;> exact good

theorem setGate_alarm (g : Gate) {s : State} (good : alarmLawful s) : alarmLawful (setGate g s) := by
  simp only [setGate]
  exact good

theorem completeInFlight_alarm (cut : CutOff) {s : State} (good : alarmLawful s) :
    alarmLawful (completeInFlight cut s) := by
  simp only [completeInFlight]
  (repeat' split) <;>
    (repeat (with_reducible first
          | apply raiseRead_alarm | apply unblockRing_alarm | apply setInFlight_alarm | apply bookFromRecord_alarm
          | apply totalRead_alarm | apply freeAccountSlot_alarm | apply loseTicket_alarm | apply raiseNumber_alarm
          | apply dropAccess_alarm)) <;> exact good

theorem gateNext_alarm (a : Access) {s : State} (good : alarmLawful s) : alarmLawful (gateNext a s) := by
  simp only [gateNext]
  split
  · exact good
  · exact setGate_alarm _ good

theorem completeNext_alarm (cut : CutOff) (a : Access) {s : State} (good : alarmLawful s) :
    alarmLawful (completeNext cut a s) := by
  simp only [completeNext]
  (repeat (with_reducible first | apply completeInFlight_alarm | apply beginAccess_alarm | apply gateNext_alarm))
  exact good

theorem setWaiting_alarm (l : List Access) {s : State} (good : alarmLawful s) : alarmLawful (setWaiting l s) := by
  exact alarm_congr good (by simp)

theorem completeAccesses_alarm (cut : CutOff) {s : State} (good : alarmLawful s) :
    alarmLawful (completeAccesses cut s) := by
  exact foldl_closed (fun t a ht => completeNext_alarm cut a ht) _
    (completeInFlight_alarm cut (setGate_alarm _ (setWaiting_alarm _ good)))

theorem completeTick_alarm (cut : CutOff) {s : State} (good : alarmLawful s) : alarmLawful (completeTick cut s) := by
  simp only [completeTick]
  (repeat' split) <;>
    (repeat (with_reducible first | apply setRollover_alarm | apply owedTick_alarm)) <;> exact good

theorem completeHold_alarm (h : Hold) {s : State} (good : alarmLawful s) : alarmLawful (completeHold h s) :=
  closeInside_alarm _ (takeClose_alarm _ good)

theorem completeHolds_alarm {s : State} (good : alarmLawful s) : alarmLawful (completeHolds s) := by
  exact foldl_closed (fun t h ht => completeHold_alarm h ht) _ good

theorem ownerTakes_alarm (o : Order) {s : State} (good : alarmLawful s) : alarmLawful (ownerTakes o s) := by
  simp only [ownerTakes]
  (repeat' split) <;>
    (repeat (with_reducible first
          | apply bookOrder_alarm | apply cancelOrder_alarm | apply extendOrder_alarm | apply switchOrder_alarm
          | apply setLegOrder_alarm | apply setPortOrder_alarm | apply readPortOrder_alarm
          | apply loadTariffOrder_alarm | apply latchAccountOrder_alarm | apply closeMatchOrder_alarm
          | apply setClockOrder_alarm)) <;> exact good

theorem completeEntry_alarm (cut : CutOff) {s : State} (good : alarmLawful s) :
    alarmLawful (completeEntry cut s) := by
  simp only [completeEntry]
  (repeat' split) <;>
    (repeat (with_reducible first | apply entryRead_alarm)) <;> exact good

theorem completeDispatched_alarm (cut : CutOff) {s : State} (good : alarmLawful s) :
    alarmLawful (completeDispatched cut s) := by
  simp only [completeDispatched]
  (repeat' split) <;>
    (repeat (with_reducible first
          | apply completeInFlight_alarm | apply ownerTakes_alarm | apply setGate_alarm)) <;> exact good

theorem completeSegment_alarm (cut : CutOff) {s : State} (good : alarmLawful s) :
    alarmLawful (completeSegment cut s) := by
  simp only [completeSegment]
  (repeat' split) <;>
    (repeat (with_reducible first | apply tariffSegmentRead_alarm)) <;> exact good

theorem completeOrder_alarm (cut : CutOff) {s : State} (good : alarmLawful s) :
    alarmLawful (completeOrder cut s) := by
  simp only [completeOrder]
  (repeat (with_reducible first
        | apply completeSegment_alarm | apply completeDispatched_alarm | apply completeEntry_alarm
        | apply setGate_alarm))
  exact good

theorem completeInside_alarm (cut : CutOff) {s : State} (good : alarmLawful s) :
    alarmLawful (completeInside cut s) := by
  simp only [completeInside]
  (repeat (with_reducible first
        | apply completeOrder_alarm | apply completeHolds_alarm | apply completeTick_alarm
        | apply completeAccesses_alarm))
  exact good

theorem softState_alarm {s : State} (good : alarmLawful s) : alarmLawful (softState s) := by
  simp only [softState]
  exact good

theorem clearFloor_alarm {s : State} (h : alarmLawful s) : alarmLawful (clearFloor s) := by
  refine setAlarm_alarm (fun j => ?_) h.2.1
  simpa using h.1 j

theorem softClear_alarm {s : State} (h : alarmLawful s) : alarmLawful (softClear s) := by
  refine clearFloor_alarm (setSeverity_alarm _ _ (setFlags_alarm _ h.1 (and_inside _ h.2.1) ?_))
  rw [alarmOnly_alarm]; exact h.2.2

theorem latchLeave_alarm (from_ : RunState) {s : State} (good : alarmLawful s) :
    alarmLawful (latchLeave from_ s) := by
  simp only [latchLeave]
  (repeat' split) <;>
    (repeat (with_reducible first | apply latch_alarm)) <;> first | exact good | decide

theorem softReset_alarm (cut : CutOff) {s : State} (good : alarmLawful s) : alarmLawful (softReset cut s) := by
  simp only [softReset]
  (repeat (with_reducible first
        | apply settlePage_alarm | apply latchLeave_alarm | apply softClear_alarm | apply completeInside_alarm
        | apply abandonPage_alarm))
  exact good

theorem scheduleOwn_alarm (instant : Nat) {s : State} (good : alarmLawful s) :
    alarmLawful (scheduleOwn instant s) := by
  exact alarm_congr good (by simp)

theorem hardReset_alarm (s : State) : alarmLawful (hardReset s) := by
  refine ⟨fun i => ?_, ?_, ?_⟩
  · simp [hardReset, State.hardReset, Alarm.hardReset]
  · simp [flagsPermitted, hardReset, Link.hardReset]
  · simp [alarmFollows, flagSet, alarmLevel, permitted, hardReset, Link.hardReset]

theorem resetRelease_alarm (instant : Nat) {s : State} (h : alarmLawful s) : alarmLawful (resetRelease instant s) := by
  simp only [resetRelease]
  split
  · exact h
  · exact setSeverity_alarm _ _ (hardReset_alarm s)

theorem flagsRead_alarm (enables : BitVec 4) {s : State} (h : alarmLawful s) : alarmLawful (flagsRead enables s) := by
  simp only [flagsRead]
  split
  · refine setFlags_alarm _ h.1 (and_inside _ h.2.1) ?_
    rw [alarmOnly_alarm]; exact h.2.2
  · exact h

theorem areaWrite_alarm (high : Bool) (value : Word) {s : State} (good : alarmLawful s) :
    alarmLawful (areaWrite high value s) := by
  simp only [areaWrite]
  (repeat' split) <;> exact good

theorem flagsWrite_alarm (value : Word) {s : State} (h : alarmLawful s) : alarmLawful (flagsWrite value s) := by
  simp only [flagsWrite]
  refine setFlags_alarm _ h.1 ?_ (withAlarmLevel_alarm _ _)
  simp only [withAlarmLevel]
  split
  · rename_i hl
    refine or_inside (by simp [BitVec.and_assoc]) (flagBit_inside _ _ ?_)
    simp only [alarmLevel, permitted, Bool.and_eq_true, bne_iff_ne] at hl
    exact hl.2
  · exact and_inside _ (by simp [BitVec.and_assoc])

theorem ctrlCommand_alarm (command : BitVec 2) (cut : CutOff) {s : State} (good : alarmLawful s) :
    alarmLawful (ctrlCommand command cut s) := by
  simp only [ctrlCommand]
  (repeat' split) <;>
    (repeat (with_reducible first
          | apply startCommand_alarm | apply haltCommand_alarm | apply softReset_alarm)) <;> exact good

theorem ctrlWrite_alarm (value : Word) (cut : CutOff) {s : State} (good : alarmLawful s) :
    alarmLawful (ctrlWrite value cut s) := by
  simp only [ctrlWrite]
  (repeat' split) <;>
    (repeat (with_reducible first | apply ctrlCommand_alarm | apply modeWrite_alarm)) <;> exact good

theorem nextAlarmRegister_alarm (value : Word) {s : State} (good : alarmLawful s) :
    alarmLawful (nextAlarmRegister value s) := by
  simp only [nextAlarmRegister]
  (repeat (with_reducible first | apply nextAlarmWrite_alarm))
  exact good

theorem registerWrite_alarm (r : Register) (enables : BitVec 4) (value : Word) (cut : CutOff) {s : State}
    (good : alarmLawful s) : alarmLawful (registerWrite r enables value cut s) := by
  simp only [registerWrite]
  (repeat' split) <;>
    (repeat (with_reducible first
          | apply ctrlWrite_alarm | apply areaWrite_alarm | apply orderEndWrite_alarm | apply flagsWrite_alarm
          | apply nextAlarmRegister_alarm)) <;> exact good

end Sys2Proof.Machine
end

