-- ==== Sys2Proof/Laws/Accounts.lean ====
section
/-! SUPPORT. Every operation keeps the law of the match accounts (R153, R154). -/

namespace Sys2Proof.Machine

/-- R153: no two OPEN accounts have the same match number, and every charge total is below 2^40. -/
def accountsApart (s : State) : Prop :=
  (∀ j k : Fin 128, s.accounts[j].isOpen = true → s.accounts[k].isOpen = true →
    s.accounts[j].matchNumber = s.accounts[k].matchNumber → j = k) ∧
  ∀ k : Fin 128, s.accounts[k].chargeTotal < 2 ^ 40

theorem accounts_congr {s t : State} (h : accountsApart s) (e : t.accounts = s.accounts) : accountsApart t := by
  simpa only [accountsApart, e] using h

theorem record_accounts (op : LinkOp) {s : State} (good : accountsApart s) : accountsApart (record op s) := by
  exact accounts_congr good (by simp)

theorem latch_accounts (f : Flag) {s : State} (good : accountsApart s) : accountsApart (latch f s) := by
  exact accounts_congr good (by simp)

theorem setSeverity_accounts (i : Fin 51) (severity : Fin 4) {s : State} (good : accountsApart s) :
    accountsApart (setSeverity i severity s) := by
  exact accounts_congr good (by simp)

theorem modeWrite_accounts (mode : BitVec 2) (spotlight : BitVec 6) {s : State} (good : accountsApart s) :
    accountsApart (modeWrite mode spotlight s) := by
  exact accounts_congr good (by simp)

/-- An account may be stored in slot k when no other OPEN account has its match. -/
theorem setAccount_accounts (k : Fin 128) {a : Account} {s : State} (good : accountsApart s) (ht : a.chargeTotal < 2 ^ 40)
    (hd : a.isOpen = true → ∀ j : Fin 128, j ≠ k → s.accounts[j].isOpen = true → s.accounts[j].matchNumber ≠ a.matchNumber) :
    accountsApart (setAccount k a s) := by
  refine ⟨fun i j hi hj hm => ?_, fun j => ?_⟩
  · simp only [setAccount, Fin.getElem_fin, Vector.getElem_set, Fin.val_inj] at hi hj hm
    by_cases h1 : k = i <;> by_cases h2 : k = j <;> simp only [h1, h2, if_true, if_false] at hi hj hm
    · exact h1 ▸ h2
    · subst h1; rw [if_neg h2] at hj hm; exact absurd hm.symm (hd hi j (Ne.symm h2) hj)
    · subst h2; rw [if_neg h1] at hi hm; exact absurd hm (hd hj i (Ne.symm h1) hi)
    · exact good.1 i j hi hj hm
  · by_cases h : k = j
    · subst h; simpa [setAccount] using ht
    · simpa [setAccount, Vector.getElem_set, Fin.val_inj, h] using good.2 j

/-- A change that keeps the state and the match number of an account is lawful. -/
theorem changeAccount_accounts (m : Nat) {f : Account → Account}
    (hf : ∀ a, (f a).isOpen = a.isOpen ∧ (f a).matchNumber = a.matchNumber)
    (ht : ∀ a, a.chargeTotal < 2 ^ 40 → (f a).chargeTotal < 2 ^ 40) {s : State} (good : accountsApart s) :
    accountsApart (changeAccount m f s) := by
  simp only [changeAccount]
  split
  · rename_i k _
    refine setAccount_accounts k good (ht _ (good.2 k)) fun ho j hj hoj he => hj ?_
    rw [(hf _).1] at ho; rw [(hf _).2] at he
    exact good.1 j k hoj ho he
  · exact good

/-- R153: `accountOf` answers an OPEN account of the match. -/
theorem accountOf_some {m : Nat} {s : State} {k : Fin 128} (h : accountOf m s = some k) :
    s.accounts[k].isOpen = true ∧ s.accounts[k].matchNumber = m := by
  have := List.find?_some h
  simpa using this

/-- R153: without an answer no OPEN account has the match. -/
theorem accountOf_none {m : Nat} {s : State} (h : accountOf m s = none) (k : Fin 128)
    (ho : s.accounts[k].isOpen = true) : s.accounts[k].matchNumber ≠ m := by
  have := List.find?_eq_none.1 h k (List.mem_finRange k)
  simp_all

theorem openBooking_accounts (m : Nat) {s : State} (good : accountsApart s) : accountsApart (openBooking m s) := by
  simp only [openBooking]
  split
  · rename_i k _
    exact setAccount_accounts k good (good.2 k) fun ho j hj hoj he => hj (good.1 j k hoj ho he)
  · rename_i hn
    split
    · exact setAccount_accounts _ good (by simp [openedAccount]) fun _ j _ hoj => accountOf_none hn j hoj
    · exact good

theorem freeAccountSlot_accounts (k : Fin 128) {s : State} (good : accountsApart s) :
    accountsApart (freeAccountSlot k s) :=
  setAccount_accounts k good (good.2 k) (by simp)

theorem loseTicket_accounts (m : Option Nat) {s : State} (good : accountsApart s) :
    accountsApart (loseTicket m s) := by
  simp only [loseTicket]
  refine latch_accounts _ ?_
  split
  · apply changeAccount_accounts
    · exact fun _ => ⟨rfl, rfl⟩
    · exact fun _ h => h
    · exact good
  · exact good

theorem raiseNumber_accounts {s : State} (good : accountsApart s) : accountsApart (raiseNumber s) := by
  exact accounts_congr good (by simp)

theorem setSlot_accounts (n : Fin 1024) (b : Slot) {s : State} (good : accountsApart s) :
    accountsApart (setSlot n b s) := by
  exact accounts_congr good (by simp)

theorem takeClose_accounts (r : Raise) {s : State} (good : accountsApart s) : accountsApart (takeClose r s) :=
  raiseNumber_accounts (changeAccount_accounts _ (f := addClose r.ticket.charge r.ticket.outage) (fun _ => ⟨rfl, rfl⟩)
    (fun _ _ => Nat.mod_lt _ (by decide)) good)

theorem loseRaise_accounts (r : Raise) {s : State} (good : accountsApart s) : accountsApart (loseRaise r s) := by
  simp only [loseRaise]
  (repeat (with_reducible first | apply loseTicket_accounts))
  exact good

theorem endClose_accounts (r : Raise) {s : State} (good : accountsApart s) : accountsApart (endClose r s) :=
  setSlot_accounts _ _ (changeAccount_accounts _ (f := lowerOpen) (fun _ => ⟨rfl, rfl⟩) (fun _ h => h) good)

theorem closeInside_accounts (r : Raise) {s : State} (good : accountsApart s) : accountsApart (closeInside r s) := by
  simp only [closeInside]
  (repeat (with_reducible first | apply endClose_accounts | apply loseRaise_accounts | apply raiseNumber_accounts))
  exact good

theorem enterHeld_accounts {s : State} (good : accountsApart s) : accountsApart (enterHeld s) := by
  exact accounts_congr good (by simp)

theorem dropAccess_accounts (a : Access) {s : State} (good : accountsApart s) : accountsApart (dropAccess a s) := by
  simp only [dropAccess]
  (repeat' split) <;>
    (repeat (with_reducible first
          | apply closeInside_accounts | apply endClose_accounts | apply loseRaise_accounts
          | apply freeAccountSlot_accounts | apply loseTicket_accounts)) <;> exact good

theorem clearAccesses_accounts {s : State} (good : accountsApart s) : accountsApart (clearAccesses s) := by
  exact accounts_congr good (by simp)

theorem dropAccesses_accounts {s : State} (good : accountsApart s) : accountsApart (dropAccesses s) := by
  exact foldl_closed (fun t a ht => dropAccess_accounts a ht) _ (clearAccesses_accounts good)

theorem takeBusFault_accounts {s : State} (good : accountsApart s) : accountsApart (takeBusFault s) := by
  simp only [takeBusFault]
  (repeat' split) <;>
    (repeat (with_reducible first
          | apply setSeverity_accounts | apply enterHeld_accounts | apply dropAccesses_accounts)) <;> exact good

theorem sendWrite_accounts (w : HostWrite) {s : State} (good : accountsApart s) : accountsApart (sendWrite w s) := by
  simp only [sendWrite]
  (repeat' split) <;>
    (repeat (with_reducible first | apply record_accounts | apply takeBusFault_accounts)) <;> exact good

theorem issue_accounts (w : HostWrite) {s : State} (good : accountsApart s) : accountsApart (issue w s) := by
  simp only [issue]
  (repeat' split) <;>
    (repeat (with_reducible first | apply sendWrite_accounts)) <;> exact good

theorem issueAll_accounts (ws : List HostWrite) {s : State} (good : accountsApart s) :
    accountsApart (issueAll ws s) := by
  induction ws generalizing s with
  | nil => exact good
  | cons w ws ih => exact ih (issue_accounts w good)

theorem issueRead_accounts (address : Address) (length : Nat) {s : State} (good : accountsApart s) :
    accountsApart (issueRead address length s) := by
  exact accounts_congr good (by simp)

theorem setUnit_accounts (u : UnitState) {s : State} (good : accountsApart s) : accountsApart (setUnit u s) := by
  exact accounts_congr good (by simp)

theorem takeEntry_accounts {s : State} (good : accountsApart s) : accountsApart (takeEntry s) := by
  exact accounts_congr good (by simp)

theorem orderDone_accounts (notify : Bool) {s : State} (good : accountsApart s) :
    accountsApart (orderDone notify s) := by
  exact accounts_congr good (by simp)

theorem report_accounts (notify : Bool) (outcome : OutcomeCode) (result : List Byte) {s : State}
    (good : accountsApart s) : accountsApart (report notify outcome result s) := by
  simp only [report]
  (repeat' split) <;>
    (repeat (with_reducible first
          | apply issueAll_accounts | apply setUnit_accounts | apply issue_accounts
          | apply orderDone_accounts)) <;> exact good

theorem finishOrder_accounts (outcome : OutcomeCode) (result : List Byte) {s : State} (good : accountsApart s) :
    accountsApart (finishOrder outcome result s) := by
  simp only [finishOrder]
  (repeat' split) <;>
    (repeat (with_reducible first | apply report_accounts)) <;> exact good

theorem setStage_accounts (stage : Stage) {s : State} (good : accountsApart s) :
    accountsApart (setStage stage s) := by
  exact accounts_congr good (by simp)

theorem examineEntry_accounts (bytes : Vector Byte 24) {s : State} (good : accountsApart s) :
    accountsApart (examineEntry bytes s) := by
  simp only [examineEntry]
  (repeat' split) <;>
    (repeat (with_reducible first | apply report_accounts | apply setUnit_accounts)) <;> exact good

theorem entryRead_accounts (bytes : Vector Byte 24) {s : State} (good : accountsApart s) :
    accountsApart (entryRead bytes s) := by
  simp only [entryRead]
  (repeat' split) <;>
    (repeat (with_reducible first | apply examineEntry_accounts)) <;> exact good

theorem orderEndWrite_accounts (value : Word) {s : State} (good : accountsApart s) :
    accountsApart (orderEndWrite value s) := by
  exact accounts_congr good (by simp)

theorem setInFlight_accounts (a : Option Access) {s : State} (good : accountsApart s) :
    accountsApart (setInFlight a s) := by
  exact accounts_congr good (by simp)

theorem unblockRing_accounts {s : State} (good : accountsApart s) : accountsApart (unblockRing s) := by
  exact accounts_congr good (by simp)

theorem blockRing_accounts {s : State} (good : accountsApart s) : accountsApart (blockRing s) := by
  exact accounts_congr good (by simp)

theorem ticketWritten_accounts {s : State} (good : accountsApart s) : accountsApart (ticketWritten s) := by
  exact accounts_congr good (by simp)

theorem recordClose_accounts (r : Raise) {s : State} (good : accountsApart s) : accountsApart (recordClose r s) := by
  simp only [recordClose]
  (repeat (with_reducible first | apply issueAll_accounts))
  exact good

theorem finishClose_accounts (r : Raise) (number : BitVec 32) {s : State} (good : accountsApart s) :
    accountsApart (finishClose r number s) := by
  simp only [finishClose]
  (repeat' split) <;>
    (repeat (with_reducible first | apply finishOrder_accounts | apply endClose_accounts)) <;> exact good

theorem lostClose_accounts (r : Raise) {s : State} (good : accountsApart s) : accountsApart (lostClose r s) := by
  simp only [lostClose]
  (repeat (with_reducible first | apply finishClose_accounts | apply recordClose_accounts))
  exact good

theorem beginAccess_accounts (a : Access) {s : State} (good : accountsApart s) : accountsApart (beginAccess a s) := by
  simp only [beginAccess]
  (repeat' split) <;>
    (repeat (with_reducible first
          | apply issue_accounts | apply finishOrder_accounts | apply setInFlight_accounts | apply issueRead_accounts
          | apply lostClose_accounts | apply loseRaise_accounts | apply raiseNumber_accounts
          | apply setStage_accounts)) <;> exact good

theorem pump_accounts (accesses : List Access) {s : State} (good : accountsApart s) :
    accountsApart (pump accesses s) := by
  induction accesses generalizing s with
  | nil => exact good
  | cons a rest ih =>
    simp only [pump]
    split
    · exact good
    · exact ih (beginAccess_accounts a good)

theorem pumpWaiting_accounts {s : State} (good : accountsApart s) : accountsApart (pumpWaiting s) := by
  simp only [pumpWaiting]
  (repeat (with_reducible first | apply pump_accounts))
  exact good

theorem submit_accounts (accesses : List Access) {s : State} (good : accountsApart s) :
    accountsApart (submit accesses s) := by
  simp only [submit]
  (repeat (with_reducible first | apply pumpWaiting_accounts))
  exact good

theorem writeClose_accounts (r : Raise) {s : State} (good : accountsApart s) : accountsApart (writeClose r s) := by
  simp only [writeClose]
  (repeat' split) <;>
    (repeat (with_reducible first
          | apply issueAll_accounts | apply setInFlight_accounts | apply recordClose_accounts
          | apply ticketWritten_accounts | apply finishClose_accounts)) <;> exact good

theorem raiseRead_accounts (r : Raise) (empty : Bool) {s : State} (good : accountsApart s) :
    accountsApart (raiseRead r empty s) := by
  simp only [raiseRead]
  (repeat' split) <;>
    (repeat (with_reducible first
          | apply setInFlight_accounts | apply writeClose_accounts
          | apply lostClose_accounts | apply blockRing_accounts | apply loseRaise_accounts)) <;> exact good

theorem totalRead_accounts (k : Fin 128) (minute : Nat) (empty : Bool) {s : State} (good : accountsApart s) :
    accountsApart (totalRead k minute empty s) := by
  simp only [totalRead]
  (repeat' split) <;>
    (repeat (with_reducible first
          | apply setInFlight_accounts | apply raiseNumber_accounts | apply issueAll_accounts
          | apply finishOrder_accounts | apply freeAccountSlot_accounts
          | apply ticketWritten_accounts)) <;> exact good

theorem ticketSlotRead_accounts (state : Byte) {s : State} (good : accountsApart s) :
    accountsApart (ticketSlotRead state s) := by
  simp only [ticketSlotRead]
  (repeat' split) <;>
    (repeat (with_reducible first
          | apply pumpWaiting_accounts | apply raiseRead_accounts | apply totalRead_accounts
          | apply unblockRing_accounts | apply setInFlight_accounts)) <;> exact good

theorem request_accounts (d : Fin 64) (target : Source) (cause : Cause) {s : State} (good : accountsApart s) :
    accountsApart (request d target cause s) := by
  exact accounts_congr good (by simp)

theorem applyProtection_accounts (n : Fin 1024) {s : State} (good : accountsApart s) :
    accountsApart (applyProtection n s) := by
  exact accounts_congr good (by simp)

theorem applyActivation_accounts (n : Fin 1024) {s : State} (good : accountsApart s) :
    accountsApart (applyActivation n s) := by
  exact accounts_congr good (by simp)

theorem setMonitor_accounts (p : Fin 48) (m : Monitor) {s : State} (good : accountsApart s) :
    accountsApart (setMonitor p m s) := by
  exact accounts_congr good (by simp)

theorem updateMonitor_accounts (p : Fin 48) (m : Monitor) {s : State} (good : accountsApart s) :
    accountsApart (updateMonitor p m s) := by
  exact accounts_congr good (by simp)

theorem setMeter_accounts (n : Fin 1024) (m : Meter) {s : State} (good : accountsApart s) :
    accountsApart (setMeter n m s) := by
  exact accounts_congr good (by simp)

theorem takeTariffBoundary_accounts {s : State} (good : accountsApart s) : accountsApart (takeTariffBoundary s) := by
  exact accounts_congr good (by simp)

theorem leaveTimeline_accounts (n : Fin 1024) {s : State} (good : accountsApart s) :
    accountsApart (leaveTimeline n s) := by
  exact accounts_congr good (by simp)

theorem makeRecheck_accounts {s : State} (good : accountsApart s) : accountsApart (makeRecheck s) := by
  simp only [makeRecheck]
  (repeat (with_reducible first | apply submit_accounts))
  exact good

theorem countRecheck_accounts {s : State} (good : accountsApart s) : accountsApart (countRecheck s) := by
  simp only [countRecheck]
  (repeat' split) <;>
    (repeat (with_reducible first | apply makeRecheck_accounts)) <;> exact good

theorem lastRecheck_accounts {s : State} (good : accountsApart s) : accountsApart (lastRecheck s) := by
  simp only [lastRecheck]
  (repeat' split) <;>
    (repeat (with_reducible first | apply makeRecheck_accounts)) <;> exact good

theorem settleClose_accounts (kind : TicketKind) (n : Fin 1024) (closeMinute : Nat) (forOrder : Bool) {s : State}
    (good : accountsApart s) : accountsApart (settleClose kind n closeMinute forOrder s) := by
  simp only [settleClose]
  (repeat (with_reducible first | apply submit_accounts | apply takeClose_accounts))
  exact good

theorem handToAlarms_accounts {s : State} (good : accountsApart s) : accountsApart (handToAlarms s) := by
  exact accounts_congr good (by simp)

theorem beginClose_accounts (n : Fin 1024) (minute : Nat) {s : State} (good : accountsApart s) :
    accountsApart (beginClose n minute s) := by
  exact accounts_congr good (by simp)

theorem holdClose_accounts (n : Fin 1024) (minute : Nat) {s : State} (good : accountsApart s) :
    accountsApart (holdClose n minute s) := by
  exact accounts_congr good (by simp)

theorem closeOnAir_accounts (n : Fin 1024) (minute : Nat) (counted forOrder : Bool) {s : State}
    (good : accountsApart s) : accountsApart (closeOnAir n minute counted forOrder s) := by
  simp only [closeOnAir]
  (repeat' split) <;>
    (repeat (with_reducible first
          | apply beginClose_accounts | apply settleClose_accounts | apply holdClose_accounts)) <;> exact good

theorem closeMissed_accounts (n : Fin 1024) (minute : Nat) {s : State} (good : accountsApart s) :
    accountsApart (closeMissed n minute s) := by
  simp only [closeMissed]
  (repeat (with_reducible first | apply settleClose_accounts | apply leaveTimeline_accounts))
  exact good

theorem markOwned_accounts (d : Fin 64) {s : State} (good : accountsApart s) : accountsApart (markOwned d s) := by
  exact accounts_congr good (by simp)

theorem activate_accounts (n : Fin 1024) (minute : Nat) (first : Stamp) (band : Option Band) {s : State}
    (good : accountsApart s) : accountsApart (activate n minute first band s) := by
  simp only [activate]
  (repeat (with_reducible first
        | apply setSlot_accounts | apply setMeter_accounts | apply handToAlarms_accounts | apply markOwned_accounts
        | apply applyActivation_accounts | apply submit_accounts))
  exact good

theorem enterOverrun_accounts (n : Fin 1024) {s : State} (good : accountsApart s) :
    accountsApart (enterOverrun n s) := by
  simp only [enterOverrun]
  (repeat (with_reducible first | apply submit_accounts | apply setSlot_accounts))
  exact good

theorem boundaryClose_accounts (n : Fin 1024) (minute : Nat) (counted : Bool) {s : State} (good : accountsApart s) :
    accountsApart (boundaryClose n minute counted s) := by
  simp only [boundaryClose]
  (repeat' split) <;>
    (repeat (with_reducible first | apply closeOnAir_accounts | apply countRecheck_accounts)) <;> exact good

theorem boundaryHead_accounts (minute : Nat) (counted : Bool) (d : Fin 64) {s : State} (good : accountsApart s) :
    accountsApart (boundaryHead minute counted d s) := by
  simp only [boundaryHead]
  (repeat' split) <;>
    (repeat (with_reducible first | apply boundaryClose_accounts | apply enterOverrun_accounts)) <;> exact good

theorem boundaryStart_accounts (minute : Nat) (swapped : Bool) (d : Fin 64) {s : State} (good : accountsApart s) :
    accountsApart (boundaryStart minute swapped d s) := by
  simp only [boundaryStart]
  (repeat' split) <;>
    (repeat (with_reducible first | apply activate_accounts)) <;> exact good

theorem boundaryTimeline_accounts (minute : Nat) (counted swapped : Bool) (d : Fin 64) {s : State}
    (good : accountsApart s) : accountsApart (boundaryTimeline minute counted swapped d s) := by
  simp only [boundaryTimeline]
  (repeat (with_reducible first | apply boundaryStart_accounts | apply boundaryHead_accounts))
  exact good

theorem storeTimelines_accounts (taken : Bool) (minute : Nat) (counted swapped : Bool) (ports :
    List (Fin 64)) {s : State} (good : accountsApart s) :
    accountsApart (storeTimelines taken minute counted swapped ports s) := by
  simp only [storeTimelines]
  split
  · exact foldl_closed (fun t d ht => boundaryTimeline_accounts _ _ _ d ht) _ good
  · exact good

theorem openRecheck_accounts (recheckAfter : Nat) {s : State} (good : accountsApart s) :
    accountsApart (openRecheck recheckAfter s) := by
  simp only [openRecheck]
  (repeat' split) <;>
    (repeat (with_reducible first | apply makeRecheck_accounts)) <;> exact good

theorem boundaryCounted_accounts (minute swapAfter recheckAfter : Nat) {s : State} (good : accountsApart s) :
    accountsApart (boundaryCounted minute swapAfter recheckAfter s) := by
  simp only [boundaryCounted]
  (repeat (with_reducible first
        | apply storeTimelines_accounts | apply openRecheck_accounts | apply lastRecheck_accounts
        | apply takeTariffBoundary_accounts))
  exact good

theorem boundaryUncounted_accounts (minute recheckAfter : Nat) {s : State} (good : accountsApart s) :
    accountsApart (boundaryUncounted minute recheckAfter s) := by
  simp only [boundaryUncounted]
  (repeat (with_reducible first
        | apply lastRecheck_accounts | apply storeTimelines_accounts | apply openRecheck_accounts))
  exact good

theorem catchUpCloses_accounts (members :
    List (Fin 1024)) {s : State} (good : accountsApart s) : accountsApart (catchUpCloses members s) := by
  induction members generalizing s with
  | nil => exact good
  | cons n rest ih =>
    simp only [catchUpCloses]
    (repeat' split) <;> 
      first
        | with_reducible exact good
        | with_reducible exact ih (closeOnAir_accounts _ _ _ _ good)
        | with_reducible exact ih (closeMissed_accounts _ _ good)

theorem catchUpStart_accounts (d : Fin 64) {s : State} (good : accountsApart s) :
    accountsApart (catchUpStart d s) := by
  simp only [catchUpStart]
  (repeat' split) <;>
    (repeat (with_reducible first | apply activate_accounts)) <;> exact good

theorem catchUpPhase_accounts (d : Fin 64) {s : State} (good : accountsApart s) :
    accountsApart (catchUpPhase d s) := by
  simp only [catchUpPhase]
  (repeat' split) <;>
    (repeat (with_reducible first | apply enterOverrun_accounts)) <;> exact good

theorem catchUpTimeline_accounts (d : Fin 64) {s : State} (good : accountsApart s) :
    accountsApart (catchUpTimeline d s) := by
  simp only [catchUpTimeline]
  (repeat (with_reducible first
        | apply catchUpPhase_accounts | apply catchUpStart_accounts | apply catchUpCloses_accounts))
  exact good

theorem catchUp_accounts {s : State} (good : accountsApart s) : accountsApart (catchUp s) := by
  exact foldl_closed (fun t d ht => catchUpTimeline_accounts d ht) _ good

theorem enterRunning_accounts {s : State} (good : accountsApart s) : accountsApart (enterRunning s) := by
  simp only [enterRunning]
  (repeat (with_reducible first | apply takeEntry_accounts | apply catchUp_accounts | apply latch_accounts))
  exact good

theorem releaseFirst_accounts {s : State} (good : accountsApart s) : accountsApart (releaseFirst s) := by
  simp only [releaseFirst]
  (repeat' split) <;>
    (repeat (with_reducible first
          | apply lastRecheck_accounts | apply countRecheck_accounts | apply settleClose_accounts)) <;> exact good

theorem settlePage_accounts {s : State} (good : accountsApart s) : accountsApart (settlePage s) := by
  exact accounts_congr good (by simp)

theorem boundaryPage_accounts (minute : BitVec 32) {s : State} (good : accountsApart s) :
    accountsApart (boundaryPage minute s) := by
  exact accounts_congr good (by simp)

theorem endPage_accounts {s : State} (good : accountsApart s) : accountsApart (endPage s) := by
  exact accounts_congr good (by simp)

theorem pageComplete_accounts {s : State} (good : accountsApart s) : accountsApart (pageComplete s) := by
  simp only [pageComplete]
  (repeat' split) <;>
    (repeat (with_reducible first
          | apply issueAll_accounts | apply latch_accounts | apply endPage_accounts)) <;> exact good

theorem abandonPage_accounts (issued : Nat) {s : State} (good : accountsApart s) :
    accountsApart (abandonPage issued s) := by
  simp only [abandonPage]
  (repeat' split) <;>
    (repeat (with_reducible first | apply endPage_accounts | apply issueAll_accounts)) <;> exact good

theorem ticksAhead_accounts (early : TickOrder) {s : State} (good : accountsApart s) :
    accountsApart (ticksAhead early s) := by
  exact accounts_congr good (by simp)

theorem handTick_accounts (order : TickOrder) (e : EndedSecond) {s : State} (good : accountsApart s) :
    accountsApart (handTick order e s) := by
  exact accounts_congr good (by simp)

theorem owedTick_accounts (order : TickOrder) (ended : BitVec 32) {s : State} (good : accountsApart s) :
    accountsApart (owedTick order ended s) := by
  exact accounts_congr good (by simp)

theorem setRollover_accounts (r : Rollover) {s : State} (good : accountsApart s) :
    accountsApart (setRollover r s) := by
  exact accounts_congr good (by simp)

theorem setTime_accounts (minute : BitVec 32) (second : Nat) {s : State} (good : accountsApart s) :
    accountsApart (setTime minute second s) := by
  exact accounts_congr good (by simp)

theorem rollTime_accounts (minute : BitVec 32) (clockSet : Bool) {s : State} (good : accountsApart s) :
    accountsApart (rollTime minute clockSet s) := by
  exact accounts_congr good (by simp)

theorem boundaryAfterTick_accounts (minute : BitVec 32) (clockSet : Bool) (swapAfter recheckAfter : Nat) {s : State}
    (good : accountsApart s) : accountsApart (boundaryAfterTick minute clockSet swapAfter recheckAfter s) := by
  simp only [boundaryAfterTick]
  (repeat (with_reducible first
        | apply boundaryPage_accounts | apply boundaryCounted_accounts | apply rollTime_accounts
        | apply setRollover_accounts))
  exact good

theorem boundaryBeforeTick_accounts (recheckAfter : Nat) {s : State} (good : accountsApart s) :
    accountsApart (boundaryBeforeTick recheckAfter s) := by
  simp only [boundaryBeforeTick]
  (repeat (with_reducible first
        | apply boundaryUncounted_accounts | apply setRollover_accounts | apply setTime_accounts))
  exact good

theorem takeBoundary_accounts (swapAfter recheckAfter : Nat) {s : State} (good : accountsApart s) :
    accountsApart (takeBoundary swapAfter recheckAfter s) := by
  simp only [takeBoundary]
  (repeat' split) <;>
    (repeat (with_reducible first
          | apply boundaryAfterTick_accounts | apply boundaryBeforeTick_accounts)) <;> exact good

theorem minuteBoundary_accounts (early : TickOrder) (boundary : Bool) (swapAfter recheckAfter : Nat) {s : State}
    (good : accountsApart s) : accountsApart (minuteBoundary early boundary swapAfter recheckAfter s) := by
  simp only [minuteBoundary]
  (repeat' split) <;>
    (repeat (with_reducible first | apply ticksAhead_accounts | apply takeBoundary_accounts)) <;> exact good

theorem settleBoundary_accounts {s : State} (good : accountsApart s) : accountsApart (settleBoundary s) := by
  simp only [settleBoundary]
  (repeat' split) <;>
    (repeat (with_reducible first | apply boundaryAfterTick_accounts)) <;> exact good

theorem completeSecond_accounts (ahead : Bool) {s : State} (good : accountsApart s) :
    accountsApart (completeSecond ahead s) := by
  exact accounts_congr good (by simp)

theorem secondTick_accounts (order : TickOrder) {s : State} (good : accountsApart s) :
    accountsApart (secondTick order s) := by
  simp only [secondTick]
  (repeat' split) <;>
    (repeat (with_reducible first
          | apply settleBoundary_accounts | apply boundaryPage_accounts | apply setRollover_accounts
          | apply owedTick_accounts | apply completeSecond_accounts | apply handTick_accounts)) <;> exact good

theorem changeReference_accounts (c : Clock) {s : State} (good : accountsApart s) :
    accountsApart (changeReference c s) := by
  exact accounts_congr good (by simp)

theorem pulseFreeRun_accounts (instant : Nat) (order : TickOrder) {s : State} (good : accountsApart s) :
    accountsApart (pulseFreeRun instant order s) := by
  simp only [pulseFreeRun]
  (repeat' split) <;>
    (repeat (with_reducible first | apply secondTick_accounts | apply changeReference_accounts)) <;> exact good

theorem secrefPulse_accounts (instant : Nat) (order : TickOrder) {s : State} (good : accountsApart s) :
    accountsApart (secrefPulse instant order s) := by
  simp only [secrefPulse]
  (repeat' split) <;>
    (repeat (with_reducible first | apply secondTick_accounts | apply pulseFreeRun_accounts)) <;> exact good

theorem secrefTimeout_accounts (order : TickOrder) {s : State} (good : accountsApart s) :
    accountsApart (secrefTimeout order s) := by
  simp only [secrefTimeout]
  (repeat' split) <;>
    (repeat (with_reducible first | apply secondTick_accounts | apply changeReference_accounts)) <;> exact good

theorem ownTick_accounts (order : TickOrder) {s : State} (good : accountsApart s) :
    accountsApart (ownTick order s) := by
  simp only [ownTick]
  (repeat' split) <;>
    (repeat (with_reducible first | apply secondTick_accounts)) <;> exact good

theorem bookOrder_accounts (o : Order) {s : State} (good : accountsApart s) : accountsApart (bookOrder o s) := by
  simp only [bookOrder]
  (repeat' split) <;>
    (repeat (with_reducible first
          | apply finishOrder_accounts | apply submit_accounts | apply setStage_accounts)) <;> exact good

theorem joinTimeline_accounts (n : Fin 1024) {s : State} (good : accountsApart s) :
    accountsApart (joinTimeline n s) := by
  exact accounts_congr good (by simp)

theorem acceptBooking_accounts (n : Fin 1024) (b : Slot) {s : State} (good : accountsApart s) :
    accountsApart (acceptBooking n b s) := by
  simp only [acceptBooking]
  (repeat (with_reducible first
        | apply setMeter_accounts | apply openBooking_accounts | apply joinTimeline_accounts
        | apply setSlot_accounts))
  exact good

theorem bookFromRecord_accounts (n : Fin 1024) (r : BookRecord) {s : State} (good : accountsApart s) :
    accountsApart (bookFromRecord n r s) := by
  simp only [bookFromRecord]
  (repeat' split) <;>
    (repeat (with_reducible first | apply submit_accounts | apply acceptBooking_accounts)) <;> exact good

theorem bookRecordRead_accounts (bytes : Vector Byte 20) {s : State} (good : accountsApart s) :
    accountsApart (bookRecordRead bytes s) := by
  simp only [bookRecordRead]
  (repeat' split) <;>
    (repeat (with_reducible first | apply bookFromRecord_accounts | apply setInFlight_accounts)) <;> exact good

theorem cancelAccepted_accounts (n : Fin 1024) {s : State} (good : accountsApart s) :
    accountsApart (cancelAccepted n s) := by
  simp only [cancelAccepted]
  (repeat' split) <;>
    (repeat (with_reducible first
          | apply leaveTimeline_accounts | apply settleClose_accounts | apply setMeter_accounts)) <;> exact good

theorem cancelOrder_accounts (o : Order) {s : State} (good : accountsApart s) : accountsApart (cancelOrder o s) := by
  simp only [cancelOrder]
  (repeat' split) <;>
    (repeat (with_reducible first
          | apply finishOrder_accounts | apply cancelAccepted_accounts | apply setStage_accounts
          | apply closeOnAir_accounts)) <;> exact good

theorem grantExtension_accounts (n : Fin 1024) (minutes : Nat) {s : State} (good : accountsApart s) :
    accountsApart (grantExtension n minutes s) := by
  simp only [grantExtension]
  (repeat' split) <;>
    (repeat (with_reducible first
          | apply finishOrder_accounts | apply submit_accounts | apply setSlot_accounts
          | apply setStage_accounts)) <;> exact good

theorem extendOrder_accounts (o : Order) {s : State} (good : accountsApart s) : accountsApart (extendOrder o s) := by
  simp only [extendOrder]
  (repeat' split) <;>
    (repeat (with_reducible first | apply finishOrder_accounts | apply grantExtension_accounts)) <;> exact good

theorem lodgeSwitch_accounts (d : Fin 64) (target : Source) {s : State} (good : accountsApart s) :
    accountsApart (lodgeSwitch d target s) := by
  simp only [lodgeSwitch]
  (repeat (with_reducible first | apply finishOrder_accounts | apply request_accounts))
  exact good

theorem switchOrder_accounts (o : Order) {s : State} (good : accountsApart s) : accountsApart (switchOrder o s) := by
  simp only [switchOrder]
  (repeat' split) <;>
    (repeat (with_reducible first | apply finishOrder_accounts | apply lodgeSwitch_accounts)) <;> exact good

theorem storeLegMode_accounts (n : Fin 1024) (mode : LegMode) {s : State} (good : accountsApart s) :
    accountsApart (storeLegMode n mode s) := by
  simp only [storeLegMode]
  (repeat' split) <;>
    (repeat (with_reducible first
          | apply setSlot_accounts | apply finishOrder_accounts | apply applyProtection_accounts)) <;> exact good

theorem setLegOrder_accounts (o : Order) {s : State} (good : accountsApart s) : accountsApart (setLegOrder o s) := by
  simp only [setLegOrder]
  (repeat' split) <;>
    (repeat (with_reducible first | apply finishOrder_accounts | apply storeLegMode_accounts)) <;> exact good

theorem applySetPort_accounts (p : Fin 48) (o : Order) {s : State} (good : accountsApart s) :
    accountsApart (applySetPort p o s) := by
  simp only [applySetPort]
  (repeat' split) <;>
    (repeat (with_reducible first | apply finishOrder_accounts | apply updateMonitor_accounts)) <;> exact good

theorem setPortOrder_accounts (o : Order) {s : State} (good : accountsApart s) :
    accountsApart (setPortOrder o s) := by
  simp only [setPortOrder]
  (repeat' split) <;>
    (repeat (with_reducible first | apply finishOrder_accounts | apply applySetPort_accounts)) <;> exact good

theorem readPortOrder_accounts (o : Order) {s : State} (good : accountsApart s) :
    accountsApart (readPortOrder o s) := by
  simp only [readPortOrder]
  (repeat' split) <;>
    (repeat (with_reducible first | apply finishOrder_accounts | apply setMonitor_accounts)) <;> exact good

theorem readSegment_accounts (address : Address) {s : State} (good : accountsApart s) :
    accountsApart (readSegment address s) := by
  exact accounts_congr good (by simp)

theorem loadTariffOrder_accounts (o : Order) {s : State} (good : accountsApart s) :
    accountsApart (loadTariffOrder o s) := by
  simp only [loadTariffOrder]
  (repeat' split) <;>
    (repeat (with_reducible first | apply finishOrder_accounts | apply readSegment_accounts)) <;> exact good

theorem stageTariff_accounts (t : Tariff) {s : State} (good : accountsApart s) : accountsApart (stageTariff t s) := by
  exact accounts_congr good (by simp)

theorem segmentTaken_accounts (bytes : Vector Byte 240) {s : State} (good : accountsApart s) :
    accountsApart (segmentTaken bytes s) := by
  simp only [segmentTaken]
  (repeat' split) <;>
    (repeat (with_reducible first | apply finishOrder_accounts | apply stageTariff_accounts)) <;> exact good

theorem tariffSegmentRead_accounts (bytes : Vector Byte 240) {s : State} (good : accountsApart s) :
    accountsApart (tariffSegmentRead bytes s) := by
  simp only [tariffSegmentRead]
  (repeat' split) <;>
    (repeat (with_reducible first | apply segmentTaken_accounts)) <;> exact good

theorem latchAccountOrder_accounts (o : Order) {s : State} (good : accountsApart s) :
    accountsApart (latchAccountOrder o s) := by
  simp only [latchAccountOrder]
  (repeat' split) <;>
    (repeat (with_reducible first | apply finishOrder_accounts)) <;> exact good

theorem closeMatchOrder_accounts (o : Order) {s : State} (good : accountsApart s) :
    accountsApart (closeMatchOrder o s) := by
  simp only [closeMatchOrder]
  (repeat' split) <;>
    (repeat (with_reducible first
          | apply finishOrder_accounts | apply submit_accounts | apply setStage_accounts)) <;> exact good

theorem setClockOrder_accounts (o : Order) {s : State} (good : accountsApart s) :
    accountsApart (setClockOrder o s) := by
  simp only [setClockOrder]
  (repeat' split) <;>
    (repeat (with_reducible first
          | apply finishOrder_accounts | apply setRollover_accounts | apply setTime_accounts)) <;> exact good

theorem setStart_accounts (p : StartPhase) (c : StartCode) {s : State} (good : accountsApart s) :
    accountsApart (setStart p c s) := by
  exact accounts_congr good (by simp)

theorem takeHeader_accounts (h : Header) {s : State} (good : accountsApart s) : accountsApart (takeHeader h s) := by
  exact accounts_congr good (by simp)

theorem headerTaken_accounts (h : Header) {s : State} (good : accountsApart s) : accountsApart (headerTaken h s) := by
  simp only [headerTaken]
  (repeat' split) <;>
    (repeat (with_reducible first
          | apply setStart_accounts | apply sendWrite_accounts | apply takeHeader_accounts)) <;> exact good

theorem headerReadComplete_accounts (bytes : Vector Byte 80) {s : State} (good : accountsApart s) :
    accountsApart (headerReadComplete bytes s) := by
  simp only [headerReadComplete]
  (repeat' split) <;>
    (repeat (with_reducible first | apply headerTaken_accounts)) <;> exact good

theorem identityWriteComplete_accounts {s : State} (good : accountsApart s) :
    accountsApart (identityWriteComplete s) := by
  simp only [identityWriteComplete]
  (repeat' split) <;>
    (repeat (with_reducible first | apply enterRunning_accounts | apply setStart_accounts)) <;> exact good

theorem startDormant_accounts {s : State} (good : accountsApart s) : accountsApart (startDormant s) := by
  exact accounts_congr good (by simp)

theorem startHeld_accounts {s : State} (good : accountsApart s) : accountsApart (startHeld s) := by
  simp only [startHeld]
  (repeat' split) <;>
    (repeat (with_reducible first | apply enterRunning_accounts | apply setStart_accounts)) <;> exact good

theorem startRunning_accounts {s : State} (good : accountsApart s) : accountsApart (startRunning s) := by
  exact accounts_congr good (by simp)

theorem startCommand_accounts {s : State} (good : accountsApart s) : accountsApart (startCommand s) := by
  simp only [startCommand]
  (repeat' split) <;>
    (repeat (with_reducible first
          | apply startDormant_accounts | apply startHeld_accounts | apply startRunning_accounts)) <;> exact good

theorem haltCommand_accounts {s : State} (good : accountsApart s) : accountsApart (haltCommand s) := by
  exact accounts_congr good (by simp)

theorem busFaultAt_accounts (after : Nat) {s : State} (good : accountsApart s) :
    accountsApart (busFaultAt after s) := by
  simp only [busFaultAt]
  (repeat' split) <;>
    (repeat (with_reducible first | apply takeBusFault_accounts)) <;> exact good

theorem setGate_accounts (g : Gate) {s : State} (good : accountsApart s) : accountsApart (setGate g s) := by
  exact accounts_congr good (by simp)

theorem completeInFlight_accounts (cut : CutOff) {s : State} (good : accountsApart s) :
    accountsApart (completeInFlight cut s) := by
  simp only [completeInFlight]
  (repeat' split) <;>
    (repeat (with_reducible first
          | apply raiseRead_accounts | apply unblockRing_accounts | apply setInFlight_accounts
          | apply bookFromRecord_accounts | apply totalRead_accounts | apply freeAccountSlot_accounts
          | apply loseTicket_accounts | apply raiseNumber_accounts | apply dropAccess_accounts)) <;> exact good

theorem gateNext_accounts (a : Access) {s : State} (good : accountsApart s) : accountsApart (gateNext a s) := by
  simp only [gateNext]
  split
  · exact good
  · exact setGate_accounts _ good

theorem completeNext_accounts (cut : CutOff) (a : Access) {s : State} (good : accountsApart s) :
    accountsApart (completeNext cut a s) := by
  simp only [completeNext]
  (repeat (with_reducible first | apply completeInFlight_accounts | apply beginAccess_accounts | apply gateNext_accounts))
  exact good

theorem setWaiting_accounts (l : List Access) {s : State} (good : accountsApart s) :
    accountsApart (setWaiting l s) := by
  exact accounts_congr good (by simp)

theorem completeAccesses_accounts (cut : CutOff) {s : State} (good : accountsApart s) :
    accountsApart (completeAccesses cut s) := by
  exact foldl_closed (fun t a ht => completeNext_accounts cut a ht) _
    (completeInFlight_accounts cut (setGate_accounts _ (setWaiting_accounts _ good)))

theorem completeTick_accounts (cut : CutOff) {s : State} (good : accountsApart s) :
    accountsApart (completeTick cut s) := by
  exact accounts_congr good (by simp)

theorem completeHold_accounts (h : Hold) {s : State} (good : accountsApart s) : accountsApart (completeHold h s) :=
  closeInside_accounts _ (takeClose_accounts _ good)

theorem completeHolds_accounts {s : State} (good : accountsApart s) : accountsApart (completeHolds s) := by
  exact foldl_closed (fun t h ht => completeHold_accounts h ht) _ good

theorem ownerTakes_accounts (o : Order) {s : State} (good : accountsApart s) : accountsApart (ownerTakes o s) := by
  simp only [ownerTakes]
  (repeat' split) <;>
    (repeat (with_reducible first
          | apply bookOrder_accounts | apply cancelOrder_accounts | apply extendOrder_accounts
          | apply switchOrder_accounts | apply setLegOrder_accounts | apply setPortOrder_accounts
          | apply readPortOrder_accounts | apply loadTariffOrder_accounts | apply latchAccountOrder_accounts
          | apply closeMatchOrder_accounts | apply setClockOrder_accounts)) <;> exact good

theorem completeEntry_accounts (cut : CutOff) {s : State} (good : accountsApart s) :
    accountsApart (completeEntry cut s) := by
  simp only [completeEntry]
  (repeat' split) <;>
    (repeat (with_reducible first | apply entryRead_accounts)) <;> exact good

theorem completeDispatched_accounts (cut : CutOff) {s : State} (good : accountsApart s) :
    accountsApart (completeDispatched cut s) := by
  simp only [completeDispatched]
  (repeat' split) <;>
    (repeat (with_reducible first
          | apply completeInFlight_accounts | apply ownerTakes_accounts | apply setGate_accounts)) <;> exact good

theorem completeSegment_accounts (cut : CutOff) {s : State} (good : accountsApart s) :
    accountsApart (completeSegment cut s) := by
  simp only [completeSegment]
  (repeat' split) <;>
    (repeat (with_reducible first | apply tariffSegmentRead_accounts)) <;> exact good

theorem completeOrder_accounts (cut : CutOff) {s : State} (good : accountsApart s) :
    accountsApart (completeOrder cut s) := by
  simp only [completeOrder]
  (repeat (with_reducible first
        | apply completeSegment_accounts | apply completeDispatched_accounts | apply completeEntry_accounts
        | apply setGate_accounts))
  exact good

theorem completeInside_accounts (cut : CutOff) {s : State} (good : accountsApart s) :
    accountsApart (completeInside cut s) := by
  simp only [completeInside]
  (repeat (with_reducible first
        | apply completeOrder_accounts | apply completeHolds_accounts | apply completeTick_accounts
        | apply completeAccesses_accounts))
  exact good

theorem softClear_accounts {s : State} (good : accountsApart s) : accountsApart (softClear s) := by
  exact accounts_congr good (by simp)

theorem latchLeave_accounts (from_ : RunState) {s : State} (good : accountsApart s) :
    accountsApart (latchLeave from_ s) := by
  exact accounts_congr good (by simp)

theorem softReset_accounts (cut : CutOff) {s : State} (good : accountsApart s) : accountsApart (softReset cut s) := by
  simp only [softReset]
  (repeat (with_reducible first
        | apply settlePage_accounts | apply latchLeave_accounts | apply softClear_accounts
        | apply completeInside_accounts | apply abandonPage_accounts))
  exact good

theorem hardReset_accounts (s : State) : accountsApart (hardReset s) := by
  refine ⟨fun i j hi => ?_, fun k => ?_⟩
  · simp [hardReset, State.hardReset, Account.hardReset] at hi
  · simp [hardReset, State.hardReset, Account.hardReset]

theorem resetRelease_accounts (instant : Nat) {s : State} (good : accountsApart s) :
    accountsApart (resetRelease instant s) := by
  simp only [resetRelease]
  split
  · exact good
  · exact accounts_congr (hardReset_accounts s) (by simp)

theorem areaWrite_accounts (high : Bool) (value : Word) {s : State} (good : accountsApart s) :
    accountsApart (areaWrite high value s) := by
  exact accounts_congr good (by simp)

theorem flagsWrite_accounts (value : Word) {s : State} (good : accountsApart s) :
    accountsApart (flagsWrite value s) := by
  exact accounts_congr good (by simp)

theorem ctrlCommand_accounts (command : BitVec 2) (cut : CutOff) {s : State} (good : accountsApart s) :
    accountsApart (ctrlCommand command cut s) := by
  simp only [ctrlCommand]
  (repeat' split) <;>
    (repeat (with_reducible first
          | apply startCommand_accounts | apply haltCommand_accounts | apply softReset_accounts)) <;> exact good

theorem ctrlWrite_accounts (value : Word) (cut : CutOff) {s : State} (good : accountsApart s) :
    accountsApart (ctrlWrite value cut s) := by
  simp only [ctrlWrite]
  (repeat' split) <;>
    (repeat (with_reducible first | apply ctrlCommand_accounts | apply modeWrite_accounts)) <;> exact good

theorem nextAlarmRegister_accounts (value : Word) {s : State} (good : accountsApart s) :
    accountsApart (nextAlarmRegister value s) := by
  exact accounts_congr good (by simp)

theorem registerWrite_accounts (r : Register) (enables : BitVec 4) (value : Word) (cut : CutOff) {s : State}
    (good : accountsApart s) : accountsApart (registerWrite r enables value cut s) := by
  simp only [registerWrite]
  (repeat' split) <;>
    (repeat (with_reducible first
          | apply ctrlWrite_accounts | apply areaWrite_accounts | apply orderEndWrite_accounts
          | apply flagsWrite_accounts | apply nextAlarmRegister_accounts)) <;> exact good

end Sys2Proof.Machine
end

