-- ==== Sys2Proof/Laws/Clock.lean ====
section
/-! SUPPORT. Every operation keeps the law of the network clock (R31 to R38). -/

namespace Sys2Proof.Machine

theorem clock_congr {s t : State} (h : clockLawful s) (e : t.clock = s.clock ∧ t.resetn = s.resetn) : clockLawful t := by
  simpa only [clockLawful, e.1, e.2] using h

theorem setSeverity_clock (i : Fin 51) (severity : Fin 4) {s : State} (good : clockLawful s) :
    clockLawful (setSeverity i severity s) := by
  exact clock_congr good (by simp)

theorem modeWrite_clock (mode : BitVec 2) (spotlight : BitVec 6) {s : State} (good : clockLawful s) :
    clockLawful (modeWrite mode spotlight s) := by
  exact clock_congr good (by simp)

theorem finishOrder_clock (outcome : OutcomeCode) (result : List Byte) {s : State} (good : clockLawful s) :
    clockLawful (finishOrder outcome result s) := by
  exact clock_congr good (by simp)

theorem orderEndWrite_clock (value : Word) {s : State} (good : clockLawful s) :
    clockLawful (orderEndWrite value s) := by
  exact clock_congr good (by simp)

theorem boundaryCounted_clock (minute swapAfter recheckAfter : Nat) {s : State} (good : clockLawful s) :
    clockLawful (boundaryCounted minute swapAfter recheckAfter s) := by
  exact clock_congr good (by simp)

theorem boundaryUncounted_clock (minute recheckAfter : Nat) {s : State} (good : clockLawful s) :
    clockLawful (boundaryUncounted minute recheckAfter s) := by
  exact clock_congr good (by simp)

theorem settlePage_clock {s : State} (good : clockLawful s) : clockLawful (settlePage s) := by
  exact clock_congr good (by simp)

theorem boundaryPage_clock (minute : BitVec 32) {s : State} (good : clockLawful s) :
    clockLawful (boundaryPage minute s) := by
  exact clock_congr good (by simp)

theorem secondPage_clock (ahead : Bool) {s : State} (good : clockLawful s) : clockLawful (secondPage ahead s) := by
  exact clock_congr good (by simp)

theorem abandonPage_clock (issued : Nat) {s : State} (good : clockLawful s) : clockLawful (abandonPage issued s) := by
  exact clock_congr good (by simp)

theorem ticksAhead_clock (early : TickOrder) {s : State} (good : clockLawful s) :
    clockLawful (ticksAhead early s) := by
  exact clock_congr good (by simp)

theorem handTick_clock (order : TickOrder) (e : EndedSecond) {s : State} (good : clockLawful s) :
    clockLawful (handTick order e s) := by
  exact clock_congr good (by simp)

theorem owedTick_clock (order : TickOrder) (ended : BitVec 32) {s : State} (good : clockLawful s) :
    clockLawful (owedTick order ended s) := by
  exact clock_congr good (by simp)

theorem setRollover_clock (r : Rollover) {s : State} (good : clockLawful s) : clockLawful (setRollover r s) := good

theorem setTime_clock (minute : BitVec 32) {second : Nat} (hs : second ≤ 59) {s : State} (good : clockLawful s) :
    clockLawful (setTime minute second s) := ⟨hs, good.2⟩

theorem rollTime_clock (minute : BitVec 32) (clockSet : Bool) {s : State} (good : clockLawful s) :
    clockLawful (rollTime minute clockSet s) := by
  simp only [rollTime]
  split
  · exact good
  · exact setTime_clock _ (by decide) good

theorem boundaryAfterTick_clock (minute : BitVec 32) (clockSet : Bool) (swapAfter recheckAfter : Nat) {s : State}
    (good : clockLawful s) : clockLawful (boundaryAfterTick minute clockSet swapAfter recheckAfter s) := by
  simp only [boundaryAfterTick]
  (repeat (with_reducible first
        | apply boundaryPage_clock | apply boundaryCounted_clock | apply rollTime_clock | apply setRollover_clock))
  exact good

theorem boundaryBeforeTick_clock (recheckAfter : Nat) {s : State} (good : clockLawful s) :
    clockLawful (boundaryBeforeTick recheckAfter s) :=
  boundaryUncounted_clock _ _ (setRollover_clock _ (setTime_clock _ (by decide) good))

theorem takeBoundary_clock (swapAfter recheckAfter : Nat) {s : State} (good : clockLawful s) :
    clockLawful (takeBoundary swapAfter recheckAfter s) := by
  simp only [takeBoundary]
  (repeat' split) <;>
    (repeat (with_reducible first | apply boundaryAfterTick_clock | apply boundaryBeforeTick_clock)) <;> exact good

theorem minuteBoundary_clock (early : TickOrder) (boundary : Bool) (swapAfter recheckAfter : Nat) {s : State}
    (good : clockLawful s) : clockLawful (minuteBoundary early boundary swapAfter recheckAfter s) := by
  simp only [minuteBoundary]
  (repeat' split) <;>
    (repeat (with_reducible first | apply ticksAhead_clock | apply takeBoundary_clock)) <;> exact good

theorem settleBoundary_clock {s : State} (good : clockLawful s) : clockLawful (settleBoundary s) := by
  simp only [settleBoundary]
  (repeat' split) <;>
    (repeat (with_reducible first | apply boundaryAfterTick_clock)) <;> exact good

theorem completeSecond_clock (ahead : Bool) {s : State} (good : clockLawful s) : clockLawful (completeSecond ahead s) := by
  simp only [completeSecond]
  split
  · rename_i hs
    exact secondPage_clock ahead (s := { s with clock := { s.clock with second := s.clock.second + 1 } }) ⟨hs, good.2⟩
  · exact good

theorem secondTick_clock (order : TickOrder) {s : State} (good : clockLawful s) :
    clockLawful (secondTick order s) := by
  simp only [secondTick]
  (repeat' split) <;>
    (repeat (with_reducible first
          | apply settleBoundary_clock | apply boundaryPage_clock | apply setRollover_clock | apply owedTick_clock
          | apply completeSecond_clock | apply handTick_clock)) <;> exact good

theorem referenceChanged_clock {s : State} (good : clockLawful s) : clockLawful (referenceChanged s) := by
  exact clock_congr good (by simp)

/-- The clock of a state may become a lawful one. -/
theorem changeReference_clock {c : Clock} {s : State} (hc : clockLawful { s with clock := c }) :
    clockLawful (changeReference c s) := referenceChanged_clock hc

theorem pulseFreeRun_clock (instant : Nat) (order : TickOrder) {s : State} (good : clockLawful s) :
    clockLawful (pulseFreeRun instant order s) := by
  simp only [pulseFreeRun]
  split
  · rename_i hc
    exact ⟨good.1, Nat.lt_succ_iff.1 hc, good.2.2⟩
  · refine secondTick_clock _ (changeReference_clock ⟨good.1, by simp [lockedClock], ?_, ?_, good.2.2.2.2⟩)
    · simp [lockedClock]
    · simp [lockedClock]

theorem secrefPulse_clock (instant : Nat) (order : TickOrder) {s : State} (good : clockLawful s) :
    clockLawful (secrefPulse instant order s) := by
  simp only [secrefPulse]
  split
  · rename_i hl
    exact secondTick_clock _ ⟨good.1, good.2.1, fun h => ⟨rfl, (good.2.2.1 hl).2⟩, good.2.2.2⟩
  · exact pulseFreeRun_clock _ _ good

theorem secrefTimeout_clock (order : TickOrder) {s : State} (good : clockLawful s) :
    clockLawful (secrefTimeout order s) := by
  simp only [secrefTimeout]
  split
  · rename_i hl
    refine secondTick_clock _ (changeReference_clock ⟨good.1, by simp [freeRunClock], by simp [freeRunClock], fun _ _ => ?_,
      good.2.2.2.2⟩)
    have := (good.2.2.1 hl).1
    simpa [freeRunClock] using this
  · exact good

theorem ownTick_clock (order : TickOrder) {s : State} (good : clockLawful s) : clockLawful (ownTick order s) := by
  simp only [ownTick]
  split
  · rename_i hf _
    exact secondTick_clock _ ⟨good.1, good.2.1, fun h => by simp [hf] at h, fun _ _ => rfl, good.2.2.2.2⟩
  all_goals exact good

theorem relockTimeout_clock {s : State} (good : clockLawful s) : clockLawful (relockTimeout s) := by
  simp only [relockTimeout]
  split
  · exact ⟨good.1, by simp, good.2.2⟩
  · exact good

theorem pulseSwitch_clock {s : State} (good : clockLawful s) : clockLawful (pulseSwitch s) := by
  exact clock_congr good (by simp)

theorem framerefPulse_clock (instant : Nat) {s : State} (good : clockLawful s) :
    clockLawful (framerefPulse instant s) := by
  have hc : clockLawful { s with clock := { s.clock with frameref := .present, lastFrame := some instant } } :=
    ⟨good.1, good.2.1, good.2.2.1, good.2.2.2.1, by simp⟩
  simp only [framerefPulse]
  split
  · exact pulseSwitch_clock hc
  · exact pulseSwitch_clock (changeReference_clock hc)

theorem framerefTimeout_clock {s : State} (good : clockLawful s) : clockLawful (framerefTimeout s) := by
  simp only [framerefTimeout]
  split
  · exact changeReference_clock ⟨good.1, good.2.1, good.2.2.1, good.2.2.2.1, by simp⟩
  · exact good

theorem bookOrder_clock (o : Order) {s : State} (good : clockLawful s) : clockLawful (bookOrder o s) := by
  exact clock_congr good (by simp)

theorem cancelOrder_clock (o : Order) {s : State} (good : clockLawful s) : clockLawful (cancelOrder o s) := by
  exact clock_congr good (by simp)

theorem extendOrder_clock (o : Order) {s : State} (good : clockLawful s) : clockLawful (extendOrder o s) := by
  exact clock_congr good (by simp)

theorem switchOrder_clock (o : Order) {s : State} (good : clockLawful s) : clockLawful (switchOrder o s) := by
  exact clock_congr good (by simp)

theorem setLegOrder_clock (o : Order) {s : State} (good : clockLawful s) : clockLawful (setLegOrder o s) := by
  exact clock_congr good (by simp)

theorem setPortOrder_clock (o : Order) {s : State} (good : clockLawful s) : clockLawful (setPortOrder o s) := by
  exact clock_congr good (by simp)

theorem readPortOrder_clock (o : Order) {s : State} (good : clockLawful s) : clockLawful (readPortOrder o s) := by
  exact clock_congr good (by simp)

theorem loadTariffOrder_clock (o : Order) {s : State} (good : clockLawful s) : clockLawful (loadTariffOrder o s) := by
  exact clock_congr good (by simp)

theorem latchAccountOrder_clock (o : Order) {s : State} (good : clockLawful s) :
    clockLawful (latchAccountOrder o s) := by
  exact clock_congr good (by simp)

theorem closeMatchOrder_clock (o : Order) {s : State} (good : clockLawful s) : clockLawful (closeMatchOrder o s) := by
  exact clock_congr good (by simp)

theorem setClockOrder_clock (o : Order) {s : State} (good : clockLawful s) : clockLawful (setClockOrder o s) := by
  simp only [setClockOrder]
  (repeat' split)
  · exact good
  · exact finishOrder_clock _ _ good
  · exact finishOrder_clock _ _ (setRollover_clock _ (setTime_clock _ (by decide) good))

theorem startCommand_clock {s : State} (good : clockLawful s) : clockLawful (startCommand s) := by
  exact clock_congr good (by simp)

theorem haltCommand_clock {s : State} (good : clockLawful s) : clockLawful (haltCommand s) := by
  exact clock_congr good (by simp)

theorem setGate_clock (g : Gate) {s : State} (good : clockLawful s) : clockLawful (setGate g s) := by
  exact clock_congr good (by simp)

theorem completeInFlight_clock (cut : CutOff) {s : State} (good : clockLawful s) :
    clockLawful (completeInFlight cut s) := by
  exact clock_congr good (by simp)

theorem completeAccesses_clock (cut : CutOff) {s : State} (good : clockLawful s) :
    clockLawful (completeAccesses cut s) := by
  exact clock_congr good (by simp)

theorem completeTick_clock (cut : CutOff) {s : State} (good : clockLawful s) : clockLawful (completeTick cut s) := by
  simp only [completeTick]
  (repeat' split) <;>
    (repeat (with_reducible first | apply setRollover_clock | apply owedTick_clock)) <;> exact good

theorem completeHolds_clock {s : State} (good : clockLawful s) : clockLawful (completeHolds s) := by
  exact clock_congr good (by simp)

theorem ownerTakes_clock (o : Order) {s : State} (good : clockLawful s) : clockLawful (ownerTakes o s) := by
  simp only [ownerTakes]
  (repeat' split) <;>
    (repeat (with_reducible first
          | apply bookOrder_clock | apply cancelOrder_clock | apply extendOrder_clock | apply switchOrder_clock
          | apply setLegOrder_clock | apply setPortOrder_clock | apply readPortOrder_clock
          | apply loadTariffOrder_clock | apply latchAccountOrder_clock | apply closeMatchOrder_clock
          | apply setClockOrder_clock)) <;> exact good

theorem completeEntry_clock (cut : CutOff) {s : State} (good : clockLawful s) :
    clockLawful (completeEntry cut s) := by
  exact clock_congr good (by simp)

theorem completeDispatched_clock (cut : CutOff) {s : State} (good : clockLawful s) :
    clockLawful (completeDispatched cut s) := by
  simp only [completeDispatched]
  (repeat' split) <;>
    (repeat (with_reducible first
          | apply completeInFlight_clock | apply ownerTakes_clock | apply setGate_clock)) <;> exact good

theorem completeSegment_clock (cut : CutOff) {s : State} (good : clockLawful s) :
    clockLawful (completeSegment cut s) := by
  exact clock_congr good (by simp)

theorem completeOrder_clock (cut : CutOff) {s : State} (good : clockLawful s) :
    clockLawful (completeOrder cut s) := by
  simp only [completeOrder]
  (repeat (with_reducible first
        | apply completeSegment_clock | apply completeDispatched_clock | apply completeEntry_clock
        | apply setGate_clock))
  exact good

theorem completeInside_clock (cut : CutOff) {s : State} (good : clockLawful s) :
    clockLawful (completeInside cut s) := by
  simp only [completeInside]
  (repeat (with_reducible first
        | apply completeOrder_clock | apply completeHolds_clock | apply completeTick_clock
        | apply completeAccesses_clock))
  exact good

theorem softClear_clock {s : State} (good : clockLawful s) : clockLawful (softClear s) := by
  exact clock_congr good (by simp)

theorem latchLeave_clock (from_ : RunState) {s : State} (good : clockLawful s) :
    clockLawful (latchLeave from_ s) := by
  exact clock_congr good (by simp)

theorem softReset_clock (cut : CutOff) {s : State} (good : clockLawful s) : clockLawful (softReset cut s) := by
  simp only [softReset]
  (repeat (with_reducible first
        | apply settlePage_clock | apply latchLeave_clock | apply softClear_clock | apply completeInside_clock
        | apply abandonPage_clock))
  exact good


theorem hardReset_clock (s : State) : clockLawful (hardReset s) := by
  simp [clockLawful, hardReset, State.hardReset, Clock.hardReset]

theorem resetRelease_clock (instant : Nat) {s : State} (good : clockLawful s) :
    clockLawful (resetRelease instant s) := by
  simp only [resetRelease]
  split
  · exact good
  · refine clock_congr (s := scheduleOwn instant { hardReset s with resetn := true }) ?_ (by simp)
    simp [clockLawful, scheduleOwn, hardReset, State.hardReset, Clock.hardReset]

theorem areaWrite_clock (high : Bool) (value : Word) {s : State} (good : clockLawful s) :
    clockLawful (areaWrite high value s) := by
  exact clock_congr good (by simp)

theorem flagsWrite_clock (value : Word) {s : State} (good : clockLawful s) : clockLawful (flagsWrite value s) := by
  exact clock_congr good (by simp)

theorem ctrlCommand_clock (command : BitVec 2) (cut : CutOff) {s : State} (good : clockLawful s) :
    clockLawful (ctrlCommand command cut s) := by
  simp only [ctrlCommand]
  (repeat' split) <;>
    (repeat (with_reducible first
          | apply startCommand_clock | apply haltCommand_clock | apply softReset_clock)) <;> exact good

theorem ctrlWrite_clock (value : Word) (cut : CutOff) {s : State} (good : clockLawful s) :
    clockLawful (ctrlWrite value cut s) := by
  simp only [ctrlWrite]
  (repeat' split) <;>
    (repeat (with_reducible first | apply ctrlCommand_clock | apply modeWrite_clock)) <;> exact good

theorem nextAlarmRegister_clock (value : Word) {s : State} (good : clockLawful s) :
    clockLawful (nextAlarmRegister value s) := by
  exact clock_congr good (by simp)

theorem registerWrite_clock (r : Register) (enables : BitVec 4) (value : Word) (cut : CutOff) {s : State}
    (good : clockLawful s) : clockLawful (registerWrite r enables value cut s) := by
  simp only [registerWrite]
  (repeat' split) <;>
    (repeat (with_reducible first
          | apply ctrlWrite_clock | apply areaWrite_clock | apply orderEndWrite_clock | apply flagsWrite_clock
          | apply nextAlarmRegister_clock)) <;> exact good

end Sys2Proof.Machine
end

