-- ==== Sys2Proof/Laws/Run.lean ====
section
/-! SUPPORT. Every operation keeps the law of the run state (R9, R12, R13, R15). -/

namespace Sys2Proof.Machine

/-- The parts of the state that the law of the run state speaks of. -/
def runView (s : State) :=
  (s.link.run, s.link.fatal, s.link.start, s.link.haltWaiting, s.link.page, s.orders.unit, s.tickets.inFlight,
    s.tickets.waiting, s.tickets.recheckIn)

/-- A state with the same link, orders and tickets is as lawful. -/
theorem run_congr {s t : State} (h : runLawful s) (e : t.link = s.link ∧ t.orders = s.orders ∧ t.tickets = s.tickets) :
    runLawful t := by
  obtain ⟨e1, e2, e3⟩ := e
  simpa only [runLawful, e1, e2, e3] using h

theorem record_run (op : LinkOp) {s : State} (good : runLawful s) : runLawful (record op s) := by
  simp only [record]
  exact good

theorem setFlags_run (f : BitVec 7) {s : State} (good : runLawful s) : runLawful (setFlags f s) := by
  simp only [setFlags]
  (repeat' split) <;>
    (repeat (with_reducible first | apply record_run)) <;> exact good

theorem latch_run (f : Flag) {s : State} (good : runLawful s) : runLawful (latch f s) := by
  simp only [latch]
  (repeat' split) <;>
    (repeat (with_reducible first | apply setFlags_run)) <;> exact good

theorem followAlarm_run {s : State} (good : runLawful s) : runLawful (followAlarm s) := by
  simp only [followAlarm]
  (repeat (with_reducible first | apply setFlags_run))
  exact good

theorem setAlarm_run (a : Alarm) {s : State} (good : runLawful s) : runLawful (setAlarm a s) := by
  simp only [setAlarm]
  (repeat (with_reducible first | apply followAlarm_run))
  exact good

theorem setSeverity_run (i : Fin 51) (severity : Fin 4) {s : State} (good : runLawful s) :
    runLawful (setSeverity i severity s) := by
  simp only [setSeverity]
  (repeat (with_reducible first | apply setAlarm_run))
  exact good

theorem nextAlarmWrite_run (ack push pop : Bool) (item : BitVec 6) {s : State} (good : runLawful s) :
    runLawful (nextAlarmWrite ack push pop item s) := by
  simp only [nextAlarmWrite]
  (repeat (with_reducible first | apply setAlarm_run))
  exact good

theorem modeWrite_run (mode : BitVec 2) (spotlight : BitVec 6) {s : State} (good : runLawful s) :
    runLawful (modeWrite mode spotlight s) := by
  simp only [modeWrite]
  (repeat (with_reducible first | apply setAlarm_run))
  exact good

theorem changeAccount_run (m : Nat) (f : Account → Account) {s : State} (good : runLawful s) :
    runLawful (changeAccount m f s) := by
  exact run_congr good (by simp)

theorem freeAccountSlot_run (k : Fin 128) {s : State} (good : runLawful s) : runLawful (freeAccountSlot k s) := by
  exact run_congr good (by simp)

theorem loseTicket_run (m : Option Nat) {s : State} (good : runLawful s) : runLawful (loseTicket m s) := by
  simp only [loseTicket]
  (repeat' split) <;>
    (repeat (with_reducible first | apply changeAccount_run | apply latch_run)) <;> exact good

theorem raiseNumber_run {s : State} (good : runLawful s) : runLawful (raiseNumber s) := by
  simp only [raiseNumber]
  exact good

theorem setSlot_run (n : Fin 1024) (b : Slot) {s : State} (good : runLawful s) : runLawful (setSlot n b s) := by
  exact run_congr good (by simp)

theorem takeClose_run (r : Raise) {s : State} (good : runLawful s) : runLawful (takeClose r s) := by
  simp only [takeClose]
  (repeat (with_reducible first | apply raiseNumber_run | apply changeAccount_run))
  exact good

theorem loseRaise_run (r : Raise) {s : State} (good : runLawful s) : runLawful (loseRaise r s) := by
  simp only [loseRaise]
  (repeat (with_reducible first | apply loseTicket_run))
  exact good

theorem endClose_run (r : Raise) {s : State} (good : runLawful s) : runLawful (endClose r s) := by
  exact run_congr good (by simp)

theorem closeInside_run (r : Raise) {s : State} (good : runLawful s) : runLawful (closeInside r s) := by
  simp only [closeInside]
  (repeat (with_reducible first | apply endClose_run | apply loseRaise_run | apply raiseNumber_run))
  exact good

/-- HELD may be entered when no START is in progress, no halt waits and no order is in flight. -/
theorem enterHeld_run {s : State} (good : runLawful s) (hs : s.link.start = .idle) (hw : s.link.haltWaiting = false)
    (hu : s.orders.unit = .idle) : runLawful (enterHeld s) := by
  refine latch_run _ ⟨fun hf => ⟨rfl, (good.1 hf).2⟩, fun h => absurd hs h, fun h => ?_, fun h => absurd hu h,
    fun o stage h => ?_, fun h => ?_⟩
  · simp [hw] at h
  · simp [hu] at h
  · simp at h

theorem dropAccess_run (a : Access) {s : State} (good : runLawful s) : runLawful (dropAccess a s) := by
  simp only [dropAccess]
  (repeat' split) <;>
    (repeat (with_reducible first
          | apply closeInside_run | apply endClose_run | apply loseRaise_run | apply freeAccountSlot_run
          | apply loseTicket_run)) <;> exact good

/-- A state with the same run view is as lawful. -/
theorem runView_congr {s t : State} (good : runLawful s) (e : runView t = runView s) : runLawful t := by
  simp only [runView, Prod.mk.injEq] at e
  obtain ⟨e1, e2, e3, e4, e5, e6, e7, e8, e9⟩ := e
  simpa only [runLawful, e1, e2, e3, e4, e5, e6, e7, e8, e9] using good

@[simp] theorem setFlags_view (f : BitVec 7) (s : State) : runView (setFlags f s) = runView s := by
  simp only [setFlags]; split <;> rfl
@[simp] theorem latch_view (f : Flag) (s : State) : runView (latch f s) = runView s := by
  simp only [latch]; split <;> simp
@[simp] theorem setAlarm_view (a : Alarm) (s : State) : runView (setAlarm a s) = runView s := by
  simp only [setAlarm, followAlarm, setFlags_view]; rfl
@[simp] theorem setSeverity_view (i : Fin 51) (v : Fin 4) (s : State) : runView (setSeverity i v s) = runView s :=
  setAlarm_view _ s
@[simp] theorem setAccount_view (k : Fin 128) (a : Account) (s : State) : runView (setAccount k a s) = runView s := rfl
@[simp] theorem setSlot_view (n : Fin 1024) (b : Slot) (s : State) : runView (setSlot n b s) = runView s := rfl
@[simp] theorem raiseNumber_view (s : State) : runView (raiseNumber s) = runView s := rfl
@[simp] theorem changeAccount_view (m : Nat) (f : Account → Account) (s : State) :
    runView (changeAccount m f s) = runView s := by
  simp only [changeAccount]
  split <;> rfl
@[simp] theorem loseTicket_view (m : Option Nat) (s : State) : runView (loseTicket m s) = runView s := by
  simp only [loseTicket, latch_view]
  split
  · rw [changeAccount_view]; rfl
  · rfl
@[simp] theorem takeClose_view (r : Raise) (s : State) : runView (takeClose r s) = runView s := by
  simp [takeClose]
@[simp] theorem loseRaise_view (r : Raise) (s : State) : runView (loseRaise r s) = runView s := by
  simp [loseRaise]
@[simp] theorem endClose_view (r : Raise) (s : State) : runView (endClose r s) = runView s := by
  simp [endClose]
@[simp] theorem closeInside_view (r : Raise) (s : State) : runView (closeInside r s) = runView s := by
  simp [closeInside]
@[simp] theorem dropAccess_view (a : Access) (s : State) : runView (dropAccess a s) = runView s := by
  simp only [dropAccess, freeAccountSlot]
  split <;> simp

/-- The run view of a state whose accesses have been dropped. -/
theorem dropAccesses_view (s : State) :
    runView (dropAccesses s) =
      (s.link.run, s.link.fatal, s.link.start, s.link.haltWaiting, s.link.page, s.orders.unit, none, [], none) := by
  simp only [dropAccesses]
  rw [foldl_keeps runView (fun t a => dropAccess_view a t)]
  rfl

/-- A state without the accesses and the re-check of a lawful one is lawful. -/
theorem noAccess_run {s t : State} (good : runLawful s)
    (e : runView t =
      (s.link.run, s.link.fatal, s.link.start, s.link.haltWaiting, s.link.page, s.orders.unit, none, [], none)) :
    runLawful t := by
  simp only [runView, Prod.mk.injEq] at e
  obtain ⟨e1, e2, e3, e4, e5, e6, e7, e8, e9⟩ := e
  obtain ⟨g1, g2, g3, g4, g5, g6⟩ := good
  simp only [runLawful, e1, e2, e3, e4, e5, e6, e7, e8, e9]
  exact ⟨fun h => ⟨(g1 h).1, (g1 h).2.1, trivial, trivial, trivial⟩, g2, g3, g4, g5,
    fun h => ⟨(g6 h).1, trivial, trivial, trivial⟩⟩

theorem dropAccesses_run {s : State} (good : runLawful s) : runLawful (dropAccesses s) :=
  noAccess_run good (dropAccesses_view s)

theorem enterHeld_view (s : State) :
    runView (enterHeld s) = (.held, s.link.fatal, s.link.start, s.link.haltWaiting, s.link.page, s.orders.unit,
      s.tickets.inFlight, s.tickets.waiting, s.tickets.recheckIn) := by
  simp only [enterHeld, latch_view]
  rfl

/-- R15: the run view after the first bus fault. -/
theorem takeBusFault_view {s : State} (h : s.link.fatal = .none) :
    runView (takeBusFault s) = (.held, .bus, .idle, false, none, stoppedUnit s.orders.unit, none, [], none) := by
  have hf : s.link.fatal ≠ .bus := by simp [h]
  simp only [takeBusFault, if_neg hf, dropAccesses_view]
  generalize hu : ({ s with link := faultedLink s.link, orders := { s.orders with unit := stoppedUnit s.orders.unit } } :
    State) = u
  have hv := setSeverity_view 50 3 u
  simp only [runView, Prod.mk.injEq] at hv
  obtain ⟨e1, e2, e3, e4, e5, e6, -, -, -⟩ := hv
  split
  · rename_i hr
    rw [e1, e2, e3, e4, e5, e6, ← hu]
    simp [faultedLink, hr]
  · have e := enterHeld_view (setSeverity 50 3 u)
    simp only [runView, Prod.mk.injEq] at e
    obtain ⟨f1, f2, f3, f4, f5, f6, -, -, -⟩ := e
    rw [f1, f2, f3, f4, f5, f6, e2, e3, e4, e5, e6, ← hu]
    simp [faultedLink]

theorem fatal_cases (s : State) : s.link.fatal = .bus ∨ s.link.fatal = .none := by
  cases s.link.fatal <;> simp

/-- R29: a stopped unit holds no order that goes on. -/
theorem stoppedUnit_stage {u : UnitState} {o : Order} {stage : Stage} (h : stoppedUnit u = .acting o stage) :
    stage = .stopped := by
  cases u <;> simp_all [stoppedUnit]

theorem takeBusFault_run {s : State} (good : runLawful s) : runLawful (takeBusFault s) := by
  rcases fatal_cases s with h | h
  · simpa only [takeBusFault, if_pos h] using good
  · have e := takeBusFault_view h
    simp only [runView, Prod.mk.injEq] at e
    obtain ⟨e1, e2, e3, e4, e5, e6, e7, e8, e9⟩ := e
    simp only [runLawful, e1, e2, e3, e4, e5, e6, e7, e8, e9]
    exact ⟨by simp, by simp, by simp, by simp, fun o stage hu => .inl (stoppedUnit_stage hu), by simp⟩

/-- Whether the order unit is IDLE, and with an order in flight it stays so. -/
theorem stoppedUnit_idle (u : UnitState) : stoppedUnit u = .idle ↔ u = .idle := by
  cases u <;> simp [stoppedUnit]

theorem takeBusFault_unit (s : State) : (takeBusFault s).orders.unit = .idle ↔ s.orders.unit = .idle := by
  rcases fatal_cases s with h | h
  · simp only [takeBusFault, if_pos h]
  · have e := congrArg (fun v => v.2.2.2.2.2.1) (takeBusFault_view h)
    simp only [runView] at e
    rw [e, stoppedUnit_idle]

theorem issue_unit (w : HostWrite) (s : State) : (issue w s).orders.unit = .idle ↔ s.orders.unit = .idle := by
  simp only [issue, sendWrite]
  (repeat' split) <;> first | exact takeBusFault_unit s | exact Iff.rfl

theorem issueAll_unit (ws : List HostWrite) (s : State) : (issueAll ws s).orders.unit = .idle ↔ s.orders.unit = .idle := by
  induction ws generalizing s with
  | nil => exact Iff.rfl
  | cons w ws ih => exact (ih (issue w s)).trans (issue_unit w s)

theorem sendWrite_run (w : HostWrite) {s : State} (good : runLawful s) : runLawful (sendWrite w s) := by
  simp only [sendWrite]
  (repeat' split) <;>
    (repeat (with_reducible first | apply record_run | apply takeBusFault_run)) <;> exact good

theorem issue_run (w : HostWrite) {s : State} (good : runLawful s) : runLawful (issue w s) := by
  simp only [issue]
  (repeat' split) <;>
    (repeat (with_reducible first | apply sendWrite_run)) <;> exact good

theorem issueAll_run (ws : List HostWrite) {s : State} (good : runLawful s) : runLawful (issueAll ws s) := by
  induction ws generalizing s with
  | nil => exact good
  | cons w ws ih => exact ih (issue_run w good)

theorem issueRead_run (address : Address) (length : Nat) {s : State} (good : runLawful s) :
    runLawful (issueRead address length s) := by
  simp only [issueRead]
  (repeat' split) <;>
    (repeat (with_reducible first | apply record_run)) <;> exact good

/-- The order unit may change its state where the law of its new state holds. -/
theorem setUnit_run (u : UnitState) {s : State} (good : runLawful s)
    (hu : u ≠ .idle → s.link.run = .running ∨ s.link.fatal = .bus) (hw : s.link.haltWaiting = true → u ≠ .idle)
    (hg : ∀ o stage, u = .acting o stage → stage = .stopped ∨ s.link.run = .running) : runLawful (setUnit u s) :=
  ⟨good.1, good.2.1, fun h => ⟨(good.2.2.1 h).1, hw h⟩, hu, hg, good.2.2.2.2.2⟩

/-- An order in flight goes on in another state. -/
theorem setUnit_busy (u : UnitState) {s : State} (good : runLawful s) (h : s.orders.unit ≠ .idle) (hu : u ≠ .idle)
    (hg : ∀ o stage, u = .acting o stage → stage = .stopped ∨ s.link.run = .running) : runLawful (setUnit u s) :=
  setUnit_run u good (fun _ => good.2.2.2.1 h) (fun _ => hu) hg

theorem takeEntry_run {s : State} (good : runLawful s) : runLawful (takeEntry s) := by
  simp only [takeEntry]
  split
  · rename_i h
    simp only [mayTake, Bool.and_eq_true, decide_eq_true_eq, Bool.not_eq_true'] at h
    have hr : (issueRead (areaAddress s (entryOffset s.orders.next)) 24 s).link.run = .running := by
      simp only [issueRead]; split <;> exact h.1.1.1
    exact setUnit_run _ (issueRead_run _ _ good) (fun _ => .inl hr) (fun _ => by simp) (by simp)
  · exact good

/-- R13, R25: with the order unit IDLE the halt that waits is completed, or the next entry is taken. -/
theorem afterOrder_run {s : State} (h1 : s.link.fatal = .none) (h2 : s.link.run = .running) (h3 : s.link.start = .idle)
    (h4 : s.orders.unit = .idle) : runLawful (afterOrder s) := by
  simp only [afterOrder]
  split
  · refine enterHeld_run ?_ h3 rfl h4
    simp [runLawful, h1, h2, h3, h4]
  · rename_i h
    refine takeEntry_run ?_
    simp_all [runLawful]

theorem orderDone_run (notify : Bool) {s : State} (h1 : s.link.fatal = .none) (h2 : s.link.run = .running)
    (h3 : s.link.start = .idle) : runLawful (orderDone notify s) := by
  have e := latch_view .order { s with orders := passEntry s.orders }
  simp only [runView, Prod.mk.injEq] at e
  obtain ⟨e1, e2, e3, -⟩ := e
  simp only [orderDone]
  split
  · exact afterOrder_run (by simpa [e2]) (by simpa [e1]) (by simpa [e3]) (by simp [passEntry])
  · exact afterOrder_run h1 h2 h3 rfl

theorem reads_of_link {s : State} (h : linkOpen s = true) : readsOpen s = true := by
  simp only [linkOpen, Bool.and_eq_true] at h
  exact h.1

theorem running_of {s : State} (good : runLawful s) (hu : s.orders.unit ≠ .idle) (ho : readsOpen s = true) :
    s.link.fatal = .none ∧ s.link.run = .running ∧ s.link.start = .idle := by
  simp only [readsOpen, decide_eq_true_eq] at ho
  obtain ⟨hf, hd⟩ := ho
  refine ⟨hf, ?_, ?_⟩
  · rcases good.2.2.2.1 hu with h | h
    · exact h
    · simp [hf] at h
  · by_contra hs
    exact hd (good.2.1 hs)

theorem report_run (notify : Bool) (outcome : OutcomeCode) (result : List Byte) {s : State} (good : runLawful s)
    (hu : s.orders.unit ≠ .idle) : runLawful (report notify outcome result s) := by
  have g1 : runLawful (setUnit .reporting s) := setUnit_busy _ good hu (by simp) (by simp)
  have g2 := issueAll_run (reportWrites s outcome result) g1
  have u2 : (issueAll (reportWrites s outcome result) (setUnit .reporting s)).orders.unit ≠ .idle :=
    fun h => absurd ((issueAll_unit _ _).1 h) (by simp [setUnit])
  simp only [report]
  split
  · exact g2
  · split
    · rename_i ho
      have g3 := issue_run (stateWrite (issueAll (reportWrites s outcome result) (setUnit .reporting s)) outcome) g2
      obtain ⟨h1, h2, h3⟩ := running_of g3 (fun h => u2 ((issue_unit _ _).1 h)) (reads_of_link ho)
      exact orderDone_run _ h1 h2 h3
    · exact issue_run _ g2

theorem finishOrder_run (outcome : OutcomeCode) (result : List Byte) {s : State} (good : runLawful s) :
    runLawful (finishOrder outcome result s) := by
  simp only [finishOrder]
  split <;> first | exact good | (rename_i h; exact report_run _ _ _ good (by simp [h]))

/-- The order in ACTING comes to a stage that may go on only in RUNNING. -/
theorem setStage_run (stage : Stage) {s : State} (good : runLawful s) (hg : stage = .stopped ∨ s.link.run = .running) :
    runLawful (setStage stage s) := by
  simp only [setStage]
  split
  · rename_i h
    refine setUnit_busy _ good (by simp [h]) (by simp) fun o g e => ?_
    simp only [UnitState.acting.injEq] at e
    exact e.2 ▸ hg
  all_goals exact good

theorem examineEntry_run (bytes : Vector Byte 24) {s : State} (good : runLawful s) (hu : s.orders.unit ≠ .idle)
    (hr : s.link.run = .running) : runLawful (examineEntry bytes s) := by
  simp only [examineEntry]
  split
  · exact report_run _ _ _ good hu
  · split
    · exact report_run _ _ _ good hu
    · exact setUnit_busy _ good hu (by simp) fun _ _ _ => .inr hr

theorem entryRead_run (bytes : Vector Byte 24) {s : State} (good : runLawful s) : runLawful (entryRead bytes s) := by
  simp only [entryRead]
  split
  · rename_i h
    have hu : s.orders.unit ≠ .idle := by simp [h.1]
    exact examineEntry_run _ good hu (running_of good hu h.2).2.1
  · exact good

theorem orderEndWrite_run (value : Word) {s : State} (good : runLawful s) : runLawful (orderEndWrite value s) := by
  simp only [orderEndWrite]
  (repeat (with_reducible first | apply takeEntry_run))
  exact good

/-- A read may be outstanding while the link is open. -/
theorem setInFlight_run (a : Option Access) {s : State} (good : runLawful s)
    (h : a = none ∨ (s.link.fatal = .none ∧ s.link.run ≠ .dormant)) : runLawful (setInFlight a s) := by
  obtain ⟨g1, g2, g3, g4, g5, g6⟩ := good
  rcases h with h | ⟨h1, h2⟩
  · subst h
    exact ⟨fun hf => ⟨(g1 hf).1, (g1 hf).2.1, rfl, (g1 hf).2.2.2⟩, g2, g3, g4, g5,
      fun hd => ⟨(g6 hd).1, rfl, (g6 hd).2.2⟩⟩
  · exact ⟨fun hf => by simp [setInFlight, h1] at hf, g2, g3, g4, g5, fun hd => absurd hd h2⟩

/-- A read may be outstanding where one is. -/
theorem open_of_inFlight {s : State} (good : runLawful s) (h : s.tickets.inFlight ≠ none) :
    s.link.fatal = .none ∧ s.link.run ≠ .dormant := by
  refine ⟨?_, fun hd => h (good.2.2.2.2.2 hd).2.1⟩
  rcases fatal_cases s with hf | hf
  · exact absurd (good.1 hf).2.2.1 h
  · exact hf

theorem unblockRing_run {s : State} (good : runLawful s) : runLawful (unblockRing s) := by
  simp only [unblockRing]
  (repeat' split) <;>
    (repeat (with_reducible first | apply setSeverity_run)) <;> exact good

theorem blockRing_run {s : State} (good : runLawful s) : runLawful (blockRing s) := by
  simp only [blockRing]
  (repeat' split) <;>
    (repeat (with_reducible first | apply setSeverity_run)) <;> exact good

theorem ticketWritten_run {s : State} (good : runLawful s) : runLawful (ticketWritten s) := by
  simp only [ticketWritten]
  (repeat (with_reducible first | apply unblockRing_run | apply latch_run))
  exact good

theorem recordClose_run (r : Raise) {s : State} (good : runLawful s) : runLawful (recordClose r s) := by
  simp only [recordClose]
  (repeat (with_reducible first | apply issueAll_run))
  exact good

theorem finishClose_run (r : Raise) (number : BitVec 32) {s : State} (good : runLawful s) :
    runLawful (finishClose r number s) := by
  simp only [finishClose]
  (repeat' split) <;>
    (repeat (with_reducible first | apply finishOrder_run | apply endClose_run)) <;> exact good

theorem lostClose_run (r : Raise) {s : State} (good : runLawful s) : runLawful (lostClose r s) := by
  simp only [lostClose]
  (repeat (with_reducible first | apply finishClose_run | apply recordClose_run))
  exact good

theorem issueRead_open (a : Address) (n : Nat) (s : State) :
    (issueRead a n s).link.fatal = s.link.fatal ∧ (issueRead a n s).link.run = s.link.run := by
  simp only [issueRead]; split <;> exact ⟨rfl, rfl⟩

/-- An access whose read goes out waits for it. -/
theorem await_run (a : Access) (address : Address) (n : Nat) {s : State} (good : runLawful s) (h : readsOpen s = true) :
    runLawful (setInFlight (some a) (issueRead address n s)) := by
  simp only [readsOpen, decide_eq_true_eq] at h
  have e := issueRead_open address n s
  exact setInFlight_run _ (issueRead_run _ _ good) (.inr ⟨e.1.trans h.1, fun hd => h.2 (e.2.symm.trans hd)⟩)

theorem beginAccess_run (a : Access) {s : State} (good : runLawful s) : runLawful (beginAccess a s) := by
  simp only [beginAccess]
  split
  · exact issue_run _ good
  · exact finishOrder_run _ _ good
  · split
    · rename_i h; exact await_run _ _ _ (raiseNumber_run good) (reads_of_link h)
    · exact lostClose_run _ (loseRaise_run _ (raiseNumber_run good))
  · split
    · rename_i h; exact await_run _ _ _ good h
    · exact setStage_run _ good (.inl rfl)
  · exact good
  · exact good
  · split
    · rename_i h
      simp only [Bool.and_eq_true] at h
      exact await_run _ _ _ good (reads_of_link h.2)
    · exact good
  · split
    · rename_i h; exact await_run _ _ _ good h
    · exact setStage_run _ good (.inl rfl)

theorem pump_run (accesses : List Access) {s : State} (good : runLawful s) : runLawful (pump accesses s) := by
  induction accesses generalizing s with
  | nil => exact good
  | cons a rest ih =>
    simp only [pump]
    split
    · rename_i h
      have ho := open_of_inFlight good (by simpa [Option.isSome_iff_ne_none] using h)
      obtain ⟨g1, g2, g3, g4, g5, g6⟩ := good
      exact ⟨fun hf => by simp [ho.1] at hf, g2, g3, g4, g5, fun hd => absurd hd ho.2⟩
    · exact ih (beginAccess_run a good)

theorem noneWaiting_run {s : State} (good : runLawful s) :
    runLawful { s with tickets := { s.tickets with waiting := [] } } := by
  obtain ⟨g1, g2, g3, g4, g5, g6⟩ := good
  exact ⟨fun hf => ⟨(g1 hf).1, (g1 hf).2.1, (g1 hf).2.2.1, rfl, (g1 hf).2.2.2.2⟩, g2, g3, g4, g5,
    fun hd => ⟨(g6 hd).1, (g6 hd).2.1, rfl, (g6 hd).2.2.2⟩⟩

theorem pumpWaiting_run {s : State} (good : runLawful s) : runLawful (pumpWaiting s) :=
  pump_run _ (noneWaiting_run good)

theorem submit_run (accesses : List Access) {s : State} (good : runLawful s) : runLawful (submit accesses s) := by
  simp only [submit, pumpWaiting]
  exact pump_run _ (noneWaiting_run (s := s) good)

theorem writeClose_run (r : Raise) {s : State} (good : runLawful s)
    (ho : s.link.fatal = .none ∧ s.link.run ≠ .dormant) : runLawful (writeClose r s) := by
  have g1 := issueAll_run (ticketWrites r.ticket s) (setInFlight_run (some (.closeWrite r)) good (.inr ho))
  simp only [writeClose]
  split
  · have g2 := recordClose_run r (ticketWritten_run g1)
    split
    · exact finishClose_run _ _ (setInFlight_run _ g2 (.inl rfl))
    · exact g2
  · exact g1

theorem raiseRead_run (r : Raise) (empty : Bool) {s : State} (good : runLawful s)
    (ho : s.link.fatal = .none ∧ s.link.run ≠ .dormant) : runLawful (raiseRead r empty s) := by
  have g1 := setInFlight_run none good (.inl rfl)
  simp only [raiseRead]
  split
  · exact writeClose_run r g1 ho
  · exact lostClose_run _ (blockRing_run (loseRaise_run _ g1))

theorem totalRead_run (k : Fin 128) (minute : Nat) (empty : Bool) {s : State} (good : runLawful s)
    (ho : s.link.fatal = .none ∧ s.link.run ≠ .dormant) : runLawful (totalRead k minute empty s) := by
  simp only [totalRead]
  split
  · have g1 := setInFlight_run (some (.totalWrite k)) (raiseNumber_run good) (.inr ho)
    have g2 := issueAll_run (ticketWrites (totalTicket s.accounts[k] minute)
      (setInFlight (some (.totalWrite k)) (raiseNumber s))) g1
    split
    · exact finishOrder_run _ _ (freeAccountSlot_run _ (ticketWritten_run (setInFlight_run _ g2 (.inl rfl))))
    · exact g2
  · exact finishOrder_run _ _ (setInFlight_run _ good (.inl rfl))

theorem ticketSlotRead_run (state : Byte) {s : State} (good : runLawful s) : runLawful (ticketSlotRead state s) := by
  simp only [ticketSlotRead]
  split
  · rename_i h; exact pumpWaiting_run (raiseRead_run _ _ good (open_of_inFlight good (by simp [h])))
  · rename_i h; exact pumpWaiting_run (totalRead_run _ _ _ good (open_of_inFlight good (by simp [h])))
  · split
    · exact pumpWaiting_run (unblockRing_run (setInFlight_run _ good (.inl rfl)))
    · exact pumpWaiting_run (setInFlight_run _ good (.inl rfl))
  all_goals exact good

theorem request_run (d : Fin 64) (target : Source) (cause : Cause) {s : State} (good : runLawful s) :
    runLawful (request d target cause s) := by
  exact run_congr good (by simp)

theorem applyProtection_run (n : Fin 1024) {s : State} (good : runLawful s) : runLawful (applyProtection n s) := by
  exact run_congr good (by simp)

theorem applyActivation_run (n : Fin 1024) {s : State} (good : runLawful s) : runLawful (applyActivation n s) := by
  exact run_congr good (by simp)

theorem protectPort_run (cond : Slot → Bool) (d : Fin 64) {s : State} (good : runLawful s) :
    runLawful (protectPort cond d s) := by
  exact run_congr good (by simp)

theorem protectHealth_run (p : Fin 48) {s : State} (good : runLawful s) : runLawful (protectHealth p s) := by
  exact run_congr good (by simp)

theorem deriveSources_run {s : State} (good : runLawful s) : runLawful (deriveSources s) := by
  simp only [deriveSources]
  (repeat (with_reducible first | apply setAlarm_run))
  exact good

theorem markPage_run {s : State} (good : runLawful s) : runLawful (markPage s) := by
  simp only [markPage]
  exact good

theorem handExecutions_run (ports :
    List (Fin 64)) {s : State} (good : runLawful s) : runLawful (handExecutions ports s) := by
  simp only [handExecutions]
  split
  · exact good
  · exact markPage_run (deriveSources_run (foldl_closed (fun t d ht => protectPort_run _ d ht) _ good))

theorem switchPoint_run (inside : Bool) {s : State} (good : runLawful s) : runLawful (switchPoint inside s) := by
  simp only [switchPoint]
  (repeat (with_reducible first | apply handExecutions_run))
  exact good

theorem tickRows_run {s : State} (good : runLawful s) : runLawful (tickRows s) := by
  exact run_congr good (by simp)

theorem crosspointTick_run {s : State} (good : runLawful s) : runLawful (crosspointTick s) := by
  simp only [crosspointTick]
  (repeat' split) <;>
    (repeat (with_reducible first | apply switchPoint_run | apply tickRows_run)) <;> exact good

theorem setMonitor_run (p : Fin 48) (m : Monitor) {s : State} (good : runLawful s) :
    runLawful (setMonitor p m s) := by
  exact run_congr good (by simp)

theorem healthChanged_run (p : Fin 48) {s : State} (good : runLawful s) : runLawful (healthChanged p s) := by
  simp only [healthChanged]
  (repeat (with_reducible first | apply markPage_run | apply deriveSources_run | apply protectHealth_run))
  exact good

theorem updateMonitor_run (p : Fin 48) (m : Monitor) {s : State} (good : runLawful s) :
    runLawful (updateMonitor p m s) := by
  simp only [updateMonitor]
  (repeat' split) <;>
    (repeat (with_reducible first | apply setMonitor_run | apply healthChanged_run)) <;> exact good

theorem monitorTick_run (p : Fin 48) {s : State} (good : runLawful s) : runLawful (monitorTick p s) := by
  simp only [monitorTick]
  (repeat' split) <;>
    (repeat (with_reducible first | apply setMonitor_run | apply updateMonitor_run)) <;> exact good

theorem takeTickEarly_run (p : Fin 48) {s : State} (good : runLawful s) : runLawful (takeTickEarly p s) := by
  simp only [takeTickEarly]
  (repeat (with_reducible first | apply updateMonitor_run))
  exact good

theorem holdOffReached_run (p : Fin 48) {s : State} (good : runLawful s) : runLawful (holdOffReached p s) := by
  simp only [holdOffReached]
  (repeat' split) <;>
    (repeat (with_reducible first | apply takeTickEarly_run)) <;> exact good

theorem restoreExpired_run (p : Fin 48) {s : State} (good : runLawful s) : runLawful (restoreExpired p s) := by
  simp only [restoreExpired]
  (repeat' split) <;>
    (repeat (with_reducible first | apply takeTickEarly_run)) <;> exact good

theorem receiverObservation_run (p : Fin 48) (seen : Observation) {s : State} (good : runLawful s) :
    runLawful (receiverObservation p seen s) := by
  simp only [receiverObservation]
  (repeat (with_reducible first | apply updateMonitor_run))
  exact good

theorem lossOfLight_run (p : Fin 48) {s : State} (good : runLawful s) : runLawful (lossOfLight p s) := by
  simp only [lossOfLight]
  (repeat (with_reducible first | apply updateMonitor_run))
  exact good

theorem countMeters_run (e : EndedSecond) {s : State} (good : runLawful s) : runLawful (countMeters e s) := by
  exact run_congr good (by simp)

theorem setMeter_run (n : Fin 1024) (m : Meter) {s : State} (good : runLawful s) : runLawful (setMeter n m s) := by
  exact run_congr good (by simp)

theorem takeTariffBoundary_run {s : State} (good : runLawful s) : runLawful (takeTariffBoundary s) := by
  exact run_congr good (by simp)

theorem leaveTimeline_run (n : Fin 1024) {s : State} (good : runLawful s) : runLawful (leaveTimeline n s) := by
  exact run_congr good (by simp)

theorem noRecheck_run {s : State} (good : runLawful s) :
    runLawful { s with tickets := { s.tickets with recheckIn := none } } := by
  obtain ⟨g1, g2, g3, g4, g5, g6⟩ := good
  exact ⟨fun hf => ⟨(g1 hf).1, (g1 hf).2.1, (g1 hf).2.2.1, (g1 hf).2.2.2.1, rfl⟩, g2, g3, g4, g5,
    fun hd => ⟨(g6 hd).1, (g6 hd).2.1, (g6 hd).2.2.1, rfl⟩⟩

theorem makeRecheck_run {s : State} (good : runLawful s) : runLawful (makeRecheck s) :=
  submit_run _ (noRecheck_run good)

/-- A re-check may be counted down where the part is neither DORMANT nor fatal. -/
theorem someRecheck_run (n : Nat) {s : State} (good : runLawful s) (ho : s.link.fatal = .none ∧ s.link.run ≠ .dormant) :
    runLawful { s with tickets := { s.tickets with recheckIn := some n } } := by
  obtain ⟨g1, g2, g3, g4, g5, g6⟩ := good
  exact ⟨fun hf => by simp [ho.1] at hf, g2, g3, g4, g5, fun hd => absurd hd ho.2⟩

theorem countRecheck_run {s : State} (good : runLawful s) : runLawful (countRecheck s) := by
  simp only [countRecheck]
  split
  · rename_i n h
    refine someRecheck_run _ good ⟨?_, fun hd => ?_⟩
    · rcases fatal_cases s with hf | hf
      · simp [(good.1 hf).2.2.2.2] at h
      · exact hf
    · simp [(good.2.2.2.2.2 hd).2.2.2] at h
  · exact makeRecheck_run good
  · exact good

theorem lastRecheck_run {s : State} (good : runLawful s) : runLawful (lastRecheck s) := by
  simp only [lastRecheck]
  (repeat' split) <;>
    (repeat (with_reducible first | apply makeRecheck_run)) <;> exact good

theorem settleClose_run (kind : TicketKind) (n : Fin 1024) (closeMinute : Nat) (forOrder : Bool) {s : State}
    (good : runLawful s) : runLawful (settleClose kind n closeMinute forOrder s) := by
  simp only [settleClose]
  (repeat (with_reducible first | apply submit_run | apply takeClose_run))
  exact good

theorem handToAlarms_run {s : State} (good : runLawful s) : runLawful (handToAlarms s) := by
  simp only [handToAlarms]
  (repeat (with_reducible first | apply deriveSources_run))
  exact good

theorem beginClose_run (n : Fin 1024) (minute : Nat) {s : State} (good : runLawful s) :
    runLawful (beginClose n minute s) := by
  simp only [beginClose]
  (repeat' split) <;>
    (repeat (with_reducible first
          | apply leaveTimeline_run | apply handToAlarms_run | apply request_run)) <;> exact good

theorem holdClose_run (n : Fin 1024) (minute : Nat) {s : State} (good : runLawful s) :
    runLawful (holdClose n minute s) := by
  exact run_congr good (by simp)

theorem closeOnAir_run (n : Fin 1024) (minute : Nat) (counted forOrder : Bool) {s : State} (good : runLawful s) :
    runLawful (closeOnAir n minute counted forOrder s) := by
  simp only [closeOnAir]
  (repeat' split) <;>
    (repeat (with_reducible first
          | apply beginClose_run | apply settleClose_run | apply holdClose_run)) <;> exact good

theorem closeMissed_run (n : Fin 1024) (minute : Nat) {s : State} (good : runLawful s) :
    runLawful (closeMissed n minute s) := by
  simp only [closeMissed]
  (repeat (with_reducible first | apply settleClose_run | apply leaveTimeline_run))
  exact good

theorem markOwned_run (d : Fin 64) {s : State} (good : runLawful s) : runLawful (markOwned d s) := by
  exact run_congr good (by simp)

theorem activate_run (n : Fin 1024) (minute : Nat) (first : Stamp) (band : Option Band) {s : State}
    (good : runLawful s) : runLawful (activate n minute first band s) := by
  simp only [activate]
  (repeat (with_reducible first
        | apply setSlot_run | apply setMeter_run | apply handToAlarms_run | apply markOwned_run
        | apply applyActivation_run | apply submit_run))
  exact good

theorem enterOverrun_run (n : Fin 1024) {s : State} (good : runLawful s) : runLawful (enterOverrun n s) := by
  simp only [enterOverrun]
  (repeat (with_reducible first | apply submit_run | apply setSlot_run))
  exact good

theorem boundaryClose_run (n : Fin 1024) (minute : Nat) (counted : Bool) {s : State} (good : runLawful s) :
    runLawful (boundaryClose n minute counted s) := by
  simp only [boundaryClose]
  (repeat' split) <;>
    (repeat (with_reducible first | apply closeOnAir_run | apply countRecheck_run)) <;> exact good

theorem boundaryHead_run (minute : Nat) (counted : Bool) (d : Fin 64) {s : State} (good : runLawful s) :
    runLawful (boundaryHead minute counted d s) := by
  simp only [boundaryHead]
  (repeat' split) <;>
    (repeat (with_reducible first | apply boundaryClose_run | apply enterOverrun_run)) <;> exact good

theorem boundaryStart_run (minute : Nat) (swapped : Bool) (d : Fin 64) {s : State} (good : runLawful s) :
    runLawful (boundaryStart minute swapped d s) := by
  simp only [boundaryStart]
  (repeat' split) <;>
    (repeat (with_reducible first | apply activate_run)) <;> exact good

theorem boundaryTimeline_run (minute : Nat) (counted swapped : Bool) (d : Fin 64) {s : State} (good : runLawful s) :
    runLawful (boundaryTimeline minute counted swapped d s) := by
  simp only [boundaryTimeline]
  (repeat (with_reducible first | apply boundaryStart_run | apply boundaryHead_run))
  exact good

theorem storeTimelines_run (taken : Bool) (minute : Nat) (counted swapped : Bool) (ports :
    List (Fin 64)) {s : State} (good : runLawful s) : runLawful (storeTimelines taken minute counted swapped ports s) := by
  simp only [storeTimelines]
  split
  · exact foldl_closed (fun t d ht => boundaryTimeline_run _ _ _ d ht) _ good
  · exact good

theorem openRecheck_run (recheckAfter : Nat) {s : State} (good : runLawful s) :
    runLawful (openRecheck recheckAfter s) := by
  simp only [openRecheck]
  split
  · rename_i h
    split
    · exact makeRecheck_run good
    · exact someRecheck_run _ good ⟨h.2, h.1⟩
  · exact good

theorem boundaryCounted_run (minute swapAfter recheckAfter : Nat) {s : State} (good : runLawful s) :
    runLawful (boundaryCounted minute swapAfter recheckAfter s) := by
  simp only [boundaryCounted]
  (repeat (with_reducible first
        | apply storeTimelines_run | apply openRecheck_run | apply lastRecheck_run | apply takeTariffBoundary_run))
  exact good

theorem boundaryUncounted_run (minute recheckAfter : Nat) {s : State} (good : runLawful s) :
    runLawful (boundaryUncounted minute recheckAfter s) := by
  simp only [boundaryUncounted]
  (repeat (with_reducible first | apply lastRecheck_run | apply storeTimelines_run | apply openRecheck_run))
  exact good

theorem catchUpCloses_run (members :
    List (Fin 1024)) {s : State} (good : runLawful s) : runLawful (catchUpCloses members s) := by
  induction members generalizing s with
  | nil => exact good
  | cons n rest ih =>
    simp only [catchUpCloses]
    (repeat' split) <;> 
      first
        | with_reducible exact good
        | with_reducible exact ih (closeOnAir_run _ _ _ _ good)
        | with_reducible exact ih (closeMissed_run _ _ good)

theorem catchUpStart_run (d : Fin 64) {s : State} (good : runLawful s) : runLawful (catchUpStart d s) := by
  simp only [catchUpStart]
  (repeat' split) <;>
    (repeat (with_reducible first | apply activate_run)) <;> exact good

theorem catchUpPhase_run (d : Fin 64) {s : State} (good : runLawful s) : runLawful (catchUpPhase d s) := by
  simp only [catchUpPhase]
  (repeat' split) <;>
    (repeat (with_reducible first | apply enterOverrun_run)) <;> exact good

theorem catchUpTimeline_run (d : Fin 64) {s : State} (good : runLawful s) : runLawful (catchUpTimeline d s) := by
  simp only [catchUpTimeline]
  (repeat (with_reducible first | apply catchUpPhase_run | apply catchUpStart_run | apply catchUpCloses_run))
  exact good

theorem catchUp_run {s : State} (good : runLawful s) : runLawful (catchUp s) := by
  exact foldl_closed (fun t d ht => catchUpTimeline_run d ht) _ good

/-- R12, R11: RUNNING is entered without a fatal code or a START in progress. -/
theorem enterRunning_run {s : State} (good : runLawful s) (hf : s.link.fatal = .none) (hs : s.link.start = .idle) :
    runLawful (enterRunning s) := by
  refine takeEntry_run (catchUp_run (latch_run _ ?_))
  obtain ⟨g1, g2, g3, g4, g5, g6⟩ := good
  exact ⟨fun h => by simp [hf] at h, fun h => absurd hs h, fun h => ⟨rfl, (g3 h).2⟩, fun _ => .inl rfl,
    fun _ _ _ => .inr rfl, fun h => by simp at h⟩

theorem releaseFirst_run {s : State} (good : runLawful s) : runLawful (releaseFirst s) := by
  simp only [releaseFirst]
  (repeat' split) <;>
    (repeat (with_reducible first
          | apply lastRecheck_run | apply countRecheck_run | apply settleClose_run)) <;> exact good

theorem nextMark_run {s : State} (good : runLawful s) : runLawful (nextMark s) := by
  simp only [nextMark]
  exact good

theorem beginPage_run (time : Stamp) {s : State} (good : runLawful s) (h : pagesOn s = true) :
    runLawful (beginPage time s) := by
  simp only [pagesOn, decide_eq_true_eq] at h
  obtain ⟨g1, g2, g3, g4, g5, g6⟩ := good
  exact ⟨fun hf => by simp [beginPage, h.2] at hf, g2, g3, g4, g5, fun hd => absurd hd h.1⟩

theorem pageTick_run (boundary : Bool) (time : Stamp) {s : State} (good : runLawful s) :
    runLawful (pageTick boundary time s) := by
  simp only [pageTick]
  refine nextMark_run ?_
  split
  · rename_i h
    simp only [Bool.and_eq_true] at h
    split
    · exact beginPage_run time good h.2
    · exact markPage_run good
  · exact good

theorem settlePage_run {s : State} (good : runLawful s) : runLawful (settlePage s) := by
  simp only [settlePage]
  exact takeOwed_holds (fun time _ => pageTick_run true time) _ good

theorem boundaryPage_run (minute : BitVec 32) {s : State} (good : runLawful s) :
    runLawful (boundaryPage minute s) := by
  simp only [boundaryPage]
  (repeat (with_reducible first | apply settlePage_run | apply pageTick_run))
  exact good

theorem secondPage_run (ahead : Bool) {s : State} (good : runLawful s) : runLawful (secondPage ahead s) := by
  simp only [secondPage]
  apply pageTick_run
  split
  · exact good
  · exact nextMark_run good

theorem endPage_run {s : State} (good : runLawful s) : runLawful (endPage s) := by
  obtain ⟨g1, g2, g3, g4, g5, g6⟩ := good
  exact ⟨fun hf => ⟨(g1 hf).1, rfl, (g1 hf).2.2⟩, g2, g3, g4, g5, fun hd => ⟨rfl, (g6 hd).2⟩⟩

theorem pageComplete_run {s : State} (good : runLawful s) : runLawful (pageComplete s) := by
  simp only [pageComplete]
  (repeat' split) <;>
    (repeat (with_reducible first | apply issueAll_run | apply latch_run | apply endPage_run)) <;> exact good

theorem crosspointBlock_run {s : State} (good : runLawful s) : runLawful (crosspointBlock s) := by
  simp only [crosspointBlock]
  (repeat' split) <;>
    (repeat (with_reducible first | apply crosspointTick_run)) <;> exact good

theorem blockTick_run (k : Fin 49) {s : State} (good : runLawful s) : runLawful (blockTick k s) := by
  simp only [blockTick]
  (repeat' split) <;>
    (repeat (with_reducible first | apply monitorTick_run | apply crosspointBlock_run)) <;> exact good

theorem blockAhead_run (k : Fin 49) {s : State} (good : runLawful s) : runLawful (blockAhead k s) := by
  simp only [blockAhead]
  split
  · split
    · exact good
    · exact takeTickEarly_run _ good
  · split
    · exact good
    · exact crosspointTick_run good

theorem ticksAhead_run (early : TickOrder) {s : State} (good : runLawful s) : runLawful (ticksAhead early s) := by
  exact foldl_closed (fun t k ht => blockAhead_run k ht) _ good

theorem blocksTick_run (order done :
    List (Fin 49)) {s : State} (good : runLawful s) : runLawful (blocksTick order done s) := by
  induction order generalizing s done with
  | nil => exact good
  | cons b rest ih =>
    simp only [blocksTick]
    split
    · exact ih _ good
    · exact ih _ (blockTick_run b good)

theorem handTick_run (order : TickOrder) (e : EndedSecond) {s : State} (good : runLawful s) :
    runLawful (handTick order e s) := by
  simp only [handTick]
  (repeat (with_reducible first | apply countMeters_run | apply blocksTick_run))
  exact good

theorem owedTick_run (order : TickOrder) (ended : BitVec 32) {s : State} (good : runLawful s) :
    runLawful (owedTick order ended s) := by
  simp only [owedTick]
  (repeat (with_reducible first | apply takeTariffBoundary_run | apply handTick_run))
  exact good

theorem setRollover_run (r : Rollover) {s : State} (good : runLawful s) : runLawful (setRollover r s) := by
  exact run_congr good (by simp)

theorem setTime_run (minute : BitVec 32) (second : Nat) {s : State} (good : runLawful s) :
    runLawful (setTime minute second s) := by
  exact run_congr good (by simp)

theorem rollTime_run (minute : BitVec 32) (clockSet : Bool) {s : State} (good : runLawful s) :
    runLawful (rollTime minute clockSet s) := by
  exact run_congr good (by simp)

theorem boundaryAfterTick_run (minute : BitVec 32) (clockSet : Bool) (swapAfter recheckAfter : Nat) {s : State}
    (good : runLawful s) : runLawful (boundaryAfterTick minute clockSet swapAfter recheckAfter s) := by
  simp only [boundaryAfterTick]
  (repeat (with_reducible first
        | apply boundaryPage_run | apply boundaryCounted_run | apply rollTime_run | apply setRollover_run))
  exact good

theorem boundaryBeforeTick_run (recheckAfter : Nat) {s : State} (good : runLawful s) :
    runLawful (boundaryBeforeTick recheckAfter s) := by
  simp only [boundaryBeforeTick]
  (repeat (with_reducible first | apply boundaryUncounted_run | apply setRollover_run | apply setTime_run))
  exact good

theorem takeBoundary_run (swapAfter recheckAfter : Nat) {s : State} (good : runLawful s) :
    runLawful (takeBoundary swapAfter recheckAfter s) := by
  simp only [takeBoundary]
  (repeat' split) <;>
    (repeat (with_reducible first | apply boundaryAfterTick_run | apply boundaryBeforeTick_run)) <;> exact good

theorem minuteBoundary_run (early : TickOrder) (boundary : Bool) (swapAfter recheckAfter : Nat) {s : State}
    (good : runLawful s) : runLawful (minuteBoundary early boundary swapAfter recheckAfter s) := by
  simp only [minuteBoundary]
  (repeat' split) <;>
    (repeat (with_reducible first | apply ticksAhead_run | apply takeBoundary_run)) <;> exact good

theorem settleBoundary_run {s : State} (good : runLawful s) : runLawful (settleBoundary s) := by
  simp only [settleBoundary]
  (repeat' split) <;>
    (repeat (with_reducible first | apply boundaryAfterTick_run)) <;> exact good

theorem completeSecond_run (ahead : Bool) {s : State} (good : runLawful s) : runLawful (completeSecond ahead s) := by
  simp only [completeSecond]
  (repeat' split) <;>
    (repeat (with_reducible first | apply secondPage_run | apply setRollover_run)) <;> exact good

theorem secondTick_run (order : TickOrder) {s : State} (good : runLawful s) : runLawful (secondTick order s) := by
  simp only [secondTick]
  (repeat' split) <;>
    (repeat (with_reducible first
          | apply settleBoundary_run | apply boundaryPage_run | apply setRollover_run | apply owedTick_run
          | apply completeSecond_run | apply handTick_run)) <;> exact good

theorem referenceChanged_run {s : State} (good : runLawful s) : runLawful (referenceChanged s) := by
  simp only [referenceChanged]
  (repeat (with_reducible first | apply setSeverity_run | apply latch_run))
  exact good

theorem changeReference_run (c : Clock) {s : State} (good : runLawful s) : runLawful (changeReference c s) := by
  simp only [changeReference]
  (repeat (with_reducible first | apply referenceChanged_run))
  exact good

theorem pulseFreeRun_run (instant : Nat) (order : TickOrder) {s : State} (good : runLawful s) :
    runLawful (pulseFreeRun instant order s) := by
  simp only [pulseFreeRun]
  (repeat' split) <;>
    (repeat (with_reducible first | apply secondTick_run | apply changeReference_run)) <;> exact good

theorem secrefPulse_run (instant : Nat) (order : TickOrder) {s : State} (good : runLawful s) :
    runLawful (secrefPulse instant order s) := by
  simp only [secrefPulse]
  (repeat' split) <;>
    (repeat (with_reducible first | apply secondTick_run | apply pulseFreeRun_run)) <;> exact good

theorem secrefTimeout_run (order : TickOrder) {s : State} (good : runLawful s) :
    runLawful (secrefTimeout order s) := by
  simp only [secrefTimeout]
  (repeat' split) <;>
    (repeat (with_reducible first | apply secondTick_run | apply changeReference_run)) <;> exact good

theorem ownTick_run (order : TickOrder) {s : State} (good : runLawful s) : runLawful (ownTick order s) := by
  simp only [ownTick]
  (repeat' split) <;>
    (repeat (with_reducible first | apply secondTick_run)) <;> exact good

theorem pulseSwitch_run {s : State} (good : runLawful s) : runLawful (pulseSwitch s) := by
  simp only [pulseSwitch]
  split <;> exact switchPoint_run _ good

theorem framerefPulse_run (instant : Nat) {s : State} (good : runLawful s) : runLawful (framerefPulse instant s) := by
  simp only [framerefPulse]
  (repeat' split) <;>
    (repeat (with_reducible first | apply pulseSwitch_run | apply changeReference_run)) <;> exact good

theorem framerefTimeout_run {s : State} (good : runLawful s) : runLawful (framerefTimeout s) := by
  simp only [framerefTimeout]
  (repeat' split) <;>
    (repeat (with_reducible first | apply changeReference_run)) <;> exact good

theorem bookOrder_run (o : Order) {s : State} (good : runLawful s) (hr : s.link.run = .running) :
    runLawful (bookOrder o s) := by
  simp only [bookOrder]
  (repeat' split) <;>
    first | exact good | exact finishOrder_run _ _ good | exact submit_run _ (setStage_run _ good (.inr hr))

theorem acceptBooking_run (n : Fin 1024) (b : Slot) {s : State} (good : runLawful s) :
    runLawful (acceptBooking n b s) := by
  exact run_congr good (by simp)

theorem bookFromRecord_run (n : Fin 1024) (r : BookRecord) {s : State} (good : runLawful s) :
    runLawful (bookFromRecord n r s) := by
  simp only [bookFromRecord]
  (repeat' split) <;>
    (repeat (with_reducible first | apply submit_run | apply acceptBooking_run)) <;> exact good

theorem bookRecordRead_run (bytes : Vector Byte 20) {s : State} (good : runLawful s) :
    runLawful (bookRecordRead bytes s) := by
  simp only [bookRecordRead]
  split
  · exact bookFromRecord_run _ _ (setInFlight_run _ good (.inl rfl))
  all_goals exact good

theorem cancelAccepted_run (n : Fin 1024) {s : State} (good : runLawful s) : runLawful (cancelAccepted n s) := by
  simp only [cancelAccepted]
  (repeat' split) <;>
    (repeat (with_reducible first
          | apply leaveTimeline_run | apply settleClose_run | apply setMeter_run)) <;> exact good

theorem cancelOrder_run (o : Order) {s : State} (good : runLawful s) (hr : s.link.run = .running) :
    runLawful (cancelOrder o s) := by
  simp only [cancelOrder]
  (repeat' split) <;>
    with_reducible first
      | exact good
      | exact finishOrder_run _ _ good
      | exact cancelAccepted_run _ (setStage_run _ good (.inr hr))
      | exact closeOnAir_run _ _ _ _ (setStage_run _ good (.inr hr))

theorem grantExtension_run (n : Fin 1024) (minutes : Nat) {s : State} (good : runLawful s)
    (hr : s.link.run = .running) : runLawful (grantExtension n minutes s) := by
  simp only [grantExtension]
  split
  · exact finishOrder_run _ _ good
  · exact submit_run _ (setSlot_run _ _ (setStage_run _ good (.inr hr)))

theorem extendOrder_run (o : Order) {s : State} (good : runLawful s) (hr : s.link.run = .running) :
    runLawful (extendOrder o s) := by
  simp only [extendOrder]
  (repeat' split) <;> first | exact good | exact finishOrder_run _ _ good | exact grantExtension_run _ _ good hr

theorem lodgeSwitch_run (d : Fin 64) (target : Source) {s : State} (good : runLawful s) :
    runLawful (lodgeSwitch d target s) := by
  simp only [lodgeSwitch]
  (repeat (with_reducible first | apply finishOrder_run | apply request_run))
  exact good

theorem switchOrder_run (o : Order) {s : State} (good : runLawful s) : runLawful (switchOrder o s) := by
  simp only [switchOrder]
  (repeat' split) <;>
    (repeat (with_reducible first | apply finishOrder_run | apply lodgeSwitch_run)) <;> exact good

theorem storeLegMode_run (n : Fin 1024) (mode : LegMode) {s : State} (good : runLawful s) :
    runLawful (storeLegMode n mode s) := by
  simp only [storeLegMode]
  (repeat' split) <;>
    (repeat (with_reducible first
          | apply setSlot_run | apply finishOrder_run | apply applyProtection_run)) <;> exact good

theorem setLegOrder_run (o : Order) {s : State} (good : runLawful s) : runLawful (setLegOrder o s) := by
  simp only [setLegOrder]
  (repeat' split) <;>
    (repeat (with_reducible first | apply finishOrder_run | apply storeLegMode_run)) <;> exact good

theorem applySetPort_run (p : Fin 48) (o : Order) {s : State} (good : runLawful s) :
    runLawful (applySetPort p o s) := by
  simp only [applySetPort]
  (repeat' split) <;>
    (repeat (with_reducible first | apply finishOrder_run | apply updateMonitor_run)) <;> exact good

theorem setPortOrder_run (o : Order) {s : State} (good : runLawful s) : runLawful (setPortOrder o s) := by
  simp only [setPortOrder]
  (repeat' split) <;>
    (repeat (with_reducible first | apply finishOrder_run | apply applySetPort_run)) <;> exact good

theorem readPortOrder_run (o : Order) {s : State} (good : runLawful s) : runLawful (readPortOrder o s) := by
  simp only [readPortOrder]
  (repeat' split) <;>
    (repeat (with_reducible first | apply finishOrder_run | apply setMonitor_run)) <;> exact good

theorem readSegment_run (address : Address) {s : State} (good : runLawful s) (hr : s.link.run = .running) :
    runLawful (readSegment address s) := by
  simp only [readSegment]
  split
  · exact setStage_run _ (issueRead_run _ _ good) (.inr ((issueRead_open _ _ s).2.trans hr))
  · exact setStage_run _ good (.inl rfl)

theorem loadTariffOrder_run (o : Order) {s : State} (good : runLawful s) (hr : s.link.run = .running) :
    runLawful (loadTariffOrder o s) := by
  simp only [loadTariffOrder]
  (repeat' split) <;> first | exact finishOrder_run _ _ good | exact readSegment_run _ good hr

theorem stageTariff_run (t : Tariff) {s : State} (good : runLawful s) : runLawful (stageTariff t s) := by
  exact run_congr good (by simp)

theorem segmentTaken_run (bytes : Vector Byte 240) {s : State} (good : runLawful s) :
    runLawful (segmentTaken bytes s) := by
  simp only [segmentTaken]
  (repeat' split) <;>
    (repeat (with_reducible first | apply finishOrder_run | apply stageTariff_run)) <;> exact good

theorem tariffSegmentRead_run (bytes : Vector Byte 240) {s : State} (good : runLawful s) :
    runLawful (tariffSegmentRead bytes s) := by
  simp only [tariffSegmentRead]
  (repeat' split) <;>
    (repeat (with_reducible first | apply segmentTaken_run)) <;> exact good

theorem latchAccountOrder_run (o : Order) {s : State} (good : runLawful s) : runLawful (latchAccountOrder o s) := by
  simp only [latchAccountOrder]
  (repeat' split) <;>
    (repeat (with_reducible first | apply finishOrder_run)) <;> exact good

theorem closeMatchOrder_run (o : Order) {s : State} (good : runLawful s) (hr : s.link.run = .running) :
    runLawful (closeMatchOrder o s) := by
  simp only [closeMatchOrder]
  (repeat' split) <;>
    first | exact good | exact finishOrder_run _ _ good | exact submit_run _ (setStage_run _ good (.inr hr))

theorem setClockOrder_run (o : Order) {s : State} (good : runLawful s) : runLawful (setClockOrder o s) := by
  simp only [setClockOrder]
  (repeat' split) <;>
    (repeat (with_reducible first | apply finishOrder_run | apply setRollover_run | apply setTime_run)) <;> exact good

theorem setStart_idle {c : StartCode} {s : State} (good : runLawful s) : runLawful (setStart .idle c s) :=
  ⟨good.1, fun h => absurd rfl h, good.2.2⟩

/-- START is in progress only in DORMANT (R10, R11). -/
theorem setStart_run (p : StartPhase) (c : StartCode) {s : State} (good : runLawful s)
    (h : p ≠ .idle → s.link.run = .dormant) : runLawful (setStart p c s) :=
  ⟨good.1, h, good.2.2⟩

theorem takeHeader_run (h : Header) {s : State} (good : runLawful s) (hd : s.link.run = .dormant) :
    runLawful (takeHeader h s) := by
  obtain ⟨g1, g2, g3⟩ := good
  exact ⟨g1, fun _ => hd, g3⟩

theorem headerTaken_run (h : Header) {s : State} (good : runLawful s) (hd : s.link.run = .dormant) :
    runLawful (headerTaken h s) := by
  simp only [headerTaken]
  split
  · exact setStart_idle good
  · exact sendWrite_run _ (takeHeader_run h good hd)

theorem headerReadComplete_run (bytes : Vector Byte 80) {s : State} (good : runLawful s) :
    runLawful (headerReadComplete bytes s) := by
  simp only [headerReadComplete]
  split
  · rename_i h; exact headerTaken_run _ good (good.2.1 (by simp [h.1]))
  · exact good

theorem identityWriteComplete_run {s : State} (good : runLawful s) : runLawful (identityWriteComplete s) := by
  simp only [identityWriteComplete]
  split
  · rename_i h
    have hf := h.2
    simp only [startOpen, Bool.and_eq_true, decide_eq_true_eq] at hf
    exact enterRunning_run (setStart_idle good) hf.1.2 rfl
  · exact good

theorem startCommand_run {s : State} (good : runLawful s) : runLawful (startCommand s) := by
  simp only [startCommand]
  split
  · rename_i hd
    simp only [startDormant]
    split
    · exact good
    · split
      · exact setStart_idle good
      · exact record_run _ (setStart_run _ _ good fun _ => hd)
  · rename_i hd
    have hs : s.link.start = .idle := by
      by_contra h
      simp [good.2.1 h] at hd
    simp only [startHeld, hs]
    split
    · rename_i hf; exact enterRunning_run (setStart_idle good) hf rfl
    · exact setStart_idle good
  · simp only [startRunning]
    split
    · refine takeEntry_run ?_
      obtain ⟨g1, g2, g3, g4⟩ := good
      exact ⟨g1, g2, fun h => by simp [setHaltWaiting] at h, g4⟩
    · exact good

theorem haltCommand_run {s : State} (good : runLawful s) : runLawful (haltCommand s) := by
  simp only [haltCommand]
  split
  · rename_i hr
    have hs : s.link.start = .idle := by
      by_contra h
      simp [good.2.1 h] at hr
    split
    · rename_i hu
      refine enterHeld_run good hs ?_ hu
      by_contra h
      exact (good.2.2.1 (by simpa using h)).2 hu
    · rename_i hu
      obtain ⟨g1, g2, g3, g4⟩ := good
      exact ⟨g1, g2, fun _ => ⟨hr, hu⟩, g4⟩
  all_goals exact good

theorem busFaultAt_run (after : Nat) {s : State} (good : runLawful s) : runLawful (busFaultAt after s) := by
  simp only [busFaultAt]
  (repeat' split) <;>
    (repeat (with_reducible first | apply takeBusFault_run)) <;> exact good

theorem clearFloor_run {s : State} (good : runLawful s) : runLawful (clearFloor s) := by
  simp only [clearFloor]
  exact setAlarm_run _ good

theorem scheduleOwn_run (instant : Nat) {s : State} (good : runLawful s) : runLawful (scheduleOwn instant s) := by
  exact run_congr good (by simp)

theorem hardReset_run (s : State) : runLawful (hardReset s) := by
  simp [runLawful, hardReset, State.hardReset, Link.hardReset, OrderUnit.hardReset, Tickets.hardReset]

theorem resetRelease_run (instant : Nat) {s : State} (good : runLawful s) : runLawful (resetRelease instant s) := by
  simp only [resetRelease]
  split
  · exact good
  · exact setSeverity_run _ _ (hardReset_run s)

theorem flagsRead_run (enables : BitVec 4) {s : State} (good : runLawful s) : runLawful (flagsRead enables s) := by
  simp only [flagsRead]
  (repeat' split) <;>
    (repeat (with_reducible first | apply setFlags_run)) <;> exact good

theorem areaWrite_run (high : Bool) (value : Word) {s : State} (good : runLawful s) :
    runLawful (areaWrite high value s) := by
  simp only [areaWrite]
  (repeat' split) <;> exact good

theorem flagsWrite_run (value : Word) {s : State} (good : runLawful s) : runLawful (flagsWrite value s) := by
  simp only [flagsWrite]
  (repeat (with_reducible first | apply setFlags_run))
  exact good

theorem nextAlarmRegister_run (value : Word) {s : State} (good : runLawful s) :
    runLawful (nextAlarmRegister value s) := by
  simp only [nextAlarmRegister]
  (repeat (with_reducible first | apply nextAlarmWrite_run))
  exact good


end Sys2Proof.Machine
end

