-- ==== Sys2Proof/Laws/Fault.lean ====
section
/-! SUPPORT. What a run of writes does when a fault has been announced for one of them, said once (R15, log 11). -/

namespace Sys2Proof.Machine

/-- A bus fault does not depend on the announcement that brought it. -/
theorem takeBusFault_open {s : State} (h : s.link.fatal = .none) :
    takeBusFault { s with link := { s.link with gate := .open } } = takeBusFault s := by
  simp only [takeBusFault, h]
  rfl

/-- R15: after a bus fault the link is closed, and no access is under way or waits. -/
theorem takeBusFault_closed {s : State} (h : s.link.fatal = .none) :
    linkOpen (takeBusFault s) = false ∧ (takeBusFault s).tickets.inFlight = none ∧ (takeBusFault s).tickets.waiting = [] ∧
      (takeBusFault s).link.page = none := by
  have e := takeBusFault_view h
  simp only [runView, Prod.mk.injEq] at e
  exact ⟨by simp [linkOpen, readsOpen, e.2.1], e.2.2.2.2.2.2.1, e.2.2.2.2.2.2.2.1, e.2.2.2.2.1⟩

/-- Nothing is issued while the link is closed. -/
theorem issueAll_closed (ws : List HostWrite) {s : State} (h : linkOpen s = false) : issueAll ws s = s := by
  induction ws with
  | nil => rfl
  | cons w rest ih =>
    have e : issue w s = s := by simp [issue, h]
    simpa [issueAll, e] using ih

/-- A write ahead of the one that a fault has been announced for goes out. -/
theorem issue_ahead (w : HostWrite) {n : Nat} {s : State} (h : linkOpen s = true) (g : s.link.gate = .faultAfter (n + 1)) :
    issue w s = { s with link := { s.link with
      gate := .faultAfter n
      log := s.link.log ++ [.write w] } } := by
  simp only [issue, h, if_true, sendWrite, g]
  rfl

/-- R15: of a run of writes those ahead of the announced fault go out, and the fault is taken at its write. -/
theorem issueAll_cut (ws : List HostWrite) {n : Nat} {s : State} (h : linkOpen s = true)
    (g : s.link.gate = .faultAfter n) :
    (n < ws.length → issueAll ws s = takeBusFault (cutAt n ws s)) ∧
    (ws.length ≤ n → issueAll ws s = { s with link := { s.link with
      gate := .faultAfter (n - ws.length)
      log := s.link.log ++ ws.map .write } }) := by
  have hf : s.link.fatal = .none := by simp [linkOpen, readsOpen] at h; exact h.1.1
  induction ws generalizing n s with
  | nil =>
    refine ⟨fun x => by simp at x, fun _ => ?_⟩
    simp only [issueAll, List.foldl_nil, List.length_nil, Nat.sub_zero, List.map_nil, List.append_nil, ← g]
  | cons w rest ih =>
    match n with
    | 0 =>
      refine ⟨fun _ => ?_, fun x => by simp at x⟩
      have e : issue w s = takeBusFault s := by simp only [issue, h, if_true, sendWrite, g]
      have e2 : issueAll (w :: rest) s = issueAll rest (issue w s) := rfl
      rw [e2, e, issueAll_closed rest (takeBusFault_closed hf).1, ← takeBusFault_open hf]
      simp [cutAt]
    | m + 1 =>
      have e2 : issueAll (w :: rest) s = issueAll rest (issue w s) := rfl
      obtain ⟨a, b⟩ := ih (n := m) (s := { s with link := { s.link with
        gate := .faultAfter m
        log := s.link.log ++ [.write w] } }) (by simpa [linkOpen, readsOpen, writesDropped, g] using h) rfl hf
      rw [e2, issue_ahead w h g]
      refine ⟨fun x => ?_, fun x => ?_⟩
      · rw [a (by simpa using x)]
        simp [cutAt]
      · rw [b (by simpa using x)]
        simp

end Sys2Proof.Machine
end

