-- ==== Sys2Proof/Laws/Items.lean ====
section
/-! SUPPORT. Every operation keeps the severities of the system items (R39, R120). -/

namespace Sys2Proof.Machine

theorem items_congr {s t : State} (h : systemItemsFollow s)
    (e : t.resetn = s.resetn ∧ t.link = s.link ∧ t.alarm = s.alarm ∧ t.clock = s.clock ∧ t.tickets = s.tickets) :
    systemItemsFollow t := by
  obtain ⟨e1, e2, e3, e4, e5⟩ := e
  simpa only [systemItemsFollow, e1, e2, e3, e4, e5] using h

theorem record_items (op : LinkOp) {s : State} (good : systemItemsFollow s) : systemItemsFollow (record op s) := good

theorem setFlags_items (f : BitVec 7) {s : State} (good : systemItemsFollow s) :
    systemItemsFollow (setFlags f s) := by
  simp only [setFlags]
  split <;> exact good

theorem latch_items (f : Flag) {s : State} (good : systemItemsFollow s) : systemItemsFollow (latch f s) := by
  simp only [latch]
  (repeat' split) <;>
    (repeat (with_reducible first | apply setFlags_items)) <;> exact good

theorem followAlarm_items {s : State} (good : systemItemsFollow s) : systemItemsFollow (followAlarm s) := by
  simp only [followAlarm]
  (repeat (with_reducible first | apply setFlags_items))
  exact good

/-- An alarm state with the same severities of the system items may be stored. -/
theorem setAlarm_items {a : Alarm} {s : State}
    (ha : ∀ i : Fin 51, 48 ≤ i.val → a.items[i].severity = s.alarm.items[i].severity) (good : systemItemsFollow s) :
    systemItemsFollow (setAlarm a s) := by
  refine followAlarm_items (s := { s with alarm := a }) fun h => ?_
  obtain ⟨h1, h2, h3⟩ := good h
  exact ⟨(ha 48 (by decide)).trans h1, (ha 49 (by decide)).trans h2, (ha 50 (by decide)).trans h3⟩

/-- The severity of one item becomes the one given, and those of the other items stay. -/
theorem setSeverity_severity (i j : Fin 51) (severity : Fin 4) (s : State) :
    (setSeverity i severity s).alarm.items[j].severity = if i = j then severity else s.alarm.items[j].severity := by
  by_cases h : i = j
  · subst h; simp [setSeverity, setAlarm, itemAt]
  · simp [setSeverity, setAlarm, h, Fin.val_inj]

theorem setFlags_fatal (f : BitVec 7) (s : State) : (setFlags f s).link.fatal = s.link.fatal := by
  simp only [setFlags]
  split <;> rfl

theorem setSeverity_fatal (i : Fin 51) (severity : Fin 4) (s : State) :
    (setSeverity i severity s).link.fatal = s.link.fatal := setFlags_fatal _ _

/-- The law but for one item, which the severity then brings to its value. -/
theorem setSeverity_items (i : Fin 51) (severity : Fin 4) {s : State}
    (h : s.resetn = true →
      (if i = 48 then severity else s.alarm.items[48].severity) = clockSeverity s.clock ∧
      (if i = 49 then severity else s.alarm.items[49].severity) = (if s.tickets.blocked then 2 else 0) ∧
      (if i = 50 then severity else s.alarm.items[50].severity) = (if s.link.fatal = .bus then 3 else 0)) :
    systemItemsFollow (setSeverity i severity s) := by
  intro hr
  have e := fun j => setSeverity_severity i j severity s
  have hr' : s.resetn = true := by simpa using hr
  obtain ⟨h1, h2, h3⟩ := h hr'
  refine ⟨(e 48).trans ?_, (e 49).trans ?_, (e 50).trans ?_⟩
  · simpa using h1
  · simpa using h2
  · simpa [setSeverity_fatal] using h3

theorem nextAlarmWritten_severity (ack push pop : Bool) (item : BitVec 6) (a : Alarm) (j : Fin 51) :
    (nextAlarmWritten ack push pop item a).items[j].severity = a.items[j].severity := by
  have ha : (acknowledged ack push item a).items[j].severity = a.items[j].severity := by
    obtain e | ⟨i, e⟩ := acknowledged_cases ack push item a
    · rw [e]
    · rw [e]
      by_cases h : i = j
      · subst h; simp [ackItem]
      · simp [ackItem, Fin.val_inj, h]
  cases pop <;> exact ha

theorem nextAlarmWrite_items (ack push pop : Bool) (item : BitVec 6) {s : State} (good : systemItemsFollow s) :
    systemItemsFollow (nextAlarmWrite ack push pop item s) :=
  setAlarm_items (fun j _ => nextAlarmWritten_severity ack push pop item s.alarm j) good

theorem modeWrite_items (mode : BitVec 2) (spotlight : BitVec 6) {s : State} (good : systemItemsFollow s) :
    systemItemsFollow (modeWrite mode spotlight s) :=
  setAlarm_items (fun j _ => by simp [modeWritten]) good

theorem changeAccount_items (m : Nat) (f : Account → Account) {s : State} (good : systemItemsFollow s) :
    systemItemsFollow (changeAccount m f s) := by
  exact items_congr good (by simp)

theorem freeAccountSlot_items (k : Fin 128) {s : State} (good : systemItemsFollow s) :
    systemItemsFollow (freeAccountSlot k s) := by
  exact items_congr good (by simp)

theorem loseTicket_items (m : Option Nat) {s : State} (good : systemItemsFollow s) :
    systemItemsFollow (loseTicket m s) := by
  simp only [loseTicket]
  (repeat' split) <;>
    (repeat (with_reducible first | apply changeAccount_items | apply latch_items)) <;> exact good

theorem raiseNumber_items {s : State} (good : systemItemsFollow s) : systemItemsFollow (raiseNumber s) := by
  simp only [raiseNumber]
  exact good

theorem setSlot_items (n : Fin 1024) (b : Slot) {s : State} (good : systemItemsFollow s) :
    systemItemsFollow (setSlot n b s) := by
  exact items_congr good (by simp)

theorem takeClose_items (r : Raise) {s : State} (good : systemItemsFollow s) : systemItemsFollow (takeClose r s) := by
  simp only [takeClose]
  (repeat (with_reducible first | apply raiseNumber_items | apply changeAccount_items))
  exact good

theorem loseRaise_items (r : Raise) {s : State} (good : systemItemsFollow s) : systemItemsFollow (loseRaise r s) := by
  simp only [loseRaise]
  (repeat (with_reducible first | apply loseTicket_items))
  exact good

theorem endClose_items (r : Raise) {s : State} (good : systemItemsFollow s) : systemItemsFollow (endClose r s) := by
  exact items_congr good (by simp)

theorem closeInside_items (r : Raise) {s : State} (good : systemItemsFollow s) :
    systemItemsFollow (closeInside r s) := by
  simp only [closeInside]
  (repeat (with_reducible first | apply endClose_items | apply loseRaise_items | apply raiseNumber_items))
  exact good

theorem enterHeld_items {s : State} (good : systemItemsFollow s) : systemItemsFollow (enterHeld s) := by
  simp only [enterHeld]
  (repeat (with_reducible first | apply latch_items))
  exact good

theorem dropAccess_items (a : Access) {s : State} (good : systemItemsFollow s) :
    systemItemsFollow (dropAccess a s) := by
  simp only [dropAccess]
  (repeat' split) <;>
    (repeat (with_reducible first
          | apply closeInside_items | apply endClose_items | apply loseRaise_items | apply freeAccountSlot_items
          | apply loseTicket_items)) <;> exact good

theorem clearAccesses_items {s : State} (good : systemItemsFollow s) : systemItemsFollow (clearAccesses s) := by
  simp only [clearAccesses]
  exact good

theorem dropAccesses_items {s : State} (good : systemItemsFollow s) : systemItemsFollow (dropAccesses s) := by
  exact foldl_closed (fun t a ht => dropAccess_items a ht) _ (clearAccesses_items good)

theorem takeBusFault_items {s : State} (good : systemItemsFollow s) : systemItemsFollow (takeBusFault s) := by
  simp only [takeBusFault]
  split
  · exact good
  · have h5 : systemItemsFollow (setSeverity 50 3
        { s with
          link := faultedLink s.link
          orders := { s.orders with unit := stoppedUnit s.orders.unit } }) := by
      refine setSeverity_items _ _ fun h => ?_
      obtain ⟨h1, h2, _⟩ := good h
      exact ⟨by simpa using h1, by simpa using h2, by simp [faultedLink]⟩
    refine dropAccesses_items ?_
    split
    · exact h5
    · exact enterHeld_items h5

theorem sendWrite_items (w : HostWrite) {s : State} (good : systemItemsFollow s) :
    systemItemsFollow (sendWrite w s) := by
  simp only [sendWrite]
  (repeat' split) <;>
    (repeat (with_reducible first | apply record_items | apply takeBusFault_items)) <;> exact good

theorem issue_items (w : HostWrite) {s : State} (good : systemItemsFollow s) : systemItemsFollow (issue w s) := by
  simp only [issue]
  (repeat' split) <;>
    (repeat (with_reducible first | apply sendWrite_items)) <;> exact good

theorem issueAll_items (ws : List HostWrite) {s : State} (good : systemItemsFollow s) :
    systemItemsFollow (issueAll ws s) := by
  induction ws generalizing s with
  | nil => exact good
  | cons w ws ih => exact ih (issue_items w good)

theorem issueRead_items (address : Address) (length : Nat) {s : State} (good : systemItemsFollow s) :
    systemItemsFollow (issueRead address length s) := by
  simp only [issueRead]
  (repeat' split) <;>
    (repeat (with_reducible first | apply record_items)) <;> exact good

theorem setUnit_items (u : UnitState) {s : State} (good : systemItemsFollow s) : systemItemsFollow (setUnit u s) := by
  exact items_congr good (by simp)

theorem takeEntry_items {s : State} (good : systemItemsFollow s) : systemItemsFollow (takeEntry s) := by
  simp only [takeEntry]
  (repeat' split) <;>
    (repeat (with_reducible first | apply setUnit_items | apply issueRead_items)) <;> exact good

theorem afterOrder_items {s : State} (good : systemItemsFollow s) : systemItemsFollow (afterOrder s) := by
  simp only [afterOrder]
  (repeat' split) <;>
    (repeat (with_reducible first | apply enterHeld_items | apply takeEntry_items)) <;> exact good

theorem orderDone_items (notify : Bool) {s : State} (good : systemItemsFollow s) :
    systemItemsFollow (orderDone notify s) := by
  simp only [orderDone]
  (repeat' split) <;>
    (repeat (with_reducible first | apply afterOrder_items | apply latch_items)) <;> exact good

theorem report_items (notify : Bool) (outcome : OutcomeCode) (result : List Byte) {s : State}
    (good : systemItemsFollow s) : systemItemsFollow (report notify outcome result s) := by
  simp only [report]
  (repeat' split) <;>
    (repeat (with_reducible first
          | apply issueAll_items | apply setUnit_items | apply issue_items | apply orderDone_items)) <;> exact good

theorem finishOrder_items (outcome : OutcomeCode) (result : List Byte) {s : State} (good : systemItemsFollow s) :
    systemItemsFollow (finishOrder outcome result s) := by
  simp only [finishOrder]
  (repeat' split) <;>
    (repeat (with_reducible first | apply report_items)) <;> exact good

theorem setStage_items (stage : Stage) {s : State} (good : systemItemsFollow s) :
    systemItemsFollow (setStage stage s) := by
  exact items_congr good (by simp)

theorem examineEntry_items (bytes : Vector Byte 24) {s : State} (good : systemItemsFollow s) :
    systemItemsFollow (examineEntry bytes s) := by
  simp only [examineEntry]
  (repeat' split) <;>
    (repeat (with_reducible first | apply report_items | apply setUnit_items)) <;> exact good

theorem entryRead_items (bytes : Vector Byte 24) {s : State} (good : systemItemsFollow s) :
    systemItemsFollow (entryRead bytes s) := by
  simp only [entryRead]
  (repeat' split) <;>
    (repeat (with_reducible first | apply examineEntry_items)) <;> exact good

theorem orderEndWrite_items (value : Word) {s : State} (good : systemItemsFollow s) :
    systemItemsFollow (orderEndWrite value s) := by
  simp only [orderEndWrite]
  (repeat (with_reducible first | apply takeEntry_items))
  exact good

theorem setInFlight_items (a : Option Access) {s : State} (good : systemItemsFollow s) :
    systemItemsFollow (setInFlight a s) := by
  simp only [setInFlight]
  exact good

theorem unblockRing_items {s : State} (good : systemItemsFollow s) : systemItemsFollow (unblockRing s) := by
  simp only [unblockRing]
  split
  · refine setSeverity_items _ _ fun h => ?_
    obtain ⟨h1, _, h3⟩ := good h
    exact ⟨by simpa using h1, by simp, by simpa using h3⟩
  · exact good

theorem blockRing_items {s : State} (good : systemItemsFollow s) : systemItemsFollow (blockRing s) := by
  simp only [blockRing]
  split
  · exact good
  · refine setSeverity_items _ _ fun h => ?_
    obtain ⟨h1, _, h3⟩ := good h
    exact ⟨by simpa using h1, by simp, by simpa using h3⟩

theorem ticketWritten_items {s : State} (good : systemItemsFollow s) : systemItemsFollow (ticketWritten s) := by
  simp only [ticketWritten]
  (repeat (with_reducible first | apply unblockRing_items | apply latch_items))
  exact good

theorem recordClose_items (r : Raise) {s : State} (good : systemItemsFollow s) :
    systemItemsFollow (recordClose r s) := by
  simp only [recordClose]
  (repeat (with_reducible first | apply issueAll_items))
  exact good

theorem finishClose_items (r : Raise) (number : BitVec 32) {s : State} (good : systemItemsFollow s) :
    systemItemsFollow (finishClose r number s) := by
  simp only [finishClose]
  (repeat' split) <;>
    (repeat (with_reducible first | apply finishOrder_items | apply endClose_items)) <;> exact good

theorem lostClose_items (r : Raise) {s : State} (good : systemItemsFollow s) : systemItemsFollow (lostClose r s) := by
  simp only [lostClose]
  (repeat (with_reducible first | apply finishClose_items | apply recordClose_items))
  exact good

theorem beginAccess_items (a : Access) {s : State} (good : systemItemsFollow s) :
    systemItemsFollow (beginAccess a s) := by
  simp only [beginAccess]
  (repeat' split) <;>
    (repeat (with_reducible first
          | apply issue_items | apply finishOrder_items | apply setInFlight_items | apply issueRead_items
          | apply lostClose_items | apply loseRaise_items | apply raiseNumber_items
          | apply setStage_items)) <;> exact good

theorem pump_items (accesses : List Access) {s : State} (good : systemItemsFollow s) :
    systemItemsFollow (pump accesses s) := by
  induction accesses generalizing s with
  | nil => exact good
  | cons a rest ih =>
    simp only [pump]
    split
    · exact good
    · exact ih (beginAccess_items a good)

theorem pumpWaiting_items {s : State} (good : systemItemsFollow s) : systemItemsFollow (pumpWaiting s) := by
  simp only [pumpWaiting]
  (repeat (with_reducible first | apply pump_items))
  exact good

theorem submit_items (accesses : List Access) {s : State} (good : systemItemsFollow s) :
    systemItemsFollow (submit accesses s) := by
  simp only [submit]
  (repeat (with_reducible first | apply pumpWaiting_items))
  exact good

theorem writeClose_items (r : Raise) {s : State} (good : systemItemsFollow s) :
    systemItemsFollow (writeClose r s) := by
  simp only [writeClose]
  (repeat' split) <;>
    (repeat (with_reducible first
          | apply issueAll_items | apply setInFlight_items | apply recordClose_items | apply ticketWritten_items
          | apply finishClose_items)) <;> exact good

theorem raiseRead_items (r : Raise) (empty : Bool) {s : State} (good : systemItemsFollow s) :
    systemItemsFollow (raiseRead r empty s) := by
  simp only [raiseRead]
  (repeat' split) <;>
    (repeat (with_reducible first
          | apply setInFlight_items | apply writeClose_items | apply lostClose_items
          | apply blockRing_items | apply loseRaise_items)) <;> exact good

theorem totalRead_items (k : Fin 128) (minute : Nat) (empty : Bool) {s : State} (good : systemItemsFollow s) :
    systemItemsFollow (totalRead k minute empty s) := by
  simp only [totalRead]
  (repeat' split) <;>
    (repeat (with_reducible first
          | apply setInFlight_items | apply raiseNumber_items | apply issueAll_items | apply finishOrder_items
          | apply freeAccountSlot_items | apply ticketWritten_items)) <;> exact good

theorem ticketSlotRead_items (state : Byte) {s : State} (good : systemItemsFollow s) :
    systemItemsFollow (ticketSlotRead state s) := by
  simp only [ticketSlotRead]
  (repeat' split) <;>
    (repeat (with_reducible first
          | apply pumpWaiting_items | apply raiseRead_items | apply totalRead_items | apply unblockRing_items
          | apply setInFlight_items)) <;> exact good

theorem request_items (d : Fin 64) (target : Source) (cause : Cause) {s : State} (good : systemItemsFollow s) :
    systemItemsFollow (request d target cause s) := by
  exact items_congr good (by simp)

theorem applyProtection_items (n : Fin 1024) {s : State} (good : systemItemsFollow s) :
    systemItemsFollow (applyProtection n s) := by
  exact items_congr good (by simp)

theorem applyActivation_items (n : Fin 1024) {s : State} (good : systemItemsFollow s) :
    systemItemsFollow (applyActivation n s) := by
  exact items_congr good (by simp)

theorem protectPort_items (cond : Slot → Bool) (d : Fin 64) {s : State} (good : systemItemsFollow s) :
    systemItemsFollow (protectPort cond d s) := by
  exact items_congr good (by simp)

theorem protectHealth_items (p : Fin 48) {s : State} (good : systemItemsFollow s) :
    systemItemsFollow (protectHealth p s) := by
  exact items_congr good (by simp)

theorem deriveSources_items {s : State} (good : systemItemsFollow s) : systemItemsFollow (deriveSources s) := by
  refine setAlarm_items (fun j hj => ?_) good
  simp [derivedItems, Nat.not_lt.2 hj]

theorem markPage_items {s : State} (good : systemItemsFollow s) : systemItemsFollow (markPage s) := by
  simp only [markPage]
  exact good

theorem handExecutions_items (ports :
    List (Fin 64)) {s : State} (good : systemItemsFollow s) : systemItemsFollow (handExecutions ports s) := by
  simp only [handExecutions]
  split
  · exact good
  · exact markPage_items (deriveSources_items (foldl_closed (fun t d ht => protectPort_items _ d ht) _ good))

theorem switchPoint_items (inside : Bool) {s : State} (good : systemItemsFollow s) :
    systemItemsFollow (switchPoint inside s) := by
  simp only [switchPoint]
  (repeat (with_reducible first | apply handExecutions_items))
  exact good

theorem tickRows_items {s : State} (good : systemItemsFollow s) : systemItemsFollow (tickRows s) := by
  exact items_congr good (by simp)

theorem crosspointTick_items {s : State} (good : systemItemsFollow s) : systemItemsFollow (crosspointTick s) := by
  simp only [crosspointTick]
  (repeat' split) <;>
    (repeat (with_reducible first | apply switchPoint_items | apply tickRows_items)) <;> exact good

theorem setMonitor_items (p : Fin 48) (m : Monitor) {s : State} (good : systemItemsFollow s) :
    systemItemsFollow (setMonitor p m s) := by
  exact items_congr good (by simp)

theorem healthChanged_items (p : Fin 48) {s : State} (good : systemItemsFollow s) :
    systemItemsFollow (healthChanged p s) := by
  simp only [healthChanged]
  (repeat (with_reducible first | apply markPage_items | apply deriveSources_items | apply protectHealth_items))
  exact good

theorem updateMonitor_items (p : Fin 48) (m : Monitor) {s : State} (good : systemItemsFollow s) :
    systemItemsFollow (updateMonitor p m s) := by
  simp only [updateMonitor]
  (repeat' split) <;>
    (repeat (with_reducible first | apply setMonitor_items | apply healthChanged_items)) <;> exact good

theorem monitorTick_items (p : Fin 48) {s : State} (good : systemItemsFollow s) :
    systemItemsFollow (monitorTick p s) := by
  simp only [monitorTick]
  (repeat' split) <;>
    (repeat (with_reducible first | apply setMonitor_items | apply updateMonitor_items)) <;> exact good

theorem takeTickEarly_items (p : Fin 48) {s : State} (good : systemItemsFollow s) :
    systemItemsFollow (takeTickEarly p s) := by
  simp only [takeTickEarly]
  (repeat (with_reducible first | apply updateMonitor_items))
  exact good

theorem holdOffReached_items (p : Fin 48) {s : State} (good : systemItemsFollow s) :
    systemItemsFollow (holdOffReached p s) := by
  simp only [holdOffReached]
  (repeat' split) <;>
    (repeat (with_reducible first | apply takeTickEarly_items)) <;> exact good

theorem restoreExpired_items (p : Fin 48) {s : State} (good : systemItemsFollow s) :
    systemItemsFollow (restoreExpired p s) := by
  simp only [restoreExpired]
  (repeat' split) <;>
    (repeat (with_reducible first | apply takeTickEarly_items)) <;> exact good

theorem receiverObservation_items (p : Fin 48) (seen : Observation) {s : State} (good : systemItemsFollow s) :
    systemItemsFollow (receiverObservation p seen s) := by
  simp only [receiverObservation]
  (repeat (with_reducible first | apply updateMonitor_items))
  exact good

theorem lossOfLight_items (p : Fin 48) {s : State} (good : systemItemsFollow s) :
    systemItemsFollow (lossOfLight p s) := by
  simp only [lossOfLight]
  (repeat (with_reducible first | apply updateMonitor_items))
  exact good

theorem countMeters_items (e : EndedSecond) {s : State} (good : systemItemsFollow s) :
    systemItemsFollow (countMeters e s) := by
  exact items_congr good (by simp)

theorem setMeter_items (n : Fin 1024) (m : Meter) {s : State} (good : systemItemsFollow s) :
    systemItemsFollow (setMeter n m s) := by
  exact items_congr good (by simp)

theorem takeTariffBoundary_items {s : State} (good : systemItemsFollow s) :
    systemItemsFollow (takeTariffBoundary s) := by
  exact items_congr good (by simp)

theorem leaveTimeline_items (n : Fin 1024) {s : State} (good : systemItemsFollow s) :
    systemItemsFollow (leaveTimeline n s) := by
  exact items_congr good (by simp)

theorem makeRecheck_items {s : State} (good : systemItemsFollow s) : systemItemsFollow (makeRecheck s) := by
  simp only [makeRecheck]
  (repeat (with_reducible first | apply submit_items))
  exact good

theorem countRecheck_items {s : State} (good : systemItemsFollow s) : systemItemsFollow (countRecheck s) := by
  simp only [countRecheck]
  (repeat' split) <;>
    (repeat (with_reducible first | apply makeRecheck_items)) <;> exact good

theorem lastRecheck_items {s : State} (good : systemItemsFollow s) : systemItemsFollow (lastRecheck s) := by
  simp only [lastRecheck]
  (repeat' split) <;>
    (repeat (with_reducible first | apply makeRecheck_items)) <;> exact good

theorem settleClose_items (kind : TicketKind) (n : Fin 1024) (closeMinute : Nat) (forOrder : Bool) {s : State}
    (good : systemItemsFollow s) : systemItemsFollow (settleClose kind n closeMinute forOrder s) := by
  simp only [settleClose]
  (repeat (with_reducible first | apply submit_items | apply takeClose_items))
  exact good

theorem handToAlarms_items {s : State} (good : systemItemsFollow s) : systemItemsFollow (handToAlarms s) := by
  simp only [handToAlarms]
  (repeat (with_reducible first | apply deriveSources_items))
  exact good

theorem beginClose_items (n : Fin 1024) (minute : Nat) {s : State} (good : systemItemsFollow s) :
    systemItemsFollow (beginClose n minute s) := by
  simp only [beginClose]
  (repeat' split) <;>
    (repeat (with_reducible first
          | apply leaveTimeline_items | apply handToAlarms_items | apply request_items)) <;> exact good

theorem holdClose_items (n : Fin 1024) (minute : Nat) {s : State} (good : systemItemsFollow s) :
    systemItemsFollow (holdClose n minute s) := by
  exact items_congr good (by simp)

theorem closeOnAir_items (n : Fin 1024) (minute : Nat) (counted forOrder : Bool) {s : State}
    (good : systemItemsFollow s) : systemItemsFollow (closeOnAir n minute counted forOrder s) := by
  simp only [closeOnAir]
  (repeat' split) <;>
    (repeat (with_reducible first
          | apply beginClose_items | apply settleClose_items | apply holdClose_items)) <;> exact good

theorem closeMissed_items (n : Fin 1024) (minute : Nat) {s : State} (good : systemItemsFollow s) :
    systemItemsFollow (closeMissed n minute s) := by
  simp only [closeMissed]
  (repeat (with_reducible first | apply settleClose_items | apply leaveTimeline_items))
  exact good

theorem markOwned_items (d : Fin 64) {s : State} (good : systemItemsFollow s) :
    systemItemsFollow (markOwned d s) := by
  exact items_congr good (by simp)

theorem activate_items (n : Fin 1024) (minute : Nat) (first : Stamp) (band : Option Band) {s : State}
    (good : systemItemsFollow s) : systemItemsFollow (activate n minute first band s) := by
  simp only [activate]
  (repeat (with_reducible first
        | apply setSlot_items | apply setMeter_items | apply handToAlarms_items | apply markOwned_items
        | apply applyActivation_items | apply submit_items))
  exact good

theorem enterOverrun_items (n : Fin 1024) {s : State} (good : systemItemsFollow s) :
    systemItemsFollow (enterOverrun n s) := by
  simp only [enterOverrun]
  (repeat (with_reducible first | apply submit_items | apply setSlot_items))
  exact good

theorem boundaryClose_items (n : Fin 1024) (minute : Nat) (counted : Bool) {s : State} (good : systemItemsFollow s) :
    systemItemsFollow (boundaryClose n minute counted s) := by
  simp only [boundaryClose]
  (repeat' split) <;>
    (repeat (with_reducible first | apply closeOnAir_items | apply countRecheck_items)) <;> exact good

theorem boundaryHead_items (minute : Nat) (counted : Bool) (d : Fin 64) {s : State} (good : systemItemsFollow s) :
    systemItemsFollow (boundaryHead minute counted d s) := by
  simp only [boundaryHead]
  (repeat' split) <;>
    (repeat (with_reducible first | apply boundaryClose_items | apply enterOverrun_items)) <;> exact good

theorem boundaryStart_items (minute : Nat) (swapped : Bool) (d : Fin 64) {s : State} (good : systemItemsFollow s) :
    systemItemsFollow (boundaryStart minute swapped d s) := by
  simp only [boundaryStart]
  (repeat' split) <;>
    (repeat (with_reducible first | apply activate_items)) <;> exact good

theorem boundaryTimeline_items (minute : Nat) (counted swapped : Bool) (d : Fin 64) {s : State}
    (good : systemItemsFollow s) : systemItemsFollow (boundaryTimeline minute counted swapped d s) := by
  simp only [boundaryTimeline]
  (repeat (with_reducible first | apply boundaryStart_items | apply boundaryHead_items))
  exact good

theorem storeTimelines_items (taken : Bool) (minute : Nat) (counted swapped : Bool) (ports :
    List (Fin 64)) {s : State} (good : systemItemsFollow s) :
    systemItemsFollow (storeTimelines taken minute counted swapped ports s) := by
  simp only [storeTimelines]
  split
  · exact foldl_closed (fun t d ht => boundaryTimeline_items _ _ _ d ht) _ good
  · exact good

theorem openRecheck_items (recheckAfter : Nat) {s : State} (good : systemItemsFollow s) :
    systemItemsFollow (openRecheck recheckAfter s) := by
  simp only [openRecheck]
  (repeat' split) <;>
    (repeat (with_reducible first | apply makeRecheck_items)) <;> exact good

theorem boundaryCounted_items (minute swapAfter recheckAfter : Nat) {s : State} (good : systemItemsFollow s) :
    systemItemsFollow (boundaryCounted minute swapAfter recheckAfter s) := by
  simp only [boundaryCounted]
  (repeat (with_reducible first
        | apply storeTimelines_items | apply openRecheck_items | apply lastRecheck_items
        | apply takeTariffBoundary_items))
  exact good

theorem boundaryUncounted_items (minute recheckAfter : Nat) {s : State} (good : systemItemsFollow s) :
    systemItemsFollow (boundaryUncounted minute recheckAfter s) := by
  simp only [boundaryUncounted]
  (repeat (with_reducible first | apply lastRecheck_items | apply storeTimelines_items | apply openRecheck_items))
  exact good

theorem catchUpCloses_items (members :
    List (Fin 1024)) {s : State} (good : systemItemsFollow s) : systemItemsFollow (catchUpCloses members s) := by
  induction members generalizing s with
  | nil => exact good
  | cons n rest ih =>
    simp only [catchUpCloses]
    (repeat' split) <;> 
      first
        | with_reducible exact good
        | with_reducible exact ih (closeOnAir_items _ _ _ _ good)
        | with_reducible exact ih (closeMissed_items _ _ good)

theorem catchUpStart_items (d : Fin 64) {s : State} (good : systemItemsFollow s) :
    systemItemsFollow (catchUpStart d s) := by
  simp only [catchUpStart]
  (repeat' split) <;>
    (repeat (with_reducible first | apply activate_items)) <;> exact good

theorem catchUpPhase_items (d : Fin 64) {s : State} (good : systemItemsFollow s) :
    systemItemsFollow (catchUpPhase d s) := by
  simp only [catchUpPhase]
  (repeat' split) <;>
    (repeat (with_reducible first | apply enterOverrun_items)) <;> exact good

theorem catchUpTimeline_items (d : Fin 64) {s : State} (good : systemItemsFollow s) :
    systemItemsFollow (catchUpTimeline d s) := by
  simp only [catchUpTimeline]
  (repeat (with_reducible first | apply catchUpPhase_items | apply catchUpStart_items | apply catchUpCloses_items))
  exact good

theorem catchUp_items {s : State} (good : systemItemsFollow s) : systemItemsFollow (catchUp s) := by
  exact foldl_closed (fun t d ht => catchUpTimeline_items d ht) _ good

theorem enterRunning_items {s : State} (good : systemItemsFollow s) : systemItemsFollow (enterRunning s) := by
  simp only [enterRunning]
  (repeat (with_reducible first | apply takeEntry_items | apply catchUp_items | apply latch_items))
  exact good

theorem releaseFirst_items {s : State} (good : systemItemsFollow s) : systemItemsFollow (releaseFirst s) := by
  simp only [releaseFirst]
  (repeat' split) <;>
    (repeat (with_reducible first
          | apply lastRecheck_items | apply countRecheck_items | apply settleClose_items)) <;> exact good

theorem beginPage_items (time : Stamp) {s : State} (good : systemItemsFollow s) :
    systemItemsFollow (beginPage time s) := by
  simp only [beginPage]
  exact good

theorem nextMark_items {s : State} (good : systemItemsFollow s) : systemItemsFollow (nextMark s) := by
  simp only [nextMark]
  exact good

theorem pageTick_items (boundary : Bool) (time : Stamp) {s : State} (good : systemItemsFollow s) :
    systemItemsFollow (pageTick boundary time s) := by
  simp only [pageTick]
  (repeat' split) <;>
    (repeat (with_reducible first
          | apply nextMark_items | apply beginPage_items | apply markPage_items)) <;> exact good

theorem settlePage_items {s : State} (good : systemItemsFollow s) : systemItemsFollow (settlePage s) := by
  simp only [settlePage]
  exact takeOwed_holds (fun time _ => pageTick_items true time) _ good

theorem boundaryPage_items (minute : BitVec 32) {s : State} (good : systemItemsFollow s) :
    systemItemsFollow (boundaryPage minute s) := by
  simp only [boundaryPage]
  (repeat (with_reducible first | apply settlePage_items | apply pageTick_items))
  exact good

theorem secondPage_items (ahead : Bool) {s : State} (good : systemItemsFollow s) : systemItemsFollow (secondPage ahead s) := by
  simp only [secondPage]
  apply pageTick_items
  split
  · exact good
  · exact nextMark_items good

theorem endPage_items {s : State} (good : systemItemsFollow s) : systemItemsFollow (endPage s) := by
  simp only [endPage]
  exact good

theorem pageComplete_items {s : State} (good : systemItemsFollow s) : systemItemsFollow (pageComplete s) := by
  simp only [pageComplete]
  (repeat' split) <;>
    (repeat (with_reducible first | apply issueAll_items | apply latch_items | apply endPage_items)) <;> exact good

theorem abandonPage_items (issued : Nat) {s : State} (good : systemItemsFollow s) :
    systemItemsFollow (abandonPage issued s) := by
  simp only [abandonPage]
  (repeat' split) <;>
    (repeat (with_reducible first | apply endPage_items | apply issueAll_items)) <;> exact good

theorem crosspointBlock_items {s : State} (good : systemItemsFollow s) : systemItemsFollow (crosspointBlock s) := by
  simp only [crosspointBlock]
  (repeat' split) <;>
    (repeat (with_reducible first | apply crosspointTick_items)) <;> exact good

theorem blockTick_items (k : Fin 49) {s : State} (good : systemItemsFollow s) :
    systemItemsFollow (blockTick k s) := by
  simp only [blockTick]
  (repeat' split) <;>
    (repeat (with_reducible first | apply monitorTick_items | apply crosspointBlock_items)) <;> exact good

theorem blockAhead_items (k : Fin 49) {s : State} (good : systemItemsFollow s) :
    systemItemsFollow (blockAhead k s) := by
  simp only [blockAhead]
  split
  · split
    · exact good
    · exact takeTickEarly_items _ good
  · split
    · exact good
    · exact crosspointTick_items good

theorem ticksAhead_items (early : TickOrder) {s : State} (good : systemItemsFollow s) :
    systemItemsFollow (ticksAhead early s) := by
  exact foldl_closed (fun t k ht => blockAhead_items k ht) _ good

theorem blocksTick_items (order done :
    List (Fin 49)) {s : State} (good : systemItemsFollow s) : systemItemsFollow (blocksTick order done s) := by
  induction order generalizing s done with
  | nil => exact good
  | cons b rest ih =>
    simp only [blocksTick]
    split
    · exact ih _ good
    · exact ih _ (blockTick_items b good)

theorem handTick_items (order : TickOrder) (e : EndedSecond) {s : State} (good : systemItemsFollow s) :
    systemItemsFollow (handTick order e s) := by
  simp only [handTick]
  (repeat (with_reducible first | apply countMeters_items | apply blocksTick_items))
  exact good

theorem owedTick_items (order : TickOrder) (ended : BitVec 32) {s : State} (good : systemItemsFollow s) :
    systemItemsFollow (owedTick order ended s) := by
  simp only [owedTick]
  (repeat (with_reducible first | apply takeTariffBoundary_items | apply handTick_items))
  exact good

theorem setRollover_items (r : Rollover) {s : State} (good : systemItemsFollow s) :
    systemItemsFollow (setRollover r s) := by
  simp only [setRollover]
  exact good

theorem setTime_items (minute : BitVec 32) (second : Nat) {s : State} (good : systemItemsFollow s) :
    systemItemsFollow (setTime minute second s) := by
  simp only [setTime]
  exact good

theorem rollTime_items (minute : BitVec 32) (clockSet : Bool) {s : State} (good : systemItemsFollow s) :
    systemItemsFollow (rollTime minute clockSet s) := by
  simp only [rollTime]
  (repeat' split) <;>
    (repeat (with_reducible first | apply setTime_items)) <;> exact good

theorem boundaryAfterTick_items (minute : BitVec 32) (clockSet : Bool) (swapAfter recheckAfter : Nat) {s : State}
    (good : systemItemsFollow s) :
    systemItemsFollow (boundaryAfterTick minute clockSet swapAfter recheckAfter s) := by
  simp only [boundaryAfterTick]
  (repeat (with_reducible first
        | apply boundaryPage_items | apply boundaryCounted_items | apply rollTime_items | apply setRollover_items))
  exact good

theorem boundaryBeforeTick_items (recheckAfter : Nat) {s : State} (good : systemItemsFollow s) :
    systemItemsFollow (boundaryBeforeTick recheckAfter s) := by
  simp only [boundaryBeforeTick]
  (repeat (with_reducible first | apply boundaryUncounted_items | apply setRollover_items | apply setTime_items))
  exact good

theorem takeBoundary_items (swapAfter recheckAfter : Nat) {s : State} (good : systemItemsFollow s) :
    systemItemsFollow (takeBoundary swapAfter recheckAfter s) := by
  simp only [takeBoundary]
  (repeat' split) <;>
    (repeat (with_reducible first | apply boundaryAfterTick_items | apply boundaryBeforeTick_items)) <;> exact good

theorem minuteBoundary_items (early : TickOrder) (boundary : Bool) (swapAfter recheckAfter : Nat) {s : State}
    (good : systemItemsFollow s) : systemItemsFollow (minuteBoundary early boundary swapAfter recheckAfter s) := by
  simp only [minuteBoundary]
  (repeat' split) <;>
    (repeat (with_reducible first | apply ticksAhead_items | apply takeBoundary_items)) <;> exact good

theorem settleBoundary_items {s : State} (good : systemItemsFollow s) : systemItemsFollow (settleBoundary s) := by
  simp only [settleBoundary]
  (repeat' split) <;>
    (repeat (with_reducible first | apply boundaryAfterTick_items)) <;> exact good

theorem completeSecond_items (ahead : Bool) {s : State} (good : systemItemsFollow s) :
    systemItemsFollow (completeSecond ahead s) := by
  simp only [completeSecond]
  (repeat' split) <;>
    (repeat (with_reducible first | apply secondPage_items | apply setRollover_items)) <;> exact good

theorem secondTick_items (order : TickOrder) {s : State} (good : systemItemsFollow s) :
    systemItemsFollow (secondTick order s) := by
  simp only [secondTick]
  (repeat' split) <;>
    (repeat (with_reducible first
          | apply settleBoundary_items | apply boundaryPage_items | apply setRollover_items | apply owedTick_items
          | apply completeSecond_items | apply handTick_items)) <;> exact good


theorem changeReference_items (c : Clock) {s : State} (good : systemItemsFollow s) :
    systemItemsFollow (changeReference c s) := by
  simp only [changeReference, referenceChanged]
  refine setSeverity_items _ _ fun h => ?_
  have hl : (latch .clock { s with clock := c }).link.fatal = s.link.fatal := by
    simp only [latch]
    split
    · exact setFlags_fatal _ _
    · rfl
  obtain ⟨_, h2, h3⟩ := good (by simpa using h)
  exact ⟨by simp, by simpa using h2, by simpa [hl] using h3⟩

theorem pulseFreeRun_items (instant : Nat) (order : TickOrder) {s : State} (good : systemItemsFollow s) :
    systemItemsFollow (pulseFreeRun instant order s) := by
  simp only [pulseFreeRun]
  split
  · exact good
  · exact secondTick_items _ (changeReference_items _ good)

theorem secrefPulse_items (instant : Nat) (order : TickOrder) {s : State} (good : systemItemsFollow s) :
    systemItemsFollow (secrefPulse instant order s) := by
  simp only [secrefPulse]
  (repeat' split) <;>
    (repeat (with_reducible first | apply secondTick_items | apply pulseFreeRun_items)) <;> exact good

theorem secrefTimeout_items (order : TickOrder) {s : State} (good : systemItemsFollow s) :
    systemItemsFollow (secrefTimeout order s) := by
  simp only [secrefTimeout]
  (repeat' split) <;>
    (repeat (with_reducible first | apply secondTick_items | apply changeReference_items)) <;> exact good

theorem ownTick_items (order : TickOrder) {s : State} (good : systemItemsFollow s) :
    systemItemsFollow (ownTick order s) := by
  simp only [ownTick]
  (repeat' split) <;>
    (repeat (with_reducible first | apply secondTick_items)) <;> exact good

theorem relockTimeout_items {s : State} (good : systemItemsFollow s) : systemItemsFollow (relockTimeout s) := by
  simp only [relockTimeout]
  (repeat' split) <;> exact good

theorem pulseSwitch_items {s : State} (good : systemItemsFollow s) : systemItemsFollow (pulseSwitch s) := by
  simp only [pulseSwitch]
  split <;> exact switchPoint_items _ good

theorem framerefPulse_items (instant : Nat) {s : State} (good : systemItemsFollow s) :
    systemItemsFollow (framerefPulse instant s) := by
  simp only [framerefPulse]
  split
  · rename_i hp
    refine pulseSwitch_items fun h => ?_
    obtain ⟨h1, h2, h3⟩ := good h
    exact ⟨by simpa [clockSeverity, hp] using h1, h2, h3⟩
  · exact pulseSwitch_items (changeReference_items _ good)

theorem framerefTimeout_items {s : State} (good : systemItemsFollow s) : systemItemsFollow (framerefTimeout s) := by
  simp only [framerefTimeout]
  (repeat' split) <;>
    (repeat (with_reducible first | apply changeReference_items)) <;> exact good

theorem bookOrder_items (o : Order) {s : State} (good : systemItemsFollow s) : systemItemsFollow (bookOrder o s) := by
  simp only [bookOrder]
  (repeat' split) <;>
    (repeat (with_reducible first
          | apply finishOrder_items | apply submit_items | apply setStage_items)) <;> exact good

theorem acceptBooking_items (n : Fin 1024) (b : Slot) {s : State} (good : systemItemsFollow s) :
    systemItemsFollow (acceptBooking n b s) := by
  exact items_congr good (by simp)

theorem bookFromRecord_items (n : Fin 1024) (r : BookRecord) {s : State} (good : systemItemsFollow s) :
    systemItemsFollow (bookFromRecord n r s) := by
  simp only [bookFromRecord]
  (repeat' split) <;>
    (repeat (with_reducible first | apply submit_items | apply acceptBooking_items)) <;> exact good

theorem bookRecordRead_items (bytes : Vector Byte 20) {s : State} (good : systemItemsFollow s) :
    systemItemsFollow (bookRecordRead bytes s) := by
  simp only [bookRecordRead]
  (repeat' split) <;>
    (repeat (with_reducible first | apply bookFromRecord_items | apply setInFlight_items)) <;> exact good

theorem cancelAccepted_items (n : Fin 1024) {s : State} (good : systemItemsFollow s) :
    systemItemsFollow (cancelAccepted n s) := by
  simp only [cancelAccepted]
  (repeat' split) <;>
    (repeat (with_reducible first
          | apply leaveTimeline_items | apply settleClose_items | apply setMeter_items)) <;> exact good

theorem cancelOrder_items (o : Order) {s : State} (good : systemItemsFollow s) :
    systemItemsFollow (cancelOrder o s) := by
  simp only [cancelOrder]
  (repeat' split) <;>
    (repeat (with_reducible first
          | apply finishOrder_items | apply cancelAccepted_items | apply setStage_items
          | apply closeOnAir_items)) <;> exact good

theorem grantExtension_items (n : Fin 1024) (minutes : Nat) {s : State} (good : systemItemsFollow s) :
    systemItemsFollow (grantExtension n minutes s) := by
  simp only [grantExtension]
  (repeat' split) <;>
    (repeat (with_reducible first
          | apply finishOrder_items | apply submit_items | apply setSlot_items | apply setStage_items)) <;> exact good

theorem extendOrder_items (o : Order) {s : State} (good : systemItemsFollow s) :
    systemItemsFollow (extendOrder o s) := by
  simp only [extendOrder]
  (repeat' split) <;>
    (repeat (with_reducible first | apply finishOrder_items | apply grantExtension_items)) <;> exact good

theorem lodgeSwitch_items (d : Fin 64) (target : Source) {s : State} (good : systemItemsFollow s) :
    systemItemsFollow (lodgeSwitch d target s) := by
  simp only [lodgeSwitch]
  (repeat (with_reducible first | apply finishOrder_items | apply request_items))
  exact good

theorem switchOrder_items (o : Order) {s : State} (good : systemItemsFollow s) :
    systemItemsFollow (switchOrder o s) := by
  simp only [switchOrder]
  (repeat' split) <;>
    (repeat (with_reducible first | apply finishOrder_items | apply lodgeSwitch_items)) <;> exact good

theorem storeLegMode_items (n : Fin 1024) (mode : LegMode) {s : State} (good : systemItemsFollow s) :
    systemItemsFollow (storeLegMode n mode s) := by
  simp only [storeLegMode]
  (repeat' split) <;>
    (repeat (with_reducible first
          | apply setSlot_items | apply finishOrder_items | apply applyProtection_items)) <;> exact good

theorem setLegOrder_items (o : Order) {s : State} (good : systemItemsFollow s) :
    systemItemsFollow (setLegOrder o s) := by
  simp only [setLegOrder]
  (repeat' split) <;>
    (repeat (with_reducible first | apply finishOrder_items | apply storeLegMode_items)) <;> exact good

theorem applySetPort_items (p : Fin 48) (o : Order) {s : State} (good : systemItemsFollow s) :
    systemItemsFollow (applySetPort p o s) := by
  simp only [applySetPort]
  (repeat' split) <;>
    (repeat (with_reducible first | apply finishOrder_items | apply updateMonitor_items)) <;> exact good

theorem setPortOrder_items (o : Order) {s : State} (good : systemItemsFollow s) :
    systemItemsFollow (setPortOrder o s) := by
  simp only [setPortOrder]
  (repeat' split) <;>
    (repeat (with_reducible first | apply finishOrder_items | apply applySetPort_items)) <;> exact good

theorem readPortOrder_items (o : Order) {s : State} (good : systemItemsFollow s) :
    systemItemsFollow (readPortOrder o s) := by
  simp only [readPortOrder]
  (repeat' split) <;>
    (repeat (with_reducible first | apply finishOrder_items | apply setMonitor_items)) <;> exact good

theorem readSegment_items (address : Address) {s : State} (good : systemItemsFollow s) :
    systemItemsFollow (readSegment address s) := by
  simp only [readSegment]
  (repeat' split) <;>
    (repeat (with_reducible first | apply setStage_items | apply issueRead_items)) <;> exact good

theorem loadTariffOrder_items (o : Order) {s : State} (good : systemItemsFollow s) :
    systemItemsFollow (loadTariffOrder o s) := by
  simp only [loadTariffOrder]
  (repeat' split) <;>
    (repeat (with_reducible first | apply finishOrder_items | apply readSegment_items)) <;> exact good

theorem stageTariff_items (t : Tariff) {s : State} (good : systemItemsFollow s) :
    systemItemsFollow (stageTariff t s) := by
  exact items_congr good (by simp)

theorem segmentTaken_items (bytes : Vector Byte 240) {s : State} (good : systemItemsFollow s) :
    systemItemsFollow (segmentTaken bytes s) := by
  simp only [segmentTaken]
  (repeat' split) <;>
    (repeat (with_reducible first | apply finishOrder_items | apply stageTariff_items)) <;> exact good

theorem tariffSegmentRead_items (bytes : Vector Byte 240) {s : State} (good : systemItemsFollow s) :
    systemItemsFollow (tariffSegmentRead bytes s) := by
  simp only [tariffSegmentRead]
  (repeat' split) <;>
    (repeat (with_reducible first | apply segmentTaken_items)) <;> exact good

theorem latchAccountOrder_items (o : Order) {s : State} (good : systemItemsFollow s) :
    systemItemsFollow (latchAccountOrder o s) := by
  simp only [latchAccountOrder]
  (repeat' split) <;>
    (repeat (with_reducible first | apply finishOrder_items)) <;> exact good

theorem closeMatchOrder_items (o : Order) {s : State} (good : systemItemsFollow s) :
    systemItemsFollow (closeMatchOrder o s) := by
  simp only [closeMatchOrder]
  (repeat' split) <;>
    (repeat (with_reducible first
          | apply finishOrder_items | apply submit_items | apply setStage_items)) <;> exact good

theorem setClockOrder_items (o : Order) {s : State} (good : systemItemsFollow s) :
    systemItemsFollow (setClockOrder o s) := by
  simp only [setClockOrder]
  (repeat' split) <;>
    (repeat (with_reducible first
          | apply finishOrder_items | apply setRollover_items | apply setTime_items)) <;> exact good

theorem setStart_items (p : StartPhase) (c : StartCode) {s : State} (good : systemItemsFollow s) :
    systemItemsFollow (setStart p c s) := by
  simp only [setStart]
  exact good

theorem takeHeader_items (h : Header) {s : State} (good : systemItemsFollow s) :
    systemItemsFollow (takeHeader h s) := by
  simp only [takeHeader]
  exact good

theorem headerTaken_items (h : Header) {s : State} (good : systemItemsFollow s) :
    systemItemsFollow (headerTaken h s) := by
  simp only [headerTaken]
  (repeat' split) <;>
    (repeat (with_reducible first
          | apply setStart_items | apply sendWrite_items | apply takeHeader_items)) <;> exact good

theorem headerReadComplete_items (bytes : Vector Byte 80) {s : State} (good : systemItemsFollow s) :
    systemItemsFollow (headerReadComplete bytes s) := by
  simp only [headerReadComplete]
  (repeat' split) <;>
    (repeat (with_reducible first | apply headerTaken_items)) <;> exact good

theorem identityWriteComplete_items {s : State} (good : systemItemsFollow s) :
    systemItemsFollow (identityWriteComplete s) := by
  simp only [identityWriteComplete]
  (repeat' split) <;>
    (repeat (with_reducible first | apply enterRunning_items | apply setStart_items)) <;> exact good

theorem startDormant_items {s : State} (good : systemItemsFollow s) : systemItemsFollow (startDormant s) := by
  simp only [startDormant]
  (repeat' split) <;>
    (repeat (with_reducible first | apply setStart_items | apply record_items)) <;> exact good

theorem startHeld_items {s : State} (good : systemItemsFollow s) : systemItemsFollow (startHeld s) := by
  simp only [startHeld]
  (repeat' split) <;>
    (repeat (with_reducible first | apply enterRunning_items | apply setStart_items)) <;> exact good

theorem setHaltWaiting_items (b : Bool) {s : State} (good : systemItemsFollow s) :
    systemItemsFollow (setHaltWaiting b s) := by
  simp only [setHaltWaiting]
  exact good

theorem startRunning_items {s : State} (good : systemItemsFollow s) : systemItemsFollow (startRunning s) := by
  simp only [startRunning]
  (repeat' split) <;>
    (repeat (with_reducible first | apply takeEntry_items | apply setHaltWaiting_items)) <;> exact good

theorem startCommand_items {s : State} (good : systemItemsFollow s) : systemItemsFollow (startCommand s) := by
  simp only [startCommand]
  (repeat' split) <;>
    (repeat (with_reducible first
          | apply startDormant_items | apply startHeld_items | apply startRunning_items)) <;> exact good

theorem haltCommand_items {s : State} (good : systemItemsFollow s) : systemItemsFollow (haltCommand s) := by
  simp only [haltCommand]
  (repeat' split) <;>
    (repeat (with_reducible first | apply enterHeld_items | apply setHaltWaiting_items)) <;> exact good

theorem busFaultAt_items (after : Nat) {s : State} (good : systemItemsFollow s) :
    systemItemsFollow (busFaultAt after s) := by
  simp only [busFaultAt]
  (repeat' split) <;>
    (repeat (with_reducible first | apply takeBusFault_items)) <;> exact good

theorem setGate_items (g : Gate) {s : State} (good : systemItemsFollow s) : systemItemsFollow (setGate g s) := by
  simp only [setGate]
  exact good

theorem completeInFlight_items (cut : CutOff) {s : State} (good : systemItemsFollow s) :
    systemItemsFollow (completeInFlight cut s) := by
  simp only [completeInFlight]
  (repeat' split) <;>
    (repeat (with_reducible first
          | apply raiseRead_items | apply unblockRing_items | apply setInFlight_items | apply bookFromRecord_items
          | apply totalRead_items | apply freeAccountSlot_items | apply loseTicket_items | apply raiseNumber_items
          | apply dropAccess_items)) <;> exact good

theorem gateNext_items (a : Access) {s : State} (good : systemItemsFollow s) : systemItemsFollow (gateNext a s) := by
  simp only [gateNext]
  split
  · exact good
  · exact setGate_items _ good

theorem completeNext_items (cut : CutOff) (a : Access) {s : State} (good : systemItemsFollow s) :
    systemItemsFollow (completeNext cut a s) := by
  simp only [completeNext]
  (repeat (with_reducible first | apply completeInFlight_items | apply beginAccess_items | apply gateNext_items))
  exact good

theorem setWaiting_items (l : List Access) {s : State} (good : systemItemsFollow s) :
    systemItemsFollow (setWaiting l s) := by
  simp only [setWaiting]
  exact good

theorem completeAccesses_items (cut : CutOff) {s : State} (good : systemItemsFollow s) :
    systemItemsFollow (completeAccesses cut s) := by
  exact foldl_closed (fun t a ht => completeNext_items cut a ht) _
    (completeInFlight_items cut (setGate_items _ (setWaiting_items _ good)))

theorem completeTick_items (cut : CutOff) {s : State} (good : systemItemsFollow s) :
    systemItemsFollow (completeTick cut s) := by
  simp only [completeTick]
  (repeat' split) <;>
    (repeat (with_reducible first | apply setRollover_items | apply owedTick_items)) <;> exact good

theorem completeHold_items (h : Hold) {s : State} (good : systemItemsFollow s) : systemItemsFollow (completeHold h s) :=
  closeInside_items _ (takeClose_items _ good)

theorem completeHolds_items {s : State} (good : systemItemsFollow s) : systemItemsFollow (completeHolds s) := by
  exact foldl_closed (fun t h ht => completeHold_items h ht) _ good

theorem ownerTakes_items (o : Order) {s : State} (good : systemItemsFollow s) :
    systemItemsFollow (ownerTakes o s) := by
  simp only [ownerTakes]
  (repeat' split) <;>
    (repeat (with_reducible first
          | apply bookOrder_items | apply cancelOrder_items | apply extendOrder_items | apply switchOrder_items
          | apply setLegOrder_items | apply setPortOrder_items | apply readPortOrder_items
          | apply loadTariffOrder_items | apply latchAccountOrder_items | apply closeMatchOrder_items
          | apply setClockOrder_items)) <;> exact good

theorem completeEntry_items (cut : CutOff) {s : State} (good : systemItemsFollow s) :
    systemItemsFollow (completeEntry cut s) := by
  simp only [completeEntry]
  (repeat' split) <;>
    (repeat (with_reducible first | apply entryRead_items)) <;> exact good

theorem completeDispatched_items (cut : CutOff) {s : State} (good : systemItemsFollow s) :
    systemItemsFollow (completeDispatched cut s) := by
  simp only [completeDispatched]
  (repeat' split) <;>
    (repeat (with_reducible first
          | apply completeInFlight_items | apply ownerTakes_items | apply setGate_items)) <;> exact good

theorem completeSegment_items (cut : CutOff) {s : State} (good : systemItemsFollow s) :
    systemItemsFollow (completeSegment cut s) := by
  simp only [completeSegment]
  (repeat' split) <;>
    (repeat (with_reducible first | apply tariffSegmentRead_items)) <;> exact good

theorem completeOrder_items (cut : CutOff) {s : State} (good : systemItemsFollow s) :
    systemItemsFollow (completeOrder cut s) := by
  simp only [completeOrder]
  (repeat (with_reducible first
        | apply completeSegment_items | apply completeDispatched_items | apply completeEntry_items
        | apply setGate_items))
  exact good

theorem completeInside_items (cut : CutOff) {s : State} (good : systemItemsFollow s) :
    systemItemsFollow (completeInside cut s) := by
  simp only [completeInside]
  (repeat (with_reducible first
        | apply completeOrder_items | apply completeHolds_items | apply completeTick_items
        | apply completeAccesses_items))
  exact good


theorem clearFloor_items {s : State} (good : systemItemsFollow s) : systemItemsFollow (clearFloor s) :=
  setAlarm_items (fun j _ => by simp) good

theorem softClear_items {s : State} (good : systemItemsFollow s) : systemItemsFollow (softClear s) := by
  simp only [softClear]
  refine clearFloor_items (setSeverity_items _ _ fun h => ?_)
  obtain ⟨h1, h2, _⟩ := good (by simpa using h)
  exact ⟨by simpa using h1, by simpa [softState] using h2, by simp [setFlags_fatal, softState, softLink]⟩

theorem latchLeave_items (from_ : RunState) {s : State} (good : systemItemsFollow s) :
    systemItemsFollow (latchLeave from_ s) := by
  simp only [latchLeave]
  (repeat' split) <;>
    (repeat (with_reducible first | apply latch_items)) <;> exact good

theorem softReset_items (cut : CutOff) {s : State} (good : systemItemsFollow s) :
    systemItemsFollow (softReset cut s) := by
  simp only [softReset]
  (repeat (with_reducible first
        | apply settlePage_items | apply latchLeave_items | apply softClear_items | apply completeInside_items
        | apply abandonPage_items))
  exact good


theorem hardReset_items (s : State) : systemItemsFollow (hardReset s) := by
  intro h
  simp [hardReset, State.hardReset] at h

theorem resetRelease_items (instant : Nat) {s : State} (good : systemItemsFollow s) :
    systemItemsFollow (resetRelease instant s) := by
  simp only [resetRelease]
  split
  · exact good
  · refine setSeverity_items _ _ fun _ => ?_
    simp [scheduleOwn, hardReset, State.hardReset, Clock.hardReset, clockSeverity, Alarm.hardReset, Tickets.hardReset,
      Link.hardReset]

theorem flagsRead_items (enables : BitVec 4) {s : State} (good : systemItemsFollow s) :
    systemItemsFollow (flagsRead enables s) := by
  simp only [flagsRead]
  (repeat' split) <;>
    (repeat (with_reducible first | apply setFlags_items)) <;> exact good

theorem areaWrite_items (high : Bool) (value : Word) {s : State} (good : systemItemsFollow s) :
    systemItemsFollow (areaWrite high value s) := by
  simp only [areaWrite]
  (repeat' split) <;> exact good

theorem flagsWrite_items (value : Word) {s : State} (good : systemItemsFollow s) :
    systemItemsFollow (flagsWrite value s) := by
  simp only [flagsWrite]
  (repeat (with_reducible first | apply setFlags_items))
  exact good

theorem ctrlCommand_items (command : BitVec 2) (cut : CutOff) {s : State} (good : systemItemsFollow s) :
    systemItemsFollow (ctrlCommand command cut s) := by
  simp only [ctrlCommand]
  (repeat' split) <;>
    (repeat (with_reducible first
          | apply startCommand_items | apply haltCommand_items | apply softReset_items)) <;> exact good

theorem ctrlWrite_items (value : Word) (cut : CutOff) {s : State} (good : systemItemsFollow s) :
    systemItemsFollow (ctrlWrite value cut s) := by
  simp only [ctrlWrite]
  (repeat' split) <;>
    (repeat (with_reducible first | apply ctrlCommand_items | apply modeWrite_items)) <;> exact good

theorem nextAlarmRegister_items (value : Word) {s : State} (good : systemItemsFollow s) :
    systemItemsFollow (nextAlarmRegister value s) := by
  simp only [nextAlarmRegister]
  (repeat (with_reducible first | apply nextAlarmWrite_items))
  exact good

theorem registerWrite_items (r : Register) (enables : BitVec 4) (value : Word) (cut : CutOff) {s : State}
    (good : systemItemsFollow s) : systemItemsFollow (registerWrite r enables value cut s) := by
  simp only [registerWrite]
  (repeat' split) <;>
    (repeat (with_reducible first
          | apply ctrlWrite_items | apply areaWrite_items | apply orderEndWrite_items | apply flagsWrite_items
          | apply nextAlarmRegister_items)) <;> exact good

end Sys2Proof.Machine
end

