-- ==== Sys2Proof/Laws/Monitors.lean ====
section
/-! SUPPORT. Every operation keeps the law of the line monitors (R85). -/

namespace Sys2Proof.Machine

theorem monitors_congr {s t : State} (h : monitorsLawful s) (e : t.monitors = s.monitors) : monitorsLawful t := by
  simpa only [monitorsLawful, e] using h

theorem enterFailed_lawful {m : Monitor} (h : monitorLawful m) (hs : m.inService = true) : monitorLawful (enterFailed m) := by
  simp [monitorLawful, enterFailed, satAdd, max16, hs] at *
  omega

theorem inService_of_health {m : Monitor} (h : monitorLawful m) (hh : m.health ≠ .outOfService) : m.inService = true := by
  have := h.1; cases hi : m.inService <;> simp_all

theorem countBad_lawful {m : Monitor} (h : monitorLawful m) (hh : m.health = .ok ∨ m.health = .suspect) :
    monitorLawful (countBad m) := by
  have hs : m.inService = true := inService_of_health h (by rcases hh with e | e <;> simp [e])
  simp only [countBad]
  split
  · exact enterFailed_lawful h hs
  · obtain ⟨h1, h2, h3, h4, h5, h6⟩ := h
    rcases hh with e | e <;> simp_all [monitorLawful]
    omega

theorem countClass_lawful (c : SecondClass) {m : Monitor} (h : monitorLawful m) : monitorLawful (countClass c m) := by
  cases c <;> simp_all [countClass, monitorLawful, satAdd, max16]

theorem countClass_fields (c : SecondClass) (m : Monitor) :
    (countClass c m).health = m.health ∧ (countClass c m).inService = m.inService := by
  cases c <;> simp [countClass]

theorem badSecond_lawful {m : Monitor} (h : monitorLawful m) : monitorLawful (badSecond m) := by
  simp only [badSecond]
  split
  · rename_i e
    refine countBad_lawful ?_ (.inl e)
    simp_all [monitorLawful]
  · rename_i e; exact countBad_lawful h (.inr e)
  · exact h
  · rename_i e; exact enterFailed_lawful h (inService_of_health h (by simp [e]))
  · exact h

theorem goodSecond_lawful {m : Monitor} (h : monitorLawful m) : monitorLawful (goodSecond m) := by
  simp only [goodSecond]
  (repeat' split) <;> simp_all [monitorLawful]
  omega

theorem monitorAtTick_lawful {m : Monitor} (h : monitorLawful m) : monitorLawful (monitorAtTick m) := by
  simp only [monitorAtTick]
  split
  · exact h
  · rename_i hs
    split
    · simp_all [monitorLawful, freshSeen]
    · have hc : monitorLawful { m with lastClass := classify m } := by simp_all [monitorLawful]
      have hc := countClass_lawful (classify m) hc
      simp only [classSecond]
      split
      · have := badSecond_lawful hc; simp_all [monitorLawful, freshSeen]
      · have := goodSecond_lawful hc; simp_all [monitorLawful, freshSeen]

/-- The law reads the observations only for the block count, and the receiver's levels not at all. -/
theorem lawful_of_seen {m : Monitor} (h : monitorLawful m) (o : Observations) (ho : o.blocks = m.seen.blocks)
    (light lock : Bool) : monitorLawful { m with seen := o, light := light, lock := lock } := by
  simpa only [monitorLawful, ho] using h

theorem blocks_ite (b : Bool) (o o' : Observations) (ho : o'.blocks = o.blocks) :
    (if b then o' else o).blocks = o.blocks := by
  split <;> simp [ho]

theorem lightLostAt_lawful {m : Monitor} (h : monitorLawful m) : monitorLawful (lightLostAt m) := by
  have hd : monitorLawful
      { m with
        light := false
        seen := if m.inService then { m.seen with lightLost := true } else m.seen } := by
    exact lawful_of_seen h _ (blocks_ite m.inService m.seen { m.seen with lightLost := true } rfl) _ _
  simp only [lightLostAt]
  split
  · rename_i hf
    refine enterFailed_lawful hd (inService_of_health (m := m) h fun e => ?_)
    simp [fastDetectActs, e] at hf
  · exact hd

theorem observe_lawful (seen : Observation) {m : Monitor} (h : monitorLawful m) : monitorLawful (observe seen m) := by
  rcases seen with _ | held | present
  · simp only [observe]; split <;> simp_all [monitorLawful, satAdd, max16]
  · cases held
    · exact lawful_of_seen h _ (blocks_ite m.inService m.seen { m.seen with lockLost := true } rfl) _ _
    · exact h
  · cases present
    · simp only [observe]; split
      · exact lightLostAt_lawful h
      · exact h
    · exact h

theorem monitorSet_lawful (o : Order) {m : Monitor} (h : monitorLawful m) : monitorLawful (monitorSet o m) := by
  have hc : monitorLawful (configured o m) := by
    simp_all [monitorLawful, configured, takenHoldOff, takenRestore, takenThreshold, clampTo]
  simp only [monitorSet]
  split
  · simp_all [monitorLawful, enterService, freshSeen, configured]
  · simp_all [monitorLawful, leaveService, configured]
  all_goals exact hc

theorem clearCounters_lawful {m : Monitor} (h : monitorLawful m) : monitorLawful (clearCounters m) := by
  simp_all [monitorLawful, clearCounters]

theorem modeWrite_monitors (mode : BitVec 2) (spotlight : BitVec 6) {s : State} (good : monitorsLawful s) :
    monitorsLawful (modeWrite mode spotlight s) := by
  exact monitors_congr good (by simp)

theorem finishOrder_monitors (outcome : OutcomeCode) (result : List Byte) {s : State} (good : monitorsLawful s) :
    monitorsLawful (finishOrder outcome result s) := by
  exact monitors_congr good (by simp)

theorem orderEndWrite_monitors (value : Word) {s : State} (good : monitorsLawful s) :
    monitorsLawful (orderEndWrite value s) := by
  exact monitors_congr good (by simp)

theorem crosspointTick_monitors {s : State} (good : monitorsLawful s) : monitorsLawful (crosspointTick s) := by
  exact monitors_congr good (by simp)

/-- A lawful monitor may be stored. -/
theorem setMonitor_monitors (p : Fin 48) {m : Monitor} (hm : monitorLawful m) {s : State} (good : monitorsLawful s) :
    monitorsLawful (setMonitor p m s) := by
  intro q
  by_cases hq : p = q
  · subst hq; simpa [setMonitor] using hm
  · simpa [setMonitor, Vector.getElem_set, Fin.val_inj, hq] using good q

theorem healthChanged_monitors (p : Fin 48) {s : State} (good : monitorsLawful s) :
    monitorsLawful (healthChanged p s) := by
  exact monitors_congr good (by simp)

theorem updateMonitor_monitors (p : Fin 48) {m : Monitor} (hm : monitorLawful m) {s : State} (good : monitorsLawful s) :
    monitorsLawful (updateMonitor p m s) := by
  simp only [updateMonitor]
  split
  · exact setMonitor_monitors p hm good
  · exact healthChanged_monitors p (setMonitor_monitors p hm good)

theorem monitorTick_monitors (p : Fin 48) {s : State} (good : monitorsLawful s) :
    monitorsLawful (monitorTick p s) := by
  simp only [monitorTick]
  split
  · exact setMonitor_monitors p (show monitorLawful { s.monitors[p] with tookTick := false } from good p) good
  · exact updateMonitor_monitors p (monitorAtTick_lawful (good p)) good

theorem takeTickEarly_monitors (p : Fin 48) {s : State} (good : monitorsLawful s) :
    monitorsLawful (takeTickEarly p s) :=
  updateMonitor_monitors p
    (show monitorLawful { monitorAtTick s.monitors[p] with tookTick := true } from monitorAtTick_lawful (good p)) good

theorem holdOffReached_monitors (p : Fin 48) {s : State} (good : monitorsLawful s) :
    monitorsLawful (holdOffReached p s) := by
  simp only [holdOffReached]
  (repeat' split) <;>
    (repeat (with_reducible first | apply takeTickEarly_monitors)) <;> exact good

theorem restoreExpired_monitors (p : Fin 48) {s : State} (good : monitorsLawful s) :
    monitorsLawful (restoreExpired p s) := by
  simp only [restoreExpired]
  (repeat' split) <;>
    (repeat (with_reducible first | apply takeTickEarly_monitors)) <;> exact good

theorem receiverObservation_monitors (p : Fin 48) (seen : Observation) {s : State} (good : monitorsLawful s) :
    monitorsLawful (receiverObservation p seen s) :=
  updateMonitor_monitors p (observe_lawful seen (good p)) good

theorem lossOfLight_monitors (p : Fin 48) {s : State} (good : monitorsLawful s) : monitorsLawful (lossOfLight p s) :=
  updateMonitor_monitors p (lightLostAt_lawful (good p)) good

theorem countMeters_monitors (e : EndedSecond) {s : State} (good : monitorsLawful s) :
    monitorsLawful (countMeters e s) := by
  exact monitors_congr good (by simp)

theorem takeTariffBoundary_monitors {s : State} (good : monitorsLawful s) :
    monitorsLawful (takeTariffBoundary s) := by
  exact monitors_congr good (by simp)

theorem settlePage_monitors {s : State} (good : monitorsLawful s) : monitorsLawful (settlePage s) := by
  exact monitors_congr good (by simp)

theorem boundaryPage_monitors (minute : BitVec 32) {s : State} (good : monitorsLawful s) :
    monitorsLawful (boundaryPage minute s) := by
  exact monitors_congr good (by simp)

theorem abandonPage_monitors (issued : Nat) {s : State} (good : monitorsLawful s) :
    monitorsLawful (abandonPage issued s) := by
  exact monitors_congr good (by simp)

theorem crosspointBlock_monitors {s : State} (good : monitorsLawful s) : monitorsLawful (crosspointBlock s) := by
  exact monitors_congr good (by simp)

theorem blockTick_monitors (k : Fin 49) {s : State} (good : monitorsLawful s) : monitorsLawful (blockTick k s) := by
  simp only [blockTick]
  (repeat' split) <;>
    (repeat (with_reducible first | apply monitorTick_monitors | apply crosspointBlock_monitors)) <;> exact good

theorem blockAhead_monitors (k : Fin 49) {s : State} (good : monitorsLawful s) : monitorsLawful (blockAhead k s) := by
  simp only [blockAhead]
  split
  · split
    · exact good
    · exact takeTickEarly_monitors _ good
  · split
    · exact good
    · exact crosspointTick_monitors good

theorem ticksAhead_monitors (early : TickOrder) {s : State} (good : monitorsLawful s) :
    monitorsLawful (ticksAhead early s) := by
  exact foldl_closed (fun t k ht => blockAhead_monitors k ht) _ good

theorem blocksTick_monitors (order done :
    List (Fin 49)) {s : State} (good : monitorsLawful s) : monitorsLawful (blocksTick order done s) := by
  induction order generalizing s done with
  | nil => exact good
  | cons b rest ih =>
    simp only [blocksTick]
    split
    · exact ih _ good
    · exact ih _ (blockTick_monitors b good)

theorem handTick_monitors (order : TickOrder) (e : EndedSecond) {s : State} (good : monitorsLawful s) :
    monitorsLawful (handTick order e s) := by
  simp only [handTick]
  (repeat (with_reducible first | apply countMeters_monitors | apply blocksTick_monitors))
  exact good

theorem owedTick_monitors (order : TickOrder) (ended : BitVec 32) {s : State} (good : monitorsLawful s) :
    monitorsLawful (owedTick order ended s) := by
  simp only [owedTick]
  (repeat (with_reducible first | apply takeTariffBoundary_monitors | apply handTick_monitors))
  exact good

theorem setRollover_monitors (r : Rollover) {s : State} (good : monitorsLawful s) :
    monitorsLawful (setRollover r s) := by
  exact monitors_congr good (by simp)

theorem takeBoundary_monitors (swapAfter recheckAfter : Nat) {s : State} (good : monitorsLawful s) :
    monitorsLawful (takeBoundary swapAfter recheckAfter s) := by
  exact monitors_congr good (by simp)

theorem minuteBoundary_monitors (early : TickOrder) (boundary : Bool) (swapAfter recheckAfter : Nat) {s : State}
    (good : monitorsLawful s) : monitorsLawful (minuteBoundary early boundary swapAfter recheckAfter s) := by
  simp only [minuteBoundary]
  (repeat' split) <;>
    (repeat (with_reducible first | apply ticksAhead_monitors | apply takeBoundary_monitors)) <;> exact good

theorem settleBoundary_monitors {s : State} (good : monitorsLawful s) : monitorsLawful (settleBoundary s) := by
  exact monitors_congr good (by simp)

theorem completeSecond_monitors (ahead : Bool) {s : State} (good : monitorsLawful s) :
    monitorsLawful (completeSecond ahead s) := by
  exact monitors_congr good (by simp)

theorem secondTick_monitors (order : TickOrder) {s : State} (good : monitorsLawful s) :
    monitorsLawful (secondTick order s) := by
  simp only [secondTick]
  (repeat' split) <;>
    (repeat (with_reducible first
          | apply settleBoundary_monitors | apply boundaryPage_monitors | apply setRollover_monitors
          | apply owedTick_monitors | apply completeSecond_monitors | apply handTick_monitors)) <;> exact good

theorem changeReference_monitors (c : Clock) {s : State} (good : monitorsLawful s) :
    monitorsLawful (changeReference c s) := by
  exact monitors_congr good (by simp)

theorem pulseFreeRun_monitors (instant : Nat) (order : TickOrder) {s : State} (good : monitorsLawful s) :
    monitorsLawful (pulseFreeRun instant order s) := by
  simp only [pulseFreeRun]
  (repeat' split) <;>
    (repeat (with_reducible first | apply secondTick_monitors | apply changeReference_monitors)) <;> exact good

theorem secrefPulse_monitors (instant : Nat) (order : TickOrder) {s : State} (good : monitorsLawful s) :
    monitorsLawful (secrefPulse instant order s) := by
  simp only [secrefPulse]
  (repeat' split) <;>
    (repeat (with_reducible first | apply secondTick_monitors | apply pulseFreeRun_monitors)) <;> exact good

theorem secrefTimeout_monitors (order : TickOrder) {s : State} (good : monitorsLawful s) :
    monitorsLawful (secrefTimeout order s) := by
  simp only [secrefTimeout]
  (repeat' split) <;>
    (repeat (with_reducible first | apply secondTick_monitors | apply changeReference_monitors)) <;> exact good

theorem ownTick_monitors (order : TickOrder) {s : State} (good : monitorsLawful s) :
    monitorsLawful (ownTick order s) := by
  simp only [ownTick]
  (repeat' split) <;>
    (repeat (with_reducible first | apply secondTick_monitors)) <;> exact good

theorem bookOrder_monitors (o : Order) {s : State} (good : monitorsLawful s) : monitorsLawful (bookOrder o s) := by
  exact monitors_congr good (by simp)

theorem cancelOrder_monitors (o : Order) {s : State} (good : monitorsLawful s) :
    monitorsLawful (cancelOrder o s) := by
  exact monitors_congr good (by simp)

theorem extendOrder_monitors (o : Order) {s : State} (good : monitorsLawful s) :
    monitorsLawful (extendOrder o s) := by
  exact monitors_congr good (by simp)

theorem switchOrder_monitors (o : Order) {s : State} (good : monitorsLawful s) :
    monitorsLawful (switchOrder o s) := by
  exact monitors_congr good (by simp)

theorem setLegOrder_monitors (o : Order) {s : State} (good : monitorsLawful s) :
    monitorsLawful (setLegOrder o s) := by
  exact monitors_congr good (by simp)

theorem applySetPort_monitors (p : Fin 48) (o : Order) {s : State} (good : monitorsLawful s) :
    monitorsLawful (applySetPort p o s) :=
  finishOrder_monitors _ _ (updateMonitor_monitors p (monitorSet_lawful o (good p)) good)

theorem setPortOrder_monitors (o : Order) {s : State} (good : monitorsLawful s) :
    monitorsLawful (setPortOrder o s) := by
  simp only [setPortOrder]
  (repeat' split) <;>
    (repeat (with_reducible first | apply finishOrder_monitors | apply applySetPort_monitors)) <;> exact good

theorem readPortOrder_monitors (o : Order) {s : State} (good : monitorsLawful s) :
    monitorsLawful (readPortOrder o s) := by
  simp only [readPortOrder]
  (repeat' split) <;> apply finishOrder_monitors
  · exact good
  · exact good
  · exact setMonitor_monitors _ (clearCounters_lawful (good _)) good

theorem loadTariffOrder_monitors (o : Order) {s : State} (good : monitorsLawful s) :
    monitorsLawful (loadTariffOrder o s) := by
  exact monitors_congr good (by simp)

theorem latchAccountOrder_monitors (o : Order) {s : State} (good : monitorsLawful s) :
    monitorsLawful (latchAccountOrder o s) := by
  exact monitors_congr good (by simp)

theorem closeMatchOrder_monitors (o : Order) {s : State} (good : monitorsLawful s) :
    monitorsLawful (closeMatchOrder o s) := by
  exact monitors_congr good (by simp)

theorem setClockOrder_monitors (o : Order) {s : State} (good : monitorsLawful s) :
    monitorsLawful (setClockOrder o s) := by
  exact monitors_congr good (by simp)

theorem startCommand_monitors {s : State} (good : monitorsLawful s) : monitorsLawful (startCommand s) := by
  exact monitors_congr good (by simp)

theorem haltCommand_monitors {s : State} (good : monitorsLawful s) : monitorsLawful (haltCommand s) := by
  exact monitors_congr good (by simp)

theorem setGate_monitors (g : Gate) {s : State} (good : monitorsLawful s) : monitorsLawful (setGate g s) := by
  exact monitors_congr good (by simp)

theorem completeInFlight_monitors (cut : CutOff) {s : State} (good : monitorsLawful s) :
    monitorsLawful (completeInFlight cut s) := by
  exact monitors_congr good (by simp)

theorem completeAccesses_monitors (cut : CutOff) {s : State} (good : monitorsLawful s) :
    monitorsLawful (completeAccesses cut s) := by
  exact monitors_congr good (by simp)

theorem completeTick_monitors (cut : CutOff) {s : State} (good : monitorsLawful s) :
    monitorsLawful (completeTick cut s) := by
  simp only [completeTick]
  (repeat' split) <;>
    (repeat (with_reducible first | apply setRollover_monitors | apply owedTick_monitors)) <;> exact good

theorem completeHolds_monitors {s : State} (good : monitorsLawful s) : monitorsLawful (completeHolds s) := by
  exact monitors_congr good (by simp)

theorem ownerTakes_monitors (o : Order) {s : State} (good : monitorsLawful s) : monitorsLawful (ownerTakes o s) := by
  simp only [ownerTakes]
  (repeat' split) <;>
    (repeat (with_reducible first
          | apply bookOrder_monitors | apply cancelOrder_monitors | apply extendOrder_monitors
          | apply switchOrder_monitors | apply setLegOrder_monitors | apply setPortOrder_monitors
          | apply readPortOrder_monitors | apply loadTariffOrder_monitors | apply latchAccountOrder_monitors
          | apply closeMatchOrder_monitors | apply setClockOrder_monitors)) <;> exact good

theorem completeEntry_monitors (cut : CutOff) {s : State} (good : monitorsLawful s) :
    monitorsLawful (completeEntry cut s) := by
  exact monitors_congr good (by simp)

theorem completeDispatched_monitors (cut : CutOff) {s : State} (good : monitorsLawful s) :
    monitorsLawful (completeDispatched cut s) := by
  simp only [completeDispatched]
  (repeat' split) <;>
    (repeat (with_reducible first
          | apply completeInFlight_monitors | apply ownerTakes_monitors | apply setGate_monitors)) <;> exact good

theorem completeSegment_monitors (cut : CutOff) {s : State} (good : monitorsLawful s) :
    monitorsLawful (completeSegment cut s) := by
  exact monitors_congr good (by simp)

theorem completeOrder_monitors (cut : CutOff) {s : State} (good : monitorsLawful s) :
    monitorsLawful (completeOrder cut s) := by
  simp only [completeOrder]
  (repeat (with_reducible first
        | apply completeSegment_monitors | apply completeDispatched_monitors | apply completeEntry_monitors
        | apply setGate_monitors))
  exact good

theorem completeInside_monitors (cut : CutOff) {s : State} (good : monitorsLawful s) :
    monitorsLawful (completeInside cut s) := by
  simp only [completeInside]
  (repeat (with_reducible first
        | apply completeOrder_monitors | apply completeHolds_monitors | apply completeTick_monitors
        | apply completeAccesses_monitors))
  exact good

theorem softClear_monitors {s : State} (good : monitorsLawful s) : monitorsLawful (softClear s) := by
  exact monitors_congr good (by simp)

theorem latchLeave_monitors (from_ : RunState) {s : State} (good : monitorsLawful s) :
    monitorsLawful (latchLeave from_ s) := by
  exact monitors_congr good (by simp)

theorem softReset_monitors (cut : CutOff) {s : State} (good : monitorsLawful s) :
    monitorsLawful (softReset cut s) := by
  simp only [softReset]
  (repeat (with_reducible first
        | apply settlePage_monitors | apply latchLeave_monitors | apply softClear_monitors
        | apply completeInside_monitors | apply abandonPage_monitors))
  exact good

theorem hardReset_monitors (s : State) : monitorsLawful (hardReset s) := by
  intro p
  simp [hardReset, State.hardReset, Monitor.hardReset, monitorLawful]

theorem resetRelease_monitors (instant : Nat) {s : State} (good : monitorsLawful s) :
    monitorsLawful (resetRelease instant s) := by
  simp only [resetRelease]
  split
  · exact good
  · exact monitors_congr (hardReset_monitors s) (by simp)

theorem areaWrite_monitors (high : Bool) (value : Word) {s : State} (good : monitorsLawful s) :
    monitorsLawful (areaWrite high value s) := by
  exact monitors_congr good (by simp)

theorem flagsWrite_monitors (value : Word) {s : State} (good : monitorsLawful s) :
    monitorsLawful (flagsWrite value s) := by
  exact monitors_congr good (by simp)

theorem ctrlCommand_monitors (command : BitVec 2) (cut : CutOff) {s : State} (good : monitorsLawful s) :
    monitorsLawful (ctrlCommand command cut s) := by
  simp only [ctrlCommand]
  (repeat' split) <;>
    (repeat (with_reducible first
          | apply startCommand_monitors | apply haltCommand_monitors | apply softReset_monitors)) <;> exact good

theorem ctrlWrite_monitors (value : Word) (cut : CutOff) {s : State} (good : monitorsLawful s) :
    monitorsLawful (ctrlWrite value cut s) := by
  simp only [ctrlWrite]
  (repeat' split) <;>
    (repeat (with_reducible first | apply ctrlCommand_monitors | apply modeWrite_monitors)) <;> exact good

theorem nextAlarmRegister_monitors (value : Word) {s : State} (good : monitorsLawful s) :
    monitorsLawful (nextAlarmRegister value s) := by
  exact monitors_congr good (by simp)

theorem registerWrite_monitors (r : Register) (enables : BitVec 4) (value : Word) (cut : CutOff) {s : State}
    (good : monitorsLawful s) : monitorsLawful (registerWrite r enables value cut s) := by
  simp only [registerWrite]
  (repeat' split) <;>
    (repeat (with_reducible first
          | apply ctrlWrite_monitors | apply areaWrite_monitors | apply orderEndWrite_monitors
          | apply flagsWrite_monitors | apply nextAlarmRegister_monitors)) <;> exact good

end Sys2Proof.Machine
end

