-- ==== Sys2Proof/Laws/Page.lean ====
section
/-! SUPPORT. What the status page logic can do at a tick, said once: the writes of a page, and the page, its count and the
marks after a tick and after the ticks of boundaries that were owed (R166, R167). -/

namespace Sys2Proof.Machine

/-! ### The writes of a page -/

theorem pageDelivery_eq (d : Fin 64) (s : State) : pageDelivery d s = portBytes d s := by
  simp only [pageDelivery, portBytes, carrierLeg]
  cases hp : s.rows[d].pending <;> cases ho : ownerOf d s <;>
    simp [padTo, le, zeros, sourceOptCode, carrierCode, carrierOf, List.replicate] <;> (repeat' split) <;> simp_all

theorem pageHead_eq (time : Stamp) (s : State) : pageHead time s = wholeBytes time s := by
  simp only [pageHead, wholeBytes]
  cases hp : s.clock.secref <;> cases ho : s.clock.frameref <;> cases hb : s.tickets.blocked <;>
    simp [padTo, le, zeros, secrefCode, framerefCode, boolCode, List.replicate]

theorem pageSource_eq (p : Fin 48) (s : State) : pageSource p s =
    le 1 (healthCode s.monitors[p].health) ++ le 1 (classCode s.monitors[p].lastClass) ++ zeros 2 := by
  simp [pageSource, padTo, le, zeros, List.replicate]

/-- R167, R168: the writes of a page are those of the layout. -/
theorem pageWrites_eq (count : BitVec 32) (time : Stamp) (s : State) : pageWrites count time s = pageOf count time s := by
  simp only [pageWrites, pageOf, areaAddress, Config.statusPageOffset, pageHead_eq, pageDelivery_eq, pageSource_eq, pageAlarm,
    zeros, Nat.reduceAdd]
  rfl

/-! ### A tick at the page logic -/

theorem nextMark_frame (s : State) : nextMark s = withPage (nextMark s) s := rfl

/-- A page tick moves the page, its count and the marks alone, and leaves the ticks of boundaries that are owed. -/
theorem pageTick_frame (boundary : Bool) (time : Stamp) (s : State) :
    pageTick boundary time s = withPage (pageTick boundary time s) s ∧
      (pageTick boundary time s).link.pageTicks = s.link.pageTicks := by
  simp only [pageTick]
  (repeat' split) <;> exact ⟨rfl, rfl⟩

/-- R166, R167: a tick at which a page is due. -/
theorem pageTick_due {boundary : Bool} (time : Stamp) {s : State} (h : boundary = true ∨ s.link.pageDue = true) :
    pageTaken time false s (pageTick boundary time s) := by
  have hd : (boundary || s.link.pageDue) = true := by simpa using h
  by_cases ho : s.link.run ≠ .dormant ∧ s.link.fatal = .none
  · by_cases hp : s.link.page = none
    · have e : pageTick boundary time s = nextMark (beginPage time s) := by
        simp [pageTick, hd, pagesOn, ho.1, ho.2, hp]
      rw [e]
      refine ⟨rfl, fun _ _ => ⟨rfl, ?_, by simp [nextMark, beginPage]⟩, fun _ x => absurd hp x, fun x => absurd ho x⟩
      exact congrArg some (pageWrites_eq _ _ s)
    · have e : pageTick boundary time s = nextMark (markPage s) := by
        simp [pageTick, hd, pagesOn, ho.1, ho.2, hp, Option.isNone_iff_eq_none]
      rw [e]
      exact ⟨rfl, fun _ x => absurd x hp, fun _ _ => ⟨⟨rfl, rfl⟩, by simp [nextMark, markPage]⟩, fun x => absurd ho x⟩
  · have e : pageTick boundary time s = nextMark s := by
      have hf : pagesOn s = false := by simp [pagesOn, ho]
      simp [pageTick, hf]
    rw [e]
    exact ⟨rfl, fun x => absurd x ho, fun x => absurd x ho, fun _ => ⟨⟨rfl, rfl⟩, rfl⟩⟩

/-- R166: a tick at which none is due. -/
theorem pageTick_idle (time : Stamp) {s : State} (h : s.link.pageDue = false) : pageTick false time s = nextMark s := by
  simp [pageTick, h]

/-- What the page logic alone has moved stays so when it moves on. -/
theorem withPage_trans {s t u : State} (h : t = withPage t s) (k : u = withPage u t) : u = withPage u s := by
  rw [k, h]; rfl

/-- The writes of a page do not depend on what the page logic moves. -/
theorem pageOf_withPage (count : BitVec 32) (time : Stamp) {s t : State} (h : t = withPage t s) :
    pageOf count time t = pageOf count time s := by
  rw [h]; rfl

/-- R166: a later boundary taken with a tick at which a page was due finds the page in flight and sets the mark. -/
theorem pageTaken_more {time : Stamp} {more : Bool} {s t : State} (x : Stamp) (h : pageTaken time more s t)
    (k : t = withPage t s) : pageTaken time true s (pageTick true x t) := by
  have hu := pageTick_due (s := t) x (.inl rfl : true = true ∨ _)
  have fu := (pageTick_frame true x t).1
  have er : t.link.run = s.link.run := by rw [k]; rfl
  have ef : t.link.fatal = s.link.fatal := by rw [k]; rfl
  generalize pageTick true x t = u at *
  obtain ⟨h1, h2, h3, h4⟩ := h
  obtain ⟨u1, u2, u3, u4⟩ := hu
  simp only [er, ef, h1] at u2 u3 u4
  refine ⟨u1, fun o p => ?_, fun o p => ?_, fun o => ?_⟩
  · obtain ⟨a1, a2, a3⟩ := h2 o p
    obtain ⟨⟨b1, b2⟩, b3⟩ := u3 o (by simp [a2])
    exact ⟨b2.trans a1, by rw [b1, a2, pageOf_withPage _ _ fu], by simp [b3]⟩
  · obtain ⟨⟨a1, a2⟩, a3⟩ := h3 o p
    obtain ⟨⟨b1, b2⟩, b3⟩ := u3 o (by rwa [a1])
    exact ⟨⟨b1.trans a1, b2.trans a2⟩, b3⟩
  · obtain ⟨⟨a1, a2⟩, a3⟩ := h4 o
    obtain ⟨⟨b1, b2⟩, b3⟩ := u4 o
    exact ⟨⟨b1.trans a1, b2.trans a2⟩, by simp [b3, a3]⟩

theorem takeOwed_more {time : Stamp} {s : State} (later : List OwedTick) {more : Bool} {t : State}
    (h : pageTaken time more s t) (k : t = withPage t s) :
    pageTaken time (more || !later.isEmpty) s (takeOwed later t) ∧ takeOwed later t = withPage (takeOwed later t) s ∧
      (takeOwed later t).link.pageTicks = t.link.pageTicks := by
  induction later generalizing more t with
  | nil => exact ⟨by simpa [takeOwed] using h, k, rfl⟩
  | cons x rest ih =>
    obtain ⟨f1, f2⟩ := pageTick_frame true x.time t
    obtain ⟨a, b, c⟩ := ih (pageTaken_more x.time h k) (withPage_trans k f1)
    exact ⟨by simpa [takeOwed] using a, b, c.trans f2⟩

/-- R166: the ticks of boundaries that the page logic takes, each at its time. -/
theorem takeOwed_taken (ticks : List OwedTick) (s : State) :
    takeOwed ticks s = withPage (takeOwed ticks s) s ∧ (takeOwed ticks s).link.pageTicks = s.link.pageTicks ∧
      (ticks = [] → takeOwed ticks s = s) ∧
      ∀ e later, ticks = e :: later → pageTaken e.time (!later.isEmpty) s (takeOwed ticks s) := by
  match ticks with
  | [] => exact ⟨rfl, rfl, fun _ => rfl, fun _ _ h => by simp at h⟩
  | e :: later =>
    obtain ⟨f1, f2⟩ := pageTick_frame true e.time s
    obtain ⟨a, b, c⟩ := takeOwed_more later (pageTick_due e.time (.inl rfl)) f1
    refine ⟨b, c.trans f2, fun h => by simp at h, fun e' later' h => ?_⟩
    obtain ⟨rfl, rfl⟩ := List.cons.inj h
    exact a

/-- R166: the page logic takes the ticks it owes whose boundaries are through, and keeps the others. -/
theorem settlePage_taken (s : State) :
    settlePage s = withPage (settlePage s) s ∧ owedPaged s.link.pageTicks s (settlePage s) := by
  let v : State := { s with link := { s.link with pageTicks := s.link.pageTicks.dropWhile (pageReady s) } }
  obtain ⟨a, b, c, d⟩ := takeOwed_taken (s.link.pageTicks.takeWhile (pageReady s)) v
  have f : settlePage s = withPage (settlePage s) s := withPage_trans (t := v) rfl a
  have r : pageReady (settlePage s) = pageReady s := by rw [f]; rfl
  refine ⟨f, ?_⟩
  simp only [owedPaged, r]
  refine ⟨b, fun h => ?_, fun e later h => d e later h⟩
  have e : settlePage s = v := c h
  rw [e]
  exact ⟨⟨rfl, rfl⟩, ⟨rfl, rfl⟩⟩

/-- R166, R168: the page logic is handed the tick of a boundary. -/
theorem boundaryPage_taken (minute : BitVec 32) (s : State) :
    boundaryPage minute s = withPage (boundaryPage minute s) s ∧ boundaryPaged minute s (boundaryPage minute s) := by
  let time : Stamp := { minute := minute.toNat, second := 0 }
  let v : State := { s with link := { s.link with pageTicks := s.link.pageTicks ++ [tickOwed time s] } }
  obtain ⟨f, k⟩ := settlePage_taken v
  have f' : boundaryPage minute s = withPage (boundaryPage minute s) s := withPage_trans (t := v) rfl f
  have e : tickOwed time (boundaryPage minute s) = tickOwed time s := by rw [f']; rfl
  refine ⟨f', ?_⟩
  show owedPaged (s.link.pageTicks ++ [tickOwed time (boundaryPage minute s)]) s (boundaryPage minute s)
  rw [e]
  exact k

/-- R166: a tick that is no boundary begins a page where the mark stands, whatever boundary is still owed. -/
theorem secondPage_taken (ahead : Bool) (s : State) :
    let v := if ahead then s else nextMark s
    (secondPage ahead s).link.pageTicks = s.link.pageTicks ∧ secondPage ahead s = withPage (secondPage ahead s) s ∧
      (v.link.pageDue = true → pageTaken (clockTime s.clock) false v (secondPage ahead s)) ∧
      (v.link.pageDue = false → secondPage ahead s = nextMark v) := by
  cases ahead
  · obtain ⟨f1, f2⟩ := pageTick_frame false (clockTime s.clock) (nextMark s)
    exact ⟨f2, withPage_trans (nextMark_frame s) f1, fun h => pageTick_due _ (.inr h), fun h => pageTick_idle _ h⟩
  · obtain ⟨f1, f2⟩ := pageTick_frame false (clockTime s.clock) s
    exact ⟨f2, f1, fun h => pageTick_due _ (.inr h), fun h => pageTick_idle _ h⟩

end Sys2Proof.Machine
end

