-- ==== Sys2Proof/WellFormed.lean ====
section
/-! DEFINITION. Which commands are well formed: a block takes one tick once, and a soft reset leaves the last write of a
page unissued (otherwise the page was complete before it). -/

namespace Sys2Proof

/-- A tick order names each block at most once. -/
def TickOrder.wf (order : TickOrder) : Bool := decide order.Nodup

/-- R167: a page has seven writes in this model and is complete with the last one (log 13), which a soft reset leaves
unissued. The tick it may have to hand out names each block at most once. -/
def CutOff.wf (cut : CutOff) : Bool := decide (cut.pageIssued ≤ 6) && TickOrder.wf cut.order

/-- A command is well formed. -/
def Instr.wf (i : Instr) : Bool :=
  match i with
  | .secrefPulse _ order => TickOrder.wf order
  | .secrefTimeout order => TickOrder.wf order
  | .ownTick order => TickOrder.wf order
  | .softReset pageIssued orderIssued answer =>
    CutOff.wf { toCutAnswers := answer, pageIssued := pageIssued, orderIssued := orderIssued }
  | .registerWrite register _ _ => register.cut.wf
  | .minuteBoundary order => TickOrder.wf order.early
  | .start | .halt | .modeWrite _ _ | .areaWrite _ _ | .orderEndWrite _ | .flagsRead _ | .flagsWrite _
  | .ack _ _ | .push _ _ _ | .pop | .hardReset | .resetRelease _ | .relockTimeout
  | .framerefPulse _ | .framerefTimeout | .receiverObservation _ _ | .lossOfLightEdge _
  | .holdOffReached _ | .restoreTimerExpiry _ | .busFault _ | .completionTimeout _ | .headerReadComplete _
  | .identityWriteComplete | .orderTaken | .entryReadComplete _ | .book | .bookRecordRead _ | .cancel | .extend
  | .switch | .setLeg | .setPort | .readPort | .loadTariff | .tariffSegmentRead _ | .latchAccount | .closeMatch
  | .setClock | .ratingRelease | .pageComplete | .ticketSlotReadComplete _ => true

end Sys2Proof
end

