-- ==== Sys2Proof/Laws/PerInstr.lean ====
section
/-! SUPPORT. Statements made of each command as syntax, one lemma for each constructor of Instr. -/

namespace Sys2Proof.Laws

/-- What well-formedness asks of a command: a tick order names each block once, and a soft reset finds at most six writes of
a page issued. -/
def WellFormedness.Statement (i : Instr) : Prop :=
  i.wf = true ↔
    (∀ instant order, i = .secrefPulse instant order → order.Nodup) ∧
    (∀ order, i = .secrefTimeout order ∨ i = .ownTick order → order.Nodup) ∧
    (∀ order, i = .minuteBoundary order → order.early.Nodup) ∧
    (∀ pageIssued orderIssued answer, i = .softReset pageIssued orderIssued answer → pageIssued ≤ 6 ∧ answer.order.Nodup) ∧
    ∀ register enables value, i = .registerWrite register enables value →
      register.cut.pageIssued ≤ 6 ∧ register.cut.order.Nodup

/-- A command that carries no tick order and no soft reset is well formed. -/
theorem WellFormedness.plain {i : Instr} (hw : i.wf = true) (hp : ∀ t o, i ≠ .secrefPulse t o)
    (ht : ∀ o, i ≠ .secrefTimeout o) (ho : ∀ o, i ≠ .ownTick o) (hm : ∀ o, i ≠ .minuteBoundary o)
    (hs : ∀ n m a, i ≠ .softReset n m a) (hr : ∀ r e v, i ≠ .registerWrite r e v) : WellFormedness.Statement i := by
  refine ⟨fun _ => ⟨fun t o h => absurd h (hp t o), fun o h => ?_, fun o h => absurd h (hm o),
    fun n m a h => absurd h (hs n m a), fun g e v h => absurd h (hr g e v)⟩, fun _ => hw⟩
  exact h.elim (fun h => absurd h (ht o)) (fun h => absurd h (ho o))

theorem WellFormedness.start : WellFormedness.Statement .start :=
  WellFormedness.plain rfl nofun nofun nofun nofun nofun nofun

theorem WellFormedness.halt : WellFormedness.Statement .halt :=
  WellFormedness.plain rfl nofun nofun nofun nofun nofun nofun

theorem WellFormedness.softReset (pageIssued orderIssued : Nat) (answer : CutAnswers) :
    WellFormedness.Statement (.softReset pageIssued orderIssued answer) := by
  simp [WellFormedness.Statement, Instr.wf, CutOff.wf, TickOrder.wf]

theorem WellFormedness.modeWrite (mode : BitVec 2) (spotlight : BitVec 6)
    : WellFormedness.Statement (.modeWrite mode spotlight) :=
  WellFormedness.plain rfl nofun nofun nofun nofun nofun nofun

theorem WellFormedness.areaWrite (high : Bool) (value : Word) : WellFormedness.Statement (.areaWrite high value) :=
  WellFormedness.plain rfl nofun nofun nofun nofun nofun nofun

theorem WellFormedness.orderEndWrite (value : Word) : WellFormedness.Statement (.orderEndWrite value) :=
  WellFormedness.plain rfl nofun nofun nofun nofun nofun nofun

theorem WellFormedness.flagsRead (enables : BitVec 4) : WellFormedness.Statement (.flagsRead enables) :=
  WellFormedness.plain rfl nofun nofun nofun nofun nofun nofun

theorem WellFormedness.flagsWrite (value : Word) : WellFormedness.Statement (.flagsWrite value) :=
  WellFormedness.plain rfl nofun nofun nofun nofun nofun nofun

theorem WellFormedness.ack (item : BitVec 6) (pop : Bool) : WellFormedness.Statement (.ack item pop) :=
  WellFormedness.plain rfl nofun nofun nofun nofun nofun nofun

theorem WellFormedness.push (item : BitVec 6) (ack pop : Bool) : WellFormedness.Statement (.push item ack pop) :=
  WellFormedness.plain rfl nofun nofun nofun nofun nofun nofun

theorem WellFormedness.pop : WellFormedness.Statement .pop :=
  WellFormedness.plain rfl nofun nofun nofun nofun nofun nofun

theorem WellFormedness.registerWrite (register : WriteTarget) (enables : BitVec 4) (value : Word) :
    WellFormedness.Statement (.registerWrite register enables value) := by
  simp [WellFormedness.Statement, Instr.wf, CutOff.wf, TickOrder.wf]

theorem WellFormedness.hardReset : WellFormedness.Statement .hardReset :=
  WellFormedness.plain rfl nofun nofun nofun nofun nofun nofun

theorem WellFormedness.resetRelease (instant : Nat) : WellFormedness.Statement (.resetRelease instant) :=
  WellFormedness.plain rfl nofun nofun nofun nofun nofun nofun

theorem WellFormedness.secrefPulse (instant : Nat) (order : TickOrder)
    : WellFormedness.Statement (.secrefPulse instant order) := by
  simp [WellFormedness.Statement, Instr.wf, TickOrder.wf]

theorem WellFormedness.secrefTimeout (order : TickOrder) : WellFormedness.Statement (.secrefTimeout order) := by
  simp [WellFormedness.Statement, Instr.wf, TickOrder.wf]

theorem WellFormedness.ownTick (order : TickOrder) : WellFormedness.Statement (.ownTick order) := by
  simp [WellFormedness.Statement, Instr.wf, TickOrder.wf]

theorem WellFormedness.relockTimeout : WellFormedness.Statement .relockTimeout :=
  WellFormedness.plain rfl nofun nofun nofun nofun nofun nofun

theorem WellFormedness.framerefPulse (instant : Nat) : WellFormedness.Statement (.framerefPulse instant) :=
  WellFormedness.plain rfl nofun nofun nofun nofun nofun nofun

theorem WellFormedness.framerefTimeout : WellFormedness.Statement .framerefTimeout :=
  WellFormedness.plain rfl nofun nofun nofun nofun nofun nofun

theorem WellFormedness.minuteBoundary (order : BoundaryOrder) : WellFormedness.Statement (.minuteBoundary order) := by
  simp [WellFormedness.Statement, Instr.wf, TickOrder.wf]

theorem WellFormedness.receiverObservation (port : Fin 48) (seen : Observation)
    : WellFormedness.Statement (.receiverObservation port seen) :=
  WellFormedness.plain rfl nofun nofun nofun nofun nofun nofun

theorem WellFormedness.lossOfLightEdge (port : Fin 48) : WellFormedness.Statement (.lossOfLightEdge port) :=
  WellFormedness.plain rfl nofun nofun nofun nofun nofun nofun

theorem WellFormedness.holdOffReached (port : Fin 48) : WellFormedness.Statement (.holdOffReached port) :=
  WellFormedness.plain rfl nofun nofun nofun nofun nofun nofun

theorem WellFormedness.restoreTimerExpiry (port : Fin 48) : WellFormedness.Statement (.restoreTimerExpiry port) :=
  WellFormedness.plain rfl nofun nofun nofun nofun nofun nofun

theorem WellFormedness.busFault (after : Nat) : WellFormedness.Statement (.busFault after) :=
  WellFormedness.plain rfl nofun nofun nofun nofun nofun nofun

theorem WellFormedness.completionTimeout (after : Nat) : WellFormedness.Statement (.completionTimeout after) :=
  WellFormedness.plain rfl nofun nofun nofun nofun nofun nofun

theorem WellFormedness.headerReadComplete (bytes : Vector Byte 80)
    : WellFormedness.Statement (.headerReadComplete bytes) :=
  WellFormedness.plain rfl nofun nofun nofun nofun nofun nofun

theorem WellFormedness.identityWriteComplete : WellFormedness.Statement .identityWriteComplete :=
  WellFormedness.plain rfl nofun nofun nofun nofun nofun nofun

theorem WellFormedness.orderTaken : WellFormedness.Statement .orderTaken :=
  WellFormedness.plain rfl nofun nofun nofun nofun nofun nofun

theorem WellFormedness.entryReadComplete (bytes : Vector Byte 24)
    : WellFormedness.Statement (.entryReadComplete bytes) :=
  WellFormedness.plain rfl nofun nofun nofun nofun nofun nofun

theorem WellFormedness.book : WellFormedness.Statement .book :=
  WellFormedness.plain rfl nofun nofun nofun nofun nofun nofun

theorem WellFormedness.bookRecordRead (bytes : Vector Byte 20) : WellFormedness.Statement (.bookRecordRead bytes) :=
  WellFormedness.plain rfl nofun nofun nofun nofun nofun nofun

theorem WellFormedness.cancel : WellFormedness.Statement .cancel :=
  WellFormedness.plain rfl nofun nofun nofun nofun nofun nofun

theorem WellFormedness.extend : WellFormedness.Statement .extend :=
  WellFormedness.plain rfl nofun nofun nofun nofun nofun nofun

theorem WellFormedness.switch : WellFormedness.Statement .switch :=
  WellFormedness.plain rfl nofun nofun nofun nofun nofun nofun

theorem WellFormedness.setLeg : WellFormedness.Statement .setLeg :=
  WellFormedness.plain rfl nofun nofun nofun nofun nofun nofun

theorem WellFormedness.setPort : WellFormedness.Statement .setPort :=
  WellFormedness.plain rfl nofun nofun nofun nofun nofun nofun

theorem WellFormedness.readPort : WellFormedness.Statement .readPort :=
  WellFormedness.plain rfl nofun nofun nofun nofun nofun nofun

theorem WellFormedness.loadTariff : WellFormedness.Statement .loadTariff :=
  WellFormedness.plain rfl nofun nofun nofun nofun nofun nofun

theorem WellFormedness.tariffSegmentRead (bytes : Vector Byte 240)
    : WellFormedness.Statement (.tariffSegmentRead bytes) :=
  WellFormedness.plain rfl nofun nofun nofun nofun nofun nofun

theorem WellFormedness.latchAccount : WellFormedness.Statement .latchAccount :=
  WellFormedness.plain rfl nofun nofun nofun nofun nofun nofun

theorem WellFormedness.closeMatch : WellFormedness.Statement .closeMatch :=
  WellFormedness.plain rfl nofun nofun nofun nofun nofun nofun

theorem WellFormedness.setClock : WellFormedness.Statement .setClock :=
  WellFormedness.plain rfl nofun nofun nofun nofun nofun nofun

theorem WellFormedness.ratingRelease : WellFormedness.Statement .ratingRelease :=
  WellFormedness.plain rfl nofun nofun nofun nofun nofun nofun

theorem WellFormedness.pageComplete : WellFormedness.Statement .pageComplete :=
  WellFormedness.plain rfl nofun nofun nofun nofun nofun nofun

theorem WellFormedness.ticketSlotReadComplete (state : Byte)
    : WellFormedness.Statement (.ticketSlotReadComplete state) :=
  WellFormedness.plain rfl nofun nofun nofun nofun nofun nofun

end Sys2Proof.Laws
end

