-- ==== Sys2Proof/Laws/Place.lean ====
section
/-! SUPPORT. What each shared operation leaves alone of the link: the area base, the permissions, the windows in force and the
answer to the last register read. -/

namespace Sys2Proof.Machine

@[simp] theorem record_place (op : LinkOp) (s : State) :
    (record op s).link.area = s.link.area ∧ (record op s).link.permissions = s.link.permissions ∧
    (record op s).link.windows = s.link.windows ∧ (record op s).link.answer = s.link.answer := by
  simp [record]

@[simp] theorem setFlags_place (f : BitVec 7) (s : State) :
    (setFlags f s).link.area = s.link.area ∧ (setFlags f s).link.permissions = s.link.permissions ∧
    (setFlags f s).link.windows = s.link.windows ∧ (setFlags f s).link.answer = s.link.answer := by
  simp only [setFlags]
  (repeat' split) <;> simp [*]

@[simp] theorem latch_place (f : Flag) (s : State) :
    (latch f s).link.area = s.link.area ∧ (latch f s).link.permissions = s.link.permissions ∧
    (latch f s).link.windows = s.link.windows ∧ (latch f s).link.answer = s.link.answer := by
  simp only [latch]
  (repeat' split) <;> simp [*]

@[simp] theorem followAlarm_place (s : State) :
    (followAlarm s).link.area = s.link.area ∧ (followAlarm s).link.permissions = s.link.permissions ∧
    (followAlarm s).link.windows = s.link.windows ∧ (followAlarm s).link.answer = s.link.answer := by
  simp [followAlarm]

@[simp] theorem setAlarm_place (a : Alarm) (s : State) :
    (setAlarm a s).link.area = s.link.area ∧ (setAlarm a s).link.permissions = s.link.permissions ∧
    (setAlarm a s).link.windows = s.link.windows ∧ (setAlarm a s).link.answer = s.link.answer := by
  simp [setAlarm]

@[simp] theorem setSeverity_place (i : Fin 51) (severity : Fin 4) (s : State) :
    (setSeverity i severity s).link.area = s.link.area ∧
    (setSeverity i severity s).link.permissions = s.link.permissions ∧
    (setSeverity i severity s).link.windows = s.link.windows ∧ (setSeverity i severity s).link.answer = s.link.answer := by
  simp [setSeverity]

@[simp] theorem nextAlarmWrite_place (ack push pop : Bool) (item : BitVec 6) (s : State) :
    (nextAlarmWrite ack push pop item s).link.area = s.link.area ∧
    (nextAlarmWrite ack push pop item s).link.permissions = s.link.permissions ∧
    (nextAlarmWrite ack push pop item s).link.windows = s.link.windows ∧
    (nextAlarmWrite ack push pop item s).link.answer = s.link.answer := by
  simp [nextAlarmWrite]

@[simp] theorem modeWrite_place (mode : BitVec 2) (spotlight : BitVec 6) (s : State) :
    (modeWrite mode spotlight s).link.area = s.link.area ∧
    (modeWrite mode spotlight s).link.permissions = s.link.permissions ∧
    (modeWrite mode spotlight s).link.windows = s.link.windows ∧
    (modeWrite mode spotlight s).link.answer = s.link.answer := by
  simp [modeWrite]

@[simp] theorem loseTicket_place (m : Option Nat) (s : State) :
    (loseTicket m s).link.area = s.link.area ∧ (loseTicket m s).link.permissions = s.link.permissions ∧
    (loseTicket m s).link.windows = s.link.windows ∧ (loseTicket m s).link.answer = s.link.answer := by
  simp only [loseTicket]
  (repeat' split) <;> simp [*]

@[simp] theorem loseRaise_place (r : Raise) (s : State) :
    (loseRaise r s).link.area = s.link.area ∧ (loseRaise r s).link.permissions = s.link.permissions ∧
    (loseRaise r s).link.windows = s.link.windows ∧ (loseRaise r s).link.answer = s.link.answer := by
  simp [loseRaise]

@[simp] theorem closeInside_place (r : Raise) (s : State) :
    (closeInside r s).link.area = s.link.area ∧ (closeInside r s).link.permissions = s.link.permissions ∧
    (closeInside r s).link.windows = s.link.windows ∧ (closeInside r s).link.answer = s.link.answer := by
  simp [closeInside]

@[simp] theorem enterHeld_place (s : State) :
    (enterHeld s).link.area = s.link.area ∧ (enterHeld s).link.permissions = s.link.permissions ∧
    (enterHeld s).link.windows = s.link.windows ∧ (enterHeld s).link.answer = s.link.answer := by
  simp [enterHeld]

@[simp] theorem dropAccess_place (a : Access) (s : State) :
    (dropAccess a s).link.area = s.link.area ∧ (dropAccess a s).link.permissions = s.link.permissions ∧
    (dropAccess a s).link.windows = s.link.windows ∧ (dropAccess a s).link.answer = s.link.answer := by
  simp only [dropAccess]
  (repeat' split) <;> simp [*]

@[simp] theorem dropAccesses_place (s : State) :
    (dropAccesses s).link.area = s.link.area ∧ (dropAccesses s).link.permissions = s.link.permissions ∧
    (dropAccesses s).link.windows = s.link.windows ∧ (dropAccesses s).link.answer = s.link.answer := by
  simp [dropAccesses, foldl_keeps (fun t : State => t.link.area), foldl_keeps (fun t : State => t.link.permissions),
      foldl_keeps (fun t : State => t.link.windows), foldl_keeps (fun t : State => t.link.answer)]

@[simp] theorem takeBusFault_place (s : State) :
    (takeBusFault s).link.area = s.link.area ∧ (takeBusFault s).link.permissions = s.link.permissions ∧
    (takeBusFault s).link.windows = s.link.windows ∧ (takeBusFault s).link.answer = s.link.answer := by
  simp only [takeBusFault]
  (repeat' split) <;> simp [*, faultedLink]

@[simp] theorem sendWrite_place (w : HostWrite) (s : State) :
    (sendWrite w s).link.area = s.link.area ∧ (sendWrite w s).link.permissions = s.link.permissions ∧
    (sendWrite w s).link.windows = s.link.windows ∧ (sendWrite w s).link.answer = s.link.answer := by
  simp only [sendWrite]
  (repeat' split) <;> simp [*]

@[simp] theorem issue_place (w : HostWrite) (s : State) :
    (issue w s).link.area = s.link.area ∧ (issue w s).link.permissions = s.link.permissions ∧
    (issue w s).link.windows = s.link.windows ∧ (issue w s).link.answer = s.link.answer := by
  simp only [issue]
  (repeat' split) <;> simp [*]

@[simp] theorem issueAll_place (ws : List HostWrite) (s : State) :
    (issueAll ws s).link.area = s.link.area ∧ (issueAll ws s).link.permissions = s.link.permissions ∧
    (issueAll ws s).link.windows = s.link.windows ∧ (issueAll ws s).link.answer = s.link.answer := by
  induction ws generalizing s with
  | nil => simp [issueAll]
  | cons w ws ih => simpa [issueAll] using ih (issue w s)

@[simp] theorem issueRead_place (address : Address) (length : Nat) (s : State) :
    (issueRead address length s).link.area = s.link.area ∧
    (issueRead address length s).link.permissions = s.link.permissions ∧
    (issueRead address length s).link.windows = s.link.windows ∧
    (issueRead address length s).link.answer = s.link.answer := by
  simp only [issueRead]
  (repeat' split) <;> simp [*]

@[simp] theorem takeEntry_place (s : State) :
    (takeEntry s).link.area = s.link.area ∧ (takeEntry s).link.permissions = s.link.permissions ∧
    (takeEntry s).link.windows = s.link.windows ∧ (takeEntry s).link.answer = s.link.answer := by
  simp only [takeEntry]
  (repeat' split) <;> simp [*]

@[simp] theorem afterOrder_place (s : State) :
    (afterOrder s).link.area = s.link.area ∧ (afterOrder s).link.permissions = s.link.permissions ∧
    (afterOrder s).link.windows = s.link.windows ∧ (afterOrder s).link.answer = s.link.answer := by
  simp only [afterOrder]
  (repeat' split) <;> simp [*]

@[simp] theorem orderDone_place (notify : Bool) (s : State) :
    (orderDone notify s).link.area = s.link.area ∧ (orderDone notify s).link.permissions = s.link.permissions ∧
    (orderDone notify s).link.windows = s.link.windows ∧ (orderDone notify s).link.answer = s.link.answer := by
  simp only [orderDone]
  (repeat' split) <;> simp [*]

@[simp] theorem report_place (notify : Bool) (outcome : OutcomeCode) (result : List Byte) (s : State) :
    (report notify outcome result s).link.area = s.link.area ∧
    (report notify outcome result s).link.permissions = s.link.permissions ∧
    (report notify outcome result s).link.windows = s.link.windows ∧
    (report notify outcome result s).link.answer = s.link.answer := by
  simp only [report]
  (repeat' split) <;> simp [*]

@[simp] theorem finishOrder_place (outcome : OutcomeCode) (result : List Byte) (s : State) :
    (finishOrder outcome result s).link.area = s.link.area ∧
    (finishOrder outcome result s).link.permissions = s.link.permissions ∧
    (finishOrder outcome result s).link.windows = s.link.windows ∧
    (finishOrder outcome result s).link.answer = s.link.answer := by
  simp only [finishOrder]
  (repeat' split) <;> simp [*]

@[simp] theorem examineEntry_place (bytes : Vector Byte 24) (s : State) :
    (examineEntry bytes s).link.area = s.link.area ∧ (examineEntry bytes s).link.permissions = s.link.permissions ∧
    (examineEntry bytes s).link.windows = s.link.windows ∧ (examineEntry bytes s).link.answer = s.link.answer := by
  simp only [examineEntry]
  (repeat' split) <;> simp [*]

@[simp] theorem entryRead_place (bytes : Vector Byte 24) (s : State) :
    (entryRead bytes s).link.area = s.link.area ∧ (entryRead bytes s).link.permissions = s.link.permissions ∧
    (entryRead bytes s).link.windows = s.link.windows ∧ (entryRead bytes s).link.answer = s.link.answer := by
  simp only [entryRead]
  (repeat' split) <;> simp [*]

@[simp] theorem orderEndWrite_place (value : Word) (s : State) :
    (orderEndWrite value s).link.area = s.link.area ∧ (orderEndWrite value s).link.permissions = s.link.permissions ∧
    (orderEndWrite value s).link.windows = s.link.windows ∧ (orderEndWrite value s).link.answer = s.link.answer := by
  simp [orderEndWrite]

@[simp] theorem unblockRing_place (s : State) :
    (unblockRing s).link.area = s.link.area ∧ (unblockRing s).link.permissions = s.link.permissions ∧
    (unblockRing s).link.windows = s.link.windows ∧ (unblockRing s).link.answer = s.link.answer := by
  simp only [unblockRing]
  (repeat' split) <;> simp [*]

@[simp] theorem blockRing_place (s : State) :
    (blockRing s).link.area = s.link.area ∧ (blockRing s).link.permissions = s.link.permissions ∧
    (blockRing s).link.windows = s.link.windows ∧ (blockRing s).link.answer = s.link.answer := by
  simp only [blockRing]
  (repeat' split) <;> simp [*]

@[simp] theorem ticketWritten_place (s : State) :
    (ticketWritten s).link.area = s.link.area ∧ (ticketWritten s).link.permissions = s.link.permissions ∧
    (ticketWritten s).link.windows = s.link.windows ∧ (ticketWritten s).link.answer = s.link.answer := by
  simp [ticketWritten]

@[simp] theorem recordClose_place (r : Raise) (s : State) :
    (recordClose r s).link.area = s.link.area ∧ (recordClose r s).link.permissions = s.link.permissions ∧
    (recordClose r s).link.windows = s.link.windows ∧ (recordClose r s).link.answer = s.link.answer := by
  simp [recordClose]

@[simp] theorem finishClose_place (r : Raise) (number : BitVec 32) (s : State) :
    (finishClose r number s).link.area = s.link.area ∧
    (finishClose r number s).link.permissions = s.link.permissions ∧
    (finishClose r number s).link.windows = s.link.windows ∧ (finishClose r number s).link.answer = s.link.answer := by
  simp only [finishClose]
  (repeat' split) <;> simp [*]

@[simp] theorem lostClose_place (r : Raise) (s : State) :
    (lostClose r s).link.area = s.link.area ∧ (lostClose r s).link.permissions = s.link.permissions ∧
    (lostClose r s).link.windows = s.link.windows ∧ (lostClose r s).link.answer = s.link.answer := by
  simp [lostClose]

@[simp] theorem beginAccess_place (a : Access) (s : State) :
    (beginAccess a s).link.area = s.link.area ∧ (beginAccess a s).link.permissions = s.link.permissions ∧
    (beginAccess a s).link.windows = s.link.windows ∧ (beginAccess a s).link.answer = s.link.answer := by
  simp only [beginAccess]
  (repeat' split) <;> simp [*]

@[simp] theorem pump_place (accesses : List Access) (s : State) :
    (pump accesses s).link.area = s.link.area ∧ (pump accesses s).link.permissions = s.link.permissions ∧
    (pump accesses s).link.windows = s.link.windows ∧ (pump accesses s).link.answer = s.link.answer := by
  induction accesses generalizing s with
  | nil => simp [pump]
  | cons a rest ih =>
    simp only [pump]
    split
    · simp
    · simpa using ih (beginAccess a s)

@[simp] theorem pumpWaiting_place (s : State) :
    (pumpWaiting s).link.area = s.link.area ∧ (pumpWaiting s).link.permissions = s.link.permissions ∧
    (pumpWaiting s).link.windows = s.link.windows ∧ (pumpWaiting s).link.answer = s.link.answer := by
  simp [pumpWaiting]

@[simp] theorem submit_place (accesses : List Access) (s : State) :
    (submit accesses s).link.area = s.link.area ∧ (submit accesses s).link.permissions = s.link.permissions ∧
    (submit accesses s).link.windows = s.link.windows ∧ (submit accesses s).link.answer = s.link.answer := by
  simp [submit]

@[simp] theorem writeClose_place (r : Raise) (s : State) :
    (writeClose r s).link.area = s.link.area ∧ (writeClose r s).link.permissions = s.link.permissions ∧
    (writeClose r s).link.windows = s.link.windows ∧ (writeClose r s).link.answer = s.link.answer := by
  simp only [writeClose]
  (repeat' split) <;> simp [*]

@[simp] theorem raiseRead_place (r : Raise) (empty : Bool) (s : State) :
    (raiseRead r empty s).link.area = s.link.area ∧ (raiseRead r empty s).link.permissions = s.link.permissions ∧
    (raiseRead r empty s).link.windows = s.link.windows ∧ (raiseRead r empty s).link.answer = s.link.answer := by
  simp only [raiseRead]
  (repeat' split) <;> simp [*]

@[simp] theorem totalRead_place (k : Fin 128) (minute : Nat) (empty : Bool) (s : State) :
    (totalRead k minute empty s).link.area = s.link.area ∧
    (totalRead k minute empty s).link.permissions = s.link.permissions ∧
    (totalRead k minute empty s).link.windows = s.link.windows ∧
    (totalRead k minute empty s).link.answer = s.link.answer := by
  simp only [totalRead]
  (repeat' split) <;> simp [*]

@[simp] theorem ticketSlotRead_place (state : Byte) (s : State) :
    (ticketSlotRead state s).link.area = s.link.area ∧
    (ticketSlotRead state s).link.permissions = s.link.permissions ∧
    (ticketSlotRead state s).link.windows = s.link.windows ∧ (ticketSlotRead state s).link.answer = s.link.answer := by
  simp only [ticketSlotRead]
  (repeat' split) <;> simp [*]

@[simp] theorem deriveSources_place (s : State) :
    (deriveSources s).link.area = s.link.area ∧ (deriveSources s).link.permissions = s.link.permissions ∧
    (deriveSources s).link.windows = s.link.windows ∧ (deriveSources s).link.answer = s.link.answer := by
  simp [deriveSources]

@[simp] theorem markPage_place (s : State) :
    (markPage s).link.area = s.link.area ∧ (markPage s).link.permissions = s.link.permissions ∧
    (markPage s).link.windows = s.link.windows ∧ (markPage s).link.answer = s.link.answer := by
  simp [markPage]

@[simp] theorem handExecutions_place (ports : List (Fin 64)) (s : State) :
    (handExecutions ports s).link.area = s.link.area ∧
    (handExecutions ports s).link.permissions = s.link.permissions ∧
    (handExecutions ports s).link.windows = s.link.windows ∧ (handExecutions ports s).link.answer = s.link.answer := by
  simp only [handExecutions]
  split <;>
    simp [foldl_keeps (fun t : State => t.link.area), foldl_keeps (fun t : State => t.link.permissions),
        foldl_keeps (fun t : State => t.link.windows), foldl_keeps (fun t : State => t.link.answer)]

@[simp] theorem switchPoint_place (inside : Bool) (s : State) :
    (switchPoint inside s).link.area = s.link.area ∧ (switchPoint inside s).link.permissions = s.link.permissions ∧
    (switchPoint inside s).link.windows = s.link.windows ∧ (switchPoint inside s).link.answer = s.link.answer := by
  simp [switchPoint]

@[simp] theorem crosspointTick_place (s : State) :
    (crosspointTick s).link.area = s.link.area ∧ (crosspointTick s).link.permissions = s.link.permissions ∧
    (crosspointTick s).link.windows = s.link.windows ∧ (crosspointTick s).link.answer = s.link.answer := by
  simp only [crosspointTick]
  (repeat' split) <;> simp [*]

@[simp] theorem healthChanged_place (p : Fin 48) (s : State) :
    (healthChanged p s).link.area = s.link.area ∧ (healthChanged p s).link.permissions = s.link.permissions ∧
    (healthChanged p s).link.windows = s.link.windows ∧ (healthChanged p s).link.answer = s.link.answer := by
  simp [healthChanged]

@[simp] theorem updateMonitor_place (p : Fin 48) (m : Monitor) (s : State) :
    (updateMonitor p m s).link.area = s.link.area ∧ (updateMonitor p m s).link.permissions = s.link.permissions ∧
    (updateMonitor p m s).link.windows = s.link.windows ∧ (updateMonitor p m s).link.answer = s.link.answer := by
  simp only [updateMonitor]
  (repeat' split) <;> simp [*]

@[simp] theorem monitorTick_place (p : Fin 48) (s : State) :
    (monitorTick p s).link.area = s.link.area ∧ (monitorTick p s).link.permissions = s.link.permissions ∧
    (monitorTick p s).link.windows = s.link.windows ∧ (monitorTick p s).link.answer = s.link.answer := by
  simp only [monitorTick]
  (repeat' split) <;> simp [*]

@[simp] theorem takeTickEarly_place (p : Fin 48) (s : State) :
    (takeTickEarly p s).link.area = s.link.area ∧ (takeTickEarly p s).link.permissions = s.link.permissions ∧
    (takeTickEarly p s).link.windows = s.link.windows ∧ (takeTickEarly p s).link.answer = s.link.answer := by
  simp [takeTickEarly]

@[simp] theorem holdOffReached_place (p : Fin 48) (s : State) :
    (holdOffReached p s).link.area = s.link.area ∧ (holdOffReached p s).link.permissions = s.link.permissions ∧
    (holdOffReached p s).link.windows = s.link.windows ∧ (holdOffReached p s).link.answer = s.link.answer := by
  simp only [holdOffReached]
  (repeat' split) <;> simp [*]

@[simp] theorem restoreExpired_place (p : Fin 48) (s : State) :
    (restoreExpired p s).link.area = s.link.area ∧ (restoreExpired p s).link.permissions = s.link.permissions ∧
    (restoreExpired p s).link.windows = s.link.windows ∧ (restoreExpired p s).link.answer = s.link.answer := by
  simp only [restoreExpired]
  (repeat' split) <;> simp [*]

@[simp] theorem receiverObservation_place (p : Fin 48) (seen : Observation) (s : State) :
    (receiverObservation p seen s).link.area = s.link.area ∧
    (receiverObservation p seen s).link.permissions = s.link.permissions ∧
    (receiverObservation p seen s).link.windows = s.link.windows ∧
    (receiverObservation p seen s).link.answer = s.link.answer := by
  simp [receiverObservation]

@[simp] theorem lossOfLight_place (p : Fin 48) (s : State) :
    (lossOfLight p s).link.area = s.link.area ∧ (lossOfLight p s).link.permissions = s.link.permissions ∧
    (lossOfLight p s).link.windows = s.link.windows ∧ (lossOfLight p s).link.answer = s.link.answer := by
  simp [lossOfLight]

@[simp] theorem makeRecheck_place (s : State) :
    (makeRecheck s).link.area = s.link.area ∧ (makeRecheck s).link.permissions = s.link.permissions ∧
    (makeRecheck s).link.windows = s.link.windows ∧ (makeRecheck s).link.answer = s.link.answer := by
  simp [makeRecheck]

@[simp] theorem countRecheck_place (s : State) :
    (countRecheck s).link.area = s.link.area ∧ (countRecheck s).link.permissions = s.link.permissions ∧
    (countRecheck s).link.windows = s.link.windows ∧ (countRecheck s).link.answer = s.link.answer := by
  simp only [countRecheck]
  (repeat' split) <;> simp [*]

@[simp] theorem lastRecheck_place (s : State) :
    (lastRecheck s).link.area = s.link.area ∧ (lastRecheck s).link.permissions = s.link.permissions ∧
    (lastRecheck s).link.windows = s.link.windows ∧ (lastRecheck s).link.answer = s.link.answer := by
  simp only [lastRecheck]
  (repeat' split) <;> simp [*]

@[simp] theorem settleClose_place (kind : TicketKind) (n : Fin 1024) (closeMinute : Nat) (forOrder : Bool) (s : State) :
    (settleClose kind n closeMinute forOrder s).link.area = s.link.area ∧
    (settleClose kind n closeMinute forOrder s).link.permissions = s.link.permissions ∧
    (settleClose kind n closeMinute forOrder s).link.windows = s.link.windows ∧
    (settleClose kind n closeMinute forOrder s).link.answer = s.link.answer := by
  simp [settleClose]

@[simp] theorem handToAlarms_place (s : State) :
    (handToAlarms s).link.area = s.link.area ∧ (handToAlarms s).link.permissions = s.link.permissions ∧
    (handToAlarms s).link.windows = s.link.windows ∧ (handToAlarms s).link.answer = s.link.answer := by
  simp [handToAlarms]

@[simp] theorem beginClose_place (n : Fin 1024) (minute : Nat) (s : State) :
    (beginClose n minute s).link.area = s.link.area ∧ (beginClose n minute s).link.permissions = s.link.permissions ∧
    (beginClose n minute s).link.windows = s.link.windows ∧ (beginClose n minute s).link.answer = s.link.answer := by
  simp only [beginClose]
  (repeat' split) <;> simp [*]

@[simp] theorem closeOnAir_place (n : Fin 1024) (minute : Nat) (counted forOrder : Bool) (s : State) :
    (closeOnAir n minute counted forOrder s).link.area = s.link.area ∧
    (closeOnAir n minute counted forOrder s).link.permissions = s.link.permissions ∧
    (closeOnAir n minute counted forOrder s).link.windows = s.link.windows ∧
    (closeOnAir n minute counted forOrder s).link.answer = s.link.answer := by
  simp only [closeOnAir]
  (repeat' split) <;> simp [*]

@[simp] theorem closeMissed_place (n : Fin 1024) (minute : Nat) (s : State) :
    (closeMissed n minute s).link.area = s.link.area ∧
    (closeMissed n minute s).link.permissions = s.link.permissions ∧
    (closeMissed n minute s).link.windows = s.link.windows ∧ (closeMissed n minute s).link.answer = s.link.answer := by
  simp [closeMissed]

@[simp] theorem activate_place (n : Fin 1024) (minute : Nat) (first : Stamp) (band : Option Band) (s : State) :
    (activate n minute first band s).link.area = s.link.area ∧
    (activate n minute first band s).link.permissions = s.link.permissions ∧
    (activate n minute first band s).link.windows = s.link.windows ∧
    (activate n minute first band s).link.answer = s.link.answer := by
  simp [activate]

@[simp] theorem enterOverrun_place (n : Fin 1024) (s : State) :
    (enterOverrun n s).link.area = s.link.area ∧ (enterOverrun n s).link.permissions = s.link.permissions ∧
    (enterOverrun n s).link.windows = s.link.windows ∧ (enterOverrun n s).link.answer = s.link.answer := by
  simp [enterOverrun]

@[simp] theorem boundaryClose_place (n : Fin 1024) (minute : Nat) (counted : Bool) (s : State) :
    (boundaryClose n minute counted s).link.area = s.link.area ∧
    (boundaryClose n minute counted s).link.permissions = s.link.permissions ∧
    (boundaryClose n minute counted s).link.windows = s.link.windows ∧
    (boundaryClose n minute counted s).link.answer = s.link.answer := by
  simp only [boundaryClose]
  (repeat' split) <;> simp [*]

@[simp] theorem boundaryHead_place (minute : Nat) (counted : Bool) (d : Fin 64) (s : State) :
    (boundaryHead minute counted d s).link.area = s.link.area ∧
    (boundaryHead minute counted d s).link.permissions = s.link.permissions ∧
    (boundaryHead minute counted d s).link.windows = s.link.windows ∧
    (boundaryHead minute counted d s).link.answer = s.link.answer := by
  simp only [boundaryHead]
  (repeat' split) <;> simp [*]

@[simp] theorem boundaryStart_place (minute : Nat) (swapped : Bool) (d : Fin 64) (s : State) :
    (boundaryStart minute swapped d s).link.area = s.link.area ∧
    (boundaryStart minute swapped d s).link.permissions = s.link.permissions ∧
    (boundaryStart minute swapped d s).link.windows = s.link.windows ∧
    (boundaryStart minute swapped d s).link.answer = s.link.answer := by
  simp only [boundaryStart]
  (repeat' split) <;> simp [*]

@[simp] theorem boundaryTimeline_place (minute : Nat) (counted swapped : Bool) (d : Fin 64) (s : State) :
    (boundaryTimeline minute counted swapped d s).link.area = s.link.area ∧
    (boundaryTimeline minute counted swapped d s).link.permissions = s.link.permissions ∧
    (boundaryTimeline minute counted swapped d s).link.windows = s.link.windows ∧
    (boundaryTimeline minute counted swapped d s).link.answer = s.link.answer := by
  simp [boundaryTimeline]

@[simp] theorem storeTimelines_place (taken : Bool) (minute : Nat) (counted swapped : Bool) (ports : List (Fin 64)) (s : State) :
    (storeTimelines taken minute counted swapped ports s).link.area = s.link.area ∧
    (storeTimelines taken minute counted swapped ports s).link.permissions = s.link.permissions ∧
    (storeTimelines taken minute counted swapped ports s).link.windows = s.link.windows ∧
    (storeTimelines taken minute counted swapped ports s).link.answer = s.link.answer := by
  simp only [storeTimelines]
  split <;>
    simp [foldl_keeps (fun t : State => t.link.area), foldl_keeps (fun t : State => t.link.permissions),
        foldl_keeps (fun t : State => t.link.windows), foldl_keeps (fun t : State => t.link.answer)]

@[simp] theorem openRecheck_place (recheckAfter : Nat) (s : State) :
    (openRecheck recheckAfter s).link.area = s.link.area ∧
    (openRecheck recheckAfter s).link.permissions = s.link.permissions ∧
    (openRecheck recheckAfter s).link.windows = s.link.windows ∧
    (openRecheck recheckAfter s).link.answer = s.link.answer := by
  simp only [openRecheck]
  (repeat' split) <;> simp [*]

@[simp] theorem boundaryCounted_place (minute swapAfter recheckAfter : Nat) (s : State) :
    (boundaryCounted minute swapAfter recheckAfter s).link.area = s.link.area ∧
    (boundaryCounted minute swapAfter recheckAfter s).link.permissions = s.link.permissions ∧
    (boundaryCounted minute swapAfter recheckAfter s).link.windows = s.link.windows ∧
    (boundaryCounted minute swapAfter recheckAfter s).link.answer = s.link.answer := by
  simp [boundaryCounted]

@[simp] theorem boundaryUncounted_place (minute recheckAfter : Nat) (s : State) :
    (boundaryUncounted minute recheckAfter s).link.area = s.link.area ∧
    (boundaryUncounted minute recheckAfter s).link.permissions = s.link.permissions ∧
    (boundaryUncounted minute recheckAfter s).link.windows = s.link.windows ∧
    (boundaryUncounted minute recheckAfter s).link.answer = s.link.answer := by
  simp [boundaryUncounted]

@[simp] theorem catchUpCloses_place (members : List (Fin 1024)) (s : State) :
    (catchUpCloses members s).link.area = s.link.area ∧
    (catchUpCloses members s).link.permissions = s.link.permissions ∧
    (catchUpCloses members s).link.windows = s.link.windows ∧ (catchUpCloses members s).link.answer = s.link.answer := by
  induction members generalizing s with
  | nil => simp [catchUpCloses]
  | cons n rest ih =>
    simp only [catchUpCloses]
    (repeat' split) <;> simp [ih]

@[simp] theorem catchUpStart_place (d : Fin 64) (s : State) :
    (catchUpStart d s).link.area = s.link.area ∧ (catchUpStart d s).link.permissions = s.link.permissions ∧
    (catchUpStart d s).link.windows = s.link.windows ∧ (catchUpStart d s).link.answer = s.link.answer := by
  simp only [catchUpStart]
  (repeat' split) <;> simp [*]

@[simp] theorem catchUpPhase_place (d : Fin 64) (s : State) :
    (catchUpPhase d s).link.area = s.link.area ∧ (catchUpPhase d s).link.permissions = s.link.permissions ∧
    (catchUpPhase d s).link.windows = s.link.windows ∧ (catchUpPhase d s).link.answer = s.link.answer := by
  simp only [catchUpPhase]
  (repeat' split) <;> simp [*]

@[simp] theorem catchUpTimeline_place (d : Fin 64) (s : State) :
    (catchUpTimeline d s).link.area = s.link.area ∧ (catchUpTimeline d s).link.permissions = s.link.permissions ∧
    (catchUpTimeline d s).link.windows = s.link.windows ∧ (catchUpTimeline d s).link.answer = s.link.answer := by
  simp [catchUpTimeline]

@[simp] theorem catchUp_place (s : State) :
    (catchUp s).link.area = s.link.area ∧ (catchUp s).link.permissions = s.link.permissions ∧
    (catchUp s).link.windows = s.link.windows ∧ (catchUp s).link.answer = s.link.answer := by
  simp [catchUp, foldl_keeps (fun t : State => t.link.area), foldl_keeps (fun t : State => t.link.permissions),
      foldl_keeps (fun t : State => t.link.windows), foldl_keeps (fun t : State => t.link.answer)]

@[simp] theorem enterRunning_place (s : State) :
    (enterRunning s).link.area = s.link.area ∧ (enterRunning s).link.permissions = s.link.permissions ∧
    (enterRunning s).link.windows = s.link.windows ∧ (enterRunning s).link.answer = s.link.answer := by
  simp [enterRunning]

@[simp] theorem releaseFirst_place (s : State) :
    (releaseFirst s).link.area = s.link.area ∧ (releaseFirst s).link.permissions = s.link.permissions ∧
    (releaseFirst s).link.windows = s.link.windows ∧ (releaseFirst s).link.answer = s.link.answer := by
  simp only [releaseFirst]
  (repeat' split) <;> simp [*]

@[simp] theorem beginPage_place (time : Stamp) (s : State) :
    (beginPage time s).link.area = s.link.area ∧ (beginPage time s).link.permissions = s.link.permissions ∧
    (beginPage time s).link.windows = s.link.windows ∧ (beginPage time s).link.answer = s.link.answer := by
  simp [beginPage]

@[simp] theorem nextMark_place (s : State) :
    (nextMark s).link.area = s.link.area ∧ (nextMark s).link.permissions = s.link.permissions ∧
    (nextMark s).link.windows = s.link.windows ∧ (nextMark s).link.answer = s.link.answer := by
  simp [nextMark]

@[simp] theorem pageTick_place (boundary : Bool) (time : Stamp) (s : State) :
    (pageTick boundary time s).link.area = s.link.area ∧ (pageTick boundary time s).link.permissions = s.link.permissions ∧
    (pageTick boundary time s).link.windows = s.link.windows ∧ (pageTick boundary time s).link.answer = s.link.answer := by
  simp only [pageTick]
  (repeat' split) <;> simp [*]

@[simp] theorem takeOwed_place (ticks : List OwedTick) (s : State) :
    (takeOwed ticks s).link.area = s.link.area ∧ (takeOwed ticks s).link.permissions = s.link.permissions ∧
    (takeOwed ticks s).link.windows = s.link.windows ∧ (takeOwed ticks s).link.answer = s.link.answer :=
  takeOwed_holds (P := fun t => t.link.area = s.link.area ∧ t.link.permissions = s.link.permissions ∧
    t.link.windows = s.link.windows ∧ t.link.answer = s.link.answer) (fun _ _ h => by simpa using h) ticks (by simp)

@[simp] theorem settlePage_place (s : State) :
    (settlePage s).link.area = s.link.area ∧ (settlePage s).link.permissions = s.link.permissions ∧
    (settlePage s).link.windows = s.link.windows ∧ (settlePage s).link.answer = s.link.answer := by
  simp [settlePage]

@[simp] theorem boundaryPage_place (minute : BitVec 32) (s : State) :
    (boundaryPage minute s).link.area = s.link.area ∧ (boundaryPage minute s).link.permissions = s.link.permissions ∧
    (boundaryPage minute s).link.windows = s.link.windows ∧ (boundaryPage minute s).link.answer = s.link.answer := by
  simp [boundaryPage]

@[simp] theorem secondPage_place (ahead : Bool) (s : State) :
    (secondPage ahead s).link.area = s.link.area ∧ (secondPage ahead s).link.permissions = s.link.permissions ∧
    (secondPage ahead s).link.windows = s.link.windows ∧ (secondPage ahead s).link.answer = s.link.answer := by
  simp only [secondPage]
  (repeat' split) <;> simp [*]

@[simp] theorem endPage_place (s : State) :
    (endPage s).link.area = s.link.area ∧ (endPage s).link.permissions = s.link.permissions ∧
    (endPage s).link.windows = s.link.windows ∧ (endPage s).link.answer = s.link.answer := by
  simp [endPage]

@[simp] theorem pageComplete_place (s : State) :
    (pageComplete s).link.area = s.link.area ∧ (pageComplete s).link.permissions = s.link.permissions ∧
    (pageComplete s).link.windows = s.link.windows ∧ (pageComplete s).link.answer = s.link.answer := by
  simp only [pageComplete]
  (repeat' split) <;> simp [*]

@[simp] theorem abandonPage_place (issued : Nat) (s : State) :
    (abandonPage issued s).link.area = s.link.area ∧ (abandonPage issued s).link.permissions = s.link.permissions ∧
    (abandonPage issued s).link.windows = s.link.windows ∧ (abandonPage issued s).link.answer = s.link.answer := by
  simp only [abandonPage]
  (repeat' split) <;> simp [*]

@[simp] theorem crosspointBlock_place (s : State) :
    (crosspointBlock s).link.area = s.link.area ∧ (crosspointBlock s).link.permissions = s.link.permissions ∧
    (crosspointBlock s).link.windows = s.link.windows ∧ (crosspointBlock s).link.answer = s.link.answer := by
  simp only [crosspointBlock]
  (repeat' split) <;> simp [*]

@[simp] theorem blockTick_place (k : Fin 49) (s : State) :
    (blockTick k s).link.area = s.link.area ∧ (blockTick k s).link.permissions = s.link.permissions ∧
    (blockTick k s).link.windows = s.link.windows ∧ (blockTick k s).link.answer = s.link.answer := by
  simp only [blockTick]
  (repeat' split) <;> simp [*]

@[simp] theorem blockAhead_place (k : Fin 49) (s : State) :
    (blockAhead k s).link.area = s.link.area ∧ (blockAhead k s).link.permissions = s.link.permissions ∧
    (blockAhead k s).link.windows = s.link.windows ∧ (blockAhead k s).link.answer = s.link.answer := by
  simp only [blockAhead]
  (repeat' split) <;> simp [*]

@[simp] theorem ticksAhead_place (early : TickOrder) (s : State) :
    (ticksAhead early s).link.area = s.link.area ∧ (ticksAhead early s).link.permissions = s.link.permissions ∧
    (ticksAhead early s).link.windows = s.link.windows ∧ (ticksAhead early s).link.answer = s.link.answer := by
  simp [ticksAhead, foldl_keeps (fun t : State => t.link.area), foldl_keeps (fun t : State => t.link.permissions),
      foldl_keeps (fun t : State => t.link.windows), foldl_keeps (fun t : State => t.link.answer)]

@[simp] theorem blocksTick_place (order done : List (Fin 49)) (s : State) :
    (blocksTick order done s).link.area = s.link.area ∧
    (blocksTick order done s).link.permissions = s.link.permissions ∧
    (blocksTick order done s).link.windows = s.link.windows ∧ (blocksTick order done s).link.answer = s.link.answer := by
  induction order generalizing s done with
  | nil => simp [blocksTick]
  | cons b rest ih =>
    simp only [blocksTick]
    (repeat' split) <;> simp [ih]

@[simp] theorem handTick_place (order : TickOrder) (e : EndedSecond) (s : State) :
    (handTick order e s).link.area = s.link.area ∧ (handTick order e s).link.permissions = s.link.permissions ∧
    (handTick order e s).link.windows = s.link.windows ∧ (handTick order e s).link.answer = s.link.answer := by
  simp [handTick]

@[simp] theorem owedTick_place (order : TickOrder) (ended : BitVec 32) (s : State) :
    (owedTick order ended s).link.area = s.link.area ∧
    (owedTick order ended s).link.permissions = s.link.permissions ∧
    (owedTick order ended s).link.windows = s.link.windows ∧ (owedTick order ended s).link.answer = s.link.answer := by
  simp [owedTick]

@[simp] theorem boundaryAfterTick_place (minute : BitVec 32) (clockSet : Bool) (swapAfter recheckAfter : Nat) (s : State) :
    (boundaryAfterTick minute clockSet swapAfter recheckAfter s).link.area = s.link.area ∧
    (boundaryAfterTick minute clockSet swapAfter recheckAfter s).link.permissions = s.link.permissions ∧
    (boundaryAfterTick minute clockSet swapAfter recheckAfter s).link.windows = s.link.windows ∧
    (boundaryAfterTick minute clockSet swapAfter recheckAfter s).link.answer = s.link.answer := by
  simp [boundaryAfterTick]

@[simp] theorem boundaryBeforeTick_place (recheckAfter : Nat) (s : State) :
    (boundaryBeforeTick recheckAfter s).link.area = s.link.area ∧
    (boundaryBeforeTick recheckAfter s).link.permissions = s.link.permissions ∧
    (boundaryBeforeTick recheckAfter s).link.windows = s.link.windows ∧
    (boundaryBeforeTick recheckAfter s).link.answer = s.link.answer := by
  simp [boundaryBeforeTick]

@[simp] theorem takeBoundary_place (swapAfter recheckAfter : Nat) (s : State) :
    (takeBoundary swapAfter recheckAfter s).link.area = s.link.area ∧
    (takeBoundary swapAfter recheckAfter s).link.permissions = s.link.permissions ∧
    (takeBoundary swapAfter recheckAfter s).link.windows = s.link.windows ∧
    (takeBoundary swapAfter recheckAfter s).link.answer = s.link.answer := by
  simp only [takeBoundary]
  (repeat' split) <;> simp [*]

@[simp] theorem minuteBoundary_place (early : TickOrder) (boundary : Bool) (swapAfter recheckAfter : Nat) (s : State) :
    (minuteBoundary early boundary swapAfter recheckAfter s).link.area = s.link.area ∧
    (minuteBoundary early boundary swapAfter recheckAfter s).link.permissions = s.link.permissions ∧
    (minuteBoundary early boundary swapAfter recheckAfter s).link.windows = s.link.windows ∧
    (minuteBoundary early boundary swapAfter recheckAfter s).link.answer = s.link.answer := by
  simp only [minuteBoundary]
  (repeat' split) <;> simp [*]

@[simp] theorem settleBoundary_place (s : State) :
    (settleBoundary s).link.area = s.link.area ∧ (settleBoundary s).link.permissions = s.link.permissions ∧
    (settleBoundary s).link.windows = s.link.windows ∧ (settleBoundary s).link.answer = s.link.answer := by
  simp only [settleBoundary]
  (repeat' split) <;> simp [*]

@[simp] theorem completeSecond_place (ahead : Bool) (s : State) :
    (completeSecond ahead s).link.area = s.link.area ∧ (completeSecond ahead s).link.permissions = s.link.permissions ∧
    (completeSecond ahead s).link.windows = s.link.windows ∧ (completeSecond ahead s).link.answer = s.link.answer := by
  simp only [completeSecond]
  (repeat' split) <;> simp [*]

@[simp] theorem secondTick_place (order : TickOrder) (s : State) :
    (secondTick order s).link.area = s.link.area ∧ (secondTick order s).link.permissions = s.link.permissions ∧
    (secondTick order s).link.windows = s.link.windows ∧ (secondTick order s).link.answer = s.link.answer := by
  simp only [secondTick]
  (repeat' split) <;> simp [*]

@[simp] theorem referenceChanged_place (s : State) :
    (referenceChanged s).link.area = s.link.area ∧ (referenceChanged s).link.permissions = s.link.permissions ∧
    (referenceChanged s).link.windows = s.link.windows ∧ (referenceChanged s).link.answer = s.link.answer := by
  simp [referenceChanged]

@[simp] theorem changeReference_place (c : Clock) (s : State) :
    (changeReference c s).link.area = s.link.area ∧ (changeReference c s).link.permissions = s.link.permissions ∧
    (changeReference c s).link.windows = s.link.windows ∧ (changeReference c s).link.answer = s.link.answer := by
  simp [changeReference]

@[simp] theorem pulseFreeRun_place (instant : Nat) (order : TickOrder) (s : State) :
    (pulseFreeRun instant order s).link.area = s.link.area ∧
    (pulseFreeRun instant order s).link.permissions = s.link.permissions ∧
    (pulseFreeRun instant order s).link.windows = s.link.windows ∧
    (pulseFreeRun instant order s).link.answer = s.link.answer := by
  simp only [pulseFreeRun]
  (repeat' split) <;> simp [*]

@[simp] theorem secrefPulse_place (instant : Nat) (order : TickOrder) (s : State) :
    (secrefPulse instant order s).link.area = s.link.area ∧
    (secrefPulse instant order s).link.permissions = s.link.permissions ∧
    (secrefPulse instant order s).link.windows = s.link.windows ∧
    (secrefPulse instant order s).link.answer = s.link.answer := by
  simp only [secrefPulse]
  (repeat' split) <;> simp [*]

@[simp] theorem secrefTimeout_place (order : TickOrder) (s : State) :
    (secrefTimeout order s).link.area = s.link.area ∧ (secrefTimeout order s).link.permissions = s.link.permissions ∧
    (secrefTimeout order s).link.windows = s.link.windows ∧ (secrefTimeout order s).link.answer = s.link.answer := by
  simp only [secrefTimeout]
  (repeat' split) <;> simp [*]

@[simp] theorem ownTick_place (order : TickOrder) (s : State) :
    (ownTick order s).link.area = s.link.area ∧ (ownTick order s).link.permissions = s.link.permissions ∧
    (ownTick order s).link.windows = s.link.windows ∧ (ownTick order s).link.answer = s.link.answer := by
  simp only [ownTick]
  (repeat' split) <;> simp [*]

@[simp] theorem pulseSwitch_place (s : State) :
    (pulseSwitch s).link.area = s.link.area ∧ (pulseSwitch s).link.permissions = s.link.permissions ∧
    (pulseSwitch s).link.windows = s.link.windows ∧ (pulseSwitch s).link.answer = s.link.answer := by
  simp only [pulseSwitch]
  (repeat' split) <;> simp [*]

@[simp] theorem framerefPulse_place (instant : Nat) (s : State) :
    (framerefPulse instant s).link.area = s.link.area ∧
    (framerefPulse instant s).link.permissions = s.link.permissions ∧
    (framerefPulse instant s).link.windows = s.link.windows ∧ (framerefPulse instant s).link.answer = s.link.answer := by
  simp only [framerefPulse]
  (repeat' split) <;> simp [*]

@[simp] theorem framerefTimeout_place (s : State) :
    (framerefTimeout s).link.area = s.link.area ∧ (framerefTimeout s).link.permissions = s.link.permissions ∧
    (framerefTimeout s).link.windows = s.link.windows ∧ (framerefTimeout s).link.answer = s.link.answer := by
  simp only [framerefTimeout]
  (repeat' split) <;> simp [*]

@[simp] theorem bookOrder_place (o : Order) (s : State) :
    (bookOrder o s).link.area = s.link.area ∧ (bookOrder o s).link.permissions = s.link.permissions ∧
    (bookOrder o s).link.windows = s.link.windows ∧ (bookOrder o s).link.answer = s.link.answer := by
  simp only [bookOrder]
  (repeat' split) <;> simp [*]

@[simp] theorem bookFromRecord_place (n : Fin 1024) (r : BookRecord) (s : State) :
    (bookFromRecord n r s).link.area = s.link.area ∧ (bookFromRecord n r s).link.permissions = s.link.permissions ∧
    (bookFromRecord n r s).link.windows = s.link.windows ∧ (bookFromRecord n r s).link.answer = s.link.answer := by
  simp only [bookFromRecord]
  (repeat' split) <;> simp [*]

@[simp] theorem bookRecordRead_place (bytes : Vector Byte 20) (s : State) :
    (bookRecordRead bytes s).link.area = s.link.area ∧
    (bookRecordRead bytes s).link.permissions = s.link.permissions ∧
    (bookRecordRead bytes s).link.windows = s.link.windows ∧ (bookRecordRead bytes s).link.answer = s.link.answer := by
  simp only [bookRecordRead]
  (repeat' split) <;> simp [*]

@[simp] theorem cancelAccepted_place (n : Fin 1024) (s : State) :
    (cancelAccepted n s).link.area = s.link.area ∧ (cancelAccepted n s).link.permissions = s.link.permissions ∧
    (cancelAccepted n s).link.windows = s.link.windows ∧ (cancelAccepted n s).link.answer = s.link.answer := by
  simp only [cancelAccepted]
  (repeat' split) <;> simp [*]

@[simp] theorem cancelOrder_place (o : Order) (s : State) :
    (cancelOrder o s).link.area = s.link.area ∧ (cancelOrder o s).link.permissions = s.link.permissions ∧
    (cancelOrder o s).link.windows = s.link.windows ∧ (cancelOrder o s).link.answer = s.link.answer := by
  simp only [cancelOrder]
  (repeat' split) <;> simp [*]

@[simp] theorem grantExtension_place (n : Fin 1024) (minutes : Nat) (s : State) :
    (grantExtension n minutes s).link.area = s.link.area ∧
    (grantExtension n minutes s).link.permissions = s.link.permissions ∧
    (grantExtension n minutes s).link.windows = s.link.windows ∧
    (grantExtension n minutes s).link.answer = s.link.answer := by
  simp only [grantExtension]
  (repeat' split) <;> simp [*]

@[simp] theorem extendOrder_place (o : Order) (s : State) :
    (extendOrder o s).link.area = s.link.area ∧ (extendOrder o s).link.permissions = s.link.permissions ∧
    (extendOrder o s).link.windows = s.link.windows ∧ (extendOrder o s).link.answer = s.link.answer := by
  simp only [extendOrder]
  (repeat' split) <;> simp [*]

@[simp] theorem lodgeSwitch_place (d : Fin 64) (target : Source) (s : State) :
    (lodgeSwitch d target s).link.area = s.link.area ∧
    (lodgeSwitch d target s).link.permissions = s.link.permissions ∧
    (lodgeSwitch d target s).link.windows = s.link.windows ∧ (lodgeSwitch d target s).link.answer = s.link.answer := by
  simp [lodgeSwitch]

@[simp] theorem switchOrder_place (o : Order) (s : State) :
    (switchOrder o s).link.area = s.link.area ∧ (switchOrder o s).link.permissions = s.link.permissions ∧
    (switchOrder o s).link.windows = s.link.windows ∧ (switchOrder o s).link.answer = s.link.answer := by
  simp only [switchOrder]
  (repeat' split) <;> simp [*]

@[simp] theorem storeLegMode_place (n : Fin 1024) (mode : LegMode) (s : State) :
    (storeLegMode n mode s).link.area = s.link.area ∧ (storeLegMode n mode s).link.permissions = s.link.permissions ∧
    (storeLegMode n mode s).link.windows = s.link.windows ∧ (storeLegMode n mode s).link.answer = s.link.answer := by
  simp only [storeLegMode]
  (repeat' split) <;> simp [*]

@[simp] theorem setLegOrder_place (o : Order) (s : State) :
    (setLegOrder o s).link.area = s.link.area ∧ (setLegOrder o s).link.permissions = s.link.permissions ∧
    (setLegOrder o s).link.windows = s.link.windows ∧ (setLegOrder o s).link.answer = s.link.answer := by
  simp only [setLegOrder]
  (repeat' split) <;> simp [*]

@[simp] theorem applySetPort_place (p : Fin 48) (o : Order) (s : State) :
    (applySetPort p o s).link.area = s.link.area ∧ (applySetPort p o s).link.permissions = s.link.permissions ∧
    (applySetPort p o s).link.windows = s.link.windows ∧ (applySetPort p o s).link.answer = s.link.answer := by
  simp only [applySetPort]
  (repeat' split) <;> simp [*]

@[simp] theorem setPortOrder_place (o : Order) (s : State) :
    (setPortOrder o s).link.area = s.link.area ∧ (setPortOrder o s).link.permissions = s.link.permissions ∧
    (setPortOrder o s).link.windows = s.link.windows ∧ (setPortOrder o s).link.answer = s.link.answer := by
  simp only [setPortOrder]
  (repeat' split) <;> simp [*]

@[simp] theorem readPortOrder_place (o : Order) (s : State) :
    (readPortOrder o s).link.area = s.link.area ∧ (readPortOrder o s).link.permissions = s.link.permissions ∧
    (readPortOrder o s).link.windows = s.link.windows ∧ (readPortOrder o s).link.answer = s.link.answer := by
  simp only [readPortOrder]
  (repeat' split) <;> simp [*]

@[simp] theorem readSegment_place (address : Address) (s : State) :
    (readSegment address s).link.area = s.link.area ∧ (readSegment address s).link.permissions = s.link.permissions ∧
    (readSegment address s).link.windows = s.link.windows ∧ (readSegment address s).link.answer = s.link.answer := by
  simp only [readSegment]
  (repeat' split) <;> simp [*]

@[simp] theorem loadTariffOrder_place (o : Order) (s : State) :
    (loadTariffOrder o s).link.area = s.link.area ∧ (loadTariffOrder o s).link.permissions = s.link.permissions ∧
    (loadTariffOrder o s).link.windows = s.link.windows ∧ (loadTariffOrder o s).link.answer = s.link.answer := by
  simp only [loadTariffOrder]
  (repeat' split) <;> simp [*]

@[simp] theorem segmentTaken_place (bytes : Vector Byte 240) (s : State) :
    (segmentTaken bytes s).link.area = s.link.area ∧ (segmentTaken bytes s).link.permissions = s.link.permissions ∧
    (segmentTaken bytes s).link.windows = s.link.windows ∧ (segmentTaken bytes s).link.answer = s.link.answer := by
  simp only [segmentTaken]
  (repeat' split) <;> simp [*]

@[simp] theorem tariffSegmentRead_place (bytes : Vector Byte 240) (s : State) :
    (tariffSegmentRead bytes s).link.area = s.link.area ∧
    (tariffSegmentRead bytes s).link.permissions = s.link.permissions ∧
    (tariffSegmentRead bytes s).link.windows = s.link.windows ∧
    (tariffSegmentRead bytes s).link.answer = s.link.answer := by
  simp only [tariffSegmentRead]
  (repeat' split) <;> simp [*]

@[simp] theorem latchAccountOrder_place (o : Order) (s : State) :
    (latchAccountOrder o s).link.area = s.link.area ∧ (latchAccountOrder o s).link.permissions = s.link.permissions ∧
    (latchAccountOrder o s).link.windows = s.link.windows ∧ (latchAccountOrder o s).link.answer = s.link.answer := by
  simp only [latchAccountOrder]
  (repeat' split) <;> simp [*]

@[simp] theorem closeMatchOrder_place (o : Order) (s : State) :
    (closeMatchOrder o s).link.area = s.link.area ∧ (closeMatchOrder o s).link.permissions = s.link.permissions ∧
    (closeMatchOrder o s).link.windows = s.link.windows ∧ (closeMatchOrder o s).link.answer = s.link.answer := by
  simp only [closeMatchOrder]
  (repeat' split) <;> simp [*]

@[simp] theorem setClockOrder_place (o : Order) (s : State) :
    (setClockOrder o s).link.area = s.link.area ∧ (setClockOrder o s).link.permissions = s.link.permissions ∧
    (setClockOrder o s).link.windows = s.link.windows ∧ (setClockOrder o s).link.answer = s.link.answer := by
  simp only [setClockOrder]
  (repeat' split) <;> simp [*]

@[simp] theorem setStart_place (p : StartPhase) (c : StartCode) (s : State) :
    (setStart p c s).link.area = s.link.area ∧ (setStart p c s).link.permissions = s.link.permissions ∧
    (setStart p c s).link.windows = s.link.windows ∧ (setStart p c s).link.answer = s.link.answer := by
  simp [setStart]

@[simp] theorem takeHeader_place (h : Header) (s : State) :
    (takeHeader h s).link.area = s.link.area ∧ (takeHeader h s).link.permissions = s.link.permissions ∧
    (takeHeader h s).link.answer = s.link.answer := by
  simp [takeHeader]

@[simp] theorem headerTaken_place (h : Header) (s : State) :
    (headerTaken h s).link.area = s.link.area ∧ (headerTaken h s).link.permissions = s.link.permissions ∧
    (headerTaken h s).link.answer = s.link.answer := by
  simp only [headerTaken]
  (repeat' split) <;> simp [*]

@[simp] theorem headerReadComplete_place (bytes : Vector Byte 80) (s : State) :
    (headerReadComplete bytes s).link.area = s.link.area ∧
    (headerReadComplete bytes s).link.permissions = s.link.permissions ∧
    (headerReadComplete bytes s).link.answer = s.link.answer := by
  simp only [headerReadComplete]
  (repeat' split) <;> simp [*]

@[simp] theorem identityWriteComplete_place (s : State) :
    (identityWriteComplete s).link.area = s.link.area ∧
    (identityWriteComplete s).link.permissions = s.link.permissions ∧
    (identityWriteComplete s).link.windows = s.link.windows ∧ (identityWriteComplete s).link.answer = s.link.answer := by
  simp only [identityWriteComplete]
  (repeat' split) <;> simp [*]

@[simp] theorem startDormant_place (s : State) :
    (startDormant s).link.area = s.link.area ∧ (startDormant s).link.permissions = s.link.permissions ∧
    (startDormant s).link.windows = s.link.windows ∧ (startDormant s).link.answer = s.link.answer := by
  simp only [startDormant]
  (repeat' split) <;> simp [*]

@[simp] theorem startHeld_place (s : State) :
    (startHeld s).link.area = s.link.area ∧ (startHeld s).link.permissions = s.link.permissions ∧
    (startHeld s).link.windows = s.link.windows ∧ (startHeld s).link.answer = s.link.answer := by
  simp only [startHeld]
  (repeat' split) <;> simp [*]

@[simp] theorem setHaltWaiting_place (b : Bool) (s : State) :
    (setHaltWaiting b s).link.area = s.link.area ∧ (setHaltWaiting b s).link.permissions = s.link.permissions ∧
    (setHaltWaiting b s).link.windows = s.link.windows ∧ (setHaltWaiting b s).link.answer = s.link.answer := by
  simp [setHaltWaiting]

@[simp] theorem startRunning_place (s : State) :
    (startRunning s).link.area = s.link.area ∧ (startRunning s).link.permissions = s.link.permissions ∧
    (startRunning s).link.windows = s.link.windows ∧ (startRunning s).link.answer = s.link.answer := by
  simp only [startRunning]
  (repeat' split) <;> simp [*]

@[simp] theorem startCommand_place (s : State) :
    (startCommand s).link.area = s.link.area ∧ (startCommand s).link.permissions = s.link.permissions ∧
    (startCommand s).link.windows = s.link.windows ∧ (startCommand s).link.answer = s.link.answer := by
  simp only [startCommand]
  (repeat' split) <;> simp [*]

@[simp] theorem haltCommand_place (s : State) :
    (haltCommand s).link.area = s.link.area ∧ (haltCommand s).link.permissions = s.link.permissions ∧
    (haltCommand s).link.windows = s.link.windows ∧ (haltCommand s).link.answer = s.link.answer := by
  simp only [haltCommand]
  (repeat' split) <;> simp [*]

@[simp] theorem busFaultAt_place (after : Nat) (s : State) :
    (busFaultAt after s).link.area = s.link.area ∧ (busFaultAt after s).link.permissions = s.link.permissions ∧
    (busFaultAt after s).link.windows = s.link.windows ∧ (busFaultAt after s).link.answer = s.link.answer := by
  simp only [busFaultAt]
  (repeat' split) <;> simp [*]

@[simp] theorem setGate_place (g : Gate) (s : State) :
    (setGate g s).link.area = s.link.area ∧ (setGate g s).link.permissions = s.link.permissions ∧
    (setGate g s).link.windows = s.link.windows ∧ (setGate g s).link.answer = s.link.answer := by
  simp [setGate]

@[simp] theorem completeInFlight_place (cut : CutOff) (s : State) :
    (completeInFlight cut s).link.area = s.link.area ∧
    (completeInFlight cut s).link.permissions = s.link.permissions ∧
    (completeInFlight cut s).link.windows = s.link.windows ∧ (completeInFlight cut s).link.answer = s.link.answer := by
  simp only [completeInFlight]
  (repeat' split) <;> simp [*]

@[simp] theorem gateNext_place (a : Access) (s : State) :
    (gateNext a s).link.area = s.link.area ∧ (gateNext a s).link.permissions = s.link.permissions ∧
    (gateNext a s).link.windows = s.link.windows ∧ (gateNext a s).link.answer = s.link.answer := by
  simp only [gateNext]
  split <;> simp

@[simp] theorem completeNext_place (cut : CutOff) (a : Access) (s : State) :
    (completeNext cut a s).link.area = s.link.area ∧ (completeNext cut a s).link.permissions = s.link.permissions ∧
    (completeNext cut a s).link.windows = s.link.windows ∧ (completeNext cut a s).link.answer = s.link.answer := by
  simp [completeNext]

@[simp] theorem completeAccesses_place (cut : CutOff) (s : State) :
    (completeAccesses cut s).link.area = s.link.area ∧
    (completeAccesses cut s).link.permissions = s.link.permissions ∧
    (completeAccesses cut s).link.windows = s.link.windows ∧ (completeAccesses cut s).link.answer = s.link.answer := by
  simp [completeAccesses, foldl_keeps (fun t : State => t.link.area),
      foldl_keeps (fun t : State => t.link.permissions), foldl_keeps (fun t : State => t.link.windows),
      foldl_keeps (fun t : State => t.link.answer)]

@[simp] theorem completeTick_place (cut : CutOff) (s : State) :
    (completeTick cut s).link.area = s.link.area ∧ (completeTick cut s).link.permissions = s.link.permissions ∧
    (completeTick cut s).link.windows = s.link.windows ∧ (completeTick cut s).link.answer = s.link.answer := by
  simp only [completeTick]
  (repeat' split) <;> simp [*]

@[simp] theorem completeHold_place (h : Hold) (s : State) :
    (completeHold h s).link.area = s.link.area ∧ (completeHold h s).link.permissions = s.link.permissions ∧
    (completeHold h s).link.windows = s.link.windows ∧ (completeHold h s).link.answer = s.link.answer := by
  simp [completeHold]

@[simp] theorem completeHolds_place (s : State) :
    (completeHolds s).link.area = s.link.area ∧ (completeHolds s).link.permissions = s.link.permissions ∧
    (completeHolds s).link.windows = s.link.windows ∧ (completeHolds s).link.answer = s.link.answer := by
  simp [completeHolds, foldl_keeps (fun t : State => t.link.area), foldl_keeps (fun t : State => t.link.permissions),
      foldl_keeps (fun t : State => t.link.windows), foldl_keeps (fun t : State => t.link.answer)]

@[simp] theorem ownerTakes_place (o : Order) (s : State) :
    (ownerTakes o s).link.area = s.link.area ∧ (ownerTakes o s).link.permissions = s.link.permissions ∧
    (ownerTakes o s).link.windows = s.link.windows ∧ (ownerTakes o s).link.answer = s.link.answer := by
  simp only [ownerTakes]
  (repeat' split) <;> simp [*]

@[simp] theorem completeEntry_place (cut : CutOff) (s : State) :
    (completeEntry cut s).link.area = s.link.area ∧ (completeEntry cut s).link.permissions = s.link.permissions ∧
    (completeEntry cut s).link.windows = s.link.windows ∧ (completeEntry cut s).link.answer = s.link.answer := by
  simp only [completeEntry]
  (repeat' split) <;> simp [*]

@[simp] theorem completeDispatched_place (cut : CutOff) (s : State) :
    (completeDispatched cut s).link.area = s.link.area ∧
    (completeDispatched cut s).link.permissions = s.link.permissions ∧
    (completeDispatched cut s).link.windows = s.link.windows ∧ (completeDispatched cut s).link.answer = s.link.answer := by
  simp only [completeDispatched]
  (repeat' split) <;> simp [*]

@[simp] theorem completeSegment_place (cut : CutOff) (s : State) :
    (completeSegment cut s).link.area = s.link.area ∧ (completeSegment cut s).link.permissions = s.link.permissions ∧
    (completeSegment cut s).link.windows = s.link.windows ∧ (completeSegment cut s).link.answer = s.link.answer := by
  simp only [completeSegment]
  (repeat' split) <;> simp [*]

@[simp] theorem completeOrder_place (cut : CutOff) (s : State) :
    (completeOrder cut s).link.area = s.link.area ∧ (completeOrder cut s).link.permissions = s.link.permissions ∧
    (completeOrder cut s).link.windows = s.link.windows ∧ (completeOrder cut s).link.answer = s.link.answer := by
  simp [completeOrder]

@[simp] theorem completeInside_place (cut : CutOff) (s : State) :
    (completeInside cut s).link.area = s.link.area ∧ (completeInside cut s).link.permissions = s.link.permissions ∧
    (completeInside cut s).link.windows = s.link.windows ∧ (completeInside cut s).link.answer = s.link.answer := by
  simp [completeInside]

@[simp] theorem softState_place (s : State) :
    (softState s).link.area = s.link.area ∧ (softState s).link.permissions = s.link.permissions ∧
    (softState s).link.answer = s.link.answer := by
  simp [softState, softLink]

@[simp] theorem clearFloor_place (s : State) :
    (clearFloor s).link.area = s.link.area ∧ (clearFloor s).link.permissions = s.link.permissions ∧
    (clearFloor s).link.windows = s.link.windows ∧ (clearFloor s).link.answer = s.link.answer := by
  simp [clearFloor]

@[simp] theorem softClear_place (s : State) :
    (softClear s).link.area = s.link.area ∧ (softClear s).link.permissions = s.link.permissions ∧
    (softClear s).link.answer = s.link.answer := by
  simp [softClear]

@[simp] theorem latchLeave_place (from_ : RunState) (s : State) :
    (latchLeave from_ s).link.area = s.link.area ∧ (latchLeave from_ s).link.permissions = s.link.permissions ∧
    (latchLeave from_ s).link.windows = s.link.windows ∧ (latchLeave from_ s).link.answer = s.link.answer := by
  simp only [latchLeave]
  (repeat' split) <;> simp [*]

@[simp] theorem softReset_place (cut : CutOff) (s : State) :
    (softReset cut s).link.area = s.link.area ∧ (softReset cut s).link.permissions = s.link.permissions ∧
    (softReset cut s).link.answer = s.link.answer := by
  simp [softReset]

@[simp] theorem flagsRead_place (enables : BitVec 4) (s : State) :
    (flagsRead enables s).link.area = s.link.area ∧ (flagsRead enables s).link.permissions = s.link.permissions ∧
    (flagsRead enables s).link.windows = s.link.windows := by
  simp only [flagsRead]
  (repeat' split) <;> simp [*]

@[simp] theorem areaWrite_place (high : Bool) (value : Word) (s : State) :
    (areaWrite high value s).link.permissions = s.link.permissions ∧
    (areaWrite high value s).link.windows = s.link.windows ∧ (areaWrite high value s).link.answer = s.link.answer := by
  simp only [areaWrite]
  (repeat' split) <;> simp [*]

@[simp] theorem flagsWrite_place (value : Word) (s : State) :
    (flagsWrite value s).link.area = s.link.area ∧ (flagsWrite value s).link.windows = s.link.windows ∧
    (flagsWrite value s).link.answer = s.link.answer := by
  simp [flagsWrite]

@[simp] theorem ctrlCommand_place (command : BitVec 2) (cut : CutOff) (s : State) :
    (ctrlCommand command cut s).link.area = s.link.area ∧
    (ctrlCommand command cut s).link.permissions = s.link.permissions ∧
    (ctrlCommand command cut s).link.answer = s.link.answer := by
  simp only [ctrlCommand]
  (repeat' split) <;> simp [*]

@[simp] theorem ctrlWrite_place (value : Word) (cut : CutOff) (s : State) :
    (ctrlWrite value cut s).link.area = s.link.area ∧ (ctrlWrite value cut s).link.permissions = s.link.permissions ∧
    (ctrlWrite value cut s).link.answer = s.link.answer := by
  simp only [ctrlWrite]
  (repeat' split) <;> simp [*]

@[simp] theorem nextAlarmRegister_place (value : Word) (s : State) :
    (nextAlarmRegister value s).link.area = s.link.area ∧
    (nextAlarmRegister value s).link.permissions = s.link.permissions ∧
    (nextAlarmRegister value s).link.windows = s.link.windows ∧
    (nextAlarmRegister value s).link.answer = s.link.answer := by
  simp [nextAlarmRegister]

end Sys2Proof.Machine
end

