-- ==== Sys2Proof/Laws/Ports.lean ====
section
/-! SUPPORT. Every operation keeps the law of the slots not FREE: no leg is OUT_OF_SERVICE (R97) and a tariff is current
(R138). -/

namespace Sys2Proof.Machine

theorem ports_congr {s t : State} (h : portsLawful s)
    (e : t.store.slots = s.store.slots ∧ t.monitors = s.monitors ∧ t.tariffs.current = s.tariffs.current) :
    portsLawful t := by
  obtain ⟨e1, e2, e3⟩ := e
  simpa only [portsLawful, legsInService, monitorsLawful, tariffCurrent, e1, e2, e3] using h

theorem record_ports (op : LinkOp) {s : State} (good : portsLawful s) : portsLawful (record op s) := by
  exact ports_congr good (by simp)

theorem setFlags_ports (f : BitVec 7) {s : State} (good : portsLawful s) : portsLawful (setFlags f s) := by
  exact ports_congr good (by simp)

theorem latch_ports (f : Flag) {s : State} (good : portsLawful s) : portsLawful (latch f s) := by
  exact ports_congr good (by simp)

theorem setSeverity_ports (i : Fin 51) (severity : Fin 4) {s : State} (good : portsLawful s) :
    portsLawful (setSeverity i severity s) := by
  exact ports_congr good (by simp)

theorem modeWrite_ports (mode : BitVec 2) (spotlight : BitVec 6) {s : State} (good : portsLawful s) :
    portsLawful (modeWrite mode spotlight s) := by
  exact ports_congr good (by simp)

theorem changeAccount_ports (m : Nat) (f : Account → Account) {s : State} (good : portsLawful s) :
    portsLawful (changeAccount m f s) := by
  exact ports_congr good (by simp)

theorem openBooking_ports (m : Nat) {s : State} (good : portsLawful s) : portsLawful (openBooking m s) := by
  exact ports_congr good (by simp)

theorem freeAccountSlot_ports (k : Fin 128) {s : State} (good : portsLawful s) :
    portsLawful (freeAccountSlot k s) := by
  exact ports_congr good (by simp)

theorem loseTicket_ports (m : Option Nat) {s : State} (good : portsLawful s) : portsLawful (loseTicket m s) := by
  exact ports_congr good (by simp)

theorem raiseNumber_ports {s : State} (good : portsLawful s) : portsLawful (raiseNumber s) := by
  exact ports_congr good (by simp)

/-- A slot may be stored that is FREE, or whose legs are those of a slot not FREE before. -/
theorem setSlot_ports (n : Fin 1024) {b : Slot} {s : State} (good : portsLawful s)
    (hb : b.state ≠ .free →
      (∀ p, isLeg b p = true → s.monitors[p].inService = true) ∧ s.tariffs.current.isSome = true) :
    portsLawful (setSlot n b s) := by
  refine ⟨fun k p hk hp => ?_, good.2.1, fun k hk => ?_⟩
  by_cases h : n = k
  · subst h
    simp only [setSlot, Fin.getElem_fin, Vector.getElem_set_self] at hk hp
    exact (hb hk).1 p hp
  · simp only [setSlot, Fin.getElem_fin, Vector.getElem_set, Fin.val_inj, h, if_false] at hk hp
    exact good.1 k p hk hp
  · by_cases h : n = k
    · subst h
      simp only [setSlot, Fin.getElem_fin, Vector.getElem_set_self] at hk
      exact (hb hk).2
    · simp only [setSlot, Fin.getElem_fin, Vector.getElem_set, Fin.val_inj, h, if_false] at hk
      exact good.2.2 k hk

/-- The slot n with a state not FREE before may change all but its legs. -/
theorem setSlot_legs (n : Fin 1024) {b : Slot} {s : State} (good : portsLawful s)
    (hs : b.state ≠ .free → s.store.slots[n].state ≠ .free) (hp : b.primary = s.store.slots[n].primary)
    (hk : b.backup = s.store.slots[n].backup) : portsLawful (setSlot n b s) := by
  refine setSlot_ports n good fun hf => ⟨fun p hl => good.1 n p (hs hf) ?_, good.2.2 n (hs hf)⟩
  simpa only [isLeg, hp, hk] using hl

theorem takeClose_ports (r : Raise) {s : State} (good : portsLawful s) : portsLawful (takeClose r s) := by
  exact ports_congr good (by simp)

theorem loseRaise_ports (r : Raise) {s : State} (good : portsLawful s) : portsLawful (loseRaise r s) := by
  exact ports_congr good (by simp)

theorem endClose_ports (r : Raise) {s : State} (good : portsLawful s) : portsLawful (endClose r s) := by
  simp only [endClose]
  exact setSlot_ports _ (ports_congr good (by simp)) fun h => absurd rfl h

theorem closeInside_ports (r : Raise) {s : State} (good : portsLawful s) : portsLawful (closeInside r s) := by
  simp only [closeInside]
  (repeat (with_reducible first | apply endClose_ports | apply loseRaise_ports | apply raiseNumber_ports))
  exact good

theorem enterHeld_ports {s : State} (good : portsLawful s) : portsLawful (enterHeld s) := by
  exact ports_congr good (by simp)

theorem dropAccess_ports (a : Access) {s : State} (good : portsLawful s) : portsLawful (dropAccess a s) := by
  simp only [dropAccess]
  (repeat' split) <;>
    (repeat (with_reducible first
          | apply closeInside_ports | apply endClose_ports | apply loseRaise_ports | apply freeAccountSlot_ports
          | apply loseTicket_ports)) <;> exact good

theorem clearAccesses_ports {s : State} (good : portsLawful s) : portsLawful (clearAccesses s) := by
  exact ports_congr good (by simp)

theorem dropAccesses_ports {s : State} (good : portsLawful s) : portsLawful (dropAccesses s) := by
  exact foldl_closed (fun t a ht => dropAccess_ports a ht) _ (clearAccesses_ports good)

theorem takeBusFault_ports {s : State} (good : portsLawful s) : portsLawful (takeBusFault s) := by
  simp only [takeBusFault]
  (repeat' split) <;>
    (repeat (with_reducible first
          | apply setSeverity_ports | apply enterHeld_ports | apply dropAccesses_ports)) <;> exact good

theorem sendWrite_ports (w : HostWrite) {s : State} (good : portsLawful s) : portsLawful (sendWrite w s) := by
  simp only [sendWrite]
  (repeat' split) <;>
    (repeat (with_reducible first | apply record_ports | apply takeBusFault_ports)) <;> exact good

theorem issue_ports (w : HostWrite) {s : State} (good : portsLawful s) : portsLawful (issue w s) := by
  simp only [issue]
  (repeat' split) <;>
    (repeat (with_reducible first | apply sendWrite_ports)) <;> exact good

theorem issueAll_ports (ws : List HostWrite) {s : State} (good : portsLawful s) : portsLawful (issueAll ws s) := by
  induction ws generalizing s with
  | nil => exact good
  | cons w ws ih => exact ih (issue_ports w good)

theorem issueRead_ports (address : Address) (length : Nat) {s : State} (good : portsLawful s) :
    portsLawful (issueRead address length s) := by
  exact ports_congr good (by simp)

theorem setUnit_ports (u : UnitState) {s : State} (good : portsLawful s) : portsLawful (setUnit u s) := by
  exact ports_congr good (by simp)

theorem takeEntry_ports {s : State} (good : portsLawful s) : portsLawful (takeEntry s) := by
  exact ports_congr good (by simp)

theorem orderDone_ports (notify : Bool) {s : State} (good : portsLawful s) : portsLawful (orderDone notify s) := by
  exact ports_congr good (by simp)

theorem report_ports (notify : Bool) (outcome : OutcomeCode) (result : List Byte) {s : State} (good : portsLawful s) :
    portsLawful (report notify outcome result s) := by
  simp only [report]
  (repeat' split) <;>
    (repeat (with_reducible first
          | apply issueAll_ports | apply setUnit_ports | apply issue_ports | apply orderDone_ports)) <;> exact good

theorem finishOrder_ports (outcome : OutcomeCode) (result : List Byte) {s : State} (good : portsLawful s) :
    portsLawful (finishOrder outcome result s) := by
  simp only [finishOrder]
  (repeat' split) <;>
    (repeat (with_reducible first | apply report_ports)) <;> exact good

theorem setStage_ports (stage : Stage) {s : State} (good : portsLawful s) : portsLawful (setStage stage s) := by
  exact ports_congr good (by simp)

theorem examineEntry_ports (bytes : Vector Byte 24) {s : State} (good : portsLawful s) :
    portsLawful (examineEntry bytes s) := by
  simp only [examineEntry]
  (repeat' split) <;>
    (repeat (with_reducible first | apply report_ports | apply setUnit_ports)) <;> exact good

theorem entryRead_ports (bytes : Vector Byte 24) {s : State} (good : portsLawful s) :
    portsLawful (entryRead bytes s) := by
  simp only [entryRead]
  (repeat' split) <;>
    (repeat (with_reducible first | apply examineEntry_ports)) <;> exact good

theorem orderEndWrite_ports (value : Word) {s : State} (good : portsLawful s) :
    portsLawful (orderEndWrite value s) := by
  exact ports_congr good (by simp)

theorem setInFlight_ports (a : Option Access) {s : State} (good : portsLawful s) : portsLawful (setInFlight a s) := by
  exact ports_congr good (by simp)

theorem unblockRing_ports {s : State} (good : portsLawful s) : portsLawful (unblockRing s) := by
  exact ports_congr good (by simp)

theorem blockRing_ports {s : State} (good : portsLawful s) : portsLawful (blockRing s) := by
  exact ports_congr good (by simp)

theorem ticketWritten_ports {s : State} (good : portsLawful s) : portsLawful (ticketWritten s) := by
  exact ports_congr good (by simp)

theorem recordClose_ports (r : Raise) {s : State} (good : portsLawful s) : portsLawful (recordClose r s) := by
  simp only [recordClose]
  (repeat (with_reducible first | apply issueAll_ports))
  exact good

theorem finishClose_ports (r : Raise) (number : BitVec 32) {s : State} (good : portsLawful s) :
    portsLawful (finishClose r number s) := by
  simp only [finishClose]
  (repeat' split) <;>
    (repeat (with_reducible first | apply finishOrder_ports | apply endClose_ports)) <;> exact good

theorem lostClose_ports (r : Raise) {s : State} (good : portsLawful s) : portsLawful (lostClose r s) := by
  simp only [lostClose]
  (repeat (with_reducible first | apply finishClose_ports | apply recordClose_ports))
  exact good

theorem beginAccess_ports (a : Access) {s : State} (good : portsLawful s) : portsLawful (beginAccess a s) := by
  simp only [beginAccess]
  (repeat' split) <;>
    (repeat (with_reducible first
          | apply issue_ports | apply finishOrder_ports | apply setInFlight_ports | apply issueRead_ports
          | apply lostClose_ports | apply loseRaise_ports | apply raiseNumber_ports
          | apply setStage_ports)) <;> exact good

theorem pump_ports (accesses : List Access) {s : State} (good : portsLawful s) : portsLawful (pump accesses s) := by
  induction accesses generalizing s with
  | nil => exact good
  | cons a rest ih =>
    simp only [pump]
    split
    · exact good
    · exact ih (beginAccess_ports a good)

theorem pumpWaiting_ports {s : State} (good : portsLawful s) : portsLawful (pumpWaiting s) := by
  simp only [pumpWaiting]
  (repeat (with_reducible first | apply pump_ports))
  exact good

theorem submit_ports (accesses : List Access) {s : State} (good : portsLawful s) :
    portsLawful (submit accesses s) := by
  simp only [submit]
  (repeat (with_reducible first | apply pumpWaiting_ports))
  exact good

theorem writeClose_ports (r : Raise) {s : State} (good : portsLawful s) : portsLawful (writeClose r s) := by
  simp only [writeClose]
  (repeat' split) <;>
    (repeat (with_reducible first
          | apply issueAll_ports | apply setInFlight_ports | apply recordClose_ports | apply ticketWritten_ports
          | apply finishClose_ports)) <;> exact good

theorem raiseRead_ports (r : Raise) (empty : Bool) {s : State} (good : portsLawful s) :
    portsLawful (raiseRead r empty s) := by
  simp only [raiseRead]
  (repeat' split) <;>
    (repeat (with_reducible first
          | apply setInFlight_ports | apply writeClose_ports | apply lostClose_ports
          | apply blockRing_ports | apply loseRaise_ports)) <;> exact good

theorem totalRead_ports (k : Fin 128) (minute : Nat) (empty : Bool) {s : State} (good : portsLawful s) :
    portsLawful (totalRead k minute empty s) := by
  simp only [totalRead]
  (repeat' split) <;>
    (repeat (with_reducible first
          | apply setInFlight_ports | apply raiseNumber_ports | apply issueAll_ports | apply finishOrder_ports
          | apply freeAccountSlot_ports | apply ticketWritten_ports)) <;> exact good

theorem ticketSlotRead_ports (state : Byte) {s : State} (good : portsLawful s) :
    portsLawful (ticketSlotRead state s) := by
  simp only [ticketSlotRead]
  (repeat' split) <;>
    (repeat (with_reducible first
          | apply pumpWaiting_ports | apply raiseRead_ports | apply totalRead_ports | apply unblockRing_ports
          | apply setInFlight_ports)) <;> exact good

theorem request_ports (d : Fin 64) (target : Source) (cause : Cause) {s : State} (good : portsLawful s) :
    portsLawful (request d target cause s) := by
  exact ports_congr good (by simp)

theorem applyProtection_ports (n : Fin 1024) {s : State} (good : portsLawful s) :
    portsLawful (applyProtection n s) := by
  exact ports_congr good (by simp)

theorem applyActivation_ports (n : Fin 1024) {s : State} (good : portsLawful s) :
    portsLawful (applyActivation n s) := by
  exact ports_congr good (by simp)

theorem crosspointTick_ports {s : State} (good : portsLawful s) : portsLawful (crosspointTick s) := by
  exact ports_congr good (by simp)

/-- A lawful monitor may be stored when its port stays in service, or no slot not FREE has it as a leg. -/
theorem setMonitor_ports (p : Fin 48) {m : Monitor} (hm : monitorLawful m) {s : State} (good : portsLawful s)
    (hi : m.inService = false → ∀ n : Fin 1024, s.store.slots[n].state ≠ .free → isLeg s.store.slots[n] p = false) :
    portsLawful (setMonitor p m s) := by
  refine ⟨fun n q hn hq => ?_, setMonitor_monitors p hm good.2.1, good.2.2⟩
  by_cases h : p = q
  · subst h
    cases hv : m.inService
    · have := hi hv n hn; simp_all [setMonitor]
    · simpa [setMonitor] using hv
  · have := good.1 n q hn hq
    simpa [setMonitor, Vector.getElem_set, Fin.val_inj, h] using this

/-- A monitor may be stored that leaves the service state as it is. -/
theorem same_service {p : Fin 48} {m : Monitor} {s : State} (good : portsLawful s)
    (he : m.inService = s.monitors[p].inService) (hv : m.inService = false) (n : Fin 1024)
    (hn : s.store.slots[n].state ≠ .free) : isLeg s.store.slots[n] p = false := by
  cases hl : isLeg s.store.slots[n] p
  · rfl
  · have := good.1 n p hn hl; simp_all

theorem healthChanged_ports (p : Fin 48) {s : State} (good : portsLawful s) : portsLawful (healthChanged p s) := by
  exact ports_congr good (by simp)

theorem updateMonitor_ports (p : Fin 48) {m : Monitor} (hm : monitorLawful m) {s : State} (good : portsLawful s)
    (hi : m.inService = false → ∀ n : Fin 1024, s.store.slots[n].state ≠ .free → isLeg s.store.slots[n] p = false) :
    portsLawful (updateMonitor p m s) := by
  simp only [updateMonitor]
  split
  · exact setMonitor_ports p hm good hi
  · exact ports_congr (setMonitor_ports p hm good hi) (by simp)

theorem badGood_service (m : Monitor) :
    (badSecond m).inService = m.inService ∧ (goodSecond m).inService = m.inService := by
  constructor
  · simp only [badSecond, countBad, enterFailed]; (repeat' split) <;> rfl
  · simp only [goodSecond]; (repeat' split) <;> rfl

theorem monitorAtTick_service (m : Monitor) : (monitorAtTick m).inService = m.inService := by
  simp only [monitorAtTick, classSecond]
  (repeat' split) <;> simp [badGood_service, countClass_fields]

theorem monitorTick_ports (p : Fin 48) {s : State} (good : portsLawful s) : portsLawful (monitorTick p s) := by
  simp only [monitorTick]
  split
  · exact setMonitor_ports p (show monitorLawful { s.monitors[p] with tookTick := false } from good.2.1 p) good
      (same_service good rfl)
  · exact updateMonitor_ports p (monitorAtTick_lawful (good.2.1 p)) good (same_service good (monitorAtTick_service _))

theorem takeTickEarly_ports (p : Fin 48) {s : State} (good : portsLawful s) : portsLawful (takeTickEarly p s) :=
  updateMonitor_ports p
    (show monitorLawful { monitorAtTick s.monitors[p] with tookTick := true } from monitorAtTick_lawful (good.2.1 p)) good
    (same_service good (monitorAtTick_service _))

theorem holdOffReached_ports (p : Fin 48) {s : State} (good : portsLawful s) : portsLawful (holdOffReached p s) := by
  simp only [holdOffReached]
  (repeat' split) <;>
    (repeat (with_reducible first | apply takeTickEarly_ports)) <;> exact good

theorem restoreExpired_ports (p : Fin 48) {s : State} (good : portsLawful s) : portsLawful (restoreExpired p s) := by
  simp only [restoreExpired]
  (repeat' split) <;>
    (repeat (with_reducible first | apply takeTickEarly_ports)) <;> exact good

theorem lightLostAt_service (m : Monitor) : (lightLostAt m).inService = m.inService := by
  simp only [lightLostAt, enterFailed]
  split <;> rfl

theorem observe_service (seen : Observation) (m : Monitor) : (observe seen m).inService = m.inService := by
  rcases seen with _ | held | present
  · simp only [observe]; split <;> rfl
  · cases held <;> rfl
  · cases present
    · simp only [observe]; split
      · exact lightLostAt_service m
      · rfl
    · rfl

theorem receiverObservation_ports (p : Fin 48) (seen : Observation) {s : State} (good : portsLawful s) :
    portsLawful (receiverObservation p seen s) :=
  updateMonitor_ports p (observe_lawful seen (good.2.1 p)) good (same_service good (observe_service _ _))

theorem lossOfLight_ports (p : Fin 48) {s : State} (good : portsLawful s) : portsLawful (lossOfLight p s) :=
  updateMonitor_ports p (lightLostAt_lawful (good.2.1 p)) good (same_service good (lightLostAt_service _))

theorem countMeters_ports (e : EndedSecond) {s : State} (good : portsLawful s) : portsLawful (countMeters e s) :=
  ports_congr good (by simp [countMeters])

theorem setMeter_ports (n : Fin 1024) (m : Meter) {s : State} (good : portsLawful s) : portsLawful (setMeter n m s) := good

theorem swapTariff_ports {s : State} (good : portsLawful s) : portsLawful (swapTariff s) := by
  simp only [swapTariff]
  split
  · exact ⟨good.1, good.2.1, fun _ _ => rfl⟩
  · exact good

theorem setStartBands_ports {s : State} (good : portsLawful s) : portsLawful (setStartBands s) :=
  ports_congr good (by simp [setStartBands])

theorem takeTariffBoundary_ports {s : State} (good : portsLawful s) : portsLawful (takeTariffBoundary s) := by
  simp only [takeTariffBoundary]
  (repeat (with_reducible first | apply setStartBands_ports | apply swapTariff_ports))
  exact good

theorem setTimeline_ports (d : Fin 64) (l : List (Fin 1024)) {s : State} (good : portsLawful s) :
    portsLawful (setTimeline d l s) := good

theorem leaveTimeline_ports (n : Fin 1024) {s : State} (good : portsLawful s) : portsLawful (leaveTimeline n s) := by
  simp only [leaveTimeline]
  (repeat (with_reducible first | apply setTimeline_ports))
  exact good

theorem makeRecheck_ports {s : State} (good : portsLawful s) : portsLawful (makeRecheck s) := by
  simp only [makeRecheck]
  (repeat (with_reducible first | apply submit_ports))
  exact good

theorem countRecheck_ports {s : State} (good : portsLawful s) : portsLawful (countRecheck s) := by
  simp only [countRecheck]
  (repeat' split) <;>
    (repeat (with_reducible first | apply makeRecheck_ports)) <;> exact good

theorem lastRecheck_ports {s : State} (good : portsLawful s) : portsLawful (lastRecheck s) := by
  simp only [lastRecheck]
  (repeat' split) <;>
    (repeat (with_reducible first | apply makeRecheck_ports)) <;> exact good

theorem settleClose_ports (kind : TicketKind) (n : Fin 1024) (closeMinute : Nat) (forOrder : Bool) {s : State}
    (good : portsLawful s) : portsLawful (settleClose kind n closeMinute forOrder s) := by
  simp only [settleClose]
  (repeat (with_reducible first | apply submit_ports | apply takeClose_ports))
  exact good

theorem handToAlarms_ports {s : State} (good : portsLawful s) : portsLawful (handToAlarms s) := by
  exact ports_congr good (by simp)

theorem beginClose_ports (n : Fin 1024) (minute : Nat) {s : State} (good : portsLawful s) :
    portsLawful (beginClose n minute s) := by
  simp only [beginClose]
  (repeat' split) <;>
    (repeat (with_reducible first
          | apply leaveTimeline_ports | apply handToAlarms_ports | apply request_ports)) <;> exact good

theorem holdClose_ports (n : Fin 1024) (minute : Nat) {s : State} (good : portsLawful s) :
    portsLawful (holdClose n minute s) := good

theorem closeOnAir_ports (n : Fin 1024) (minute : Nat) (counted forOrder : Bool) {s : State} (good : portsLawful s) :
    portsLawful (closeOnAir n minute counted forOrder s) := by
  simp only [closeOnAir]
  (repeat' split) <;>
    (repeat (with_reducible first
          | apply beginClose_ports | apply settleClose_ports | apply holdClose_ports)) <;> exact good

theorem closeMissed_ports (n : Fin 1024) (minute : Nat) {s : State} (good : portsLawful s) :
    portsLawful (closeMissed n minute s) := by
  simp only [closeMissed]
  (repeat (with_reducible first | apply settleClose_ports | apply leaveTimeline_ports))
  exact good

theorem markOwned_ports (d : Fin 64) {s : State} (good : portsLawful s) : portsLawful (markOwned d s) := by
  exact ports_congr good (by simp)

theorem activate_ports (n : Fin 1024) (minute : Nat) (first : Stamp) (band : Option Band) {s : State}
    (hs : s.store.slots[n].state ≠ .free) (good : portsLawful s) : portsLawful (activate n minute first band s) := by
  simp only [activate]
  refine submit_ports _ (ports_congr (s := setSlot n { s.store.slots[n] with
    state := .active
    activation := some minute } s) ?_ (by simp [setMeter]))
  exact setSlot_legs n good (fun _ => hs) rfl rfl

theorem enterOverrun_ports (n : Fin 1024) {s : State} (hs : s.store.slots[n].state ≠ .free) (good : portsLawful s) :
    portsLawful (enterOverrun n s) := by
  simp only [enterOverrun]
  exact submit_ports _ (setSlot_legs n good (fun _ => hs) rfl rfl)

theorem boundaryClose_ports (n : Fin 1024) (minute : Nat) (counted : Bool) {s : State} (good : portsLawful s) :
    portsLawful (boundaryClose n minute counted s) := by
  simp only [boundaryClose]
  (repeat' split) <;>
    (repeat (with_reducible first | apply closeOnAir_ports | apply countRecheck_ports)) <;> exact good

theorem boundaryHead_ports (minute : Nat) (counted : Bool) (d : Fin 64) {s : State} (good : portsLawful s) :
    portsLawful (boundaryHead minute counted d s) := by
  simp only [boundaryHead]
  split
  · exact good
  · split
    · exact boundaryClose_ports _ _ _ good
    · split
      · rename_i h
        exact enterOverrun_ports _ (by rw [h.1]; decide) good
      · exact good

theorem boundaryStart_ports (minute : Nat) (swapped : Bool) (d : Fin 64) {s : State} (good : portsLawful s) :
    portsLawful (boundaryStart minute swapped d s) := by
  simp only [boundaryStart]
  split
  · exact good
  · split
    · rename_i h
      exact activate_ports _ _ _ _ (by rw [h.1]; decide) good
    · exact good

theorem boundaryTimeline_ports (minute : Nat) (counted swapped : Bool) (d : Fin 64) {s : State}
    (good : portsLawful s) : portsLawful (boundaryTimeline minute counted swapped d s) := by
  simp only [boundaryTimeline]
  (repeat (with_reducible first | apply boundaryStart_ports | apply boundaryHead_ports))
  exact good

theorem storeTimelines_ports (taken : Bool) (minute : Nat) (counted swapped : Bool) (ports :
    List (Fin 64)) {s : State} (good : portsLawful s) : portsLawful (storeTimelines taken minute counted swapped ports s) := by
  simp only [storeTimelines]
  split
  · exact foldl_closed (fun t d ht => boundaryTimeline_ports _ _ _ d ht) _ good
  · exact good

theorem openRecheck_ports (recheckAfter : Nat) {s : State} (good : portsLawful s) :
    portsLawful (openRecheck recheckAfter s) := by
  simp only [openRecheck]
  (repeat' split) <;>
    (repeat (with_reducible first | apply makeRecheck_ports)) <;> exact good

theorem boundaryCounted_ports (minute swapAfter recheckAfter : Nat) {s : State} (good : portsLawful s) :
    portsLawful (boundaryCounted minute swapAfter recheckAfter s) := by
  simp only [boundaryCounted]
  (repeat (with_reducible first
        | apply storeTimelines_ports | apply openRecheck_ports | apply lastRecheck_ports
        | apply takeTariffBoundary_ports))
  exact good

theorem boundaryUncounted_ports (minute recheckAfter : Nat) {s : State} (good : portsLawful s) :
    portsLawful (boundaryUncounted minute recheckAfter s) := by
  simp only [boundaryUncounted]
  (repeat (with_reducible first | apply lastRecheck_ports | apply storeTimelines_ports | apply openRecheck_ports))
  exact good

theorem catchUpCloses_ports (members :
    List (Fin 1024)) {s : State} (good : portsLawful s) : portsLawful (catchUpCloses members s) := by
  induction members generalizing s with
  | nil => exact good
  | cons n rest ih =>
    simp only [catchUpCloses]
    (repeat' split) <;> 
      first
        | with_reducible exact good
        | with_reducible exact ih (closeOnAir_ports _ _ _ _ good)
        | with_reducible exact ih (closeMissed_ports _ _ good)

theorem catchUpStart_ports (d : Fin 64) {s : State} (good : portsLawful s) : portsLawful (catchUpStart d s) := by
  simp only [catchUpStart]
  split
  · exact good
  · split
    · rename_i h
      exact activate_ports _ _ _ _ (by rw [h.1]; decide) good
    · exact good

theorem catchUpPhase_ports (d : Fin 64) {s : State} (good : portsLawful s) : portsLawful (catchUpPhase d s) := by
  simp only [catchUpPhase]
  split
  · exact good
  · split
    · rename_i h
      exact enterOverrun_ports _ (by rw [h.1]; decide) good
    · exact good

theorem catchUpTimeline_ports (d : Fin 64) {s : State} (good : portsLawful s) :
    portsLawful (catchUpTimeline d s) := by
  simp only [catchUpTimeline]
  (repeat (with_reducible first | apply catchUpPhase_ports | apply catchUpStart_ports | apply catchUpCloses_ports))
  exact good

theorem catchUp_ports {s : State} (good : portsLawful s) : portsLawful (catchUp s) := by
  exact foldl_closed (fun t d ht => catchUpTimeline_ports d ht) _ good

theorem enterRunning_ports {s : State} (good : portsLawful s) : portsLawful (enterRunning s) := by
  simp only [enterRunning]
  (repeat (with_reducible first | apply takeEntry_ports | apply catchUp_ports | apply latch_ports))
  exact good

theorem releaseFirst_ports {s : State} (good : portsLawful s) : portsLawful (releaseFirst s) := by
  simp only [releaseFirst]
  (repeat' split) <;>
    (repeat (with_reducible first
          | apply lastRecheck_ports | apply countRecheck_ports | apply settleClose_ports)) <;> exact good

theorem settlePage_ports {s : State} (good : portsLawful s) : portsLawful (settlePage s) := by
  exact ports_congr good (by simp)

theorem boundaryPage_ports (minute : BitVec 32) {s : State} (good : portsLawful s) :
    portsLawful (boundaryPage minute s) := by
  exact ports_congr good (by simp)

theorem endPage_ports {s : State} (good : portsLawful s) : portsLawful (endPage s) := by
  exact ports_congr good (by simp)

theorem pageComplete_ports {s : State} (good : portsLawful s) : portsLawful (pageComplete s) := by
  simp only [pageComplete]
  (repeat' split) <;>
    (repeat (with_reducible first | apply issueAll_ports | apply latch_ports | apply endPage_ports)) <;> exact good

theorem abandonPage_ports (issued : Nat) {s : State} (good : portsLawful s) : portsLawful (abandonPage issued s) := by
  simp only [abandonPage]
  (repeat' split) <;>
    (repeat (with_reducible first | apply endPage_ports | apply issueAll_ports)) <;> exact good

theorem crosspointBlock_ports {s : State} (good : portsLawful s) : portsLawful (crosspointBlock s) := by
  exact ports_congr good (by simp)

theorem blockTick_ports (k : Fin 49) {s : State} (good : portsLawful s) : portsLawful (blockTick k s) := by
  simp only [blockTick]
  (repeat' split) <;>
    (repeat (with_reducible first | apply monitorTick_ports | apply crosspointBlock_ports)) <;> exact good

theorem blockAhead_ports (k : Fin 49) {s : State} (good : portsLawful s) : portsLawful (blockAhead k s) := by
  simp only [blockAhead]
  split
  · split
    · exact good
    · exact takeTickEarly_ports _ good
  · split
    · exact good
    · exact crosspointTick_ports good

theorem ticksAhead_ports (early : TickOrder) {s : State} (good : portsLawful s) :
    portsLawful (ticksAhead early s) := by
  exact foldl_closed (fun t k ht => blockAhead_ports k ht) _ good

theorem blocksTick_ports (order done :
    List (Fin 49)) {s : State} (good : portsLawful s) : portsLawful (blocksTick order done s) := by
  induction order generalizing s done with
  | nil => exact good
  | cons b rest ih =>
    simp only [blocksTick]
    split
    · exact ih _ good
    · exact ih _ (blockTick_ports b good)

theorem handTick_ports (order : TickOrder) (e : EndedSecond) {s : State} (good : portsLawful s) :
    portsLawful (handTick order e s) := by
  simp only [handTick]
  (repeat (with_reducible first | apply countMeters_ports | apply blocksTick_ports))
  exact good

theorem owedTick_ports (order : TickOrder) (ended : BitVec 32) {s : State} (good : portsLawful s) :
    portsLawful (owedTick order ended s) := by
  simp only [owedTick]
  (repeat (with_reducible first | apply takeTariffBoundary_ports | apply handTick_ports))
  exact good

theorem setRollover_ports (r : Rollover) {s : State} (good : portsLawful s) : portsLawful (setRollover r s) := by
  exact ports_congr good (by simp)

theorem setTime_ports (minute : BitVec 32) (second : Nat) {s : State} (good : portsLawful s) :
    portsLawful (setTime minute second s) := by
  exact ports_congr good (by simp)

theorem rollTime_ports (minute : BitVec 32) (clockSet : Bool) {s : State} (good : portsLawful s) :
    portsLawful (rollTime minute clockSet s) := by
  exact ports_congr good (by simp)

theorem boundaryAfterTick_ports (minute : BitVec 32) (clockSet : Bool) (swapAfter recheckAfter : Nat) {s : State}
    (good : portsLawful s) : portsLawful (boundaryAfterTick minute clockSet swapAfter recheckAfter s) := by
  simp only [boundaryAfterTick]
  (repeat (with_reducible first
        | apply boundaryPage_ports | apply boundaryCounted_ports | apply rollTime_ports | apply setRollover_ports))
  exact good

theorem boundaryBeforeTick_ports (recheckAfter : Nat) {s : State} (good : portsLawful s) :
    portsLawful (boundaryBeforeTick recheckAfter s) := by
  simp only [boundaryBeforeTick]
  (repeat (with_reducible first | apply boundaryUncounted_ports | apply setRollover_ports | apply setTime_ports))
  exact good

theorem takeBoundary_ports (swapAfter recheckAfter : Nat) {s : State} (good : portsLawful s) :
    portsLawful (takeBoundary swapAfter recheckAfter s) := by
  simp only [takeBoundary]
  (repeat' split) <;>
    (repeat (with_reducible first | apply boundaryAfterTick_ports | apply boundaryBeforeTick_ports)) <;> exact good

theorem minuteBoundary_ports (early : TickOrder) (boundary : Bool) (swapAfter recheckAfter : Nat) {s : State}
    (good : portsLawful s) : portsLawful (minuteBoundary early boundary swapAfter recheckAfter s) := by
  simp only [minuteBoundary]
  (repeat' split) <;>
    (repeat (with_reducible first | apply ticksAhead_ports | apply takeBoundary_ports)) <;> exact good

theorem settleBoundary_ports {s : State} (good : portsLawful s) : portsLawful (settleBoundary s) := by
  simp only [settleBoundary]
  (repeat' split) <;>
    (repeat (with_reducible first | apply boundaryAfterTick_ports)) <;> exact good

theorem completeSecond_ports (ahead : Bool) {s : State} (good : portsLawful s) : portsLawful (completeSecond ahead s) := by
  exact ports_congr good (by simp)

theorem secondTick_ports (order : TickOrder) {s : State} (good : portsLawful s) :
    portsLawful (secondTick order s) := by
  simp only [secondTick]
  (repeat' split) <;>
    (repeat (with_reducible first
          | apply settleBoundary_ports | apply boundaryPage_ports | apply setRollover_ports | apply owedTick_ports
          | apply completeSecond_ports | apply handTick_ports)) <;> exact good

theorem changeReference_ports (c : Clock) {s : State} (good : portsLawful s) : portsLawful (changeReference c s) := by
  exact ports_congr good (by simp)

theorem pulseFreeRun_ports (instant : Nat) (order : TickOrder) {s : State} (good : portsLawful s) :
    portsLawful (pulseFreeRun instant order s) := by
  simp only [pulseFreeRun]
  (repeat' split) <;>
    (repeat (with_reducible first | apply secondTick_ports | apply changeReference_ports)) <;> exact good

theorem secrefPulse_ports (instant : Nat) (order : TickOrder) {s : State} (good : portsLawful s) :
    portsLawful (secrefPulse instant order s) := by
  simp only [secrefPulse]
  (repeat' split) <;>
    (repeat (with_reducible first | apply secondTick_ports | apply pulseFreeRun_ports)) <;> exact good

theorem secrefTimeout_ports (order : TickOrder) {s : State} (good : portsLawful s) :
    portsLawful (secrefTimeout order s) := by
  simp only [secrefTimeout]
  (repeat' split) <;>
    (repeat (with_reducible first | apply secondTick_ports | apply changeReference_ports)) <;> exact good

theorem ownTick_ports (order : TickOrder) {s : State} (good : portsLawful s) : portsLawful (ownTick order s) := by
  simp only [ownTick]
  (repeat' split) <;>
    (repeat (with_reducible first | apply secondTick_ports)) <;> exact good

theorem bookOrder_ports (o : Order) {s : State} (good : portsLawful s) : portsLawful (bookOrder o s) := by
  simp only [bookOrder]
  (repeat' split) <;>
    (repeat (with_reducible first
          | apply finishOrder_ports | apply submit_ports | apply setStage_ports)) <;> exact good

theorem joinTimeline_ports (n : Fin 1024) {s : State} (good : portsLawful s) : portsLawful (joinTimeline n s) := good

theorem acceptBooking_ports (n : Fin 1024) {b : Slot} {s : State} (good : portsLawful s)
    (hb : ∀ p, isLeg b p = true → s.monitors[p].inService = true) (ht : s.tariffs.current.isSome = true) :
    portsLawful (acceptBooking n b s) := by
  simp only [acceptBooking]
  refine ports_congr (s := joinTimeline n (setSlot n b s)) ?_ (by simp [setMeter])
  exact joinTimeline_ports n (setSlot_ports n good fun _ => ⟨hb, ht⟩)

/-- R50, check 5: when no leg is OUT_OF_SERVICE, every leg is in service. -/
theorem legs_of_legOut {b : Slot} {s : State} (good : monitorsLawful s) (h : legOut b s = false) (p : Fin 48)
    (hp : isLeg b p = true) : s.monitors[p].inService = true := by
  simp only [legOut, outOfService, healthOf, Bool.or_eq_false_iff] at h
  simp only [isLeg, decide_eq_true_eq] at hp
  rcases hp with hp | hp
  · subst hp; exact inService_of_health (good _) (of_decide_eq_false h.1)
  · have h2 := h.2
    rw [hp] at h2
    exact inService_of_health (good _) (of_decide_eq_false h2)

/-- R50: without a refusal every check has passed. -/
theorem bookRefusal_none {r : BookRecord} {s : State} (h : bookRefusal r s = none) :
    ∀ c ∈ bookChecks r s, c.1 = false := by
  simpa [bookRefusal] using h

theorem bookFromRecord_ports (n : Fin 1024) (r : BookRecord) {s : State} (good : portsLawful s) :
    portsLawful (bookFromRecord n r s) := by
  simp only [bookFromRecord]
  split
  · exact submit_ports _ good
  · split
    · exact submit_ports _ good
    · rename_i h
      refine submit_ports _ (acceptBooking_ports n good (legs_of_legOut good.2.1 ?_) ?_)
      · exact bookRefusal_none h (legOut (slotOfRecord r) s, .portOut) (by simp [bookChecks])
      · have := bookRefusal_none h (s.tariffs.current.isNone, .noTariff) (by simp [bookChecks])
        simpa using this

theorem bookRecordRead_ports (bytes : Vector Byte 20) {s : State} (good : portsLawful s) :
    portsLawful (bookRecordRead bytes s) := by
  simp only [bookRecordRead]
  (repeat' split) <;>
    (repeat (with_reducible first | apply bookFromRecord_ports | apply setInFlight_ports)) <;> exact good

theorem cancelAccepted_ports (n : Fin 1024) {s : State} (good : portsLawful s) :
    portsLawful (cancelAccepted n s) := by
  simp only [cancelAccepted]
  (repeat' split) <;>
    (repeat (with_reducible first
          | apply leaveTimeline_ports | apply settleClose_ports | apply setMeter_ports)) <;> exact good

theorem cancelOrder_ports (o : Order) {s : State} (good : portsLawful s) : portsLawful (cancelOrder o s) := by
  simp only [cancelOrder]
  (repeat' split) <;>
    (repeat (with_reducible first
          | apply finishOrder_ports | apply cancelAccepted_ports | apply setStage_ports
          | apply closeOnAir_ports)) <;> exact good

theorem grantExtension_ports (n : Fin 1024) (minutes : Nat) {s : State} (good : portsLawful s) :
    portsLawful (grantExtension n minutes s) := by
  simp only [grantExtension]
  split
  · exact finishOrder_ports _ _ good
  · refine submit_ports _ (setSlot_legs n (setStage_ports _ good) (fun h => ?_) ?_ ?_) <;> simp_all [extendedSlot]

theorem extendOrder_ports (o : Order) {s : State} (good : portsLawful s) : portsLawful (extendOrder o s) := by
  simp only [extendOrder]
  (repeat' split) <;>
    (repeat (with_reducible first | apply finishOrder_ports | apply grantExtension_ports)) <;> exact good

theorem lodgeSwitch_ports (d : Fin 64) (target : Source) {s : State} (good : portsLawful s) :
    portsLawful (lodgeSwitch d target s) := by
  simp only [lodgeSwitch]
  (repeat (with_reducible first | apply finishOrder_ports | apply request_ports))
  exact good

theorem switchOrder_ports (o : Order) {s : State} (good : portsLawful s) : portsLawful (switchOrder o s) := by
  simp only [switchOrder]
  (repeat' split) <;>
    (repeat (with_reducible first | apply finishOrder_ports | apply lodgeSwitch_ports)) <;> exact good

theorem storeLegMode_ports (n : Fin 1024) (mode : LegMode) {s : State} (good : portsLawful s) :
    portsLawful (storeLegMode n mode s) := by
  have h : portsLawful (setSlot n { s.store.slots[n] with legMode := mode } s) := setSlot_legs n good id rfl rfl
  simp only [storeLegMode]
  refine finishOrder_ports _ _ ?_
  split
  · exact ports_congr h (by simp)
  · exact h

theorem setLegOrder_ports (o : Order) {s : State} (good : portsLawful s) : portsLawful (setLegOrder o s) := by
  simp only [setLegOrder]
  (repeat' split) <;>
    (repeat (with_reducible first | apply finishOrder_ports | apply storeLegMode_ports)) <;> exact good

theorem applySetPort_ports (p : Fin 48) (o : Order) {s : State} (good : portsLawful s)
    (hf : setPortInService o = true ∨ slotUsing p s = none) : portsLawful (applySetPort p o s) := by
  refine finishOrder_ports _ _ (updateMonitor_ports p (monitorSet_lawful o (good.2.1 p)) good fun hv n hn => ?_)
  rcases hf with hf | hf
  · exfalso
    simp only [monitorSet, hf] at hv
    cases hm : s.monitors[p].inService <;> simp_all [enterService, configured]
  · have := List.find?_eq_none.1 hf n (List.mem_finRange n)
    simp only [Bool.and_eq_true, decide_eq_true_eq, not_and, Bool.not_eq_true] at this
    exact this hn

theorem setPortOrder_ports (o : Order) {s : State} (good : portsLawful s) : portsLawful (setPortOrder o s) := by
  simp only [setPortOrder]
  split
  · exact finishOrder_ports _ _ good
  · split
    · split
      · rename_i h; exact applySetPort_ports _ o good (.inl h)
      · exact finishOrder_ports _ _ good
    · rename_i h; exact applySetPort_ports _ o good (.inr h)

theorem readPortOrder_ports (o : Order) {s : State} (good : portsLawful s) : portsLawful (readPortOrder o s) := by
  simp only [readPortOrder]
  (repeat' split) <;> apply finishOrder_ports
  · exact good
  · exact good
  · exact setMonitor_ports _ (clearCounters_lawful (good.2.1 _)) good (same_service good rfl)

theorem readSegment_ports (address : Address) {s : State} (good : portsLawful s) :
    portsLawful (readSegment address s) := by
  exact ports_congr good (by simp)

theorem loadTariffOrder_ports (o : Order) {s : State} (good : portsLawful s) : portsLawful (loadTariffOrder o s) := by
  simp only [loadTariffOrder]
  (repeat' split) <;>
    (repeat (with_reducible first | apply finishOrder_ports | apply readSegment_ports)) <;> exact good

theorem stageTariff_ports (t : Tariff) {s : State} (good : portsLawful s) : portsLawful (stageTariff t s) := good

theorem segmentTaken_ports (bytes : Vector Byte 240) {s : State} (good : portsLawful s) :
    portsLawful (segmentTaken bytes s) := by
  simp only [segmentTaken]
  (repeat' split) <;>
    (repeat (with_reducible first | apply finishOrder_ports | apply stageTariff_ports)) <;> exact good

theorem tariffSegmentRead_ports (bytes : Vector Byte 240) {s : State} (good : portsLawful s) :
    portsLawful (tariffSegmentRead bytes s) := by
  simp only [tariffSegmentRead]
  (repeat' split) <;>
    (repeat (with_reducible first | apply segmentTaken_ports)) <;> exact good

theorem latchAccountOrder_ports (o : Order) {s : State} (good : portsLawful s) :
    portsLawful (latchAccountOrder o s) := by
  simp only [latchAccountOrder]
  (repeat' split) <;>
    (repeat (with_reducible first | apply finishOrder_ports)) <;> exact good

theorem closeMatchOrder_ports (o : Order) {s : State} (good : portsLawful s) : portsLawful (closeMatchOrder o s) := by
  simp only [closeMatchOrder]
  (repeat' split) <;>
    (repeat (with_reducible first
          | apply finishOrder_ports | apply submit_ports | apply setStage_ports)) <;> exact good

theorem setClockOrder_ports (o : Order) {s : State} (good : portsLawful s) : portsLawful (setClockOrder o s) := by
  simp only [setClockOrder]
  (repeat' split) <;>
    (repeat (with_reducible first
          | apply finishOrder_ports | apply setRollover_ports | apply setTime_ports)) <;> exact good

theorem setStart_ports (p : StartPhase) (c : StartCode) {s : State} (good : portsLawful s) :
    portsLawful (setStart p c s) := by
  exact ports_congr good (by simp)

theorem takeHeader_ports (h : Header) {s : State} (good : portsLawful s) : portsLawful (takeHeader h s) := good

theorem headerTaken_ports (h : Header) {s : State} (good : portsLawful s) : portsLawful (headerTaken h s) := by
  simp only [headerTaken]
  (repeat' split) <;>
    (repeat (with_reducible first
          | apply setStart_ports | apply sendWrite_ports | apply takeHeader_ports)) <;> exact good

theorem headerReadComplete_ports (bytes : Vector Byte 80) {s : State} (good : portsLawful s) :
    portsLawful (headerReadComplete bytes s) := by
  simp only [headerReadComplete]
  (repeat' split) <;>
    (repeat (with_reducible first | apply headerTaken_ports)) <;> exact good

theorem identityWriteComplete_ports {s : State} (good : portsLawful s) : portsLawful (identityWriteComplete s) := by
  simp only [identityWriteComplete]
  (repeat' split) <;>
    (repeat (with_reducible first | apply enterRunning_ports | apply setStart_ports)) <;> exact good

theorem startDormant_ports {s : State} (good : portsLawful s) : portsLawful (startDormant s) := by
  exact ports_congr good (by simp)

theorem startHeld_ports {s : State} (good : portsLawful s) : portsLawful (startHeld s) := by
  simp only [startHeld]
  (repeat' split) <;>
    (repeat (with_reducible first | apply enterRunning_ports | apply setStart_ports)) <;> exact good

theorem startRunning_ports {s : State} (good : portsLawful s) : portsLawful (startRunning s) := by
  exact ports_congr good (by simp)

theorem startCommand_ports {s : State} (good : portsLawful s) : portsLawful (startCommand s) := by
  simp only [startCommand]
  (repeat' split) <;>
    (repeat (with_reducible first
          | apply startDormant_ports | apply startHeld_ports | apply startRunning_ports)) <;> exact good

theorem haltCommand_ports {s : State} (good : portsLawful s) : portsLawful (haltCommand s) := by
  exact ports_congr good (by simp)

theorem busFaultAt_ports (after : Nat) {s : State} (good : portsLawful s) : portsLawful (busFaultAt after s) := by
  simp only [busFaultAt]
  (repeat' split) <;>
    (repeat (with_reducible first | apply takeBusFault_ports)) <;> exact good

theorem setGate_ports (g : Gate) {s : State} (good : portsLawful s) : portsLawful (setGate g s) := by
  exact ports_congr good (by simp)

theorem completeInFlight_ports (cut : CutOff) {s : State} (good : portsLawful s) :
    portsLawful (completeInFlight cut s) := by
  simp only [completeInFlight]
  (repeat' split) <;>
    (repeat (with_reducible first
          | apply raiseRead_ports | apply unblockRing_ports | apply setInFlight_ports | apply bookFromRecord_ports
          | apply totalRead_ports | apply freeAccountSlot_ports | apply loseTicket_ports | apply raiseNumber_ports
          | apply dropAccess_ports)) <;> exact good

theorem gateNext_ports (a : Access) {s : State} (good : portsLawful s) : portsLawful (gateNext a s) := by
  simp only [gateNext]
  split
  · exact good
  · exact setGate_ports _ good

theorem completeNext_ports (cut : CutOff) (a : Access) {s : State} (good : portsLawful s) :
    portsLawful (completeNext cut a s) := by
  simp only [completeNext]
  (repeat (with_reducible first | apply completeInFlight_ports | apply beginAccess_ports | apply gateNext_ports))
  exact good

theorem setWaiting_ports (l : List Access) {s : State} (good : portsLawful s) : portsLawful (setWaiting l s) := by
  exact ports_congr good (by simp)

theorem completeAccesses_ports (cut : CutOff) {s : State} (good : portsLawful s) :
    portsLawful (completeAccesses cut s) := by
  exact foldl_closed (fun t a ht => completeNext_ports cut a ht) _
    (completeInFlight_ports cut (setGate_ports _ (setWaiting_ports _ good)))

theorem completeTick_ports (cut : CutOff) {s : State} (good : portsLawful s) : portsLawful (completeTick cut s) := by
  simp only [completeTick]
  (repeat' split) <;>
    (repeat (with_reducible first | apply setRollover_ports | apply owedTick_ports)) <;> exact good

theorem completeHold_ports (h : Hold) {s : State} (good : portsLawful s) : portsLawful (completeHold h s) :=
  closeInside_ports _ (takeClose_ports _ good)

theorem completeHolds_ports {s : State} (good : portsLawful s) : portsLawful (completeHolds s) := by
  exact foldl_closed (fun t h ht => completeHold_ports h ht) _ good

theorem ownerTakes_ports (o : Order) {s : State} (good : portsLawful s) : portsLawful (ownerTakes o s) := by
  simp only [ownerTakes]
  (repeat' split) <;>
    (repeat (with_reducible first
          | apply bookOrder_ports | apply cancelOrder_ports | apply extendOrder_ports | apply switchOrder_ports
          | apply setLegOrder_ports | apply setPortOrder_ports | apply readPortOrder_ports
          | apply loadTariffOrder_ports | apply latchAccountOrder_ports | apply closeMatchOrder_ports
          | apply setClockOrder_ports)) <;> exact good

theorem completeEntry_ports (cut : CutOff) {s : State} (good : portsLawful s) :
    portsLawful (completeEntry cut s) := by
  simp only [completeEntry]
  (repeat' split) <;>
    (repeat (with_reducible first | apply entryRead_ports)) <;> exact good

theorem completeDispatched_ports (cut : CutOff) {s : State} (good : portsLawful s) :
    portsLawful (completeDispatched cut s) := by
  simp only [completeDispatched]
  (repeat' split) <;>
    (repeat (with_reducible first
          | apply completeInFlight_ports | apply ownerTakes_ports | apply setGate_ports)) <;> exact good

theorem completeSegment_ports (cut : CutOff) {s : State} (good : portsLawful s) :
    portsLawful (completeSegment cut s) := by
  simp only [completeSegment]
  (repeat' split) <;>
    (repeat (with_reducible first | apply tariffSegmentRead_ports)) <;> exact good

theorem completeOrder_ports (cut : CutOff) {s : State} (good : portsLawful s) :
    portsLawful (completeOrder cut s) := by
  simp only [completeOrder]
  (repeat (with_reducible first
        | apply completeSegment_ports | apply completeDispatched_ports | apply completeEntry_ports
        | apply setGate_ports))
  exact good

theorem completeInside_ports (cut : CutOff) {s : State} (good : portsLawful s) :
    portsLawful (completeInside cut s) := by
  simp only [completeInside]
  (repeat (with_reducible first
        | apply completeOrder_ports | apply completeHolds_ports | apply completeTick_ports
        | apply completeAccesses_ports))
  exact good

theorem softState_ports {s : State} (good : portsLawful s) : portsLawful (softState s) := good

theorem clearFloor_ports {s : State} (good : portsLawful s) : portsLawful (clearFloor s) := by
  exact ports_congr good (by simp)

theorem softClear_ports {s : State} (good : portsLawful s) : portsLawful (softClear s) := by
  simp only [softClear]
  (repeat (with_reducible first
        | apply clearFloor_ports | apply setSeverity_ports | apply setFlags_ports | apply softState_ports))
  exact good

theorem latchLeave_ports (from_ : RunState) {s : State} (good : portsLawful s) :
    portsLawful (latchLeave from_ s) := by
  exact ports_congr good (by simp)

theorem softReset_ports (cut : CutOff) {s : State} (good : portsLawful s) : portsLawful (softReset cut s) := by
  simp only [softReset]
  (repeat (with_reducible first
        | apply settlePage_ports | apply latchLeave_ports | apply softClear_ports | apply completeInside_ports
        | apply abandonPage_ports))
  exact good

theorem hardReset_ports (s : State) : portsLawful (hardReset s) := by
  refine ⟨fun n p hn => ?_, hardReset_monitors s, fun n hn => ?_⟩ <;>
    simp [hardReset, State.hardReset, Store.hardReset, Slot.hardReset] at hn

theorem resetRelease_ports (instant : Nat) {s : State} (good : portsLawful s) :
    portsLawful (resetRelease instant s) := by
  simp only [resetRelease]
  split
  · exact good
  · exact ports_congr (hardReset_ports s) (by simp)

theorem areaWrite_ports (high : Bool) (value : Word) {s : State} (good : portsLawful s) :
    portsLawful (areaWrite high value s) := by
  exact ports_congr good (by simp)

theorem flagsWrite_ports (value : Word) {s : State} (good : portsLawful s) : portsLawful (flagsWrite value s) := by
  exact ports_congr good (by simp)

theorem ctrlCommand_ports (command : BitVec 2) (cut : CutOff) {s : State} (good : portsLawful s) :
    portsLawful (ctrlCommand command cut s) := by
  simp only [ctrlCommand]
  (repeat' split) <;>
    (repeat (with_reducible first
          | apply startCommand_ports | apply haltCommand_ports | apply softReset_ports)) <;> exact good

theorem ctrlWrite_ports (value : Word) (cut : CutOff) {s : State} (good : portsLawful s) :
    portsLawful (ctrlWrite value cut s) := by
  simp only [ctrlWrite]
  (repeat' split) <;>
    (repeat (with_reducible first | apply ctrlCommand_ports | apply modeWrite_ports)) <;> exact good

theorem nextAlarmRegister_ports (value : Word) {s : State} (good : portsLawful s) :
    portsLawful (nextAlarmRegister value s) := by
  exact ports_congr good (by simp)

theorem registerWrite_ports (r : Register) (enables : BitVec 4) (value : Word) (cut : CutOff) {s : State}
    (good : portsLawful s) : portsLawful (registerWrite r enables value cut s) := by
  simp only [registerWrite]
  (repeat' split) <;>
    (repeat (with_reducible first
          | apply ctrlWrite_ports | apply areaWrite_ports | apply orderEndWrite_ports | apply flagsWrite_ports
          | apply nextAlarmRegister_ports)) <;> exact good

end Sys2Proof.Machine
end

