-- ==== Sys2Proof/Laws/Report.lean ====
section
/-! SUPPORT. What the shared operations do, said once: a change of the flags or of the alarm state, writes on a free link, and
an order that is reported (R24, R25). -/

namespace Sys2Proof.Machine

/-! ### Flags and alarms -/

theorem setFlags_eq (f : BitVec 7) (s : State) : setFlags f s = withFlags f s := by
  simp only [setFlags, withFlags, messages, record]
  split <;> simp_all

@[simp] theorem messages_self (f : BitVec 7) : messages f f = [] := by
  simp [messages]

@[simp] theorem withFlags_self (s : State) : withFlags s.link.flags s = s := by
  simp [withFlags]

theorem latch_eq (f : Flag) (s : State) : latch f s = withLatched f s := by
  simp only [latch, withLatched, setFlags_eq]
  split <;> simp

theorem setAlarm_eq (a : Alarm) (s : State) : setAlarm a s = withAlarm a s := by
  simp [setAlarm, followAlarm, setFlags_eq, withAlarm]

/-! ### The writes of host memory -/

@[simp] theorem writesOf_append (l m : List LinkOp) : writesOf (l ++ m) = writesOf l ++ writesOf m := by
  simp [writesOf]

@[simp] theorem writesOf_nil : writesOf [] = [] := rfl

@[simp] theorem writesOf_messages (f g : BitVec 7) : writesOf (messages f g) = [] := by
  simp only [messages]
  split <;> rfl

@[simp] theorem writesOf_writes (ws : List HostWrite) : writesOf (ws.map .write) = ws := by
  induction ws with
  | nil => rfl
  | cons w ws ih => exact congrArg (w :: ·) ih

@[simp] theorem hostWrites_withFlags (f : BitVec 7) (s : State) : hostWrites (withFlags f s) = hostWrites s := by
  simp [hostWrites, withFlags]

@[simp] theorem hostWrites_withLatched (f : Flag) (s : State) : hostWrites (withLatched f s) = hostWrites s :=
  hostWrites_withFlags _ _

@[simp] theorem hostWrites_withAlarm (a : Alarm) (s : State) : hostWrites (withAlarm a s) = hostWrites s :=
  hostWrites_withFlags _ _

/-- The state with more on its link. -/
def logged (l : List LinkOp) (s : State) : State := { s with link := { s.link with log := s.link.log ++ l } }

@[simp] theorem logged_open (l : List LinkOp) (s : State) : linkOpen (logged l s) = linkOpen s := rfl
@[simp] theorem logged_gate (l : List LinkOp) (s : State) : (logged l s).link.gate = s.link.gate := rfl
@[simp] theorem logged_nil (s : State) : logged [] s = s := by
  simp [logged]
@[simp] theorem logged_logged (l m : List LinkOp) (s : State) : logged m (logged l s) = logged (l ++ m) s := by
  simp [logged]

/-- On a free link a write goes out. -/
theorem issue_open (w : HostWrite) {s : State} (h : linkOpen s = true) (g : s.link.gate = .open) :
    issue w s = logged [.write w] s := by
  simp [issue, sendWrite, h, g, record, logged]

/-- On a free link the writes go out in order. -/
theorem issueAll_open (ws : List HostWrite) {s : State} (h : linkOpen s = true) (g : s.link.gate = .open) :
    issueAll ws s = logged (ws.map .write) s := by
  induction ws generalizing s with
  | nil => simp [issueAll]
  | cons w ws ih =>
    have e : issueAll (w :: ws) s = issueAll ws (issue w s) := rfl
    rw [e, issue_open w h g, ih (by simpa using h) (by simpa using g)]
    simp

/-! ### The report of an order -/

/-- R24, R25: on a free link the report of an order puts its three writes on the link, and the order is done. -/
theorem report_open (notify : Bool) (outcome : OutcomeCode) (result : List Byte) {s : State} (h : linkOpen s = true)
    (g : s.link.gate = .open) :
    report notify outcome result s =
      orderDone notify (logged ((entryWrites s outcome result).map .write) (setUnit .reporting s)) := by
  have h1 : linkOpen (setUnit .reporting s) = true := h
  have g1 : (setUnit .reporting s).link.gate = .open := g
  have e1 := issueAll_open (reportWrites s outcome result) h1 g1
  have e2 : ∀ w l, issue w (logged l (setUnit .reporting s)) = logged (l ++ [.write w]) (setUnit .reporting s) :=
    fun w l => (issue_open w (by simpa using h1) (by simpa using g1)).trans (logged_logged l [.write w] _)
  simp only [report, e1, softResetting, logged_gate, g1, Bool.false_eq_true, if_false, e2, logged_open, h1, if_true]
  congr 2

/-- The order unit after the next entry has been taken, if R18 allows; only the link's record changes beside it. -/
theorem takeEntry_eq (s : State) :
    ∃ l, writesOf l = [] ∧
      takeEntry s = { s with
        link := { s.link with log := s.link.log ++ l }
        orders := { s.orders with unit := if mayTake s then .reading else s.orders.unit } } := by
  simp only [takeEntry]
  split
  · simp only [issueRead, setUnit, record]
    split
    · exact ⟨[.read (areaAddress s (entryOffset s.orders.next)) 24], rfl, by simp_all⟩
    · exact ⟨[], rfl, by simp_all⟩
  · exact ⟨[], rfl, by simp_all⟩

/-- R13: what order done leaves once NEXT and END have been moved, the order unit IDLE. -/
theorem afterOrder_eq {s : State} (hu : s.orders.unit = .idle) :
    ∃ l, writesOf l = [] ∧
      afterOrder s = { s with
        orders := { s.orders with
          unit := if s.link.run = .running ∧ s.link.haltWaiting = false ∧ s.orders.next ≠ s.orders.endIndex
            then .reading else .idle }
        link := { s.link with
          run := if s.link.haltWaiting then .held else s.link.run
          haltWaiting := false
          pageDue := s.link.haltWaiting || s.link.pageDue
          flags := s.link.flags ||| (if s.link.haltWaiting = true ∧ permitted .run s = true then flagBit .run else 0)
          log := s.link.log ++ l } } := by
  simp only [afterOrder]
  split
  next hw =>
    refine ⟨messages s.link.flags (s.link.flags ||| (if permitted .run s then flagBit .run else 0)), by simp, ?_⟩
    have hp : ∀ l : Link, l.permissions = s.link.permissions →
        permitted .run { s with link := l } = permitted .run s := fun l hl => by simp [permitted, hl]
    simp only [enterHeld, latch_eq, withLatched, withFlags, hw]
    simp [hu.symm, permitted]
  next hw =>
    obtain ⟨l, hl, e⟩ := takeEntry_eq s
    refine ⟨l, hl, ?_⟩
    rw [e]
    simp only [Bool.not_eq_true] at hw
    simp [hw, mayTake, hu]

theorem orderDone_reported (notify : Bool) (outcome : OutcomeCode) (result : List Byte) (u v : State)
    (hv : v = logged ((entryWrites u outcome result).map .write) (setUnit .reporting u)) :
    reported notify outcome result u (orderDone notify v) := by
  obtain ⟨l, hl, hw⟩ : ∃ l, writesOf l = [] ∧
      (if notify then latch .order { v with orders := passEntry v.orders } else { v with orders := passEntry v.orders }) =
        { u with
          orders := passEntry u.orders
          link := { u.link with
            flags := u.link.flags ||| (if notify = true ∧ permitted .order u = true then flagBit .order else 0)
            log := u.link.log ++ (entryWrites u outcome result).map .write ++ l } } := by
    subst hv
    cases notify
    · exact ⟨[], rfl, by simp [passEntry, logged, setUnit]; congr⟩
    · refine ⟨messages u.link.flags (u.link.flags ||| (if permitted .order u then flagBit .order else 0)), by simp, ?_⟩
      simp [latch_eq, withLatched, withFlags, passEntry, logged, setUnit, permitted]
      congr
  simp only [orderDone]
  rw [hw]
  obtain ⟨m, hm, e⟩ := afterOrder_eq (s := { u with
    orders := passEntry u.orders
    link := { u.link with
      flags := u.link.flags ||| (if notify = true ∧ permitted .order u = true then flagBit .order else 0)
      log := u.link.log ++ (entryWrites u outcome result).map .write ++ l } }) rfl
  rw [e]
  refine ⟨by simp [hostWrites, hl, hm], ?_⟩
  simp [unitAfter, endAfter, passEntry, flagsAfter, permitted]

/-- R24, R25: the report of an order on a free link. -/
theorem report_reported (notify : Bool) (outcome : OutcomeCode) (result : List Byte) {u : State}
    (h : linkOpen u = true) (g : u.link.gate = .open) :
    reported notify outcome result u (report notify outcome result u) := by
  rw [report_open _ _ _ h g]
  exact orderDone_reported _ _ _ _ _ rfl

/-- R21, R24: the owning block answers for the order in ACTING. -/
theorem finishOrder_reported (outcome : OutcomeCode) (result : List Byte) {o : Order} {k : Stage} {u : State}
    (hu : u.orders.unit = .acting o k) (hk : k ≠ .stopped) (h : linkOpen u = true) (g : u.link.gate = .open) :
    reported o.notify outcome result u (finishOrder outcome result u) := by
  have e : finishOrder outcome result u = report o.notify outcome result u := by
    simp only [finishOrder, hu]
    cases k <;> simp_all
  rw [e]
  exact report_reported _ _ _ h g

end Sys2Proof.Machine
end

