-- ==== Sys2Proof/Laws/Resume.lean ====
section
/-! SUPPORT. What the work of the booking store and the ticket unit leaves of the link and of the order unit while no order is
in flight and the link is free (R65, R66): flags are latched, traffic is recorded, and nothing else changes. -/

namespace Sys2Proof.Machine

/-- The link is open with no fault or cut announced, and no order is in flight. -/
def calmFrom (s : State) : Prop := linkOpen s = true ∧ s.link.gate = .open ∧ s.orders.unit = .idle

/-- From s to t the order unit stands, and of the link only flags, which are not cleared but for ALARM, and traffic change. -/
def calm (s t : State) : Prop :=
  (∃ f l, t.link = { s.link with
    flags := f
    log := l }) ∧ t.orders = s.orders ∧ ∀ g, g ≠ .alarm → flagSet g s = true → flagSet g t = true

theorem calm_refl (s : State) : calm s s := ⟨⟨s.link.flags, s.link.log, rfl⟩, rfl, fun _ _ h => h⟩

theorem calm_trans {s t u : State} (h : calm s t) (k : calm t u) : calm s u := by
  obtain ⟨⟨f, l, h1⟩, h2, h3⟩ := h
  obtain ⟨⟨f', l', k1⟩, k2, k3⟩ := k
  exact ⟨⟨f', l', by rw [k1, h1]⟩, k2.trans h2, fun g hg x => k3 g hg (h3 g hg x)⟩

/-- A change that leaves the link and the order unit alone is calm. -/
theorem calm_of {s t : State} (h : t.link = s.link) (k : t.orders = s.orders) : calm s t :=
  ⟨⟨s.link.flags, s.link.log, by rw [h]⟩, k, fun g _ x => by simpa [flagSet, h] using x⟩

theorem calm_from {s t : State} (h : calm s t) (k : calmFrom s) : calmFrom t := by
  obtain ⟨⟨f, l, h1⟩, h2, -⟩ := h
  obtain ⟨k1, k2, k3⟩ := k
  refine ⟨?_, by rw [h1]; exact k2, by rw [h2]; exact k3⟩
  simpa [linkOpen, readsOpen, writesDropped, h1] using k1

/-- Two calm changes, one after the other. -/
theorem calm_bind {s t u : State} (k : calmFrom s) (h : calm s t) (j : calmFrom t → calm t u) : calm s u :=
  calm_trans h (j (calm_from h k))

theorem calm_foldl {α : Type} {f : State → α → State} (h : ∀ s a, calmFrom s → calm s (f s a)) (l : List α) {s : State}
    (k : calmFrom s) : calm s (l.foldl f s) := by
  induction l generalizing s with
  | nil => exact calm_refl s
  | cons a l ih => exact calm_bind k (h s a k) fun j => ih j

theorem withFlags_calm (f : BitVec 7) (s : State) (h : ∀ g, g ≠ .alarm → flagSet g s = true → f &&& flagBit g ≠ 0) :
    calm s (withFlags f s) :=
  ⟨⟨f, s.link.log ++ messages s.link.flags f, rfl⟩, rfl, fun g hg x => by simpa [flagSet, withFlags] using h g hg x⟩

/-- A flag stays set when others are added. -/
theorem keep_or : ∀ (x y : BitVec 7) (g : Flag), x &&& flagBit g ≠ 0 → (x ||| y) &&& flagBit g ≠ 0 := by
  intro x y g h e
  apply h
  have e' : (x &&& flagBit g) ||| (y &&& flagBit g) = 0 := by
    rw [← e]; ext i hi; simp; cases x[i] <;> cases y[i] <;> simp
  exact (BitVec.or_eq_zero_iff.1 e').1

theorem latch_calm (f : Flag) (s : State) : calm s (latch f s) := by
  rw [latch_eq]
  exact withFlags_calm _ _ fun g _ h => keep_or _ _ g (by simpa [flagSet] using h)

/-- ALARM's level leaves every other flag. -/
theorem keep_alarm (b : Bool) (g : Flag) (hg : g ≠ .alarm) (x : BitVec 7) (h : x &&& flagBit g ≠ 0) :
    withAlarmLevel x b &&& flagBit g ≠ 0 := by
  cases g <;> first | exact absurd rfl hg | (revert h; revert x; cases b <;> decide)

theorem setAlarm_calm (a : Alarm) (s : State) : calm s (setAlarm a s) := by
  rw [setAlarm_eq]
  exact calm_trans (calm_of (t := { s with alarm := a }) rfl rfl)
    (withFlags_calm _ _ fun g hg h => keep_alarm _ g hg _ (by simpa [flagSet] using h))

theorem setSeverity_calm (i : Fin 51) (v : Fin 4) (s : State) : calm s (setSeverity i v s) := setAlarm_calm _ _

theorem deriveSources_calm (s : State) : calm s (deriveSources s) := setAlarm_calm _ _

theorem changeAccount_calm (m : Nat) (f : Account → Account) (s : State) : calm s (changeAccount m f s) :=
  calm_of (by simp) (by simp)

theorem loseTicket_calm (m : Option Nat) (s : State) : calm s (loseTicket m s) := by
  simp only [loseTicket]
  refine calm_trans ?_ (latch_calm _ _)
  cases m
  · exact calm_of rfl rfl
  · exact calm_trans (calm_of (t := { s with tickets := { s.tickets with lost := s.tickets.lost + 1 } }) rfl rfl)
      (changeAccount_calm _ _ _)

/-- Traffic is calm. -/
theorem logged_calm (l : List LinkOp) (s : State) : calm s (logged l s) := by
  refine ⟨⟨s.link.flags, s.link.log ++ l, ?_⟩, ?_, fun _ _ h => h⟩ <;> simp [logged]

theorem issue_calm (w : HostWrite) {s : State} (k : calmFrom s) : calm s (issue w s) := by
  rw [issue_open w k.1 k.2.1]
  exact logged_calm _ _

theorem issueAll_calm (ws : List HostWrite) {s : State} (k : calmFrom s) : calm s (issueAll ws s) := by
  rw [issueAll_open ws k.1 k.2.1]
  exact logged_calm _ _

theorem issueRead_calm (a : Address) (n : Nat) (s : State) : calm s (issueRead a n s) := by
  simp only [issueRead]
  split
  · exact logged_calm [.read a n] s
  · exact calm_refl _

theorem finishOrder_idle (c : OutcomeCode) (r : List Byte) {s : State} (h : s.orders.unit = .idle) :
    finishOrder c r s = s := by
  simp [finishOrder, h]

theorem setStage_idle (g : Stage) {s : State} (h : s.orders.unit = .idle) : setStage g s = s := by
  simp [setStage, h]

theorem setInFlight_calm (a : Option Access) (s : State) : calm s (setInFlight a s) := calm_of rfl rfl

theorem takeClose_calm (r : Raise) (s : State) : calm s (takeClose r s) := changeAccount_calm _ _ _

theorem raiseNumber_calm (s : State) : calm s (raiseNumber s) := calm_of rfl rfl

theorem loseRaise_calm (r : Raise) (s : State) : calm s (loseRaise r s) := loseTicket_calm _ _

theorem endClose_calm (r : Raise) (s : State) : calm s (endClose r s) := calm_of (by simp) (by simp)

theorem finishClose_calm (r : Raise) (n : BitVec 32) {s : State} (k : calmFrom s) : calm s (finishClose r n s) := by
  simp only [finishClose]
  split
  · rw [finishOrder_idle _ _ (calm_from (endClose_calm r s) k).2.2]; exact endClose_calm _ _
  · exact endClose_calm _ _

theorem lostClose_calm (r : Raise) {s : State} (k : calmFrom s) : calm s (lostClose r s) := by
  simp only [lostClose, recordClose]
  exact calm_bind k (issueAll_calm _ k) fun j => finishClose_calm r _ j

theorem setStage_calm (g : Stage) {s : State} (k : calmFrom s) : calm s (setStage g s) := by
  rw [setStage_idle _ k.2.2]; exact calm_refl _

/-- A read goes out, and its access waits for it. -/
theorem readFor_calm (x : Option Access) (a : Address) (n : Nat) (s : State) :
    calm s (setInFlight x (issueRead a n s)) :=
  calm_trans (issueRead_calm _ _ _) (setInFlight_calm _ _)

theorem beginAccess_calm (a : Access) {s : State} (k : calmFrom s) : calm s (beginAccess a s) := by
  cases a with
  | write w => exact issue_calm w k
  | report outcome result => simp only [beginAccess]; rw [finishOrder_idle _ _ k.2.2]; exact calm_refl _
  | raise r =>
    simp only [beginAccess]
    split
    · exact calm_trans (raiseNumber_calm s) (readFor_calm _ _ _ _)
    · exact calm_bind k (calm_trans (raiseNumber_calm s) (loseRaise_calm _ _)) fun j => lostClose_calm r j
  | totalCheck a m =>
    simp only [beginAccess]
    split
    · exact readFor_calm _ _ _ _
    · exact setStage_calm _ k
  | closeWrite r => exact calm_refl _
  | totalWrite a => exact calm_refl _
  | recheck =>
    simp only [beginAccess]
    split
    · exact readFor_calm _ _ _ _
    · exact calm_refl _
  | recordRead n =>
    simp only [beginAccess]
    split
    · exact readFor_calm _ _ _ _
    · exact setStage_calm _ k

theorem pump_calm (l : List Access) {s : State} (k : calmFrom s) : calm s (pump l s) := by
  induction l generalizing s with
  | nil => exact calm_refl s
  | cons a l ih =>
    simp only [pump]
    split
    · exact calm_of rfl rfl
    · exact calm_bind k (beginAccess_calm a k) fun j => ih j

theorem submit_calm (l : List Access) {s : State} (k : calmFrom s) : calm s (submit l s) := by
  simp only [submit, pumpWaiting]
  exact calm_trans (calm_of rfl rfl) (pump_calm _ k)

theorem settleClose_calm (kind : TicketKind) (n : Fin 1024) (m : Nat) (b : Bool) {s : State} (k : calmFrom s) :
    calm s (settleClose kind n m b s) := calm_bind k (takeClose_calm _ s) fun j => submit_calm _ j

theorem makeRecheck_calm {s : State} (k : calmFrom s) : calm s (makeRecheck s) :=
  calm_bind k (calm_of (t := { s with tickets := { s.tickets with recheckIn := none } }) rfl rfl) fun j => submit_calm _ j

theorem countRecheck_calm {s : State} (k : calmFrom s) : calm s (countRecheck s) := by
  simp only [countRecheck]
  split
  · exact calm_of rfl rfl
  · exact makeRecheck_calm k
  · exact calm_refl _

theorem beginClose_calm (n : Fin 1024) (m : Nat) (s : State) : calm s (beginClose n m s) := by
  simp only [beginClose, handToAlarms]
  refine calm_trans ?_ (deriveSources_calm _)
  split
  · exact calm_of (by simp) (by simp)
  · exact calm_of (by simp) (by simp)

theorem closeOnAir_calm (n : Fin 1024) (m : Nat) (b f : Bool) {s : State} (k : calmFrom s) :
    calm s (closeOnAir n m b f s) := by
  simp only [closeOnAir]
  refine calm_bind k (beginClose_calm n m s) fun j => ?_
  split
  · exact settleClose_calm _ _ _ _ j
  · exact calm_of rfl rfl

theorem closeMissed_calm (n : Fin 1024) (m : Nat) {s : State} (k : calmFrom s) : calm s (closeMissed n m s) :=
  calm_bind k (calm_of (t := leaveTimeline n s) (by simp) (by simp)) fun j => settleClose_calm _ _ _ _ j

theorem activate_calm (n : Fin 1024) (m : Nat) (f : Stamp) (b : Option Band) {s : State} (k : calmFrom s) :
    calm s (activate n m f b s) := by
  simp only [activate, handToAlarms]
  refine calm_bind k (calm_trans (calm_of ?_ ?_) (deriveSources_calm _)) fun j => submit_calm _ j <;> simp

theorem enterOverrun_calm (n : Fin 1024) {s : State} (k : calmFrom s) : calm s (enterOverrun n s) := by
  simp only [enterOverrun]
  exact calm_bind k (calm_of (by simp) (by simp)) fun j => submit_calm _ j

theorem catchUpCloses_calm (l : List (Fin 1024)) {s : State} (k : calmFrom s) : calm s (catchUpCloses l s) := by
  induction l generalizing s with
  | nil => exact calm_refl s
  | cons n l ih =>
    simp only [catchUpCloses]
    split
    · refine calm_bind k ?_ fun j => ih j
      split
      · exact closeOnAir_calm _ _ _ _ k
      · exact closeMissed_calm _ _ k
    · exact calm_refl s

theorem catchUpTimeline_calm (d : Fin 64) {s : State} (k : calmFrom s) : calm s (catchUpTimeline d s) := by
  have h2 : ∀ {t}, calmFrom t → calm t (catchUpStart d t) := by
    intro t j
    simp only [catchUpStart]
    split
    · exact calm_refl _
    · split
      · exact activate_calm _ _ _ _ j
      · exact calm_refl _
  have h3 : ∀ {t}, calmFrom t → calm t (catchUpPhase d t) := by
    intro t j
    simp only [catchUpPhase]
    split
    · exact calm_refl _
    · split
      · exact enterOverrun_calm _ j
      · exact calm_refl _
  exact calm_bind k (catchUpCloses_calm _ k) fun j => calm_bind j (h2 j) h3

/-- R65, R66: the catch-up leaves the order unit and, but for flags and traffic, the link. -/
theorem catchUp_calm {s : State} (k : calmFrom s) : calm s (catchUp s) :=
  calm_foldl (fun _ d j => catchUpTimeline_calm d j) _ k

theorem boundaryClose_calm (n : Fin 1024) (m : Nat) (b : Bool) {s : State} (k : calmFrom s) :
    calm s (boundaryClose n m b s) := by
  simp only [boundaryClose]
  refine calm_bind k (closeOnAir_calm n m b false k) fun j => ?_
  split
  · exact countRecheck_calm j
  · exact calm_refl _

theorem boundaryTimeline_calm (m : Nat) (b w : Bool) (d : Fin 64) {s : State} (k : calmFrom s) :
    calm s (boundaryTimeline m b w d s) := by
  have h1 : ∀ {t}, calmFrom t → calm t (boundaryHead m b d t) := by
    intro t j
    simp only [boundaryHead]
    split
    · exact calm_refl _
    · (repeat' split)
      · exact boundaryClose_calm _ _ _ j
      · exact enterOverrun_calm _ j
      · exact calm_refl _
  have h2 : ∀ {t}, calmFrom t → calm t (boundaryStart m w d t) := by
    intro t j
    simp only [boundaryStart]
    split
    · exact calm_refl _
    · split
      · exact activate_calm _ _ _ _ j
      · exact calm_refl _
  exact calm_bind k (h1 k) h2

/-- R53: the work of the booking store at timelines leaves the order unit and, but for flags and traffic, the link. -/
theorem storeTimelines_calm (taken : Bool) (m : Nat) (b w : Bool) (l : List (Fin 64)) {s : State} (k : calmFrom s) :
    calm s (storeTimelines taken m b w l s) := by
  simp only [storeTimelines]
  split
  · exact calm_foldl (fun _ d j => boundaryTimeline_calm m b w d j) _ k
  · exact calm_refl s

end Sys2Proof.Machine
end

