-- ==== Sys2Proof/Laws/Timelines.lean ====
section
/-! SUPPORT. Every operation keeps the law of the booking store and of the accesses that change it (R45, R46, R21). -/

namespace Sys2Proof.Machine

/-! ### The timelines -/

/-- The slots whose close is held. -/
def heldSlots (st : Store) : List (Fin 1024) := st.holds.map (·.slot)

/-- The slots whose close accesses take to its end. -/
def closings (l : List Access) : List (Fin 1024) := l.filterMap closingSlot

theorem closing_iff (n : Fin 1024) (s : State) :
    closing n s = false ↔ n ∉ heldSlots s.store ++ closings (outstanding s) := by
  simp only [closing, closingSlots, ratedSlots, heldSlots, closings]
  exact decide_eq_false_iff_not

/-- The law of the timelines, with the slots whose close has begun as a list. -/
def storeLaw (st : Store) (held : List (Fin 1024)) : Prop :=
  (∀ (d : Fin 64) (n : Fin 1024), n ∈ st.timelines[d] ↔
    st.slots[n].state ≠ .free ∧ st.slots[n].port = d ∧ n ∉ held) ∧
  ∀ d : Fin 64, (∀ n ∈ st.timelines[d], 0 < st.slots[n].duration) ∧
    st.timelines[d].Pairwise fun j k => finalEnd st.slots[j] ≤ st.slots[k].start

theorem timelinesLawful_iff (s : State) :
    timelinesLawful s ↔ storeLaw s.store (heldSlots s.store ++ closings (outstanding s)) := by
  simp only [timelinesLawful, storeLaw, closing_iff]

/-- Only the members of the list of closes matter. -/
theorem storeLaw_congr {st : Store} {held held' : List (Fin 1024)} (h : storeLaw st held) (e : ∀ k, k ∈ held' ↔ k ∈ held) :
    storeLaw st held' :=
  ⟨fun d n => by rw [h.1 d n, e n], h.2⟩
theorem getFin_set {α : Type} {m : Nat} (v : Vector α m) (i j : Fin m) (x : α) :
    (v.set i x)[j] = if i = j then x else v[j] := by
  simp only [Fin.getElem_fin, Vector.getElem_set, Fin.ext_iff]

/-- A slot that is no member and stays none may take any value. -/
theorem storeLaw_outside {st : Store} {held : List (Fin 1024)} (good : storeLaw st held) (n : Fin 1024) (b : Slot)
    (held' : List (Fin 1024)) (hn : ∀ d : Fin 64, n ∉ st.timelines[d]) (hb : b.state = .free ∨ n ∈ held')
    (hh : ∀ k, k ≠ n → (k ∈ held' ↔ k ∈ held)) : storeLaw { st with slots := st.slots.set n b } held' := by
  obtain ⟨g1, g2⟩ := good
  have ne : ∀ (d : Fin 64), ∀ k ∈ st.timelines[d], n ≠ k := fun d k hk e => hn d (e ▸ hk)
  refine ⟨fun d k => ?_, fun d => ⟨fun k hk => ?_, ?_⟩⟩
  · rw [getFin_set]
    by_cases e : n = k
    · subst e
      simp only [if_true]
      refine ⟨fun h => absurd h (hn d), fun h => ?_⟩
      rcases hb with hb | hb
      · exact absurd hb h.1
      · exact absurd hb h.2.2
    · rw [if_neg e, g1 d k, hh k (Ne.symm e)]
  · rw [getFin_set, if_neg (ne d k hk)]
    exact (g2 d).1 k hk
  · refine (g2 d).2.imp_of_mem fun {j k} hj hk h => ?_
    rw [getFin_set, getFin_set, if_neg (ne d j hj), if_neg (ne d k hk)]
    exact h

/-- A slot may change what places it not, with its final end where it stands or freed up to the next member. -/
theorem storeLaw_same {st : Store} {held : List (Fin 1024)} (good : storeLaw st held) (n : Fin 1024) (b : Slot)
    (h1 : b.state = .free ↔ st.slots[n].state = .free) (h2 : b.port = st.slots[n].port)
    (h3 : b.start = st.slots[n].start) (h4 : b.duration = st.slots[n].duration)
    (h5 : ∀ (d : Fin 64) (before after : List (Fin 1024)), st.timelines[d] = before ++ n :: after →
      ∀ k ∈ after, finalEnd b ≤ st.slots[k].start) :
    storeLaw { st with slots := st.slots.set n b } held := by
  obtain ⟨g1, g2⟩ := good
  refine ⟨fun d k => ?_, fun d => ⟨fun k hk => ?_, ?_⟩⟩
  · rw [getFin_set]
    by_cases e : n = k
    · subst e
      simp only [if_true, g1 d, ne_eq, h1, h2]
    · rw [if_neg e, g1 d k]
  · rw [getFin_set]
    by_cases e : n = k
    · subst e; simp only [if_true, h4]; exact (g2 d).1 n hk
    · rw [if_neg e]; exact (g2 d).1 k hk
  · have start : ∀ k : Fin 1024, (st.slots.set n b)[k].start = st.slots[k].start := by
      intro k
      rw [getFin_set]
      by_cases e : n = k
      · subst e; simp [h3]
      · rw [if_neg e]
    have key : ∀ (before after : List (Fin 1024)), st.timelines[d] = before ++ after →
        after.Pairwise (fun j k => finalEnd st.slots[j] ≤ st.slots[k].start) →
        after.Pairwise (fun j k => finalEnd (st.slots.set n b)[j] ≤ (st.slots.set n b)[k].start) := by
      intro before after
      induction after generalizing before with
      | nil => intro _ _; exact .nil
      | cons j rest ih =>
        intro e hp
        obtain ⟨p1, p2⟩ := List.pairwise_cons.1 hp
        refine List.pairwise_cons.2 ⟨fun k hk => ?_, ih (before ++ [j]) (by simpa using e) p2⟩
        rw [start k, getFin_set]
        by_cases e2 : n = j
        · subst e2; rw [if_pos rfl]; exact h5 d before rest e k hk
        · rw [if_neg e2]; exact p1 k hk
    exact key [] _ rfl (g2 d).2

/-- The store once a booking has left its timeline. -/
def leftStore (n : Fin 1024) (st : Store) : Store :=
  { st with
    timelines := st.timelines.set st.slots[n].port
      (st.timelines[st.slots[n].port].filter fun k => decide (k ≠ n)) }

theorem leftStore_get (n : Fin 1024) (st : Store) (d : Fin 64) :
    (leftStore n st).timelines[d] = if st.slots[n].port = d then
      st.timelines[st.slots[n].port].filter fun k => decide (k ≠ n) else st.timelines[d] :=
  getFin_set _ _ _ _

/-- A booking that leaves its timeline is taken as held. -/
theorem storeLaw_leave {st : Store} {held : List (Fin 1024)} (good : storeLaw st held) (n : Fin 1024)
    {held' : List (Fin 1024)} (hn : n ∈ held') (hh : ∀ k, k ≠ n → (k ∈ held' ↔ k ∈ held)) :
    storeLaw (leftStore n st) held' := by
  obtain ⟨g1, g2⟩ := good
  refine ⟨fun d k => ?_, fun d => ⟨fun k hk => (g2 d).1 k ?_, ?_⟩⟩
  · rw [leftStore_get]
    have hk := g1 d k
    by_cases e : k = n
    · subst e
      have : k ∉ (if st.slots[k].port = d then
          st.timelines[st.slots[k].port].filter fun j => decide (j ≠ k) else st.timelines[d]) := by
        split
        · simp
        · rename_i hd; exact fun h => hd (hk.1 h).2.1
      exact ⟨fun h => absurd h this, fun h => absurd hn h.2.2⟩
    · rw [hh k e]
      refine Iff.trans ?_ hk
      split
      · rename_i hd; subst hd; simp [e]
      · exact Iff.rfl
  · rw [leftStore_get] at hk
    split at hk
    · rename_i hd; subst hd; exact (List.mem_filter.1 hk).1
    · exact hk
  · rw [leftStore_get]
    split
    · rename_i hd; subst hd; exact (g2 _).2.filter _
    · exact (g2 d).2

/-- What a booking left behind by `leaveTimeline` is no member of. -/
theorem leave_outside {st : Store} {held : List (Fin 1024)} (good : storeLaw st held) (n : Fin 1024) (d : Fin 64) :
    n ∉ (leftStore n st).timelines[d] := by
  rw [leftStore_get]
  split
  · simp
  · rename_i hd; exact fun h => hd ((good.1 d n).1 h).2.1

/-- A booking joins the timeline of its port at the place its start gives. -/
theorem insertByStart_split (slots : Vector Slot 1024) (n : Fin 1024) (l : List (Fin 1024)) :
    ∃ before after, l = before ++ after ∧ insertByStart slots n l = before ++ n :: after ∧
      (∀ k ∈ before, slots[k].start ≤ slots[n].start) ∧
      (∀ k, after.head? = some k → slots[n].start < slots[k].start) := by
  induction l with
  | nil => exact ⟨[], [], rfl, rfl, by simp, by simp⟩
  | cons k rest ih =>
    simp only [insertByStart]
    split
    · rename_i h
      exact ⟨[], k :: rest, rfl, rfl, by simp, fun j hj => by simp at hj; exact hj ▸ h⟩
    · rename_i h
      obtain ⟨before, after, e1, e2, e3, e4⟩ := ih
      refine ⟨k :: before, after, by rw [e1, List.cons_append], by rw [e2, List.cons_append], fun j hj => ?_, e4⟩
      rcases List.mem_cons.1 hj with rfl | hj
      · omega
      · exact e3 j hj

/-- A booking that fills a FREE slot not held, and overlaps no member of its port's timeline, may join it. -/
theorem storeLaw_join {st : Store} {held : List (Fin 1024)} (good : storeLaw st held) (n : Fin 1024) (b : Slot)
    (hf : st.slots[n].state = .free) (hh : n ∉ held) (hb : b.state ≠ .free) (hd : 0 < b.duration)
    (ho : ∀ k ∈ st.timelines[b.port], overlaps b st.slots[k] = false) :
    storeLaw { st with
      slots := st.slots.set n b
      timelines := st.timelines.set b.port (insertByStart (st.slots.set n b) n st.timelines[b.port]) } held := by
  obtain ⟨g1, g2⟩ := good
  have out : ∀ d : Fin 64, n ∉ st.timelines[d] := fun d h => ((g1 d n).1 h).1 hf
  have same : ∀ d : Fin 64, ∀ k ∈ st.timelines[d], (st.slots.set n b)[k] = st.slots[k] := fun d k hk => by
    have e : n ≠ k := fun e => out d (e ▸ hk)
    rw [getFin_set, if_neg e]
  have self : (st.slots.set n b)[n] = b := by rw [getFin_set, if_pos rfl]
  obtain ⟨before, after, e1, e2, e3, e4⟩ := insertByStart_split (st.slots.set n b) n st.timelines[b.port]
  have mem : ∀ k, k ∈ insertByStart (st.slots.set n b) n st.timelines[b.port] ↔ k = n ∨ k ∈ st.timelines[b.port] := by
    intro k
    rw [e2, e1]
    simp only [List.mem_append, List.mem_cons]
    tauto
  refine ⟨fun d k => ?_, fun d => ⟨fun k hk => ?_, ?_⟩⟩
  · rw [getFin_set]
    by_cases e : n = k
    · subst e
      rw [self]
      split
      · rename_i h; exact ⟨fun _ => ⟨hb, h, hh⟩, fun _ => (mem n).2 (.inl rfl)⟩
      · rename_i h; exact ⟨fun k => absurd k (out d), fun k => absurd k.2.1 h⟩
    · have ek : (st.slots.set n b)[k] = st.slots[k] := by rw [getFin_set, if_neg e]
      rw [ek, ← g1 d k]
      split
      · rename_i h; subst h; rw [mem]; exact ⟨fun h => h.resolve_left (Ne.symm e), .inr⟩
      · exact Iff.rfl
  · rw [getFin_set] at hk
    split at hk
    · rename_i h
      rcases (mem k).1 hk with rfl | hk
      · rw [self]; exact hd
      · rw [same _ k hk]; exact (g2 _).1 k hk
    · rw [same d k hk]; exact (g2 d).1 k hk
  · rw [getFin_set]
    split
    · have hp := (g2 b.port).2
      rw [e2]
      have hin : ∀ k, k ∈ before ∨ k ∈ after → k ∈ st.timelines[b.port] := fun k h => by
        rw [e1]; exact List.mem_append.2 h
      rw [e1, List.pairwise_append] at hp
      obtain ⟨p1, p2, p3⟩ := hp
      have lap : ∀ k, k ∈ before ∨ k ∈ after → finalEnd st.slots[k] ≤ b.start ∨ finalEnd b ≤ st.slots[k].start := by
        intro k h
        have := ho k (hin k h)
        simp only [overlaps, decide_eq_false_iff_not] at this
        omega
      have long : ∀ k, k ∈ before ∨ k ∈ after → st.slots[k].start < finalEnd st.slots[k] := by
        intro k h
        have := (g2 b.port).1 k (hin k h)
        simp only [finalEnd]; omega
      have longb : b.start < finalEnd b := by simp only [finalEnd]; omega
      have hA : ∀ k ∈ before, finalEnd st.slots[k] ≤ b.start := by
        intro k h
        have h1 := e3 k h
        rw [same _ k (hin k (.inl h)), self] at h1
        rcases lap k (.inl h) with h2 | h2
        · exact h2
        · omega
      have hstart : ∀ k ∈ after, b.start < st.slots[k].start := by
        cases after with
        | nil => simp
        | cons j rest =>
          have hj := e4 j rfl
          rw [same _ j (hin j (.inr (by simp))), self] at hj
          intro k hk
          rcases List.mem_cons.1 hk with rfl | hk
          · exact hj
          · have h1 := (List.pairwise_cons.1 p2).1 k hk
            have h2 := long j (.inr (by simp))
            omega
      have hB : ∀ k ∈ after, finalEnd b ≤ st.slots[k].start := by
        intro k h
        have h1 := hstart k h
        have h2 := long k (.inr h)
        rcases lap k (.inr h) with h3 | h3
        · omega
        · exact h3
      refine List.pairwise_append.2 ⟨?_, List.pairwise_cons.2 ⟨?_, ?_⟩, ?_⟩
      · refine p1.imp_of_mem fun {j k} hj hk h => ?_
        rw [same _ j (hin j (.inl hj)), same _ k (hin k (.inl hk))]; exact h
      · intro k hk
        rw [self, same _ k (hin k (.inr hk))]; exact hB k hk
      · refine p2.imp_of_mem fun {j k} hj hk h => ?_
        rw [same _ j (hin j (.inr hj)), same _ k (hin k (.inr hk))]; exact h
      · intro j hj k hk
        rw [same _ j (hin j (.inl hj))]
        rcases List.mem_cons.1 hk with rfl | hk
        · rw [self]; exact hA j hj
        · rw [same _ k (hin k (.inr hk))]; exact p3 j hj k hk
    · refine (g2 d).2.imp_of_mem fun {j k} hj hk h => ?_
      rw [same d j hj, same d k hk]; exact h


/-- A slot whose close has begun may become FREE, which ends its close. -/
theorem storeLaw_free {st : Store} {n : Fin 1024} {held held' : List (Fin 1024)} (h : storeLaw st held) (hn : n ∈ held)
    (e : ∀ k, k ≠ n → (k ∈ held' ↔ k ∈ held)) :
    storeLaw { st with slots := st.slots.set n { st.slots[n] with state := .free } } held' :=
  storeLaw_outside h n _ _ (fun d hd => ((h.1 d n).1 hd).2.2 hn) (.inl rfl) e

/-! ### What a write and a report leave -/

/-- Nothing is outstanding, and the part is in the fatal state. -/
def cutOff (s : State) : Prop := s.link.fatal = .bus ∧ s.tickets.inFlight = none ∧ s.tickets.waiting = []

/-- From s to t the store, the accesses and the fatal code stand. -/
def stood (s t : State) : Prop :=
  t.store = s.store ∧ t.tickets.inFlight = s.tickets.inFlight ∧ t.tickets.waiting = s.tickets.waiting ∧
    t.link.fatal = s.link.fatal

/-- From s to t a bus fault has ended every access, and the closes under way are ended inside the part. -/
def fell (s t : State) : Prop :=
  cutOff t ∧ heldSlots t.store = heldSlots s.store ∧
    ∀ e, storeLaw s.store (closings (outstanding s) ++ e) → storeLaw t.store e

/-- The accesses stand or have fallen; the order unit may have moved on. -/
def kept (s t : State) : Prop := stood s t ∨ fell s t

/-- The accesses and the order unit stand, or a bus fault has ended them. -/
def stays (s t : State) : Prop := stood s t ∧ t.orders.unit = s.orders.unit ∨ fell s t

theorem stood_refl (s : State) : stood s s := ⟨rfl, rfl, rfl, rfl⟩
theorem stays_refl (s : State) : stays s s := .inl ⟨stood_refl s, rfl⟩
theorem kept_refl (s : State) : kept s s := .inl (stood_refl s)
theorem kept_of_stays {s t : State} (h : stays s t) : kept s t := h.imp And.left id

theorem outstanding_cutOff {s : State} (h : cutOff s) : outstanding s = [] := by simp [outstanding, h.2.1, h.2.2]

theorem outstanding_stood {s t : State} (h : stood s t) : outstanding t = outstanding s := by
  simp only [outstanding, h.2.1, h.2.2.1]

theorem cutOff_kept {s t : State} (h : cutOff s) (k : kept s t) : cutOff t := by
  rcases k with ⟨-, e1, e2, e3⟩ | k
  · exact ⟨e3.trans h.1, e1.trans h.2.1, e2.trans h.2.2⟩
  · exact k.1

theorem stood_trans {s t u : State} (h : stood s t) (k : stood t u) : stood s u :=
  ⟨k.1.trans h.1, k.2.1.trans h.2.1, k.2.2.1.trans h.2.2.1, k.2.2.2.trans h.2.2.2⟩

theorem fell_after {s t u : State} (h : stood s t) (k : fell t u) : fell s u := by
  refine ⟨k.1, by rw [k.2.1, h.1], fun e g => k.2.2 e ?_⟩
  rw [h.1, outstanding_stood h]; exact g

theorem fell_kept {s t u : State} (h : fell s t) (k : kept t u) : fell s u := by
  rcases k with k | k
  · refine ⟨cutOff_kept h.1 (.inl k), by rw [k.1, h.2.1], fun e g => ?_⟩
    rw [k.1]; exact h.2.2 e g
  · refine ⟨k.1, k.2.1.trans h.2.1, fun e g => k.2.2 e ?_⟩
    rw [outstanding_cutOff h.1]; exact h.2.2 e g

theorem kept_trans {s t u : State} (h : kept s t) (k : kept t u) : kept s u := by
  rcases h with h | h
  · exact k.imp (stood_trans h) (fell_after h)
  · exact .inr (fell_kept h k)

theorem stays_trans {s t u : State} (h : stays s t) (k : stays t u) : stays s u := by
  rcases h with ⟨h, e⟩ | h
  · exact k.imp (fun k => ⟨stood_trans h k.1, k.2.trans e⟩) (fell_after h)
  · exact .inr (fell_kept h (kept_of_stays k))

/-- A state with the same run view and store. -/
theorem stays_of_view {s t : State} (h : runView t = runView s) (hs : t.store = s.store) : stays s t := by
  simp only [runView, Prod.mk.injEq] at h
  exact .inl ⟨⟨hs, h.2.2.2.2.2.2.1, h.2.2.2.2.2.2.2.1, h.2.1⟩, h.2.2.2.2.2.1⟩

theorem endClose_store (r : Raise) (s : State) : (endClose r s).store =
    { s.store with slots := s.store.slots.set r.slot { s.store.slots[r.slot] with state := .free } } := by
  simp [endClose, setSlot]

theorem closeInside_store (r : Raise) (s : State) : (closeInside r s).store =
    { s.store with slots := s.store.slots.set r.slot { s.store.slots[r.slot] with state := .free } } := by
  simp [closeInside, endClose_store]

/-- An access that is dropped ends its close inside the part. -/
theorem dropAccess_law (a : Access) (l : List Access) {s : State} {e : List (Fin 1024)}
    (h : storeLaw s.store (closings (a :: l) ++ e)) :
    storeLaw (dropAccess a s).store (closings l ++ e) ∧ heldSlots (dropAccess a s).store = heldSlots s.store := by
  have free : ∀ r : Raise, closingSlot a = some r.slot →
      storeLaw { s.store with slots := s.store.slots.set r.slot { s.store.slots[r.slot] with state := .free } }
        (closings l ++ e) := fun r hr => by
    refine storeLaw_free h (by simp [closings, hr]) fun k hk => ?_
    simp [closings, hr, hk]
  cases a with
  | raise r =>
    exact ⟨by rw [dropAccess, closeInside_store]; exact free r rfl, by rw [dropAccess, closeInside_store]; rfl⟩
  | closeWrite r =>
    have e2 : (dropAccess (.closeWrite r) s).store =
        { s.store with slots := s.store.slots.set r.slot { s.store.slots[r.slot] with state := .free } } := by
      simp [dropAccess, endClose_store]
    exact ⟨by rw [e2]; exact free r rfl, by rw [e2]; rfl⟩
  | totalWrite k =>
    exact ⟨by simp only [dropAccess, freeAccountSlot_keeps, loseTicket_keeps]; exact h, by simp [dropAccess]⟩
  | _ => exact ⟨h, rfl⟩

theorem dropAll_law (l : List Access) {s : State} {e : List (Fin 1024)} (h : storeLaw s.store (closings l ++ e)) :
    storeLaw (l.foldl (fun t a => dropAccess a t) s).store e := by
  induction l generalizing s with
  | nil => exact h
  | cons a l ih => exact ih (dropAccess_law a l h).1

theorem dropAccess_holds (a : Access) (s : State) : heldSlots (dropAccess a s).store = heldSlots s.store := by
  cases a <;> simp [dropAccess, closeInside_store, endClose_store, heldSlots]

/-- An access that has begun is in its writes for the same close. -/
theorem closings_dropped (s : State) : closings (droppedAccesses s) = closings (outstanding s) := by
  have e : ∀ a, closingSlot (begunAccess a) = closingSlot a := fun a => by cases a <;> rfl
  simp only [closings, droppedAccesses, outstanding, List.filterMap_append]
  cases s.tickets.inFlight <;> simp [List.filterMap_cons, e]

theorem dropAccesses_fell {s t : State} (h : stood s t) (hf : s.link.fatal = .bus) : fell s (dropAccesses t) := by
  have e := dropAccesses_view t
  simp only [runView, Prod.mk.injEq] at e
  refine ⟨⟨e.2.1.trans (h.2.2.2.trans hf), e.2.2.2.2.2.2.1, e.2.2.2.2.2.2.2.1⟩, ?_, fun x g => ?_⟩
  · simp only [dropAccesses]
    rw [foldl_keeps (fun u : State => heldSlots u.store) fun u a => dropAccess_holds a u]
    rw [clearAccesses_keeps t |>.2.2.2.2.2.1, h.1]
  · refine dropAll_law _ ?_
    rw [clearAccesses_keeps t |>.2.2.2.2.2.1, h.1, closings_dropped, outstanding_stood h]
    exact g

theorem takeBusFault_stays (s : State) : stays s (takeBusFault s) := by
  rcases fatal_cases s with h | h
  · simp only [takeBusFault, if_pos h]; exact stays_refl s
  · refine .inr ?_
    have hf : s.link.fatal ≠ .bus := by simp [h]
    simp only [takeBusFault, if_neg hf]
    generalize hu : ({ s with link := faultedLink s.link, orders := { s.orders with unit := stoppedUnit s.orders.unit } } :
      State) = u
    have hv := setSeverity_view 50 3 u
    have h1 : ∀ t : State, runView t = runView (setSeverity 50 3 u) ∨ runView t = runView (enterHeld (setSeverity 50 3 u)) →
        t.store = u.store → fell s (dropAccesses t) := by
      intro t ht hst
      have e1 : stood u t := by
        rcases ht with ht | ht
        · rw [hv] at ht
          simp only [runView, Prod.mk.injEq] at ht
          exact ⟨hst, ht.2.2.2.2.2.2.1, ht.2.2.2.2.2.2.2.1, ht.2.1⟩
        · rw [enterHeld_view] at ht
          simp only [runView, Prod.mk.injEq] at ht hv
          exact ⟨hst, ht.2.2.2.2.2.2.1.trans hv.2.2.2.2.2.2.1, ht.2.2.2.2.2.2.2.1.trans hv.2.2.2.2.2.2.2.1,
            ht.2.1.trans hv.2.1⟩
      have hb : u.link.fatal = .bus := by rw [← hu]; rfl
      have f := dropAccesses_fell e1 hb
      have hst2 : u.store = s.store := by rw [← hu]
      have ho : outstanding u = outstanding s := by rw [← hu]; rfl
      refine ⟨f.1, by rw [f.2.1, hst2], fun e g => f.2.2 e ?_⟩
      rw [hst2, ho]; exact g
    split
    · exact h1 _ (.inl rfl) (by simp)
    · exact h1 _ (.inr rfl) (by simp)

theorem record_stays (op : LinkOp) (s : State) : stays s (record op s) := .inl ⟨⟨rfl, rfl, rfl, rfl⟩, rfl⟩

theorem sendWrite_stays (w : HostWrite) (s : State) : stays s (sendWrite w s) := by
  simp only [sendWrite]
  split <;> first | exact takeBusFault_stays s | exact .inl ⟨⟨rfl, rfl, rfl, rfl⟩, rfl⟩

theorem issue_stays (w : HostWrite) (s : State) : stays s (issue w s) := by
  simp only [issue]
  split
  · exact sendWrite_stays w s
  · exact stays_refl s

theorem issueAll_stays (ws : List HostWrite) (s : State) : stays s (issueAll ws s) := by
  induction ws generalizing s with
  | nil => exact stays_refl s
  | cons w ws ih => exact stays_trans (issue_stays w s) (ih (issue w s))

theorem issueRead_stays (a : Address) (n : Nat) (s : State) : stays s (issueRead a n s) := by
  simp only [issueRead]
  split <;> exact .inl ⟨⟨rfl, rfl, rfl, rfl⟩, rfl⟩

theorem latch_stays (f : Flag) (s : State) : stays s (latch f s) := stays_of_view (latch_view f s) (by simp)

theorem setSeverity_stays (i : Fin 51) (v : Fin 4) (s : State) : stays s (setSeverity i v s) :=
  stays_of_view (setSeverity_view i v s) (by simp)

theorem takeEntry_kept (s : State) : kept s (takeEntry s) := by
  simp only [takeEntry]
  split
  · exact kept_trans (kept_of_stays (issueRead_stays _ _ s)) (.inl ⟨rfl, rfl, rfl, rfl⟩)
  · exact kept_refl s

theorem enterHeld_kept (s : State) : kept s (enterHeld s) := by
  have e := enterHeld_view s
  simp only [runView, Prod.mk.injEq] at e
  exact .inl ⟨by simp, e.2.2.2.2.2.2.1, e.2.2.2.2.2.2.2.1, e.2.1⟩

theorem afterOrder_kept (s : State) : kept s (afterOrder s) := by
  simp only [afterOrder]
  split
  · exact kept_trans (t := { s with link := { s.link with haltWaiting := false } }) (.inl ⟨rfl, rfl, rfl, rfl⟩)
      (enterHeld_kept _)
  · exact takeEntry_kept s

theorem orderDone_kept (notify : Bool) (s : State) : kept s (orderDone notify s) := by
  simp only [orderDone]
  have h1 : kept s { s with orders := passEntry s.orders } := .inl ⟨rfl, rfl, rfl, rfl⟩
  split
  · exact kept_trans h1 (kept_trans (kept_of_stays (latch_stays .order _)) (afterOrder_kept _))
  · exact kept_trans h1 (afterOrder_kept _)

theorem report_kept (notify : Bool) (outcome : OutcomeCode) (result : List Byte) (s : State) :
    kept s (report notify outcome result s) := by
  have h1 : kept s (issueAll (reportWrites s outcome result) (setUnit .reporting s)) :=
    kept_trans (t := setUnit .reporting s) (.inl ⟨rfl, rfl, rfl, rfl⟩) (kept_of_stays (issueAll_stays _ _))
  simp only [report]
  split
  · exact h1
  · have h2 := kept_trans h1 (kept_of_stays (issue_stays (stateWrite (issueAll (reportWrites s outcome result)
      (setUnit .reporting s)) outcome) _))
    split
    · exact kept_trans h2 (orderDone_kept notify _)
    · exact h2

theorem finishOrder_kept (outcome : OutcomeCode) (result : List Byte) (s : State) :
    kept s (finishOrder outcome result s) := by
  simp only [finishOrder]
  split <;> first | exact report_kept _ _ _ s | exact kept_refl s

theorem setStage_kept (stage : Stage) (s : State) : kept s (setStage stage s) := by
  simp only [setStage]
  split <;> exact .inl ⟨rfl, rfl, rfl, rfl⟩

theorem loseTicket_stays (m : Option Nat) (s : State) : stays s (loseTicket m s) :=
  stays_of_view (loseTicket_view m s) (by simp)

theorem raiseNumber_stays (s : State) : stays s (raiseNumber s) := .inl ⟨⟨rfl, rfl, rfl, rfl⟩, rfl⟩

theorem takeClose_stays (r : Raise) (s : State) : stays s (takeClose r s) :=
  stays_of_view (takeClose_view r s) (by simp)

theorem unblockRing_stays (s : State) : stays s (unblockRing s) := by
  simp only [unblockRing]
  split
  · exact stays_trans (.inl ⟨⟨rfl, rfl, rfl, rfl⟩, rfl⟩) (setSeverity_stays 49 0 _)
  · exact stays_refl s

theorem blockRing_stays (s : State) : stays s (blockRing s) := by
  simp only [blockRing]
  split
  · exact stays_refl s
  · exact stays_trans (.inl ⟨⟨rfl, rfl, rfl, rfl⟩, rfl⟩) (setSeverity_stays 49 2 _)

theorem ticketWritten_stays (s : State) : stays s (ticketWritten s) := by
  simp only [ticketWritten]
  exact stays_trans (stays_trans (t := { s with tickets := { s.tickets with writePosition := nextPosition s.tickets } })
    (.inl ⟨⟨rfl, rfl, rfl, rfl⟩, rfl⟩) (latch_stays .ticket _)) (unblockRing_stays _)

theorem recordClose_stays (r : Raise) (s : State) : stays s (recordClose r s) := issueAll_stays _ s

/-! ### The law of the store and of its accesses -/

/-- The law of the accesses, for a list of accesses under way, waiting or to come. -/
def accessLaw (s : State) (l : List Access) : Prop :=
  l.countP orderAccess ≤ 1 ∧ (0 < l.countP orderAccess → ∃ o, s.orders.unit = .acting o .queued) ∧
  ∀ n : Fin 1024, .recordRead n ∈ l → s.store.slots[n].state = .free ∧ n ∉ heldSlots s.store ++ closings l

/-- A close and a MATCH_TOTAL are written whole in one step. -/
def noWrites (l : List Access) : Prop := ∀ r k, Access.closeWrite r ∉ l ∧ Access.totalWrite k ∉ l

/-- The law of the booking store, with the accesses g that have been taken off the queue and not begun. After a bus fault
they end their closes and do nothing else. -/
def law (g : List Access) (s : State) : Prop :=
  storeLaw s.store (heldSlots s.store ++ closings (outstanding s ++ g)) ∧ (cutOff s ∨ accessLaw s (outstanding s ++ g)) ∧
    noWrites (outstanding s ++ g)

/-- Nothing waits but behind an access in flight. -/
def tidy (s : State) : Prop := s.tickets.inFlight = none → s.tickets.waiting = []

/-- A booking record is read for an order. -/
theorem recordRead_counts {n : Fin 1024} {l : List Access} (h : .recordRead n ∈ l) : 0 < l.countP orderAccess :=
  List.countP_pos_iff.2 ⟨_, h, rfl⟩

theorem accessLaw_nil (s : State) : accessLaw s [] := by simp [accessLaw]

theorem bookings_law (s : State) : bookingsLawful s ↔ law [] s ∧ tidy s := by
  simp only [bookingsLawful, law, timelinesLawful_iff, accessesLawful, accessLaw, noWrites, List.append_nil, closing_iff, tidy]
  refine ⟨fun h => ⟨⟨h.1, .inr ⟨h.2.1, h.2.2.1, h.2.2.2.1⟩, h.2.2.2.2.1⟩, h.2.2.2.2.2⟩, fun h => ⟨h.1.1, ?_⟩⟩
  rcases h.1.2.1 with k | k
  · have e := outstanding_cutOff k
    have a := accessLaw_nil s
    refine ⟨?_, ?_, ?_, h.1.2.2, fun _ => k.2.2⟩ <;> rw [e]
    · exact a.1
    · exact a.2.1
    · exact a.2.2
  · exact ⟨k.1, k.2.1, k.2.2, h.1.2.2, h.2⟩

theorem noWrites_sub {l m : List Access} (h : noWrites l) (e : ∀ x, x ∈ m → x ∈ l) : noWrites m :=
  fun r k => ⟨fun hx => (h r k).1 (e _ hx), fun hx => (h r k).2 (e _ hx)⟩

theorem mem_closings {n : Fin 1024} {l : List Access} : n ∈ closings l ↔ ∃ a ∈ l, closingSlot a = some n := by
  simp [closings]

theorem closings_append (l m : List Access) : closings (l ++ m) = closings l ++ closings m := by simp [closings]

/-- The order of the accesses does not matter, nor what the law does not speak of. -/
theorem law_perm {s t : State} {g g' : List Access} (h : law g s) (hs : t.store = s.store)
    (hu : t.orders.unit = s.orders.unit) (hc : cutOff s → cutOff t) (hp : (outstanding t ++ g').Perm (outstanding s ++ g)) :
    law g' t := by
  have e : ∀ k, k ∈ heldSlots t.store ++ closings (outstanding t ++ g') ↔
      k ∈ heldSlots s.store ++ closings (outstanding s ++ g) := fun k => by
    simp only [List.mem_append (s := heldSlots _), mem_closings, hp.mem_iff, hs]
  refine ⟨by rw [hs]; rw [hs] at e; exact storeLaw_congr h.1 e, h.2.1.imp hc fun k => ?_,
    noWrites_sub h.2.2 fun x hx => hp.mem_iff.1 hx⟩
  obtain ⟨k1, k2, k3⟩ := k
  refine ⟨by rw [hp.countP_eq]; exact k1, fun j => hu ▸ k2 (by rwa [hp.countP_eq] at j), fun n hn => ?_⟩
  rw [e n, hs]; exact k3 n (hp.mem_iff.1 hn)

/-- An access that closes no booking may be dropped. -/
theorem law_tail {s : State} {a : Access} {g : List Access} (h : law (a :: g) s) (ha : closingSlot a = none) :
    law g s := by
  have p : (outstanding s ++ a :: g).Perm (a :: (outstanding s ++ g)) := List.perm_middle
  have e : closings (a :: (outstanding s ++ g)) = closings (outstanding s ++ g) := List.filterMap_cons_none ha
  have ek : ∀ k, k ∈ closings (outstanding s ++ a :: g) ↔ k ∈ closings (outstanding s ++ g) := fun k => by
    rw [← e]; simp only [mem_closings, p.mem_iff]
  have sub : ∀ x, x ∈ outstanding s ++ g → x ∈ outstanding s ++ a :: g := fun x hx =>
    p.mem_iff.2 (List.mem_cons_of_mem _ hx)
  refine ⟨storeLaw_congr h.1 fun k => by simp only [List.mem_append (s := heldSlots _), ek], h.2.1.imp id fun k => ?_,
    noWrites_sub h.2.2 sub⟩
  obtain ⟨k1, k2, k3⟩ := k
  rw [p.countP_eq, List.countP_cons] at k1 k2
  refine ⟨by omega, fun j => k2 (by omega), fun n hn => ?_⟩
  have := k3 n (sub _ hn)
  simpa only [List.mem_append (s := heldSlots _), ek] using this

/-- Behind an access of the order in flight no other one stands. -/
theorem law_alone {s : State} {a : Access} {g : List Access} (h : law (a :: g) s) (ha : orderAccess a = true) :
    cutOff s ∨ (outstanding s ++ g).countP orderAccess = 0 := by
  refine h.2.1.imp id fun k => ?_
  have k1 := k.1
  rw [List.perm_middle.countP_eq, List.countP_cons, ha, if_pos rfl] at k1
  omega

/-- What only moves the accesses on, or ends them by a bus fault, keeps the law. -/
theorem law_stays {s t : State} {g : List Access} (h : law g s) (k : stays s t) : law g t := by
  rcases k with ⟨k, e⟩ | k
  · refine law_perm h k.1 e (fun c => cutOff_kept c (.inl k)) ?_
    rw [outstanding_stood k]
  · refine ⟨?_, .inl k.1, noWrites_sub h.2.2 fun x hx => ?_⟩
    · rw [k.2.1, outstanding_cutOff k.1]
      refine k.2.2 _ (storeLaw_congr h.1 fun n => ?_)
      simp only [closings_append, List.mem_append, List.nil_append]
      tauto
    · rw [outstanding_cutOff k.1] at hx
      exact List.mem_append.2 (.inr hx)

/-- With no access of an order to come, the order unit may move on. -/
theorem law_kept {s t : State} {g : List Access} (h : law g s)
    (h0 : cutOff s ∨ (outstanding s ++ g).countP orderAccess = 0) (k : kept s t) : law g t := by
  rcases k with k | k
  · refine ⟨by rw [k.1, outstanding_stood k]; exact h.1, ?_, by rw [outstanding_stood k]; exact h.2.2⟩
    rcases h.2.1 with c | c
    · exact .inl (cutOff_kept c (.inl k))
    · rcases h0 with h0 | h0
      · exact .inl (cutOff_kept h0 (.inl k))
      · obtain ⟨k1, k2, k3⟩ := c
        refine .inr ⟨by rw [outstanding_stood k]; exact k1, fun j => ?_, by rw [outstanding_stood k, k.1]; exact k3⟩
        rw [outstanding_stood k, h0] at j
        omega
  · exact law_stays h (.inr k)

theorem tidy_kept {s t : State} (h : tidy s) (k : kept s t) : tidy t := by
  rcases k with ⟨-, e1, e2, -⟩ | k
  · simpa only [tidy, e1, e2] using h
  · exact fun _ => k.1.2.2

/-- The close of an access ends. -/
theorem endClose_law (r : Raise) {a : Access} {s : State} {g : List Access} (h : law (a :: g) s)
    (ha : closingSlot a = some r.slot) : law g (endClose r s) := by
  have st := endClose_store r s
  have ho : outstanding (endClose r s) = outstanding s := by simp [outstanding]
  have p : (outstanding s ++ a :: g).Perm (a :: (outstanding s ++ g)) := List.perm_middle
  have e : closings (a :: (outstanding s ++ g)) = r.slot :: closings (outstanding s ++ g) := List.filterMap_cons_some ha
  have ek : ∀ k, k ∈ closings (outstanding s ++ a :: g) ↔ k = r.slot ∨ k ∈ closings (outstanding s ++ g) := fun k => by
    rw [← List.mem_cons, ← e]; simp only [mem_closings, p.mem_iff]
  have hh : heldSlots (endClose r s).store = heldSlots s.store := by rw [st]; rfl
  have sub : ∀ x, x ∈ outstanding s ++ g → x ∈ outstanding s ++ a :: g := fun x hx =>
    p.mem_iff.2 (List.mem_cons_of_mem _ hx)
  refine ⟨?_, h.2.1.imp (fun c => ?_) fun k => ?_, by rw [ho]; exact noWrites_sub h.2.2 sub⟩
  · rw [hh, ho, st]
    refine storeLaw_free h.1 (List.mem_append.2 (.inr ((ek _).2 (.inl rfl)))) fun k hk => ?_
    simp only [List.mem_append (s := heldSlots _), ek, hk, false_or]
  · exact ⟨by simpa using c.1, by simpa using c.2.1, by simpa using c.2.2⟩
  · obtain ⟨k1, k2, k3⟩ := k
    rw [p.countP_eq, List.countP_cons] at k1 k2
    rw [ho]
    refine ⟨by omega, fun j => ?_, fun n hn => ?_⟩
    · obtain ⟨o, hu⟩ := k2 (by omega)
      exact ⟨o, by simpa using hu⟩
    · obtain ⟨f, m⟩ := k3 n (sub _ hn)
      rw [hh]
      refine ⟨?_, fun hx => m ?_⟩
      · rw [st, getFin_set]
        split
        · rfl
        · exact f
      · rcases List.mem_append.1 hx with hx | hx
        · exact List.mem_append.2 (.inl hx)
        · exact List.mem_append.2 (.inr ((ek n).2 (.inr hx)))

/-- A close ends, and the CANCEL it was made for is reported. -/
theorem finishClose_law (r : Raise) (number : BitVec 32) {a : Access} {s : State} {g : List Access} (h : law (a :: g) s)
    (ha : closingSlot a = some r.slot) (hr : orderAccess a = r.forOrder) : law g (finishClose r number s) := by
  have h1 := endClose_law r h ha
  simp only [finishClose]
  split
  · rename_i ho
    refine law_kept h1 ?_ (finishOrder_kept _ _ _)
    rcases law_alone h (hr.trans ho) with k | k
    · exact .inl ⟨by simpa using k.1, by simpa using k.2.1, by simpa using k.2.2⟩
    · refine .inr ?_
      have e : outstanding (endClose r s) = outstanding s := by simp [outstanding]
      rw [e]; exact k
  · exact h1

theorem lostClose_law (r : Raise) {s : State} {g : List Access} (h : law (.raise r :: g) s) : law g (lostClose r s) :=
  finishClose_law r _ (law_stays h (recordClose_stays r s)) rfl rfl

/-! ### Quiet states -/

/-- No access is under way or waits. -/
def quiet (s : State) : Prop := s.tickets.inFlight = none ∧ s.tickets.waiting = []

theorem quiet_kept {s t : State} (h : quiet s) (k : kept s t) : quiet t := by
  rcases k with ⟨-, e1, e2, -⟩ | k
  · exact ⟨e1.trans h.1, e2.trans h.2⟩
  · exact k.1.2

theorem finishClose_quiet (r : Raise) (number : BitVec 32) {s : State} (h : quiet s) : quiet (finishClose r number s) := by
  have h1 : quiet (endClose r s) := by simpa [quiet] using h
  simp only [finishClose]
  split
  · exact quiet_kept h1 (finishOrder_kept _ _ _)
  · exact h1

theorem lostClose_quiet (r : Raise) {s : State} (h : quiet s) : quiet (lostClose r s) :=
  finishClose_quiet r _ (quiet_kept h (kept_of_stays (recordClose_stays r s)))

/-! ### The queue of accesses -/

theorem setInFlight_law {a : Access} {s : State} {g : List Access} (h : law g s) (hi : s.tickets.inFlight = some a) :
    law (a :: g) (setInFlight none s) := by
  refine law_perm h rfl rfl (fun c => by simp [cutOff, hi] at c) ?_
  have e : outstanding s ++ g = a :: (s.tickets.waiting ++ g) := by simp [outstanding, hi]
  rw [e]
  exact List.perm_middle

/-- The access whose read goes out is in flight. -/
theorem await_law {a : Access} {s : State} {g : List Access} (addr : Address) (n : Nat) (h : law (a :: g) s)
    (h1 : quiet s) (ho : readsOpen s = true) :
    law g (setInFlight (some a) (issueRead addr n s)) ∧ (setInFlight (some a) (issueRead addr n s)).tickets.waiting = [] := by
  refine ⟨law_perm h (by simp [setInFlight]) (by simp [setInFlight]) (fun c => ?_) ?_, by simp [setInFlight, h1.2]⟩
  · simp [readsOpen, c.1] at ho
  · simp [outstanding, setInFlight, h1.1, h1.2]

/-- An access begins: the law holds of it, if it waits for a read, and of the others. -/
theorem beginAccess_law (a : Access) {g : List Access} {s : State} (h : law (a :: g) s) (h1 : quiet s) :
    law g (beginAccess a s) ∧ (beginAccess a s).tickets.waiting = [] := by
  have wait : ∀ {t : State}, kept s t → t.tickets.waiting = [] := fun k => (quiet_kept h1 k).2
  cases a with
  | write w => exact ⟨law_stays (law_tail h rfl) (issue_stays w s), wait (kept_of_stays (issue_stays w s))⟩
  | report outcome result =>
    refine ⟨law_kept (law_tail h rfl) (law_alone h rfl) ?_, wait ?_⟩ <;> exact finishOrder_kept _ _ _
  | raise r =>
    simp only [beginAccess]
    split
    · rename_i ho
      exact await_law _ 1 (law_stays h (raiseNumber_stays s)) h1 (reads_of_link ho)
    · have k : stays s (loseRaise r (raiseNumber s)) :=
        stays_trans (raiseNumber_stays s) (loseTicket_stays (some r.ticket.matchNumber) _)
      exact ⟨lostClose_law r (law_stays h k), (lostClose_quiet r (quiet_kept h1 (kept_of_stays k))).2⟩
  | closeWrite r => exact absurd (by simp) (h.2.2 r 0).1
  | totalWrite k => exact ⟨law_tail h rfl, h1.2⟩
  | totalCheck k minute =>
    simp only [beginAccess]
    split
    · rename_i ho; exact await_law _ 1 h h1 ho
    · exact ⟨law_kept (law_tail h rfl) (law_alone h rfl) (setStage_kept _ _), wait (setStage_kept _ _)⟩
  | recheck =>
    simp only [beginAccess]
    split
    · rename_i ho
      simp only [Bool.and_eq_true] at ho
      exact await_law _ 1 h h1 (reads_of_link ho.2)
    · exact ⟨law_tail h rfl, h1.2⟩
  | recordRead n =>
    simp only [beginAccess]
    split
    · rename_i ho; exact await_law _ 20 h h1 ho
    · exact ⟨law_kept (law_tail h rfl) (law_alone h rfl) (setStage_kept _ _), wait (setStage_kept _ _)⟩

theorem pump_law (accesses : List Access) {s : State} {g : List Access} (h : law (accesses ++ g) s)
    (h2 : s.tickets.waiting = []) : law g (pump accesses s) ∧ tidy (pump accesses s) := by
  induction accesses generalizing s with
  | nil => exact ⟨h, fun _ => h2⟩
  | cons a rest ih =>
    simp only [pump]
    split
    · rename_i hi
      refine ⟨law_perm h rfl rfl (fun c => by simp [c.2.1] at hi) ?_, fun e => ?_⟩
      · simp [outstanding, h2]
      · rw [show s.tickets.inFlight = none from e] at hi; simp at hi
    · rename_i hn
      have h1 : quiet s := ⟨by simpa using hn, h2⟩
      obtain ⟨k1, k2⟩ := beginAccess_law a h h1
      exact ih k1 k2

theorem pumpWaiting_law {s : State} {g : List Access} (h : law g s) : law g (pumpWaiting s) ∧ tidy (pumpWaiting s) := by
  refine pump_law _ (law_perm h rfl rfl (fun c => ⟨c.1, c.2.1, rfl⟩) ?_) rfl
  simp [outstanding]

/-- New accesses go behind those outstanding where the law holds of them all. -/
theorem submit_law (accesses : List Access) {s : State} {g : List Access} (h : law (accesses ++ g) s) :
    law g (submit accesses s) ∧ tidy (submit accesses s) := by
  refine pump_law _ (law_perm h rfl rfl (fun c => ⟨c.1, c.2.1, rfl⟩) ?_) rfl
  simp [outstanding]

/-- An access that is a write or a report. -/
def plain (a : Access) : Prop := (∃ w, a = .write w) ∨ ∃ outcome result, a = .report outcome result

theorem beginPlain_kept {a : Access} (h : plain a) (s : State) : kept s (beginAccess a s) := by
  rcases h with ⟨w, rfl⟩ | ⟨o, r, rfl⟩
  · exact kept_of_stays (issue_stays w s)
  · exact finishOrder_kept o r s

theorem pump_quiet {accesses : List Access} (h : ∀ a ∈ accesses, plain a) {s : State} (h1 : quiet s) :
    quiet (pump accesses s) := by
  induction accesses generalizing s with
  | nil => exact h1
  | cons a rest ih =>
    simp only [pump, h1.1, Option.isSome_none]
    exact ih (fun x hx => h x (List.mem_cons_of_mem _ hx)) (quiet_kept h1 (beginPlain_kept (h a (by simp)) s))

theorem submit_quiet {accesses : List Access} (h : ∀ a ∈ accesses, plain a) {s : State} (h1 : quiet s) :
    quiet (submit accesses s) := by
  simp only [submit, pumpWaiting, h1.2, List.nil_append]
  exact pump_quiet h ⟨h1.1, rfl⟩

/-! ### The read of the state byte -/

/-- Closing accesses may stand for one another. -/
theorem storeLaw_swap {st : Store} {l m : List (Fin 1024)} {e : List (Fin 1024)} (h : storeLaw st (l ++ e))
    (he : ∀ k, k ∈ m ↔ k ∈ l) : storeLaw st (m ++ e) := storeLaw_congr h fun k => by simp only [List.mem_append, he]

/-- Writes are made for an access that stands in flight meanwhile: they are all made, or a bus fault ends it with the others.
`b` is what it is in the law, and both close the same booking. -/
theorem writing_law {a b : Access} {s t : State} {g : List Access} (h : law (b :: g) s) (h1 : s.tickets.inFlight = none)
    (hc : closingSlot b = closingSlot a) (k : stays (setInFlight (some a) s) t) :
    (t.tickets.inFlight = some a ∧ stays s (setInFlight none t)) ∨ (t.tickets.inFlight = none ∧ law g t ∧ quiet t) := by
  rcases k with ⟨⟨e1, e2, e3, e4⟩, e5⟩ | k
  · exact .inl ⟨e2, .inl ⟨⟨e1, h1.symm, e3, e4⟩, e5⟩⟩
  · refine .inr ⟨k.1.2.1, ⟨?_, .inl k.1, noWrites_sub h.2.2 fun x hx => ?_⟩, k.1.2⟩
    · rw [k.2.1, outstanding_cutOff k.1]
      refine k.2.2 _ (storeLaw_congr h.1 fun n => ?_)
      have e : closings (outstanding (setInFlight (some a) s)) = closings (b :: outstanding s) := by
        simp [outstanding, setInFlight, h1, closings, List.filterMap_cons, hc]
      rw [e]
      simp only [closings_append, List.mem_append, List.nil_append, setInFlight]
      rw [show closings (b :: g) = closings ([b] ++ g) from rfl,
        show closings (b :: outstanding s) = closings ([b] ++ outstanding s) from rfl, closings_append, closings_append,
        List.mem_append, List.mem_append]
      tauto
    · rw [outstanding_cutOff k.1] at hx
      exact List.mem_append.2 (.inr (List.mem_cons_of_mem _ hx))

theorem writeClose_law (r : Raise) {s : State} {g : List Access} (h : law (.raise r :: g) s)
    (h1 : s.tickets.inFlight = none) :
    law g (writeClose r s) ∧ (s.tickets.waiting = [] → quiet (writeClose r s)) := by
  have w1 := issueAll_stays (ticketWrites r.ticket s) (setInFlight (some (.closeWrite r)) s)
  simp only [writeClose]
  split
  · have w2 := stays_trans w1 (stays_trans (ticketWritten_stays _) (recordClose_stays r _))
    rcases writing_law (a := .closeWrite r) (b := .raise r) h h1 rfl w2 with ⟨i, k⟩ | ⟨i, k1, k2⟩
    · rw [if_pos (by rw [i]; rfl)]
      exact ⟨finishClose_law r _ (law_stays h k) rfl rfl, fun hw =>
        finishClose_quiet r _ (quiet_kept ⟨h1, hw⟩ (kept_of_stays k))⟩
    · rw [if_neg (by rw [i]; decide)]
      exact ⟨k1, fun _ => k2⟩
  · rename_i hn
    rcases writing_law (a := .closeWrite r) (b := .raise r) h h1 rfl w1 with ⟨i, -⟩ | ⟨-, k1, k2⟩
    · rw [i] at hn; simp at hn
    · exact ⟨k1, fun _ => k2⟩

theorem raiseRead_law (r : Raise) (empty : Bool) {s : State} {g : List Access} (h : law g s)
    (hi : s.tickets.inFlight = some (.raise r)) :
    law g (raiseRead r empty s) ∧ (s.tickets.waiting = [] → quiet (raiseRead r empty s)) := by
  have h0 := setInFlight_law h hi
  simp only [raiseRead]
  split
  · exact writeClose_law r h0 rfl
  · have k : stays (setInFlight none s) (blockRing (loseRaise r (setInFlight none s))) :=
      stays_trans (loseTicket_stays (some r.ticket.matchNumber) _) (blockRing_stays _)
    exact ⟨lostClose_law r (law_stays h0 k), fun hw =>
      lostClose_quiet r (quiet_kept (s := setInFlight none s) ⟨rfl, hw⟩ (kept_of_stays k))⟩

theorem freeAccountSlot_stays (k : Fin 128) (s : State) : stays s (freeAccountSlot k s) :=
  .inl ⟨⟨rfl, rfl, rfl, rfl⟩, rfl⟩

theorem totalRead_law (k : Fin 128) (minute : Nat) (empty : Bool) {s : State} {g : List Access} (h : law g s)
    (hi : s.tickets.inFlight = some (.totalCheck k minute)) :
    law g (totalRead k minute empty s) ∧ (s.tickets.waiting = [] → quiet (totalRead k minute empty s)) := by
  have h0 := setInFlight_law h hi
  have q0 : s.tickets.waiting = [] → quiet (setInFlight none s) := fun hw => ⟨rfl, hw⟩
  simp only [totalRead]
  split
  · have e : setInFlight (some (.totalWrite k)) (raiseNumber s) =
        setInFlight (some (.totalWrite k)) (raiseNumber (setInFlight none s)) := rfl
    have k0 : stays (setInFlight none s) (raiseNumber (setInFlight none s)) := .inl ⟨⟨rfl, rfl, rfl, rfl⟩, rfl⟩
    have w1 := issueAll_stays (ticketWrites (totalTicket s.accounts[k] minute)
      (setInFlight (some (.totalWrite k)) (raiseNumber s))) (setInFlight (some (.totalWrite k)) (raiseNumber s))
    rw [e] at w1
    rw [e]
    rcases writing_law (a := .totalWrite k) (b := .totalCheck k minute) (law_stays h0 k0) rfl rfl w1 with ⟨i, j⟩ | ⟨i, j1, j2⟩
    · rw [if_pos (by rw [i]; rfl)]
      have m := stays_trans k0 (stays_trans j (stays_trans (ticketWritten_stays _) (freeAccountSlot_stays k _)))
      have a := law_stays h0 m
      refine ⟨law_kept (law_tail a rfl) (law_alone a rfl) (finishOrder_kept _ _ _), fun hw => ?_⟩
      exact quiet_kept (q0 hw) (kept_trans (kept_of_stays m) (finishOrder_kept _ _ _))
    · rw [if_neg (by rw [i]; decide)]
      exact ⟨j1, fun _ => j2⟩
  · exact ⟨law_kept (law_tail h0 rfl) (law_alone h0 rfl) (finishOrder_kept _ _ _), fun hw =>
      quiet_kept (q0 hw) (finishOrder_kept _ _ _)⟩

theorem ticketSlotRead_books (state : Byte) {s : State} (good : bookingsLawful s) :
    bookingsLawful (ticketSlotRead state s) := by
  obtain ⟨h, -⟩ := (bookings_law s).1 good
  simp only [ticketSlotRead]
  split
  · rename_i r hi; exact (bookings_law _).2 (pumpWaiting_law (raiseRead_law r _ h hi).1)
  · rename_i k minute hi; exact (bookings_law _).2 (pumpWaiting_law (totalRead_law k minute _ h hi).1)
  · rename_i hi
    refine (bookings_law _).2 (pumpWaiting_law (law_stays (law_tail (setInFlight_law h hi) rfl) ?_))
    split
    · exact unblockRing_stays _
    · exact stays_refl _
  all_goals exact good

/-! ### The operations -/

theorem accesses_iff (s : State) :
    accessesLawful s ↔ accessLaw s (outstanding s) ∧ noWrites (outstanding s) ∧ tidy s := by
  simp only [accessesLawful, accessLaw, noWrites, closing_iff, tidy, and_assoc]

/-- The same store, accesses and order unit: as lawful. -/
theorem books_congr {s t : State} (good : bookingsLawful s) (hs : t.store = s.store)
    (h1 : t.tickets.inFlight = s.tickets.inFlight) (h2 : t.tickets.waiting = s.tickets.waiting)
    (hu : t.orders.unit = s.orders.unit) : bookingsLawful t := by
  simpa only [bookingsLawful, timelinesLawful, accessesLawful, closing_iff, outstanding, hs, h1, h2, hu] using good

theorem books_same {s t : State} (good : bookingsLawful s)
    (h : t.store = s.store ∧ t.tickets = s.tickets ∧ t.orders = s.orders) : bookingsLawful t :=
  books_congr good h.1 (by rw [h.2.1]) (by rw [h.2.1]) (by rw [h.2.2])

theorem books_stays {s t : State} (good : bookingsLawful s) (k : stays s t) : bookingsLawful t := by
  obtain ⟨h, h2⟩ := (bookings_law s).1 good
  exact (bookings_law t).2 ⟨law_stays h k, tidy_kept h2 (kept_of_stays k)⟩

/-- With no access of an order outstanding, the order unit may move on. -/
theorem books_kept {s t : State} (good : bookingsLawful s) (h0 : (outstanding s).countP orderAccess = 0) (k : kept s t) :
    bookingsLawful t := by
  obtain ⟨h, h2⟩ := (bookings_law s).1 good
  exact (bookings_law t).2 ⟨law_kept h (.inr (by simpa using h0)) k, tidy_kept h2 k⟩

/-- No access of an order is outstanding while its owning block has not taken one. -/
theorem none_of_unit {s : State} (good : bookingsLawful s) (h : ∀ o, s.orders.unit ≠ .acting o .queued) :
    (outstanding s).countP orderAccess = 0 := by
  by_contra hc
  obtain ⟨o, ho⟩ := good.2.2.1 (by omega)
  exact h o ho

/-- Accesses that close no booking may be added, one of them for an order that its owning block has taken. -/
theorem law_add {accesses : List Access} {s : State} {g : List Access} (h : law g s) (hc : closings accesses = [])
    (ho : accesses.countP orderAccess = 0 ∨ accesses.countP orderAccess ≤ 1 ∧ (outstanding s ++ g).countP orderAccess = 0 ∧
      ∃ o, s.orders.unit = .acting o .queued)
    (hr : ∀ n : Fin 1024, .recordRead n ∈ accesses →
      s.store.slots[n].state = .free ∧ n ∉ heldSlots s.store ++ closings (outstanding s ++ g))
    (hw : noWrites accesses) : law (accesses ++ g) s := by
  have p : (outstanding s ++ (accesses ++ g)).Perm (accesses ++ (outstanding s ++ g)) := by
    rw [← List.append_assoc, ← List.append_assoc]
    exact List.perm_append_comm.append_right g
  have e : closings (accesses ++ (outstanding s ++ g)) = closings (outstanding s ++ g) := by
    rw [closings_append, hc, List.nil_append]
  have ek : ∀ k, k ∈ closings (outstanding s ++ (accesses ++ g)) ↔ k ∈ closings (outstanding s ++ g) := fun k => by
    rw [← e]; simp only [mem_closings, p.mem_iff]
  refine ⟨storeLaw_congr h.1 fun k => by simp only [List.mem_append (s := heldSlots _), ek], h.2.1.imp id fun k => ?_,
    fun r k => ⟨fun hx => ?_, fun hx => ?_⟩⟩
  · obtain ⟨k1, k2, k3⟩ := k
    refine ⟨?_, fun j => ?_, fun n hn => ?_⟩
    · rw [p.countP_eq, List.countP_append]; omega
    · rw [p.countP_eq, List.countP_append] at j
      rcases ho with ho | ho
      · exact k2 (by omega)
      · exact ho.2.2
    · have e3 : s.store.slots[n].state = .free ∧ n ∉ heldSlots s.store ++ closings (outstanding s ++ g) := by
        rcases List.mem_append.1 (p.mem_iff.1 hn) with hn | hn
        · exact hr n hn
        · exact k3 n hn
      simpa only [List.mem_append (s := heldSlots _), ek] using e3
  · rcases List.mem_append.1 (p.mem_iff.1 hx) with hx | hx
    · exact (hw r k).1 hx
    · exact (h.2.2 r k).1 hx
  · rcases List.mem_append.1 (p.mem_iff.1 hx) with hx | hx
    · exact (hw r k).2 hx
    · exact (h.2.2 r k).2 hx

/-- Writes and a report, and nothing else, are plain accesses. -/
theorem plain_facts {accesses : List Access} (h : ∀ a ∈ accesses, plain a) :
    closings accesses = [] ∧ (∀ n : Fin 1024, .recordRead n ∉ accesses) ∧ noWrites accesses := by
  refine ⟨?_, fun n hn => ?_, fun r k => ⟨fun hn => ?_, fun hn => ?_⟩⟩
  · rw [List.eq_nil_iff_forall_not_mem]
    intro n hn
    obtain ⟨a, ha, e⟩ := mem_closings.1 hn
    rcases h a ha with ⟨w, rfl⟩ | ⟨o, r, rfl⟩ <;> simp [closingSlot] at e
  all_goals rcases h _ hn with ⟨w, e⟩ | ⟨o, r, e⟩ <;> simp at e

/-- Writes of the store itself go behind the accesses outstanding. -/
theorem submitWrites_books (ws : List HostWrite) {s : State} (good : bookingsLawful s) :
    bookingsLawful (submit (ws.map .write) s) := by
  obtain ⟨h, -⟩ := (bookings_law s).1 good
  obtain ⟨h1, h2, h3⟩ := plain_facts (accesses := ws.map .write) fun a ha => by
    obtain ⟨w, -, rfl⟩ := List.mem_map.1 ha; exact .inl ⟨w, rfl⟩
  refine (bookings_law _).2 (submit_law _ (law_add h h1 (.inl ?_) (fun n hn => absurd hn (h2 n)) h3))
  rw [List.countP_eq_zero]
  intro a ha
  obtain ⟨w, -, rfl⟩ := List.mem_map.1 ha
  simp [orderAccess]

theorem makeRecheck_books {s : State} (good : bookingsLawful s) : bookingsLawful (makeRecheck s) := by
  have g : bookingsLawful { s with tickets := { s.tickets with recheckIn := none } } := books_congr good rfl rfl rfl rfl
  obtain ⟨h, -⟩ := (bookings_law _).1 g
  exact (bookings_law _).2 (submit_law _ (law_add h rfl (.inl rfl) (fun n hn => by simp at hn) fun r k => by simp))

theorem countRecheck_books {s : State} (good : bookingsLawful s) : bookingsLawful (countRecheck s) := by
  simp only [countRecheck]
  split
  · exact books_congr good rfl rfl rfl rfl
  · exact makeRecheck_books good
  · exact good

theorem lastRecheck_books {s : State} (good : bookingsLawful s) : bookingsLawful (lastRecheck s) := by
  simp only [lastRecheck]
  split
  · exact makeRecheck_books good
  · exact good

theorem openRecheck_books (recheckAfter : Nat) {s : State} (good : bookingsLawful s) :
    bookingsLawful (openRecheck recheckAfter s) := by
  simp only [openRecheck]
  (repeat' split) <;> first | exact makeRecheck_books good | exact books_congr good rfl rfl rfl rfl

theorem takeEntry_books {s : State} (good : bookingsLawful s) : bookingsLawful (takeEntry s) := by
  by_cases h : mayTake s = true
  · refine books_kept good (none_of_unit good fun o e => ?_) (takeEntry_kept s)
    simp [mayTake, e] at h
  · rw [takeEntry, if_neg h]; exact good

/-! ### Closes -/

theorem leaveTimeline_store (n : Fin 1024) (s : State) : (leaveTimeline n s).store = leftStore n s.store := rfl

/-- A booking that is in no timeline has its close handed over: it is the one more slot under way. -/
theorem settleClose_books (kind : TicketKind) (n : Fin 1024) (minute : Nat) (forOrder : Bool) {s : State}
    (good : storeLaw s.store (n :: (heldSlots s.store ++ closings (outstanding s)))) (hn : .recordRead n ∉ outstanding s)
    (acc : accessesLawful s)
    (ho : forOrder = true → (outstanding s).countP orderAccess = 0 ∧ ∃ o, s.orders.unit = .acting o .queued) :
    bookingsLawful (settleClose kind n minute forOrder s) := by
  obtain ⟨⟨a1, a2, a3⟩, a4, -⟩ := (accesses_iff s).1 acc
  simp only [settleClose]
  generalize hr : closeRaise kind n minute forOrder s = r
  have hslot : r.slot = n := by rw [← hr]; rfl
  have hord : r.forOrder = forOrder := by rw [← hr]; rfl
  have ek : ∀ k, k ∈ closings (outstanding s ++ [.raise r]) ↔ k = n ∨ k ∈ closings (outstanding s) := fun k => by
    simp [closings, closingSlot, hslot, or_comm]
  refine (bookings_law _).2 (submit_law _ (law_stays ⟨storeLaw_congr good fun k => ?_, .inr ⟨?_, fun j => ?_, fun k hk => ?_⟩,
    fun x k => ⟨fun hx => ?_, fun hx => ?_⟩⟩ (takeClose_stays r s)))
  · simp only [List.append_nil, List.mem_append (s := heldSlots _), ek, List.mem_cons]
    tauto
  · simp only [List.append_nil, List.countP_append, List.countP_singleton, orderAccess, hord]
    split
    · rename_i f; rw [(ho f).1]
    · omega
  · simp only [List.append_nil, List.countP_append, List.countP_singleton, orderAccess, hord] at j
    split at j
    · rename_i f; exact (ho f).2
    · exact a2 (by omega)
  · have hk2 : Access.recordRead k ∈ outstanding s := by simpa using hk
    obtain ⟨f, m⟩ := a3 k hk2
    refine ⟨f, fun hx => ?_⟩
    simp only [List.append_nil, List.mem_append (s := heldSlots _), ek] at hx
    rcases hx with hx | rfl | hx
    · exact m (List.mem_append.2 (.inl hx))
    · exact hn hk2
    · exact m (List.mem_append.2 (.inr hx))
  · exact (a4 x k).1 (by simpa using hx)
  · exact (a4 x k).2 (by simpa using hx)

theorem beginClose_store (n : Fin 1024) (minute : Nat) (s : State) :
    (beginClose n minute s).store = leftStore n s.store := by
  simp only [beginClose]
  split
  · simp [leaveTimeline_store]
  · simp [leaveTimeline_store]

/-- A booking has left its timeline, and nothing else of the law has changed. -/
theorem left_law {s t : State} (good : bookingsLawful s) (n : Fin 1024) (ht : t.store = leftStore n s.store)
    (h1 : t.tickets = s.tickets) (h2 : t.orders = s.orders) :
    storeLaw t.store (n :: (heldSlots t.store ++ closings (outstanding t))) ∧ accessesLawful t := by
  have e : outstanding t = outstanding s := by simp only [outstanding, h1]
  have eh : heldSlots t.store = heldSlots s.store := by rw [ht]; rfl
  refine ⟨?_, ?_⟩
  · rw [eh, e, ht]
    exact storeLaw_leave ((timelinesLawful_iff s).1 good.1) n (by simp) fun k hk => by simp [hk]
  · have g := good.2
    simp only [accessesLawful, closing_iff, e, ht, h1, h2] at g ⊢
    exact g

theorem holdClose_books (n : Fin 1024) (minute : Nat) {s : State}
    (good : storeLaw s.store (n :: (heldSlots s.store ++ closings (outstanding s)))) (hn : .recordRead n ∉ outstanding s)
    (acc : accessesLawful s) : bookingsLawful (holdClose n minute s) := by
  have hs : heldSlots (holdClose n minute s).store = heldSlots s.store ++ [n] := by simp [holdClose, heldSlots]
  have ho : outstanding (holdClose n minute s) = outstanding s := rfl
  refine ⟨?_, ?_⟩
  · rw [timelinesLawful_iff, hs, ho]
    refine storeLaw_congr (st := (holdClose n minute s).store) good fun k => ?_
    simp only [List.mem_append, List.mem_cons, List.not_mem_nil, or_false]
    tauto
  · obtain ⟨⟨a1, a2, a3⟩, a4, a5⟩ := (accesses_iff s).1 acc
    refine (accesses_iff _).2 ⟨⟨a1, a2, fun k hk => ?_⟩, a4, a5⟩
    obtain ⟨f, m⟩ := a3 k hk
    refine ⟨f, fun hx => ?_⟩
    rw [hs, ho] at hx
    simp only [List.mem_append, List.mem_cons, List.not_mem_nil, or_false] at hx m
    rcases hx with (hx | rfl) | hx
    · exact m (.inl hx)
    · exact hn hk
    · exact m (.inr hx)

/-- The record of a booking that is not FREE is not read. -/
theorem noRead {s t : State} (good : bookingsLawful s) {n : Fin 1024} (hn : s.store.slots[n].state ≠ .free)
    (h : outstanding t = outstanding s) : .recordRead n ∉ outstanding t := fun hx =>
  hn (good.2.2.2.1 n (h ▸ hx)).1

theorem closeOnAir_books (n : Fin 1024) (minute : Nat) (counted forOrder : Bool) {s : State} (good : bookingsLawful s)
    (hn : s.store.slots[n].state ≠ .free)
    (ho : counted = true → forOrder = true →
      (outstanding s).countP orderAccess = 0 ∧ ∃ o, s.orders.unit = .acting o .queued) :
    bookingsLawful (closeOnAir n minute counted forOrder s) := by
  have st := beginClose_store n minute s
  obtain ⟨l1, l2⟩ := left_law (t := beginClose n minute s) good n st (by simp) (by simp)
  have hn2 := noRead (t := beginClose n minute s) good hn (by simp [outstanding])
  simp only [closeOnAir]
  split
  · rename_i hc
    refine settleClose_books .booking n minute forOrder l1 hn2 l2 fun h => ?_
    obtain ⟨h0, o, hu⟩ := ho hc h
    exact ⟨by simpa [outstanding] using h0, o, by simpa using hu⟩
  · exact holdClose_books n minute l1 hn2 l2

theorem closeMissed_books (n : Fin 1024) (minute : Nat) {s : State} (good : bookingsLawful s)
    (hn : s.store.slots[n].state ≠ .free) : bookingsLawful (closeMissed n minute s) := by
  obtain ⟨l1, l2⟩ := left_law (t := leaveTimeline n s) good n rfl (by simp) (by simp)
  exact settleClose_books .missed n minute false l1 (noRead good hn (by simp [outstanding])) l2 (by simp)

/-- The first close held goes on to rating. -/
theorem releaseFirst_books {s : State} (good : bookingsLawful s) : bookingsLawful (releaseFirst s) := by
  simp only [releaseFirst]
  split
  · rename_i h rest e
    split
    · refine lastRecheck_books (countRecheck_books ?_)
      have hh : heldSlots s.store = h.slot :: rest.map (·.slot) := by simp [heldSlots, e]
      have l1 := (timelinesLawful_iff s).1 good.1
      rw [hh] at l1
      obtain ⟨⟨a1, a2, a3⟩, a4, a5⟩ := (accesses_iff s).1 good.2
      refine settleClose_books .booking h.slot h.closeMinute false (s := { s with store := { s.store with holds := rest } })
        l1 (fun hk => (a3 _ hk).2 (by simp [hh])) ?_ (by simp)
      refine (accesses_iff _).2 ⟨⟨a1, a2, fun k hk => ?_⟩, a4, a5⟩
      obtain ⟨f, m⟩ := a3 k hk
      refine ⟨f, fun hx => m ?_⟩
      rw [hh]
      exact List.mem_cons_of_mem _ hx
    · exact good
  · exact good

/-! ### Timelines stand while accesses go on -/

theorem dropAccess_timelines (a : Access) (s : State) : (dropAccess a s).store.timelines = s.store.timelines := by
  cases a <;> simp [dropAccess, closeInside_store, endClose_store]

theorem takeBusFault_timelines (s : State) : (takeBusFault s).store.timelines = s.store.timelines := by
  have h : ∀ t : State, (dropAccesses t).store.timelines = t.store.timelines := fun t => by
    simp only [dropAccesses]
    rw [foldl_keeps (fun u : State => u.store.timelines) fun u a => dropAccess_timelines a u]
    simp
  simp only [takeBusFault]
  (repeat' split) <;> simp [h]

theorem issue_timelines (w : HostWrite) (s : State) : (issue w s).store.timelines = s.store.timelines := by
  simp only [issue, sendWrite]
  (repeat' split) <;> first | exact takeBusFault_timelines s | rfl

theorem issueAll_timelines (ws : List HostWrite) (s : State) : (issueAll ws s).store.timelines = s.store.timelines :=
  foldl_keeps (fun u : State => u.store.timelines) (fun u w => issue_timelines w u) ws s

theorem finishOrder_timelines (outcome : OutcomeCode) (result : List Byte) (s : State) :
    (finishOrder outcome result s).store.timelines = s.store.timelines := by
  have h : ∀ notify, (report notify outcome result s).store.timelines = s.store.timelines := fun notify => by
    simp only [report]
    (repeat' split) <;> simp [issue_timelines, issueAll_timelines, setUnit]
  simp only [finishOrder]
  split <;> simp [h]

theorem lostClose_timelines (r : Raise) (s : State) : (lostClose r s).store.timelines = s.store.timelines := by
  simp only [lostClose, finishClose, recordClose]
  split <;> simp [finishOrder_timelines, endClose_store, issueAll_timelines]

theorem beginAccess_timelines (a : Access) (s : State) : (beginAccess a s).store.timelines = s.store.timelines := by
  cases a <;> simp only [beginAccess, issue_timelines, finishOrder_timelines] <;>
    (repeat' split) <;> simp [setInFlight, lostClose_timelines]

theorem pump_timelines (accesses : List Access) (s : State) : (pump accesses s).store.timelines = s.store.timelines := by
  induction accesses generalizing s with
  | nil => rfl
  | cons a rest ih =>
    simp only [pump]
    split
    · rfl
    · rw [ih, beginAccess_timelines]

theorem submit_timelines (accesses : List Access) (s : State) : (submit accesses s).store.timelines = s.store.timelines := by
  simp only [submit, pumpWaiting, pump_timelines]

theorem settleClose_timelines (kind : TicketKind) (n : Fin 1024) (minute : Nat) (forOrder : Bool) (s : State) :
    (settleClose kind n minute forOrder s).store.timelines = s.store.timelines := by
  simp [settleClose, submit_timelines]

/-! ### The minute boundary and the catch-up -/

/-- A slot changes in what places it not. -/
theorem slot_books {s t : State} (good : bookingsLawful s) (n : Fin 1024) (b : Slot)
    (h1 : b.state = .free ↔ s.store.slots[n].state = .free) (h2 : b.port = s.store.slots[n].port)
    (h3 : b.start = s.store.slots[n].start) (h4 : b.duration = s.store.slots[n].duration)
    (h5 : ∀ (d : Fin 64) (before after : List (Fin 1024)), s.store.timelines[d] = before ++ n :: after →
      ∀ k ∈ after, finalEnd b ≤ s.store.slots[k].start)
    (hs : t.store = { s.store with slots := s.store.slots.set n b })
    (ht : t.tickets.inFlight = s.tickets.inFlight) (hw : t.tickets.waiting = s.tickets.waiting)
    (hu : t.orders.unit = s.orders.unit) : bookingsLawful t := by
  have e : outstanding t = outstanding s := by simp only [outstanding, ht, hw]
  have eh : heldSlots t.store = heldSlots s.store := by rw [hs]; rfl
  refine ⟨?_, ?_⟩
  · rw [timelinesLawful_iff, e, eh, hs]
    exact storeLaw_same ((timelinesLawful_iff s).1 good.1) n b h1 h2 h3 h4 h5
  · obtain ⟨⟨a1, a2, a3⟩, a4, a5⟩ := (accesses_iff s).1 good.2
    refine (accesses_iff _).2 ⟨⟨by rw [e]; exact a1, by rw [e, hu]; exact a2, fun k hk => ?_⟩, by rw [e]; exact a4,
      by simpa only [tidy, ht, hw] using a5⟩
    rw [e] at hk
    obtain ⟨f, m⟩ := a3 k hk
    refine ⟨?_, by rw [e, eh]; exact m⟩
    rw [hs, getFin_set]
    split
    · rename_i e2; subst e2; exact h1.2 f
    · exact f

/-- The final end of a member stands clear of those behind it. -/
theorem clear_behind {s : State} (good : timelinesLawful s) (n : Fin 1024) (d : Fin 64) (before after : List (Fin 1024))
    (e : s.store.timelines[d] = before ++ n :: after) : ∀ k ∈ after, finalEnd s.store.slots[n] ≤ s.store.slots[k].start := by
  have h := (good.2 d).2
  rw [e, List.pairwise_append] at h
  exact (List.pairwise_cons.1 h.2.1).1

theorem setSlot_store (n : Fin 1024) (b : Slot) (s : State) :
    (setSlot n b s).store = { s.store with slots := s.store.slots.set n b } := rfl

theorem activate_books (n : Fin 1024) (minute : Nat) (first : Stamp) (band : Option Band) {s : State}
    (good : bookingsLawful s) (hn : s.store.slots[n].state ≠ .free) : bookingsLawful (activate n minute first band s) := by
  simp only [activate]
  refine submitWrites_books [_, _] ?_
  refine slot_books good n { s.store.slots[n] with state := .active, activation := some minute }
    ⟨fun h => absurd h (by simp), fun h => absurd h hn⟩ rfl rfl rfl (clear_behind good.1 n) ?_ ?_ ?_ ?_
  · simp [setSlot_store]
  · simp
  · simp
  · simp

theorem enterOverrun_books (n : Fin 1024) {s : State} (good : bookingsLawful s)
    (hn : s.store.slots[n].state ≠ .free) : bookingsLawful (enterOverrun n s) := by
  simp only [enterOverrun]
  refine submitWrites_books [_] ?_
  exact slot_books good n { s.store.slots[n] with state := .overrun }
    ⟨fun h => absurd h (by simp), fun h => absurd h hn⟩ rfl rfl rfl (clear_behind good.1 n) rfl rfl rfl rfl

/-- A member of a timeline is not FREE. -/
theorem member_taken {s : State} (good : bookingsLawful s) {d : Fin 64} {n : Fin 1024} (h : n ∈ s.store.timelines[d]) :
    s.store.slots[n].state ≠ .free := ((good.1.1 d n).1 h).1

theorem head_taken {s : State} (good : bookingsLawful s) {d : Fin 64} {n : Fin 1024} (h : headOf d s = some n) :
    s.store.slots[n].state ≠ .free := member_taken good (List.mem_of_head? h)

theorem boundaryHead_books (minute : Nat) (counted : Bool) (d : Fin 64) {s : State} (good : bookingsLawful s) :
    bookingsLawful (boundaryHead minute counted d s) := by
  simp only [boundaryHead]
  split
  · exact good
  · rename_i n h
    have hn := head_taken good h
    have hc := closeOnAir_books n minute counted false good hn (by simp)
    (repeat' split)
    · simp only [boundaryClose]
      split
      · exact countRecheck_books hc
      · exact hc
    · exact enterOverrun_books n good hn
    · exact good

theorem boundaryStart_books (minute : Nat) (swapped : Bool) (d : Fin 64) {s : State} (good : bookingsLawful s) :
    bookingsLawful (boundaryStart minute swapped d s) := by
  simp only [boundaryStart]
  split
  · exact good
  · rename_i n h
    split
    · exact activate_books n minute _ _ good (head_taken good h)
    · exact good

theorem storeTimelines_books (taken : Bool) (minute : Nat) (counted swapped : Bool) (ports : List (Fin 64)) {s : State}
    (good : bookingsLawful s) : bookingsLawful (storeTimelines taken minute counted swapped ports s) := by
  simp only [storeTimelines]
  split
  · exact foldl_closed (fun t d ht => boundaryStart_books minute swapped d (boundaryHead_books minute counted d ht)) _ good
  · exact good

theorem boundaryCounted_books (minute swapAfter recheckAfter : Nat) {s : State} (good : bookingsLawful s) :
    bookingsLawful (boundaryCounted minute swapAfter recheckAfter s) := by
  simp only [boundaryCounted]
  refine lastRecheck_books (storeTimelines_books _ _ _ _ _ ?_)
  exact books_same (storeTimelines_books (decide (s.link.run = .running)) minute true false ((List.finRange 64).take swapAfter)
    (openRecheck_books recheckAfter good)) (by simp)

theorem boundaryUncounted_books (minute recheckAfter : Nat) {s : State} (good : bookingsLawful s) :
    bookingsLawful (boundaryUncounted minute recheckAfter s) :=
  lastRecheck_books (storeTimelines_books _ _ _ _ _ (openRecheck_books _ good))

/-- What closes one member leaves the others in the timeline. -/
theorem left_member {st : Store} {n k : Fin 1024} {d : Fin 64} (h : k ∈ st.timelines[d]) (hk : k ≠ n) :
    k ∈ (leftStore n st).timelines[d] := by
  rw [leftStore_get]
  split
  · rename_i e; subst e; exact List.mem_filter.2 ⟨h, by simpa using hk⟩
  · exact h

/-- A member stands in its timeline once. -/
theorem once {s : State} (good : timelinesLawful s) (d : Fin 64) : s.store.timelines[d].Nodup := by
  refine (good.2 d).2.imp_of_mem fun {j k} hj _ h e => ?_
  have := (good.2 d).1 j hj
  subst e
  simp only [finalEnd] at h
  omega

theorem catchUpCloses_books (members : List (Fin 1024)) {s : State} (good : bookingsLawful s) (d : Fin 64)
    (hm : ∀ n ∈ members, n ∈ s.store.timelines[d]) (hd : members.Nodup) : bookingsLawful (catchUpCloses members s) := by
  induction members generalizing s with
  | nil => exact good
  | cons n rest ih =>
    obtain ⟨d1, d2⟩ := List.nodup_cons.1 hd
    have hn := member_taken good (hm n (by simp))
    simp only [catchUpCloses]
    split
    · refine ih ?_ (fun k hk => ?_) d2
      · split
        · exact closeOnAir_books n _ true false good hn (by simp)
        · exact closeMissed_books n _ good hn
      · have e := left_member (st := s.store) (hm k (List.mem_cons_of_mem _ hk)) (n := n) (fun e => d1 (e ▸ hk))
        have e2 : (if slotOnAir s.store.slots[n] then closeOnAir n (nowMinute s) true false s
            else closeMissed n (nowMinute s) s).store.timelines = (leftStore n s.store).timelines := by
          split
          · simp only [closeOnAir, if_true, settleClose_timelines, beginClose_store]
          · simp only [closeMissed, settleClose_timelines, leaveTimeline_store]
        rw [e2]; exact e
    · exact good

theorem catchUpStart_books (d : Fin 64) {s : State} (good : bookingsLawful s) :
    bookingsLawful (catchUpStart d s) := by
  simp only [catchUpStart]
  split
  · exact good
  · rename_i n h
    split
    · exact activate_books n _ _ _ good (head_taken good h)
    · exact good

theorem catchUpPhase_books (d : Fin 64) {s : State} (good : bookingsLawful s) :
    bookingsLawful (catchUpPhase d s) := by
  simp only [catchUpPhase]
  split
  · exact good
  · rename_i n h
    split
    · exact enterOverrun_books n good (head_taken good h)
    · exact good

theorem catchUp_books {s : State} (good : bookingsLawful s) : bookingsLawful (catchUp s) :=
  foldl_closed (fun t d ht => catchUpPhase_books d (catchUpStart_books d
    (catchUpCloses_books t.store.timelines[d] ht d (fun _ h => h) (once ht.1 d)))) _ good

theorem enterRunning_books {s : State} (good : bookingsLawful s) : bookingsLawful (enterRunning s) := by
  simp only [enterRunning]
  exact takeEntry_books (catchUp_books (books_same good (by simp)))

/-! ### Ticks, boundaries and the link -/

theorem countMeters_books (e : EndedSecond) {s : State} (good : bookingsLawful s) :
    bookingsLawful (countMeters e s) := by
  have hh : heldSlots (countMeters e s).store = heldSlots s.store := by
    simp only [heldSlots, countMeters, List.map_map]
    rfl
  have ho : outstanding (countMeters e s) = outstanding s := rfl
  refine ⟨?_, ?_⟩
  · rw [timelinesLawful_iff, hh, ho]
    exact (timelinesLawful_iff s).1 good.1
  · obtain ⟨⟨a1, a2, a3⟩, a4, a5⟩ := (accesses_iff s).1 good.2
    exact (accesses_iff _).2 ⟨⟨a1, a2, fun k hk => by rw [hh, ho]; exact a3 k hk⟩, a4, a5⟩

theorem handTick_books (order : TickOrder) (e : EndedSecond) {s : State} (good : bookingsLawful s) :
    bookingsLawful (handTick order e s) := by
  simp only [handTick]
  exact countMeters_books e (books_same good (by simp))

theorem owedTick_books (order : TickOrder) (ended : BitVec 32) {s : State} (good : bookingsLawful s) :
    bookingsLawful (owedTick order ended s) := by
  simp only [owedTick]
  exact books_same (handTick_books order (owedSecond ended s) good) (by simp)

theorem boundaryAfterTick_books (minute : BitVec 32) (clockSet : Bool) (swapAfter recheckAfter : Nat) {s : State}
    (good : bookingsLawful s) : bookingsLawful (boundaryAfterTick minute clockSet swapAfter recheckAfter s) := by
  simp only [boundaryAfterTick]
  exact books_same (boundaryCounted_books minute.toNat swapAfter recheckAfter
    (s := rollTime minute clockSet (setRollover .none s)) (books_same good (by simp))) (by simp)

theorem takeBoundary_books (swapAfter recheckAfter : Nat) {s : State} (good : bookingsLawful s) :
    bookingsLawful (takeBoundary swapAfter recheckAfter s) := by
  simp only [takeBoundary]
  split
  · exact boundaryAfterTick_books _ _ _ _ good
  · split
    · exact boundaryUncounted_books _ _ (books_same good (by simp))
    · exact good
  all_goals exact good

theorem minuteBoundary_books (early : TickOrder) (boundary : Bool) (swapAfter recheckAfter : Nat) {s : State}
    (good : bookingsLawful s) : bookingsLawful (minuteBoundary early boundary swapAfter recheckAfter s) := by
  simp only [minuteBoundary]
  have g : bookingsLawful (if tickAwaited s.clock = true then ticksAhead early s else s) := by
    split
    · exact books_same good (by simp)
    · exact good
  split
  · exact takeBoundary_books _ _ g
  · exact g

theorem settleBoundary_books {s : State} (good : bookingsLawful s) : bookingsLawful (settleBoundary s) := by
  simp only [settleBoundary]
  split
  · exact boundaryAfterTick_books _ _ _ _ good
  all_goals exact good

theorem completeSecond_books (ahead : Bool) {s : State} (good : bookingsLawful s) : bookingsLawful (completeSecond ahead s) :=
  books_same good (by simp)

theorem secondTick_books (order : TickOrder) {s : State} (good : bookingsLawful s) :
    bookingsLawful (secondTick order s) := by
  have g := settleBoundary_books good
  simp only [secondTick]
  split
  · rename_i ended _
    exact books_same (owedTick_books order ended g) (by simp)
  · exact books_same g (by simp)
  all_goals exact completeSecond_books _ (handTick_books order _ g)

theorem changeReference_books (c : Clock) {s : State} (good : bookingsLawful s) :
    bookingsLawful (changeReference c s) := books_same good (by simp)

theorem secrefPulse_books (instant : Nat) (order : TickOrder) {s : State} (good : bookingsLawful s) :
    bookingsLawful (secrefPulse instant order s) := by
  simp only [secrefPulse, pulseFreeRun]
  split
  · exact secondTick_books _ (books_same good ⟨rfl, rfl, rfl⟩)
  · split
    · exact books_same good ⟨rfl, rfl, rfl⟩
    · exact secondTick_books _ (changeReference_books _ good)

theorem secrefTimeout_books (order : TickOrder) {s : State} (good : bookingsLawful s) :
    bookingsLawful (secrefTimeout order s) := by
  simp only [secrefTimeout]
  split
  · exact secondTick_books _ (changeReference_books _ good)
  · exact good

theorem ownTick_books (order : TickOrder) {s : State} (good : bookingsLawful s) :
    bookingsLawful (ownTick order s) := by
  simp only [ownTick]
  split
  · exact secondTick_books _ (books_same good ⟨rfl, rfl, rfl⟩)
  all_goals exact good

theorem startCommand_books {s : State} (good : bookingsLawful s) : bookingsLawful (startCommand s) := by
  simp only [startCommand]
  split
  · exact books_same good (by simp)
  · simp only [startHeld]
    split
    · exact enterRunning_books (books_same good (by simp))
    · exact books_same good (by simp)
  · simp only [startRunning]
    split
    · exact takeEntry_books (books_same good (by simp))
    · exact good

theorem haltCommand_books {s : State} (good : bookingsLawful s) : bookingsLawful (haltCommand s) :=
  books_same good (by simp)

theorem takeBusFault_books {s : State} (good : bookingsLawful s) : bookingsLawful (takeBusFault s) :=
  books_stays good (takeBusFault_stays s)

theorem busFaultAt_books (after : Nat) {s : State} (good : bookingsLawful s) :
    bookingsLawful (busFaultAt after s) := by
  simp only [busFaultAt]
  split
  · exact takeBusFault_books good
  · split
    · exact books_same good ⟨rfl, rfl, rfl⟩
    · exact good

theorem headerTaken_books (h : Header) {s : State} (good : bookingsLawful s) : bookingsLawful (headerTaken h s) := by
  simp only [headerTaken]
  split
  · exact books_same good (by simp)
  · refine books_stays ?_ (sendWrite_stays _ _)
    exact ⟨good.1, good.2⟩

theorem headerReadComplete_books (bytes : Vector Byte 80) {s : State} (good : bookingsLawful s) :
    bookingsLawful (headerReadComplete bytes s) := by
  simp only [headerReadComplete]
  split
  · exact headerTaken_books _ good
  · exact good

theorem identityWriteComplete_books {s : State} (good : bookingsLawful s) :
    bookingsLawful (identityWriteComplete s) := by
  simp only [identityWriteComplete]
  split
  · exact enterRunning_books (books_same good (by simp))
  · exact good

theorem entryRead_books (bytes : Vector Byte 24) {s : State} (good : bookingsLawful s) :
    bookingsLawful (entryRead bytes s) := by
  simp only [entryRead]
  split
  · rename_i h
    refine books_kept good (none_of_unit good fun o e => by simp [h.1] at e) ?_
    simp only [examineEntry]
    (repeat' split) <;> first | exact report_kept _ _ _ s | exact .inl ⟨rfl, rfl, rfl, rfl⟩
  · exact good

theorem orderEndWrite_books (value : Word) {s : State} (good : bookingsLawful s) :
    bookingsLawful (orderEndWrite value s) := by
  simp only [orderEndWrite]
  exact takeEntry_books (books_congr good rfl rfl rfl rfl)

theorem pageComplete_books {s : State} (good : bookingsLawful s) : bookingsLawful (pageComplete s) := by
  simp only [pageComplete]
  split
  · rename_i ws _
    have g : bookingsLawful (issueAll ws s) := books_stays good (issueAll_stays ws s)
    split
    · exact books_same g (by simp)
    · exact g
  · exact good

theorem abandonPage_books (issued : Nat) {s : State} (good : bookingsLawful s) :
    bookingsLawful (abandonPage issued s) := by
  simp only [abandonPage]
  split
  · rename_i ws _
    exact books_same (books_stays good (issueAll_stays (ws.take (min issued (ws.length - 1))) s)) (by simp)
  · exact good

/-! ### Orders -/

/-- An order that its owning block reports at once. -/
theorem finish_books (outcome : OutcomeCode) (result : List Byte) {s : State} (good : bookingsLawful s)
    (h0 : (outstanding s).countP orderAccess = 0) : bookingsLawful (finishOrder outcome result s) :=
  books_kept good h0 (finishOrder_kept outcome result s)

/-- An order that its owning block has taken. -/
theorem queued_of {o : Order} {s : State} (h : s.orders.unit = .acting o .dispatched) :
    (setStage .queued s).orders.unit = .acting o .queued := by
  simp only [setStage, h, setUnit]

theorem setStage_books (stage : Stage) {s : State} (good : bookingsLawful s)
    (h0 : (outstanding s).countP orderAccess = 0) : bookingsLawful (setStage stage s) :=
  books_kept good h0 (setStage_kept stage s)

theorem setStage_outstanding (stage : Stage) (s : State) : outstanding (setStage stage s) = outstanding s := by
  simp [outstanding]

/-- An order that its owning block has taken has one access go behind those outstanding, after writes. -/
theorem submit_order (accesses : List Access) {o : Order} {s : State} {g : List Access} (h : law g s)
    (h0 : (outstanding s ++ g).countP orderAccess = 0) (h1 : accesses.countP orderAccess ≤ 1)
    (hc : closings accesses = []) (hw : noWrites accesses) (hu : s.orders.unit = .acting o .queued)
    (hr : ∀ n : Fin 1024, .recordRead n ∈ accesses →
      s.store.slots[n].state = .free ∧ n ∉ heldSlots s.store ++ closings (outstanding s ++ g)) :
    law g (submit accesses s) ∧ tidy (submit accesses s) :=
  submit_law _ (law_add h hc (.inr ⟨h1, h0, o, hu⟩) hr hw)

/-- Writes and one report go behind the accesses outstanding. -/
theorem submitReport_law (ws : List HostWrite) (outcome : OutcomeCode) (result : List Byte) {o : Order} {s : State}
    {g : List Access} (h : law g s) (h0 : (outstanding s ++ g).countP orderAccess = 0)
    (hu : s.orders.unit = .acting o .queued) :
    law g (submit (ws.map .write ++ [.report outcome result]) s) ∧
      tidy (submit (ws.map .write ++ [.report outcome result]) s) ∧
      (quiet s → quiet (submit (ws.map .write ++ [.report outcome result]) s)) := by
  have hp : ∀ a ∈ ws.map Access.write ++ [.report outcome result], plain a := fun a ha => by
    rcases List.mem_append.1 ha with ha | ha
    · obtain ⟨w, -, rfl⟩ := List.mem_map.1 ha; exact .inl ⟨w, rfl⟩
    · exact .inr ⟨outcome, result, List.mem_singleton.1 ha⟩
  obtain ⟨h1, h2, h3⟩ := plain_facts hp
  rw [← and_assoc]
  refine ⟨submit_order (o := o) _ h h0 ?_ h1 h3 hu fun n hn => absurd hn (h2 n), submit_quiet hp⟩
  rw [List.countP_append]
  have e : (ws.map Access.write).countP orderAccess = 0 := by
    rw [List.countP_eq_zero]
    intro a ha
    obtain ⟨w, -, rfl⟩ := List.mem_map.1 ha
    simp [orderAccess]
  rw [e]; simp [List.countP_cons]; split <;> omega

theorem bookOrder_books {o o' : Order} {s : State} (good : bookingsLawful s)
    (hu : s.orders.unit = .acting o' .dispatched) : bookingsLawful (bookOrder o s) := by
  have h0 := none_of_unit good (by simp [hu])
  have gq := setStage_books .queued good h0
  simp only [bookOrder]
  split
  · exact finish_books _ _ good h0
  · rename_i n _
    (repeat' split)
    · exact good
    · rename_i hc hf
      refine (bookings_law _).2 (submit_order (o := o') (g := []) _ ((bookings_law _).1 gq).1
        (by rw [List.append_nil, setStage_outstanding]; exact h0) ?_ rfl (fun r k => by simp) (queued_of hu) fun k hk => ?_)
      · simp [List.countP_cons, orderAccess]
      · simp only [List.mem_singleton, Access.recordRead.injEq] at hk
        subst hk
        have hc2 := (closing_iff k s).1 (by simpa using hc)
        rw [List.append_nil, setStage_outstanding]
        simp only [setStage_keeps]
        exact ⟨hf, hc2⟩
    · exact finish_books _ _ good h0

theorem cancelOrder_books {o o' : Order} {s : State} (good : bookingsLawful s)
    (hu : s.orders.unit = .acting o' .dispatched) : bookingsLawful (cancelOrder o s) := by
  have h0 := none_of_unit good (by simp [hu])
  have gq := setStage_books .queued good h0
  have hq : (outstanding (setStage .queued s)).countP orderAccess = 0 := by rw [setStage_outstanding]; exact h0
  have h1 : (outstanding (setStage .queued s)).countP orderAccess = 0 ∧
      ∃ o, (setStage .queued s).orders.unit = .acting o .queued := ⟨hq, o', queued_of hu⟩
  simp only [cancelOrder]
  split
  · exact finish_books _ _ good h0
  · rename_i n _
    split
    · exact good
    · split
      · exact finish_books _ _ good h0
      · rename_i hs
        have hn : (setStage .queued s).store.slots[n].state ≠ .free := by simp only [setStage_keeps]; simp only [hs]; simp
        obtain ⟨l1, l2⟩ := left_law (t := leaveTimeline n (setStage .queued s)) gq n rfl (by simp) (by simp)
        have hr := noRead (t := leaveTimeline n (setStage .queued s)) gq hn (by simp [outstanding])
        simp only [cancelAccepted]
        split
        · exact settleClose_books _ n _ true l1 hr l2 fun _ => h1
        · exact settleClose_books _ n _ true l1 hr l2 fun _ => h1
      · rename_i hs
        exact closeOnAir_books n _ true true gq (by simp only [setStage_keeps]; simp only [hs]; simp) fun _ _ => h1
      · rename_i hs
        exact closeOnAir_books n _ true true gq (by simp only [setStage_keeps]; simp only [hs]; simp) fun _ _ => h1

/-- The member after n, where n stands once. -/
theorem nextMember_split (n : Fin 1024) (before after : List (Fin 1024)) (h : n ∉ before) :
    nextMember n (before ++ n :: after) = after.head? := by
  induction before with
  | nil => simp [nextMember]
  | cons k rest ih =>
    rw [List.mem_cons, not_or] at h
    rw [List.cons_append, nextMember, if_neg (Ne.symm h.1), ih h.2]

/-- A member stands in its timeline once. -/
theorem not_before {s : State} (good : timelinesLawful s) {n : Fin 1024} {d : Fin 64} {before after : List (Fin 1024)}
    (e : s.store.timelines[d] = before ++ n :: after) : n ∉ before := by
  intro hm
  have hp := (good.2 d).2
  have hd := (good.2 d).1 n (by rw [e]; simp)
  rw [e, List.pairwise_append] at hp
  have := hp.2.2 n hm n (by simp)
  simp only [finalEnd] at this
  omega

/-- R59: the grant ends at the latest where the next member begins. -/
theorem grant_clear {s : State} (good : timelinesLawful s) (n : Fin 1024) (minutes : Nat) {d : Fin 64}
    {before after : List (Fin 1024)} (e : s.store.timelines[d] = before ++ n :: after) :
    ∀ k ∈ after, finalEnd s.store.slots[n] + grantOf n minutes s ≤ s.store.slots[k].start := by
  have hd : s.store.slots[n].port = d := ((good.1 d n).1 (by rw [e]; simp)).2.1
  have hnext : nextMember n s.store.timelines[s.store.slots[n].port] = after.head? := by
    have e2 : s.store.timelines[s.store.slots[n].port] = before ++ n :: after := by simp only [hd, e]
    rw [e2]; exact nextMember_split n before after (not_before good e)
  have clear := clear_behind good n d before after e
  cases after with
  | nil => simp
  | cons j rest =>
    have hg : grantOf n minutes s ≤ s.store.slots[j].start - finalEnd s.store.slots[n] := by
      simp only [grantOf, gapAfter, hnext, List.head?_cons]
      omega
    have hj := clear j (by simp)
    have hp := (good.2 d).2
    rw [e, List.pairwise_append] at hp
    have hp2 := (List.pairwise_cons.1 (List.pairwise_cons.1 hp.2.1).2).1
    have hdj := (good.2 d).1 j (by rw [e]; simp)
    intro k hk
    rcases List.mem_cons.1 hk with rfl | hk
    · omega
    · have h2 := hp2 k hk
      simp only [finalEnd] at h2 hg hj ⊢
      omega

theorem extendOrder_books {o o' : Order} {s : State} (good : bookingsLawful s)
    (hu : s.orders.unit = .acting o' .dispatched) : bookingsLawful (extendOrder o s) := by
  have h0 := none_of_unit good (by simp [hu])
  simp only [extendOrder]
  split
  · exact finish_books _ _ good h0
  · rename_i n _
    (repeat' split)
    · exact finish_books _ _ good h0
    · exact good
    · exact finish_books _ _ good h0
    · simp only [grantExtension]
      split
      · exact finish_books _ _ good h0
      · have gq := setStage_books .queued good h0
        have hq : (outstanding (setStage .queued s)).countP orderAccess = 0 := by rw [setStage_outstanding]; exact h0
        have g : bookingsLawful (setSlot n (extendedSlot s.store.slots[n] (grantOf n o.b.toNat s)) (setStage .queued s)) := by
          refine slot_books gq n (extendedSlot s.store.slots[n] (grantOf n o.b.toNat s))
            (by simp only [setStage_keeps, extendedSlot]) (by simp only [setStage_keeps, extendedSlot])
            (by simp only [setStage_keeps, extendedSlot])
            (by simp only [setStage_keeps, extendedSlot]) ?_ rfl rfl rfl rfl
          · simp only [setStage_keeps]
            intro d before after e k hk
            have := grant_clear good.1 n o.b.toNat e k hk
            simp only [extendedSlot, finalEnd] at this ⊢
            omega
        obtain ⟨l1, -⟩ := (bookings_law _).1 g
        have e := submitReport_law (g := []) (o := o')
          [recordField s n 28 2 (extendedSlot s.store.slots[n] (grantOf n o.b.toNat s)).extension]
          (if grantOf n o.b.toNat s < o.b.toNat then .clamped else .ok)
          (extendResult (extendedSlot s.store.slots[n] (grantOf n o.b.toNat s)) (grantOf n o.b.toNat s)) l1
          (by rw [List.append_nil]; exact hq) (queued_of hu)
        exact (bookings_law _).2 ⟨e.1, e.2.1⟩

theorem setLegOrder_books {o o' : Order} {s : State} (good : bookingsLawful s)
    (hu : s.orders.unit = .acting o' .dispatched) : bookingsLawful (setLegOrder o s) := by
  have h0 := none_of_unit good (by simp [hu])
  simp only [setLegOrder]
  split
  · exact finish_books _ _ good h0
  · rename_i n _
    (repeat' split) <;> try first | exact finish_books _ _ good h0 | exact good
    rename_i mode _ _ _ _
    simp only [storeLegMode]
    have g : bookingsLawful (setSlot n { s.store.slots[n] with legMode := mode } s) :=
      slot_books good n { s.store.slots[n] with legMode := mode } Iff.rfl rfl rfl rfl
        (clear_behind good.1 n) rfl rfl rfl rfl
    split
    · exact finish_books _ _ (books_same g (by simp)) (by simpa [outstanding] using h0)
    · exact finish_books _ _ g h0

/-- An order whose owning block changes no booking and no access. -/
theorem plain_books {s t : State} (good : bookingsLawful s) (h0 : (outstanding s).countP orderAccess = 0)
    (outcome : OutcomeCode) (result : List Byte) (h : t.store = s.store ∧ t.tickets = s.tickets ∧ t.orders = s.orders) :
    bookingsLawful (finishOrder outcome result t) :=
  finish_books _ _ (books_same good h) (by rw [outstanding, h.2.1]; exact h0)

theorem switchOrder_books {o o' : Order} {s : State} (good : bookingsLawful s)
    (hu : s.orders.unit = .acting o' .dispatched) : bookingsLawful (switchOrder o s) := by
  have h0 := none_of_unit good (by simp [hu])
  simp only [switchOrder, lodgeSwitch]
  (repeat' split) <;> exact finish_books _ _ good h0

theorem setPortOrder_books {o o' : Order} {s : State} (good : bookingsLawful s)
    (hu : s.orders.unit = .acting o' .dispatched) : bookingsLawful (setPortOrder o s) := by
  have h0 := none_of_unit good (by simp [hu])
  simp only [setPortOrder, applySetPort]
  (repeat' split) <;> first | exact good | exact finish_books _ _ good h0 | exact plain_books good h0 _ _ (by simp)

theorem readPortOrder_books {o o' : Order} {s : State} (good : bookingsLawful s)
    (hu : s.orders.unit = .acting o' .dispatched) : bookingsLawful (readPortOrder o s) := by
  have h0 := none_of_unit good (by simp [hu])
  simp only [readPortOrder]
  (repeat' split) <;> exact finish_books _ _ good h0

theorem loadTariffOrder_books {o o' : Order} {s : State} (good : bookingsLawful s)
    (hu : s.orders.unit = .acting o' .dispatched) : bookingsLawful (loadTariffOrder o s) := by
  have h0 := none_of_unit good (by simp [hu])
  simp only [loadTariffOrder, readSegment]
  (repeat' split) <;> first
    | exact finish_books _ _ good h0
    | exact books_kept good h0 (setStage_kept _ s)
    | exact books_kept good h0 (kept_trans (kept_of_stays (issueRead_stays _ _ s)) (setStage_kept _ _))

theorem tariffSegmentRead_books (bytes : Vector Byte 240) {s : State} (good : bookingsLawful s) :
    bookingsLawful (tariffSegmentRead bytes s) := by
  simp only [tariffSegmentRead]
  split
  · rename_i hu
    have h0 := none_of_unit good (by simp [hu])
    simp only [segmentTaken]
    split
    · exact finish_books _ _ good h0
    · exact plain_books good h0 _ _ (by simp)
  all_goals exact good

theorem latchAccountOrder_books {o o' : Order} {s : State} (good : bookingsLawful s)
    (hu : s.orders.unit = .acting o' .dispatched) : bookingsLawful (latchAccountOrder o s) := by
  have h0 := none_of_unit good (by simp [hu])
  simp only [latchAccountOrder]
  (repeat' split) <;> first | exact good | exact finish_books _ _ good h0

theorem closeMatchOrder_books {o o' : Order} {s : State} (good : bookingsLawful s)
    (hu : s.orders.unit = .acting o' .dispatched) : bookingsLawful (closeMatchOrder o s) := by
  have h0 := none_of_unit good (by simp [hu])
  simp only [closeMatchOrder]
  (repeat' split)
  · exact good
  · exact finish_books _ _ good h0
  · exact finish_books _ _ good h0
  · refine (bookings_law _).2 (submit_order (o := o') (g := []) _ ((bookings_law _).1 (setStage_books .queued good h0)).1
      (by rw [List.append_nil, setStage_outstanding]; exact h0) ?_ rfl (fun r k => by simp) (queued_of hu) fun k hk => ?_)
    · simp [List.countP_cons, orderAccess]
    · simp at hk

theorem setClockOrder_books {o o' : Order} {s : State} (good : bookingsLawful s)
    (hu : s.orders.unit = .acting o' .dispatched) : bookingsLawful (setClockOrder o s) := by
  have h0 := none_of_unit good (by simp [hu])
  simp only [setClockOrder]
  (repeat' split)
  · exact good
  · exact finish_books _ _ good h0
  · exact plain_books good h0 _ _ (by simp)

theorem ownerTakes_books {o o' : Order} {s : State} (good : bookingsLawful s)
    (hu : s.orders.unit = .acting o' .dispatched) : bookingsLawful (ownerTakes o s) := by
  simp only [ownerTakes]
  split
  · exact bookOrder_books good hu
  · exact cancelOrder_books good hu
  · exact extendOrder_books good hu
  · exact switchOrder_books good hu
  · exact setLegOrder_books good hu
  · exact setPortOrder_books good hu
  · exact readPortOrder_books good hu
  · exact loadTariffOrder_books good hu
  · exact latchAccountOrder_books good hu
  · exact closeMatchOrder_books good hu
  · exact setClockOrder_books good hu

/-- An order reaches its owning block only while none of its accesses is outstanding. -/
theorem takeOrder_books {act : Order → State → State} (code : OrderCode)
    (h : ∀ (o o' : Order) (s : State), bookingsLawful s → s.orders.unit = .acting o' .dispatched → bookingsLawful (act o s))
    {s : State} (good : bookingsLawful s) : bookingsLawful (takeOrder code act s) := by
  simp only [takeOrder]
  split
  · rename_i o e
    simp only [orderFor] at e
    split at e
    · rename_i o' hu; exact h o o' s good hu
    all_goals simp at e
  · exact good


/-! ### BOOK -/

/-- The first check that fails is one that fails, and none fails where no code is found. -/
theorem checks_none {α : Type} {l : List (Bool × α)} (h : (l.find? (·.1)).map (·.2) = none) :
    ∀ c ∈ l, c.1 = false := by
  intro c hc
  simp only [Option.map_eq_none_iff, List.find?_eq_none] at h
  simpa using h c hc

theorem acceptBooking_store (n : Fin 1024) (b : Slot) (s : State) :
    (acceptBooking n b s).store = { s.store with
      slots := s.store.slots.set n b
      timelines := s.store.timelines.set b.port
        (insertByStart (s.store.slots.set n b) n s.store.timelines[b.port]) } := by
  have e : (s.store.slots.set n b)[n] = b := by rw [getFin_set, if_pos rfl]
  simp only [acceptBooking, joinTimeline, setTimeline, setSlot, setMeter, openBooking_keeps, e]

/-- R45, R46: an accepted booking finds its place in the timeline of its port. -/
theorem acceptBooking_law (n : Fin 1024) (r : BookRecord) {s : State} {g : List Access} (h : law g s)
    (h0 : (outstanding s ++ g).countP orderAccess = 0) (hf : s.store.slots[n].state = .free)
    (hh : n ∉ heldSlots s.store ++ closings (outstanding s ++ g)) (hc : bookRefusal r s = none) :
    law g (acceptBooking n (slotOfRecord r) s) := by
  have hall := checks_none hc
  have hdur : ¬(r.duration = 0 ∨ 720 < r.duration) := by
    have := hall (decide (r.duration = 0 ∨ 720 < r.duration), .badDuration) (by simp [bookChecks])
    simpa using this
  have hconf : conflictOf (slotOfRecord r) s = none := by
    have := hall ((conflictOf (slotOfRecord r) s).isSome, .conflict) (by simp [bookChecks])
    simpa using this
  have st := acceptBooking_store n (slotOfRecord r) s
  have ho : outstanding (acceptBooking n (slotOfRecord r) s) = outstanding s := by simp [outstanding]
  have eh : heldSlots (acceptBooking n (slotOfRecord r) s).store = heldSlots s.store := by rw [st]; rfl
  refine ⟨?_, .inr ⟨by rw [ho]; omega, fun k => by rw [ho] at k; omega, fun k hk => ?_⟩, by rw [ho]; exact h.2.2⟩
  · rw [eh, ho, st]
    refine storeLaw_join h.1 n _ hf hh (by simp [slotOfRecord]) ?_ fun k hk => ?_
    · simp only [slotOfRecord]; omega
    · simp only [conflictOf, List.find?_eq_none] at hconf
      simpa using hconf k hk
  · rw [ho] at hk
    have := recordRead_counts hk
    omega

theorem bookFromRecord_law (n : Fin 1024) (r : BookRecord) {o : Order} {s : State} {g : List Access} (h : law g s)
    (h0 : (outstanding s ++ g).countP orderAccess = 0) (hu : s.orders.unit = .acting o .queued)
    (hf : s.store.slots[n].state = .free) (hh : n ∉ heldSlots s.store ++ closings (outstanding s ++ g)) :
    law g (bookFromRecord n r s) ∧ tidy (bookFromRecord n r s) ∧ (quiet s → quiet (bookFromRecord n r s)) := by
  simp only [bookFromRecord]
  split
  · exact submitReport_law (o := o) [] _ _ h h0 hu
  · split
    · exact submitReport_law (o := o) _ _ _ h h0 hu
    · rename_i hc
      have e : outstanding (acceptBooking n (slotOfRecord r) s) = outstanding s := by simp [outstanding]
      have k := submitReport_law (o := o) (acceptWrites n s) .ok (acceptResult n (slotOfRecord r))
        (acceptBooking_law n r h h0 hf hh hc) (by rw [e]; exact h0) (by simpa using hu)
      exact ⟨k.1, k.2.1, fun q => k.2.2 (by simpa [quiet] using q)⟩

/-- What holds once the read of the record for BOOK is answered. -/
theorem record_facts {s : State} {g : List Access} (h : law g s) {n : Fin 1024}
    (hi : s.tickets.inFlight = some (.recordRead n)) :
    law g (setInFlight none s) ∧ (outstanding (setInFlight none s) ++ g).countP orderAccess = 0 ∧
      (∃ o, s.orders.unit = .acting o .queued) ∧ s.store.slots[n].state = .free ∧
      n ∉ heldSlots s.store ++ closings (outstanding (setInFlight none s) ++ g) := by
  have h1 := setInFlight_law h hi
  have a : accessLaw s (outstanding s ++ g) := h.2.1.resolve_left fun c => by simp [c.2.1] at hi
  have e : outstanding s ++ g = .recordRead n :: (outstanding (setInFlight none s) ++ g) := by
    simp [outstanding, setInFlight, hi]
  obtain ⟨a1, a2, a3⟩ := a
  rw [e] at a1 a2 a3
  obtain ⟨f, m⟩ := a3 n (by simp)
  rw [List.countP_cons] at a1 a2
  refine ⟨law_tail h1 rfl, ?_, a2 (by simp [orderAccess]), f, ?_⟩
  · simp only [orderAccess, if_true] at a1; omega
  · have e2 : closings (.recordRead n :: (outstanding (setInFlight none s) ++ g)) =
        closings (outstanding (setInFlight none s) ++ g) := List.filterMap_cons_none rfl
    rw [e2] at m; exact m

theorem bookRecordRead_books (bytes : Vector Byte 20) {s : State} (good : bookingsLawful s) :
    bookingsLawful (bookRecordRead bytes s) := by
  obtain ⟨h, -⟩ := (bookings_law s).1 good
  simp only [bookRecordRead]
  split
  · rename_i n hi
    obtain ⟨h1, h2, ⟨o, h3⟩, h4, h5⟩ := record_facts h hi
    have k := bookFromRecord_law n (bookRecordOf bytes) h1 h2 h3 h4 h5
    exact (bookings_law _).2 ⟨k.1, k.2.1⟩
  all_goals exact good

/-! ### The soft reset -/

/-- In a quiet state only the holds matter. -/
theorem books_quiet {s : State} (h : storeLaw s.store (heldSlots s.store)) (q : quiet s) : bookingsLawful s := by
  have e : outstanding s = [] := by simp [outstanding, q.1, q.2]
  refine (bookings_law s).2 ⟨⟨?_, .inr ?_, ?_⟩, fun _ => q.2⟩ <;> rw [e]
  · rw [show closings ([] ++ []) = [] from rfl, List.append_nil]; exact h
  · exact accessLaw_nil s
  · intro r k; simp

/-- The law of a quiet state is that of its bookings. -/
theorem law_quiet {s : State} (h : law [] s) (q : quiet s) : bookingsLawful s := (bookings_law s).2 ⟨h, fun _ => q.2⟩

theorem completeInFlight_law (cut : CutOff) {s : State} {g : List Access} (h : law g s) (hw : s.tickets.waiting = []) :
    law g (completeInFlight cut s) ∧ quiet (completeInFlight cut s) := by
  have q0 : quiet (setInFlight none s) := ⟨rfl, hw⟩
  simp only [completeInFlight]
  split
  · rename_i r hi
    split
    · obtain ⟨k1, k2⟩ := raiseRead_law r (cut.slotState == 0) h hi
      exact ⟨k1, k2 hw⟩
    · have k := loseTicket_stays (some r.ticket.matchNumber) (setInFlight none s)
      refine ⟨endClose_law r (law_stays (setInFlight_law h hi) k) rfl, ?_⟩
      simpa [quiet, dropAccess, loseRaise] using quiet_kept q0 (kept_of_stays k)
  · rename_i n hi
    obtain ⟨h1, h2, ⟨o, h3⟩, h4, h5⟩ := record_facts h hi
    have k := bookFromRecord_law n (bookRecordOf cut.record) h1 h2 h3 h4 h5
    exact ⟨k.1, k.2.2 q0⟩
  · rename_i k minute hi
    split
    · obtain ⟨k1, k2⟩ := totalRead_law k minute (cut.slotState == 0) h hi
      exact ⟨k1, k2 hw⟩
    · have m := stays_trans (s := setInFlight none s) (t := raiseNumber (setInFlight none s)) (.inl ⟨⟨rfl, rfl, rfl, rfl⟩, rfl⟩)
        (stays_trans (loseTicket_stays none _) (freeAccountSlot_stays k _))
      exact ⟨law_stays (law_tail (setInFlight_law h hi) rfl) m, quiet_kept q0 (kept_of_stays m)⟩
  · rename_i r hi; exact absurd (by simp [outstanding, hi]) (h.2.2 r 0).1
  · rename_i k hi; exact absurd (by simp [outstanding, hi]) (h.2.2 (closeRaise .booking 0 0 false s) k).2
  · rename_i hi
    have k := law_tail (setInFlight_law h hi) rfl
    split
    · exact ⟨law_stays k (unblockRing_stays _), quiet_kept q0 (kept_of_stays (unblockRing_stays _))⟩
    · exact ⟨k, q0⟩
  · rename_i hi; exact ⟨law_tail (setInFlight_law h hi) rfl, q0⟩
  · rename_i hi; exact ⟨law_tail (setInFlight_law h hi) rfl, q0⟩
  · rename_i hi; exact ⟨h, hi, hw⟩

theorem setGate_stays (g : Gate) (s : State) : stays s (setGate g s) := .inl ⟨⟨rfl, rfl, rfl, rfl⟩, rfl⟩

theorem gateNext_stays (a : Access) (s : State) : stays s (gateNext a s) := by
  simp only [gateNext]
  split
  · exact stays_refl s
  · exact setGate_stays _ s

theorem completeNext_law (cut : CutOff) (a : Access) {s : State} {g : List Access} (h : law (a :: g) s) (q : quiet s) :
    law g (completeNext cut a s) ∧ quiet (completeNext cut a s) := by
  obtain ⟨k1, k2⟩ := beginAccess_law a (law_stays h (gateNext_stays a s)) (quiet_kept q (kept_of_stays (gateNext_stays a s)))
  exact completeInFlight_law cut k1 k2

theorem completeRest_law (cut : CutOff) (l : List Access) {s : State} (h : law l s) (q : quiet s) :
    law [] (l.foldl (fun t a => completeNext cut a t) s) ∧ quiet (l.foldl (fun t a => completeNext cut a t) s) := by
  induction l generalizing s with
  | nil => exact ⟨h, q⟩
  | cons a l ih =>
    obtain ⟨k1, k2⟩ := completeNext_law cut a h q
    exact ih k1 k2

theorem completeAccesses_books (cut : CutOff) {s : State} (good : bookingsLawful s) :
    bookingsLawful (completeAccesses cut s) ∧ quiet (completeAccesses cut s) := by
  obtain ⟨h, -⟩ := (bookings_law s).1 good
  have h1 : law s.tickets.waiting (setWaiting [] s) :=
    law_perm h rfl rfl (fun c => ⟨c.1, c.2.1, rfl⟩) (by simp [outstanding, setWaiting])
  simp only [completeAccesses]
  obtain ⟨k1, k2⟩ := completeInFlight_law cut (law_stays h1 (setGate_stays
    (.muteAfter (wholeTicket cut cut.accessIssued (s.tickets.inFlight.any ticketAccess))) _)) (by simp [setGate, setWaiting])
  obtain ⟨j1, j2⟩ := completeRest_law cut s.tickets.waiting k1 k2
  exact ⟨law_quiet j1 j2, j2⟩

theorem completeTick_books (cut : CutOff) {s : State} (good : bookingsLawful s) (q : quiet s) :
    bookingsLawful (completeTick cut s) ∧ quiet (completeTick cut s) := by
  simp only [completeTick]
  split
  · rename_i ended _
    split
    · exact ⟨good, q⟩
    · exact ⟨books_same (owedTick_books cut.order ended good) (by simp), by simpa [quiet] using q⟩
  all_goals exact ⟨good, q⟩

/-- A close inside the part ends the first of those the store is taking. -/
theorem closeInside_law (r : Raise) {s : State} {e : List (Fin 1024)} (h : storeLaw s.store (r.slot :: e)) (q : quiet s) :
    storeLaw (closeInside r s).store e ∧ quiet (closeInside r s) := by
  refine ⟨?_, ?_⟩
  · rw [closeInside_store]
    exact storeLaw_free h (by simp) fun k hk => by simp [hk]
  · have v := closeInside_view r s
    simp only [runView, Prod.mk.injEq] at v
    exact ⟨v.2.2.2.2.2.2.1.trans q.1, v.2.2.2.2.2.2.2.1.trans q.2⟩

/-- A close held that is completed is no more one of those the store is taking. -/
theorem completeHold_law (h : Hold) {s : State} {e : List (Fin 1024)} (k : storeLaw s.store (h.slot :: e)) (q : quiet s) :
    storeLaw (completeHold h s).store e ∧ quiet (completeHold h s) ∧
      (completeHold h s).store.holds = s.store.holds := by
  have m := takeClose_stays (closeRaise .booking h.slot h.closeMinute false s) s
  obtain ⟨k1, k2⟩ := closeInside_law (closeRaise .booking h.slot h.closeMinute false s) (e := e)
    (s := takeClose (closeRaise .booking h.slot h.closeMinute false s) s) (by rw [takeClose_keeps _ s |>.2.2.2.2.2.1]; exact k)
    (quiet_kept q (kept_of_stays m))
  exact ⟨k1, k2, by simp [completeHold, closeInside_store]⟩

theorem completeHolds_books {s : State} (good : bookingsLawful s) (q : quiet s) :
    bookingsLawful (completeHolds s) ∧ quiet (completeHolds s) := by
  have l1 := (timelinesLawful_iff s).1 good.1
  rw [show outstanding s = [] by simp [outstanding, q.1, q.2], show closings [] = [] from rfl, List.append_nil] at l1
  have key : ∀ (l : List Hold) (t : State), storeLaw t.store (l.map (·.slot)) → quiet t → t.store.holds = [] →
      storeLaw (l.foldl (fun t h => completeHold h t) t).store [] ∧
        quiet (l.foldl (fun t h => completeHold h t) t) ∧
        (l.foldl (fun t h => completeHold h t) t).store.holds = [] := by
    intro l
    induction l with
    | nil => exact fun t h1 h2 h3 => ⟨h1, h2, h3⟩
    | cons h rest ih =>
      intro t h1 h2 h3
      obtain ⟨k1, k2, k3⟩ := completeHold_law h (e := rest.map (·.slot)) h1 h2
      exact ih _ k1 k2 (k3.trans h3)
  obtain ⟨k1, k2, k3⟩ := key s.store.holds { s with store := { s.store with holds := [] } } l1 q rfl
  refine ⟨books_quiet ?_ k2, k2⟩
  rw [show heldSlots (completeHolds s).store = [] by rw [heldSlots, completeHolds, k3]; rfl]
  exact k1

theorem beginAccess_waiting (a : Access) {s : State} (q : quiet s) : (beginAccess a s).tickets.waiting = [] := by
  have wait : ∀ {t : State}, kept s t → t.tickets.waiting = [] := fun k => (quiet_kept q k).2
  have read : ∀ (addr : Address) (n : Nat) {t : State}, t.tickets.waiting = s.tickets.waiting →
      (setInFlight (some a) (issueRead addr n t)).tickets.waiting = [] :=
    fun addr n t e => by simp [setInFlight, e, q.2]
  cases a <;> simp only [beginAccess] <;> (repeat' split) <;> first
    | exact q.2
    | exact read _ _ rfl
    | exact wait (kept_of_stays (issue_stays _ s))
    | exact wait (finishOrder_kept _ _ s)
    | exact wait (setStage_kept _ s)
    | exact (lostClose_quiet _ (quiet_kept q (kept_of_stays (stays_trans (raiseNumber_stays s) (loseTicket_stays _ _))))).2

/-- The one access that an order hands over leaves nothing behind it. -/
theorem submitOne_waiting (a : Access) {s : State} (q : quiet s) : (submit [a] s).tickets.waiting = [] := by
  simp only [submit, pumpWaiting, q.2, List.nil_append, pump]
  rw [if_neg (by simp [q.1])]
  exact beginAccess_waiting a (s := { s with tickets := { s.tickets with waiting := [] } }) ⟨q.1, rfl⟩

theorem settleClose_waiting (kind : TicketKind) (n : Fin 1024) (minute : Nat) (forOrder : Bool) {s : State} (q : quiet s) :
    (settleClose kind n minute forOrder s).tickets.waiting = [] :=
  submitOne_waiting _ (quiet_kept q (kept_of_stays (takeClose_stays _ s)))

/-- An order that its owning block takes in a quiet state leaves at most one access, in flight. -/
theorem ownerTakes_waiting (o : Order) {s : State} (q : quiet s) : (ownerTakes o s).tickets.waiting = [] := by
  have fin : ∀ (outcome : OutcomeCode) (result : List Byte) {t : State}, quiet t →
      (finishOrder outcome result t).tickets.waiting = [] :=
    fun outcome result t k => (quiet_kept k (finishOrder_kept outcome result t)).2
  have qq : quiet (setStage .queued s) := quiet_kept q (setStage_kept _ s)
  have same : ∀ {t : State}, t.tickets = s.tickets → quiet t := fun e => by simpa only [quiet, e] using q
  simp only [ownerTakes]
  split
  · simp only [bookOrder]
    (repeat' split) <;> first | exact fin _ _ q | exact q.2 | exact submitOne_waiting _ qq
  · simp only [cancelOrder, cancelAccepted, closeOnAir, if_true]
    have qw : s.tickets.waiting = [] := q.2
    (repeat' split) <;> with_reducible first
      | exact fin _ _ q | exact qw
      | exact settleClose_waiting _ _ _ _ (by simpa [quiet] using qq)
  · simp only [extendOrder, grantExtension]
    (repeat' split) <;> first
      | exact fin _ _ q | exact q.2
      | (refine (submit_quiet (fun a ha => ?_) ?_).2
         · simp only [List.mem_cons, List.not_mem_nil, or_false] at ha
           rcases ha with rfl | rfl
           · exact .inl ⟨_, rfl⟩
           · exact .inr ⟨_, _, rfl⟩
         · simpa [quiet] using qq)
  · simp only [switchOrder, lodgeSwitch]
    (repeat' split) <;> exact fin _ _ (same (by simp))
  · simp only [setLegOrder, storeLegMode]
    (repeat' split) <;> first | exact q.2 | exact fin _ _ (same (by simp))
  · simp only [setPortOrder, applySetPort]
    (repeat' split) <;> first | exact q.2 | exact fin _ _ (same (by simp))
  · simp only [readPortOrder]
    (repeat' split) <;> exact fin _ _ (same (by simp))
  · simp only [loadTariffOrder, readSegment]
    (repeat' split) <;> first | exact fin _ _ q | simp [q.2]
  · simp only [latchAccountOrder]
    (repeat' split) <;> first | exact q.2 | exact fin _ _ q
  · simp only [closeMatchOrder]
    (repeat' split) <;> first | exact q.2 | exact fin _ _ q | exact submitOne_waiting _ qq
  · simp only [setClockOrder]
    (repeat' split) <;> first | exact q.2 | exact fin _ _ (same (by simp))

theorem entryRead_quiet (bytes : Vector Byte 24) {s : State} (q : quiet s) : quiet (entryRead bytes s) := by
  simp only [entryRead, examineEntry]
  (repeat' split) <;> first | exact quiet_kept q (report_kept _ _ _ s) | exact q

theorem completeDispatched_books (cut : CutOff) {s : State} (good : bookingsLawful s) (q : quiet s) :
    bookingsLawful (completeDispatched cut s) ∧ quiet (completeDispatched cut s) := by
  simp only [completeDispatched]
  split
  · rename_i o hu
    have g1 := ownerTakes_books (o := o) (o' := o) (s := setGate (.muteAfter (wholeTicket cut cut.orderIssued (ticketOrder o))) s)
      (books_stays good (setGate_stays _ s)) hu
    obtain ⟨k1, k2⟩ := completeInFlight_law cut ((bookings_law _).1 g1).1 (ownerTakes_waiting o q)
    exact ⟨law_quiet k1 k2, k2⟩
  all_goals exact ⟨good, q⟩

theorem tariffSegmentRead_quiet (bytes : Vector Byte 240) {s : State} (q : quiet s) : quiet (tariffSegmentRead bytes s) := by
  simp only [tariffSegmentRead, segmentTaken]
  (repeat' split) <;> first
    | exact q
    | exact quiet_kept (s := s) q (finishOrder_kept _ _ s)
    | exact quiet_kept (s := stageTariff _ s) q (finishOrder_kept _ _ _)

theorem completeInside_books (cut : CutOff) {s : State} (good : bookingsLawful s) :
    bookingsLawful (completeInside cut s) ∧ quiet (completeInside cut s) := by
  obtain ⟨g1, q1⟩ := completeAccesses_books cut good
  obtain ⟨g2, q2⟩ := completeTick_books cut g1 q1
  obtain ⟨g3, q3⟩ := completeHolds_books g2 q2
  simp only [completeInside, completeOrder]
  generalize completeHolds (completeTick cut (completeAccesses cut s)) = u at *
  have g4 := books_stays g3 (setGate_stays (.muteAfter cut.orderIssued) u)
  have q4 := quiet_kept q3 (kept_of_stays (setGate_stays (.muteAfter cut.orderIssued) u))
  have e5 : bookingsLawful (completeEntry cut (setGate (.muteAfter cut.orderIssued) u)) ∧
      quiet (completeEntry cut (setGate (.muteAfter cut.orderIssued) u)) := by
    simp only [completeEntry]
    split
    · exact ⟨entryRead_books _ g4, entryRead_quiet _ q4⟩
    · exact ⟨g4, q4⟩
  obtain ⟨g6, q6⟩ := completeDispatched_books cut e5.1 e5.2
  simp only [completeSegment]
  split
  · exact ⟨tariffSegmentRead_books _ g6, tariffSegmentRead_quiet _ q6⟩
  · exact ⟨g6, q6⟩

theorem softReset_books (cut : CutOff) {s : State} (good : bookingsLawful s) : bookingsLawful (softReset cut s) := by
  obtain ⟨g, q⟩ := completeInside_books cut (abandonPage_books cut.pageIssued good)
  simp only [softReset]
  generalize completeInside cut (abandonPage cut.pageIssued s) = u at *
  have l1 := (timelinesLawful_iff u).1 g.1
  rw [show outstanding u = [] by simp [outstanding, q.1, q.2], show closings [] = [] from rfl, List.append_nil] at l1
  refine books_quiet ?_ ?_
  · simp only [settlePage_keeps, latchLeave_keeps, softClear_keeps]
    exact l1
  · simpa [quiet, softClear, clearFloor, softState] using q

/-- After a hard reset the booking store is empty. -/
theorem reset_books {s : State} (hs : s.store = Store.hardReset) (h1 : s.tickets.inFlight = none)
    (h2 : s.tickets.waiting = []) : bookingsLawful s := by
  refine books_quiet ?_ ⟨h1, h2⟩
  simp [storeLaw, hs, Store.hardReset, Slot.hardReset]

theorem resetRelease_books (instant : Nat) {s : State} (good : bookingsLawful s) :
    bookingsLawful (resetRelease instant s) := by
  simp only [resetRelease]
  split
  · exact good
  · exact reset_books (by simp [scheduleOwn, hardReset, State.hardReset])
      (by simp [scheduleOwn, hardReset, State.hardReset, Tickets.hardReset])
      (by simp [scheduleOwn, hardReset, State.hardReset, Tickets.hardReset])

theorem registerWrite_books (r : Register) (enables : BitVec 4) (value : Word) (cut : CutOff) {s : State}
    (good : bookingsLawful s) : bookingsLawful (registerWrite r enables value cut s) := by
  simp only [registerWrite]
  split
  · exact good
  · cases r
    case ctrl =>
      simp only [ctrlWrite, ctrlCommand]
      have g : bookingsLawful (if value.getLsbD 15 then modeWrite (value.extractLsb' 4 2) (value.extractLsb' 8 6) s
          else s) := by
        split
        · exact books_same good (by simp)
        · exact good
      generalize (if value.getLsbD 15 then modeWrite (value.extractLsb' 4 2) (value.extractLsb' 8 6) s else s) = u at *
      (repeat' split) <;> first
        | exact startCommand_books (by assumption) | exact haltCommand_books (by assumption)
        | exact softReset_books _ (by assumption) | assumption
    case areaLo => exact books_same good (by simp)
    case areaHi => exact books_same good (by simp)
    case order => exact orderEndWrite_books value good
    case flags => exact books_same good (by simp)
    case nextAlarm => exact books_same good (by simp)
    all_goals exact good

end Sys2Proof.Machine
end

