-- ==== Sys2Proof/Laws/Store.lean ====
section
/-! SUPPORT. What the operations of the booking store do on a free link, each said once (R53 to R58, R66, R67): a close, an
activation, a phase change, and the work at one timeline and at all of them. -/

namespace Sys2Proof.Machine

/-- The store finds a free link and its bookings lawful. -/
def storeReady (s : State) : Prop := linkFree s ∧ bookingsLawful s

/-- Nothing waits but behind an access in flight. -/
theorem storeReady.tidy {s : State} (h : storeReady s) : s.tickets.inFlight = none → s.tickets.waiting = [] := h.2.2.2.2.2.2

/-! ### What the store's work changes -/

theorem storeWorked_refl (s : State) : storeWorked s s := ⟨rfl, fun _ _ => rfl⟩

theorem storeWorked_trans {s t u : State} (h : storeWorked s t) (k : storeWorked t u) : storeWorked s u := by
  obtain ⟨h1, h2⟩ := h
  obtain ⟨k1, k2⟩ := k
  refine ⟨?_, fun i hi => (k2 i hi).trans (h2 i hi)⟩
  rw [k1, h1]

theorem storeWorked_free {s t : State} (h : storeWorked s t) (k : linkFree s) : linkFree t := by
  obtain ⟨k1, k2, k3⟩ := k
  rw [h.1]
  exact ⟨k1, k2, k3⟩

theorem storeWorked_clock {s t : State} (h : storeWorked s t) : t.clock = s.clock := by rw [h.1]
theorem storeWorked_monitors {s t : State} (h : storeWorked s t) : t.monitors = s.monitors := by rw [h.1]
theorem storeWorked_run {s t : State} (h : storeWorked s t) : t.link.run = s.link.run := by rw [h.1]

/-! ### The source items -/

/-- What the source severities are derived from. -/
theorem sourceSeverity_congr {s t : State} (h1 : t.store.slots = s.store.slots)
    (h2 : t.store.timelines = s.store.timelines) (h3 : t.rows = s.rows) (h4 : t.monitors = s.monitors) (p : Fin 48) :
    sourceSeverity p t = sourceSeverity p s := by
  have e : ∀ d, ownerOf d t = ownerOf d s := fun d => by simp only [ownerOf, h1, h2]
  have e2 : onAirBookings t = onAirBookings s := by simp only [onAirBookings, e]
  simp only [sourceSeverity, healthOf, carriesBooking, legOfBooking, e2, h1, h3, h4]
  rfl

theorem storeWorked_permissions {s t : State} (h : storeWorked s t) : t.link.permissions = s.link.permissions := by rw [h.1]

/-- What the alarm ranking unit has been told stands before and after what changes nothing it looks at. -/
theorem sourcesTold_around {s w v u : State} (h : sourcesTold w v) (ha : w.alarm = s.alarm) (hf : w.link.flags = s.link.flags)
    (ka : u.alarm = v.alarm) (kf : u.link.flags = v.link.flags) (kp : u.link.permissions = v.link.permissions)
    (h1 : u.store.slots = v.store.slots) (h2 : u.store.timelines = v.store.timelines) (h3 : u.rows = v.rows)
    (h4 : u.monitors = v.monitors) : sourcesTold s u := by
  obtain ⟨⟨p1, p2⟩, p3⟩ := h
  have e : alarmLevel u = alarmLevel v := by simp only [alarmLevel, permitted, ka, kp]
  refine ⟨⟨by rw [ka, ← ha]; exact p1, fun i => ⟨fun hi => by rw [ka, ← ha]; exact (p2 i).1 hi, fun p hp => ?_⟩⟩, ?_⟩
  · rw [sourceSeverity_congr h1 h2 h3 h4, ka, ← ha]
    exact (p2 i).2 p hp
  · rw [kf, e, ← hf, p3]

/-- R119, R122, R130: once the source items have been derived they and ALARM follow, and nothing else has changed but traffic. -/
theorem deriveSources_told (s : State) : sourcesTold s (deriveSources s) := by
  have ha : (deriveSources s).alarm = { s.alarm with items := derivedItems s } := by
    simp [deriveSources, setAlarm_eq, withAlarm, withFlags]
  have e : ∀ p, sourceSeverity p (deriveSources s) = sourceSeverity p s :=
    sourceSeverity_congr (by simp) (by simp) (by simp) (by simp)
  refine ⟨⟨by rw [ha], fun i => ⟨fun hi => ?_, fun p hp => ?_⟩⟩, ?_⟩
  · have hlt : ¬i.val < 48 := by omega
    rw [ha, derivedItems, build_getFin, dif_neg hlt]
  · have hq : (⟨i.val, by have := p.isLt; omega⟩ : Fin 48) = p := Fin.ext hp.symm
    have hlt : i.val < 48 := by have := p.isLt; omega
    rw [ha, derivedItems, build_getFin, dif_pos hlt, hq, e]
    rfl
  · simp only [deriveSources, setAlarm_eq, withAlarm, withFlags]
    rfl

theorem deriveSources_worked (s : State) : storeWorked s (deriveSources s) := by
  refine ⟨by simp [deriveSources, setAlarm_eq, withAlarm, withFlags], fun i hi => ?_⟩
  have ha : (deriveSources s).alarm.items = derivedItems s := by
    simp [deriveSources, setAlarm_eq, withAlarm, withFlags]
  have hlt : ¬i.val < 48 := by omega
  rw [ha, derivedItems, build_getFin, dif_neg hlt]

theorem deriveSources_writes (s : State) : hostWrites (deriveSources s) = hostWrites s := by
  simp [deriveSources, setAlarm_eq, hostWrites, withAlarm, withFlags]

theorem deriveSources_log (s : State) : ∃ l, (deriveSources s).link.log = s.link.log ++ l :=
  ⟨_, by simp only [deriveSources, setAlarm_eq, withAlarm, withFlags]; rfl⟩

/-! ### The queue of accesses -/

/-- With an access in flight new ones wait behind it. -/
theorem submit_behind (l : List Access) {s : State} {a : Access} (h : s.tickets.inFlight = some a) :
    submit l s = { s with tickets := { s.tickets with waiting := s.tickets.waiting ++ l } } := by
  simp only [submit, pumpWaiting]
  cases e : s.tickets.waiting ++ l with
  | nil => simp [pump]
  | cons b m => simp [pump, h]

/-- With no access in flight and none waiting the first of the new ones begins. -/
theorem submit_idle (l : List Access) {s : State} (h : s.tickets.waiting = []) : submit l s = pump l s := by
  have e : ({ s with tickets := { s.tickets with waiting := [] } } : State) = s := by rw [← h]
  simp only [submit, pumpWaiting, h, List.nil_append]
  exact congrArg (pump l) e

/-- Writes on a free link go out one after another. -/
theorem pump_writes (ws : List HostWrite) {s : State} (k : linkFree s) (h : s.tickets.inFlight = none) :
    pump (ws.map Access.write) s = logged (ws.map .write) s := by
  induction ws generalizing s with
  | nil => simp [pump]
  | cons w ws ih =>
    have e : beginAccess (.write w) s = logged [.write w] s := issue_open w k.2.1 k.2.2
    have hn : s.tickets.inFlight.isSome = false := by rw [h]; rfl
    simp only [List.map_cons, pump, hn, Bool.false_eq_true, if_false, e]
    rw [ih (s := logged [.write w] s) k h]
    simp

/-- A report leaves the link free and the accesses as they are. -/
theorem reported_free {notify : Bool} {outcome : OutcomeCode} {result : List Byte} {u t : State}
    (h : reported notify outcome result u t) (k : linkFree u) : linkFree t ∧ t.tickets = u.tickets := by
  obtain ⟨-, h⟩ := h
  rw [h]
  refine ⟨⟨k.1, ?_, k.2.2⟩, rfl⟩
  have := k.2.1
  simp only [linkOpen, readsOpen, writesDropped] at this ⊢
  split <;> simp_all

/-- log 9: what the accesses that waited do on a free link, with none in flight. -/
theorem pump_taken (ring : Ring) (l : List Access) {v : State} (k : linkFree v) (hi : v.tickets.inFlight = none)
    (hw : v.tickets.waiting = []) (hr : v.tickets.ring = some ring) : waitingTaken ring l v (pump l v) := by
  induction l generalizing v with
  | nil => rfl
  | cons a l ih =>
    have hro : readsOpen v = true := by
      have := k.2.1; simp only [linkOpen, Bool.and_eq_true] at this; exact this.1
    have hn : v.tickets.inFlight.isSome = false := by rw [hi]; rfl
    have waits : ∀ x : State, x.tickets.inFlight.isSome = true → x.tickets.waiting = [] →
        pump l x = { x with tickets := { x.tickets with waiting := l } } := by
      intro x h1 h2
      cases l with
      | nil => simp only [pump]; rw [← h2]
      | cons b m => simp only [pump, h1, if_true]
    have opened : ∀ (x : State) (a : Address) (n : Nat), x.link = v.link → issueRead a n x = record (.read a n) x := by
      intro x a n h
      have : readsOpen x = true := by simp only [readsOpen, h]; exact hro
      simp only [issueRead, this, if_true]
    simp only [pump, hn, Bool.false_eq_true, if_false]
    cases a with
    | write w =>
      have e : beginAccess (.write w) v = logged [.write w] v := issue_open w k.2.1 k.2.2
      rw [e]
      exact ih (v := logged [.write w] v) k hi hw hr
    | report outcome result =>
      intro o hu
      have rr := finishOrder_reported outcome result hu (by simp) k.2.1 k.2.2
      obtain ⟨f, e⟩ := reported_free rr k
      exact ⟨_, rr, ih f (by rw [e]; exact hi) (by rw [e]; exact hw) (by rw [e]; exact hr)⟩
    | recheck =>
      simp only [waitingTaken, beginAccess, k.2.1, Bool.and_true, opened v _ _ rfl]
      split
      · rw [waits _ rfl (by exact hw)]
        simp [setInFlight, record, ringSlotAddress, hr]
      · exact ih k hi hw hr
    | raise r =>
      simp only [waitingTaken, beginAccess, k.2.1, if_true, opened (raiseNumber v) _ _ rfl]
      rw [waits _ rfl (by exact hw)]
      simp [setInFlight, record, ringSlotAddress, hr, raiseNumber]
    | totalCheck j minute =>
      simp only [waitingTaken, beginAccess, hro, if_true, opened v _ _ rfl]
      rw [waits _ rfl (by exact hw)]
      simp [setInFlight, record, ringSlotAddress, hr]
    | recordRead n =>
      simp only [waitingTaken, beginAccess, hro, if_true, opened v _ _ rfl]
      rw [waits _ rfl (by exact hw)]
      simp [setInFlight, record, recordAddress]
    | closeWrite r => exact ih k hi hw hr
    | totalWrite j => exact ih k hi hw hr

/-- R48: the store issues record writes, or has them wait. -/
theorem submit_writes (ws : List HostWrite) {s : State} (k : linkFree s)
    (h : s.tickets.inFlight = none → s.tickets.waiting = []) :
    recordsWritten ws s (submit (ws.map Access.write) s) ∧ storeWorked s (submit (ws.map Access.write) s) ∧
    (submit (ws.map Access.write) s).store = s.store ∧ (submit (ws.map Access.write) s).rows = s.rows ∧
    (submit (ws.map Access.write) s).tariffs = s.tariffs ∧ alarmStands s (submit (ws.map Access.write) s) ∧
    (submit (ws.map Access.write) s).accounts = s.accounts := by
  cases hf : s.tickets.inFlight with
  | none =>
    rw [submit_idle _ (h hf), pump_writes ws k hf]
    refine ⟨⟨fun _ => ⟨rfl, by simp [hostWrites, logged]⟩, fun e => absurd hf e⟩, ⟨rfl, fun _ _ => rfl⟩, rfl, rfl, rfl,
      ⟨rfl, rfl⟩, rfl⟩
  | some a =>
    rw [submit_behind _ hf]
    exact ⟨⟨fun e => absurd (hf.symm.trans e) (by simp), fun _ => ⟨rfl, rfl⟩⟩, ⟨rfl, fun _ _ => rfl⟩, rfl, rfl, rfl, ⟨rfl, rfl⟩,
      rfl⟩

/-- What is handed over from a state whose tickets stand and whose traffic has only grown is handed over from it. -/
theorem raisingFrom_after {r : Raise} {s v u : State} (h : raisingFrom r v u) (ht : v.tickets = s.tickets)
    (hw : hostWrites v = hostWrites s) (hl : ∃ l, v.link.log = s.link.log ++ l) (ha : v.accounts = s.accounts) :
    raisingFrom r s u := by
  obtain ⟨p1, p0, p2, p3⟩ := h
  have q0 : closeAdded r s u := by simpa only [closeAdded, accountOf, ha] using p0
  refine ⟨p1.trans hw, q0, fun e => ?_, fun e => by rw [p3 (by rw [ht]; exact e), ht]⟩
  obtain ⟨q1, q2⟩ := p2 (by rw [ht]; exact e)
  refine ⟨by rw [q1, ht], fun ring hr => ?_⟩
  obtain ⟨l, l', q⟩ := q2 ring (by rw [ht]; exact hr)
  obtain ⟨m, hm⟩ := hl
  exact ⟨m ++ l, l', by rw [q, hm, ht]; simp⟩

/-- Record writes from a state whose accesses and writes stand are record writes from it. -/
theorem recordsWritten_after {ws : List HostWrite} {s v u : State} (h : recordsWritten ws v u) (ht : v.tickets = s.tickets)
    (hw : hostWrites v = hostWrites s) : recordsWritten ws s u := by
  simpa only [recordsWritten, ht, hw] using h

/-- R155: a close is added to its account, and nothing else changes. -/
theorem takeClose_added (r : Raise) (s : State) :
    closeAdded r s (takeClose r s) ∧ takeClose r s = { s with accounts := (takeClose r s).accounts } := by
  simp only [closeAdded, takeClose, changeAccount]
  cases e : accountOf r.ticket.matchNumber s with
  | none => exact ⟨⟨fun k h => absurd h (by simp), fun _ => rfl⟩, rfl⟩
  | some j =>
    refine ⟨⟨fun k h => ?_, fun h => absurd h (by simp)⟩, rfl⟩
    cases h
    rfl

/-- R149: a close is handed over. -/
theorem raise_handed (r : Raise) {s : State} (k : linkFree s) (h : s.tickets.inFlight = none → s.tickets.waiting = []) :
    raisingFrom r s (submit [.raise r] (takeClose r s)) ∧ storeWorked s (submit [.raise r] (takeClose r s)) ∧
    (submit [.raise r] (takeClose r s)).store = s.store ∧ (submit [.raise r] (takeClose r s)).rows = s.rows ∧
    (submit [.raise r] (takeClose r s)).tariffs = s.tariffs ∧ alarmStands s (submit [.raise r] (takeClose r s)) := by
  obtain ⟨c, e0⟩ := takeClose_added r s
  generalize ha : (takeClose r s).accounts = a at e0
  rw [e0]
  have c : ∀ t : State, t.accounts = a → closeAdded r s t := fun t ht => by
    simpa only [closeAdded, ht, ← ha] using c
  cases hf : s.tickets.inFlight with
  | none =>
    have hr : readsOpen s = true := by
      have := k.2.1; simp only [linkOpen, Bool.and_eq_true] at this; exact this.1
    have e : submit [.raise r] { s with accounts := a } = setInFlight (some (.raise r))
        (logged [.read (ringSlotAddress s) 1] (raiseNumber { s with accounts := a })) := by
      rw [submit_idle _ (by exact h hf)]
      have h1 : linkOpen { s with accounts := a } = true := k.2.1
      have h2 : readsOpen (raiseNumber { s with accounts := a }) = true := hr
      simp only [pump, hf, Option.isSome_none, Bool.false_eq_true, if_false, beginAccess, h1, if_true, issueRead, h2]
      rfl
    rw [e]
    refine ⟨⟨by simp [hostWrites, setInFlight, logged, writesOf, raiseNumber], c _ rfl,
      fun _ => ⟨rfl, fun ring hring => ⟨[], [], ?_⟩⟩, fun e => absurd hf e⟩, ⟨rfl, fun _ _ => rfl⟩, rfl, rfl, rfl, rfl, rfl⟩
    simp [setInFlight, logged, ringSlotAddress, hring, raiseNumber]
  | some x =>
    rw [submit_behind _ (by exact hf)]
    exact ⟨⟨rfl, c _ rfl, fun e => absurd (hf.symm.trans e) (by simp), fun _ => rfl⟩, ⟨rfl, fun _ _ => rfl⟩, rfl, rfl, rfl,
      rfl, rfl⟩

/-! ### One booking -/

/-- The members of a timeline, head first, and what they are. -/
structure headAt (d : Fin 64) (n : Fin 1024) (rest : List (Fin 1024)) (s : State) : Prop where
  members : s.store.timelines[d] = n :: rest
  once : n ∉ rest
  port : s.store.slots[n].port = d
  taken : s.store.slots[n].state ≠ .free

theorem headAt_of {s : State} (good : bookingsLawful s) {d : Fin 64} {n : Fin 1024} {rest : List (Fin 1024)}
    (h : s.store.timelines[d] = n :: rest) : headAt d n rest s := by
  have hn := (good.1.1 d n).1 (by rw [h]; exact List.mem_cons_self ..)
  have ho := Machine.once good.1 d
  rw [h] at ho
  exact ⟨h, (List.nodup_cons.1 ho).1, hn.2.1, hn.1⟩

/-- R45: the head leaves its timeline. -/
theorem leave_head {d : Fin 64} {n : Fin 1024} {rest : List (Fin 1024)} {s : State} (h : headAt d n rest s) :
    leaveTimeline n s = { s with store := { s.store with timelines := s.store.timelines.set d rest } } := by
  have e : (n :: rest).filter (fun k => decide (k ≠ n)) = rest := by
    rw [List.filter_cons]
    simp only [ne_eq, not_true_eq_false, decide_false, Bool.false_eq_true, if_false]
    exact List.filter_eq_self.2 fun k hk => by
      have : k ≠ n := fun e => h.once (e ▸ hk)
      simpa using this
  simp only [leaveTimeline, setTimeline, h.port, h.members, e]

theorem successor_iff (d : Fin 64) (minute : Nat) (rest : List (Fin 1024)) (s : State) :
    successorActivates d minute { s with store := { s.store with timelines := s.store.timelines.set d rest } } =
      rest.head?.any fun k => decide (s.store.slots[k].state = .accepted ∧ s.store.slots[k].start = minute) := by
  simp only [successorActivates, Fin.getElem_fin, Vector.getElem_set_self]
  cases rest <;> rfl

/-- R56, R57: the first part of an on-air close. -/
theorem beginClose_head (minute : Nat) {d : Fin 64} {n : Fin 1024} {rest : List (Fin 1024)} {s : State}
    (h : headAt d n rest s) :
    let u := beginClose n minute s
    storeWorked s u ∧ u.store = { s.store with timelines := s.store.timelines.set d rest } ∧
    u.rows = rowsAfterClose minute d rest s ∧ u.tariffs = s.tariffs ∧ sourcesTold s u ∧ u.tickets = s.tickets ∧
    hostWrites u = hostWrites s ∧ (∃ l, u.link.log = s.link.log ++ l) ∧ u.accounts = s.accounts := by
  simp only [beginClose, handToAlarms, leave_head h, h.port, successor_iff]
  refine ⟨storeWorked_trans ?_ (deriveSources_worked _), ?_, ?_, ?_,
    sourcesTold_around (deriveSources_told _) ?_ ?_ rfl rfl rfl rfl rfl rfl rfl, ?_, ?_, ?_, ?_⟩
  · split <;> exact ⟨rfl, fun _ _ => rfl⟩
  · simp only [deriveSources_keeps]; split <;> rfl
  · simp only [deriveSources_keeps, rowsAfterClose]
    split
    · rfl
    · simp only [request, setRow, requestRow, blackAsked]
      congr 3
      exact propext eq_comm
  · simp only [deriveSources_keeps]; split <;> rfl
  · split <;> rfl
  · split <;> rfl
  · simp only [deriveSources_keeps]; split <;> rfl
  · rw [deriveSources_writes]; split <;> rfl
  · obtain ⟨l, e⟩ := deriveSources_log (if rest.head?.any fun k =>
      decide (s.store.slots[k].state = .accepted ∧ s.store.slots[k].start = minute) then
        ({ s with store := { s.store with timelines := s.store.timelines.set d rest } } : State)
      else request d .black .close { s with store := { s.store with timelines := s.store.timelines.set d rest } })
    refine ⟨l, e.trans ?_⟩
    split <;> rfl
  · simp only [deriveSources_keeps]; split <;> rfl

/-- R149, R150, R160: the ticket of an on-air close, rated. -/
theorem closeTicket_onAir (n : Fin 1024) {s v : State} (h1 : v.store.slots = s.store.slots) (h2 : v.tariffs = s.tariffs) :
    onAirTicket n s (closeTicket .booking n v) := by
  refine ⟨⟨?_, ?_, ?_, rfl, ?_⟩, rfl, ?_, ?_, ?_, fun table ht => ?_⟩ <;> simp only [closeTicket, h1, h2, decide_true, if_true]
  have e : ratingTable (bandedMeter n v) v.tariffs = some table := by rw [h2]; simpa [ratingTable, bandedMeter, h2] using ht
  simp only [chargeOf, e]
  simp only [h1, bandedMeter, h2, withStartBand]
  congr 2
  simp only [activationBand, activationBandOf, currentBand, h2]
  rfl

/-- R56, R57, R149: an on-air close is handed over. -/
theorem closeOnAir_head (minute : Nat) {d : Fin 64} {n : Fin 1024} {rest : List (Fin 1024)} {s : State}
    (h : headAt d n rest s) (k : storeReady s) : closedOnAir minute d n rest s (closeOnAir n minute true false s) := by
  obtain ⟨b1, b2, b3, b4, b5, b6, b7, b8, b9⟩ := beginClose_head minute h
  simp only [closeOnAir, if_true, settleClose]
  generalize beginClose n minute s = v at *
  obtain ⟨r1, r2, r3, r4, r5, r6⟩ := raise_handed (closeRaise .booking n minute false v) (storeWorked_free b1 k.1)
    (by rw [b6]; exact k.tidy)
  refine ⟨storeWorked_trans b1 r2, r3.trans b2, r4.trans b3, r5.trans b4,
    sourcesTold_around b5 rfl rfl r6.1 r6.2 (storeWorked_permissions r2) (by rw [r3]) (by rw [r3]) r4 (storeWorked_monitors r2),
    closeRaise .booking n minute false v, raisingFrom_after r1 b6 b7 b8 b9, rfl, rfl, rfl,
    closeTicket_onAir n (by rw [b2]) b4, ?_⟩
  simp only [meterFields, closeRaise, b4, and_self]

/-- R58, R141: an on-air close ahead of its tick is held. -/
theorem holdClose_head (minute : Nat) {d : Fin 64} {n : Fin 1024} {rest : List (Fin 1024)} {s : State}
    (h : headAt d n rest s) : closeHeld minute d n rest s (closeOnAir n minute false false s) := by
  obtain ⟨b1, b2, b3, b4, b5, b6, b7, -, b9⟩ := beginClose_head minute h
  simp only [closeOnAir, Bool.false_eq_true, if_false, holdClose]
  generalize beginClose n minute s = v at *
  refine ⟨storeWorked_trans b1 ⟨rfl, fun _ _ => rfl⟩, by rw [b2], b3, b4,
    sourcesTold_around b5 rfl rfl rfl rfl rfl rfl rfl rfl rfl, b6, b9, b7⟩

/-- R66: a close as MISSED is handed over. -/
theorem closeMissed_head (minute : Nat) {d : Fin 64} {n : Fin 1024} {rest : List (Fin 1024)} {s : State}
    (h : headAt d n rest s) (k : storeReady s) : closedMissed minute d n rest s (closeMissed n minute s) := by
  simp only [closeMissed, leave_head h, settleClose]
  generalize hv : ({ s with store := { s.store with timelines := s.store.timelines.set d rest } } : State) = v
  have ht : v.tickets = s.tickets := by rw [← hv]
  have hf : linkFree v := by rw [← hv]; exact k.1
  obtain ⟨r1, r2, r3, r4, r5, r6⟩ := raise_handed (closeRaise .missed n minute false v) hf (by rw [ht]; exact k.tidy)
  subst hv
  exact ⟨storeWorked_trans ⟨rfl, fun _ _ => rfl⟩ r2, r3, r4, r5, r6, closeRaise .missed n minute false _,
    raisingFrom_after r1 rfl rfl ⟨[], by simp⟩ rfl, rfl, rfl, rfl, ⟨rfl, rfl, rfl, rfl, rfl⟩, rfl, rfl, rfl, rfl, rfl⟩

/-- R54, R71, R109: the row of its port once a booking has activated. -/
theorem activation_row (n : Fin 1024) {b : Slot} (t : State) (hb : t.store.slots[n] = b) :
    (markOwned b.port (applyActivation n t)).rows = t.rows.set b.port (rowActivated b t t.rows[b.port]) := by
  subst hb
  simp [markOwned, applyActivation, request, setRow, requestRow, rowActivated, healthOf]
  rfl

/-- R54: a booking activates. -/
theorem activate_head (minute : Nat) (first : Stamp) (band : Option Band) {d : Fin 64} {n : Fin 1024}
    {rest : List (Fin 1024)} {s : State} (h : headAt d n rest s) (k : storeReady s) :
    startedOnAir minute first band d n s (activate n minute first band s) := by
  simp only [activate]
  generalize hv : handToAlarms (markOwned s.store.slots[n].port (applyActivation n (setMeter n
    { s.tariffs.meters[n] with firstCounted := some first, startBand := band }
    (setSlot n { s.store.slots[n] with state := .active, activation := some minute } s)))) = v
  generalize hw : markOwned s.store.slots[n].port (applyActivation n (setMeter n
    { s.tariffs.meters[n] with firstCounted := some first, startBand := band }
    (setSlot n { s.store.slots[n] with state := .active, activation := some minute } s))) = w at hv
  have hd : deriveSources w = v := hv
  have w1 : storeWorked s w := by rw [← hw]; exact ⟨rfl, fun _ _ => rfl⟩
  have w2 : w.store = { s.store with slots := s.store.slots.set n { s.store.slots[n] with
    state := .active
    activation := some minute } } := by rw [← hw]; rfl
  have w3 : w.tariffs = { s.tariffs with meters := s.tariffs.meters.set n { s.tariffs.meters[n] with
    firstCounted := some first
    startBand := band } } := by rw [← hw]; rfl
  have w4 : w.rows = s.rows.set d (rowActivated s.store.slots[n] s s.rows[d]) := by
    rw [← hw]
    rw [activation_row n _ (b := { s.store.slots[n] with state := .active, activation := some minute })
      (by simp [setMeter, setSlot])]
    simp only [h.port]
    rfl
  have w5 : w.tickets = s.tickets := by rw [← hw]; rfl
  have w6 : hostWrites w = hostWrites s := by rw [← hw]; rfl
  have d1 := deriveSources_worked w
  have d2 := deriveSources_told w
  have w8 : w.alarm = s.alarm ∧ w.link.flags = s.link.flags := by rw [← hw]; exact ⟨rfl, rfl⟩
  have d3 := deriveSources_writes w
  have w7 : w.accounts = s.accounts := by rw [← hw]; rfl
  obtain ⟨e1, e2, e3, e4, e5⟩ : v.store = w.store ∧ v.rows = w.rows ∧ v.tariffs = w.tariffs ∧ v.tickets = w.tickets ∧
      v.accounts = w.accounts := by
    rw [← hd]; simp
  rw [hd] at d1 d2 d3
  have g := storeWorked_trans w1 d1
  obtain ⟨r1, r2, r3, r4, r5, r6, r7⟩ := submit_writes [recordField v n 20 4 minute, recordField v n 0 1 recordOnAir]
    (storeWorked_free g k.1) (by rw [e4, w5]; exact k.tidy)
  have eb : [recordField v n 20 4 minute, recordField v n 0 1 recordOnAir] =
      [recordWrite s n 20 (le 4 minute), recordWrite s n 0 [4]] := by
    simp only [recordField, recordAddress, recordWrite, e1, w2]
    rfl
  have r1 := (congrArg (recordsWritten · v (submit
    ([recordField v n 20 4 minute, recordField v n 0 1 recordOnAir].map Access.write) v)) eb).mp r1
  exact ⟨storeWorked_trans g r2, by rw [← w2, ← e1]; exact r3, by rw [← w3, ← e3]; exact r5, by rw [← w4, ← e2]; exact r4,
    r7.trans (e5.trans w7),
    sourcesTold_around d2 w8.1 w8.2 r6.1 r6.2 (storeWorked_permissions r2) (congrArg Store.slots r3)
      (congrArg Store.timelines r3) r4 (storeWorked_monitors r2),
    recordsWritten_after r1 (e4.trans w5) (d3.trans w6)⟩

/-- R55: a booking enters OVERRUN. -/
theorem enterOverrun_head (n : Fin 1024) {s : State} (k : storeReady s) : overrunEntered n s (enterOverrun n s) := by
  simp only [enterOverrun]
  obtain ⟨r1, r2, r3, r4, r5, r6, r7⟩ := submit_writes (s := setSlot n { s.store.slots[n] with state := .overrun } s)
    [recordField s n 0 1 recordOverrun] k.1 k.tidy
  exact ⟨storeWorked_trans ⟨rfl, fun _ _ => rfl⟩ r2, r3, r4, r5, r7, r6, recordsWritten_after r1 rfl rfl⟩

/-! ### One timeline, and all of them -/

theorem headOf_cons {d : Fin 64} {n : Fin 1024} {rest : List (Fin 1024)} {s : State} (h : s.store.timelines[d] = n :: rest) :
    headOf d s = some n := by simp only [headOf, h, List.head?_cons]

theorem headOf_nil {d : Fin 64} {s : State} (h : s.store.timelines[d] = []) : headOf d s = none := by
  simp only [headOf, h, List.head?_nil]

theorem raisingFrom_recheck {r : Raise} {s u : State} (h : raisingFrom r s u) : u.tickets.recheckIn = s.tickets.recheckIn := by
  by_cases e : s.tickets.inFlight = none
  · rw [(h.2.2.1 e).1]
  · rw [h.2.2.2 e]

theorem recordsWritten_recheck {ws : List HostWrite} {s u : State} (h : recordsWritten ws s u) :
    u.tickets.recheckIn = s.tickets.recheckIn := by
  by_cases e : s.tickets.inFlight = none
  · rw [(h.1 e).1]
  · rw [(h.2 e).2]

/-- A free link, lawful bookings and no re-check to be made. -/
def boundaryReady (s : State) : Prop := storeReady s ∧ s.tickets.recheckIn = none

/-- R53: an on-air head closes at the boundary. -/
theorem boundaryClose_head (minute : Nat) (counted : Bool) {d : Fin 64} {n : Fin 1024} {rest : List (Fin 1024)} {s : State}
    (h : headAt d n rest s) (k : boundaryReady s) :
    (counted = true → closedOnAir minute d n rest s (boundaryClose n minute counted s)) ∧
    (counted = false → closeHeld minute d n rest s (boundaryClose n minute counted s)) ∧
    boundaryReady (boundaryClose n minute counted s) := by
  have hb := closeOnAir_books n minute counted false k.1.2 h.taken (by simp)
  cases counted with
  | true =>
    have c := closeOnAir_head minute h k.1
    have hr : (closeOnAir n minute true false s).tickets.recheckIn = none := by
      obtain ⟨-, -, -, -, -, r, c1, -⟩ := c
      rw [raisingFrom_recheck c1, k.2]
    have e : boundaryClose n minute true s = closeOnAir n minute true false s := by
      simp only [boundaryClose, if_true, countRecheck, hr]
    rw [e]
    exact ⟨fun _ => c, fun x => absurd x (by simp), ⟨storeWorked_free c.1 k.1.1, hb⟩, hr⟩
  | false =>
    have c := holdClose_head minute h
    have e : boundaryClose n minute false s = closeOnAir n minute false false s := by simp [boundaryClose]
    rw [e]
    refine ⟨fun x => absurd x (by simp), fun _ => c, ⟨storeWorked_free c.1 k.1.1, hb⟩, ?_⟩
    obtain ⟨-, -, -, -, -, c6, -⟩ := c
    rw [c6, k.2]

theorem activate_ready (minute : Nat) (first : Stamp) (band : Option Band) {d : Fin 64} {n : Fin 1024}
    {rest : List (Fin 1024)} {s : State} (h : headAt d n rest s) (k : storeReady s) :
    storeReady (activate n minute first band s) ∧
    (activate n minute first band s).tickets.recheckIn = s.tickets.recheckIn :=
  have c := activate_head minute first band h k
  ⟨⟨storeWorked_free c.1 k.1, activate_books n minute first band k.2 h.taken⟩, recordsWritten_recheck c.2.2.2.2.2.2⟩

theorem enterOverrun_ready {d : Fin 64} {n : Fin 1024} {rest : List (Fin 1024)} {s : State} (h : headAt d n rest s)
    (k : storeReady s) :
    storeReady (enterOverrun n s) ∧ (enterOverrun n s).tickets.recheckIn = s.tickets.recheckIn :=
  have c := enterOverrun_head n k
  ⟨⟨storeWorked_free c.1 k.1, enterOverrun_books n k.2 h.taken⟩, recordsWritten_recheck c.2.2.2.2.2.2⟩

/-- R53: the store brings one timeline up to the boundary. -/
theorem boundaryTimeline_at (minute : Nat) (counted swapped : Bool) (d : Fin 64) {s : State} (k : boundaryReady s) :
    timelineAtBoundary minute counted swapped d s (boundaryTimeline minute counted swapped d s) ∧
    boundaryReady (boundaryTimeline minute counted swapped d s) := by
  have h1 : ∀ v, boundaryReady v →
      (match v.store.timelines[d] with
        | [] => boundaryStart minute swapped d v = v
        | n :: _ =>
          if v.store.slots[n].state = .accepted ∧ v.store.slots[n].start = minute then
            startedOnAir minute { minute := minute, second := 0 } (if swapped then bandNow minute v else none) d n v
              (boundaryStart minute swapped d v)
          else boundaryStart minute swapped d v = v) ∧ boundaryReady (boundaryStart minute swapped d v) := by
    intro v kv
    cases e : v.store.timelines[d] with
    | nil => simp only [boundaryStart, headOf_nil e]; exact ⟨trivial, kv⟩
    | cons n rest =>
      have hn := headAt_of kv.1.2 e
      simp only [boundaryStart, headOf_cons e]
      split
      · obtain ⟨a1, a2⟩ := activate_ready minute { minute := minute, second := 0 }
          (if swapped then currentBand minute v else none) hn kv.1
        exact ⟨activate_head minute _ _ hn kv.1, a1, a2.trans kv.2⟩
      · exact ⟨rfl, kv⟩
  have h2 : (match s.store.timelines[d] with
        | [] => boundaryHead minute counted d s = s
        | n :: rest =>
          let b := s.store.slots[n]
          if slotOnAir b = true ∧ finalEnd b = minute then
            (counted = true → closedOnAir minute d n rest s (boundaryHead minute counted d s)) ∧
            (counted = false → closeHeld minute d n rest s (boundaryHead minute counted d s))
          else if b.state = .active ∧ bookedEnd b = minute ∧ 0 < b.extension then
            overrunEntered n s (boundaryHead minute counted d s)
          else boundaryHead minute counted d s = s) ∧ boundaryReady (boundaryHead minute counted d s) := by
    cases e : s.store.timelines[d] with
    | nil => simp only [boundaryHead, headOf_nil e]; exact ⟨trivial, k⟩
    | cons n rest =>
      have hn := headAt_of k.1.2 e
      simp only [boundaryHead, headOf_cons e]
      split
      · obtain ⟨c1, c2, c3⟩ := boundaryClose_head minute counted hn k
        exact ⟨⟨c1, c2⟩, c3⟩
      · split
        · obtain ⟨a1, a2⟩ := enterOverrun_ready hn k.1
          exact ⟨enterOverrun_head n k.1, a1, a2.trans k.2⟩
        · exact ⟨rfl, k⟩
  obtain ⟨g1, g2⟩ := h1 _ h2.2
  exact ⟨⟨boundaryHead minute counted d s, h2.1, g1⟩, g2⟩

/-- R53: the store takes the timelines of the ports in their order. -/
theorem storeTimelines_at (minute : Nat) (counted swapped : Bool) (ports : List (Fin 64)) {s : State} (k : boundaryReady s) :
    portsAtBoundary minute counted swapped ports s (storeTimelines true minute counted swapped ports s) ∧
    boundaryReady (storeTimelines true minute counted swapped ports s) := by
  simp only [storeTimelines, if_true]
  induction ports generalizing s with
  | nil => exact ⟨rfl, k⟩
  | cons d rest ih =>
    obtain ⟨a1, a2⟩ := boundaryTimeline_at minute counted swapped d k
    obtain ⟨b1, b2⟩ := ih a2
    exact ⟨⟨_, a1, b1⟩, b2⟩

/-- R140: the first second that a booking activated late counts. -/
theorem lateFirst_eq (c : Clock) : lateFirst c = lateSecond c := by
  rcases h : c.rollover with _ | ⟨m, _ | _⟩ | _ | _ <;> simp [lateFirst, lateSecond, h, stampAfter]

/-- R67: the catch-up at a head whose final end is still to come. -/
theorem headCaughtUp_of {d : Fin 64} {n : Fin 1024} {rest : List (Fin 1024)} {s : State} (h : headAt d n rest s)
    (k : storeReady s) :
    headCaughtUp d n s (catchUpPhase d (catchUpStart d s)) ∧ storeReady (catchUpPhase d (catchUpStart d s)) := by
  have hp : ∀ v, storeReady v → headAt d n rest v → bookedEnd v.store.slots[n] = bookedEnd s.store.slots[n] →
      v.clock = s.clock →
      (v.store.slots[n].state = .active ∧ bookedEnd s.store.slots[n] ≤ s.clock.minute.toNat →
        overrunEntered n v (catchUpPhase d v)) ∧
      (¬(v.store.slots[n].state = .active ∧ bookedEnd s.store.slots[n] ≤ s.clock.minute.toNat) → catchUpPhase d v = v) ∧
      storeReady (catchUpPhase d v) := by
    intro v kv hv e ec
    simp only [catchUpPhase, headOf_cons hv.members, e, nowMinute, ec]
    split
    · exact ⟨fun _ => enterOverrun_head n kv, fun x => absurd ‹_› x, (enterOverrun_ready hv kv).1⟩
    · exact ⟨fun x => absurd x ‹_›, fun _ => rfl, kv⟩
  by_cases hl : s.store.slots[n].state = .accepted ∧ s.store.slots[n].start ≤ nowMinute s
  · have c := activate_head (nowMinute s) (lateFirst s.clock) (currentBand (nowMinute s) s) h k
    have r := (activate_ready (nowMinute s) (lateFirst s.clock) (currentBand (nowMinute s) s) h k).1
    have e : catchUpStart d s = activate n (nowMinute s) (lateFirst s.clock) (currentBand (nowMinute s) s) s := by
      simp only [catchUpStart, headOf_cons h.members, hl, and_self, if_true]
    rw [e]
    generalize activate n (nowMinute s) (lateFirst s.clock) (currentBand (nowMinute s) s) s = v at *
    have hv : headAt d n rest v := headAt_of r.2 (by rw [c.2.1]; exact h.members)
    obtain ⟨p1, p2, p3⟩ := hp v r hv (by rw [c.2.1]; simp [bookedEnd]) (storeWorked_clock c.1)
    exact ⟨⟨v, fun _ => lateFirst_eq s.clock ▸ c, fun x => absurd hl x, p1, p2⟩, p3⟩
  · have e : catchUpStart d s = s := by
      simp only [catchUpStart, headOf_cons h.members, hl, if_false]
    rw [e]
    obtain ⟨p1, p2, p3⟩ := hp s k h rfl rfl
    exact ⟨⟨s, fun x => absurd x hl, fun _ => rfl, p1, p2⟩, p3⟩

/-- R66: the closes of the catch-up at one timeline, and then its head. -/
theorem catchUpTimeline_members (d : Fin 64) (members : List (Fin 1024)) {s : State} (h : s.store.timelines[d] = members)
    (k : storeReady s) :
    timelineCaughtUp d members s (catchUpPhase d (catchUpStart d (catchUpCloses members s))) ∧
    storeReady (catchUpPhase d (catchUpStart d (catchUpCloses members s))) := by
  induction members generalizing s with
  | nil =>
    have e : catchUpPhase d (catchUpStart d (catchUpCloses [] s)) = s := by
      simp only [catchUpCloses, catchUpStart, catchUpPhase, headOf_nil h]
    rw [e]
    exact ⟨rfl, k⟩
  | cons n rest ih =>
    have hn := headAt_of k.2 h
    simp only [timelineCaughtUp, catchUpCloses]
    by_cases hf : finalEnd s.store.slots[n] ≤ nowMinute s
    · have hf' : finalEnd s.store.slots[n] ≤ s.clock.minute.toNat := hf
      simp only [hf, hf', if_true]
      have step : ∀ v, storeReady v → v.store = { s.store with timelines := s.store.timelines.set d rest } →
          timelineCaughtUp d rest v (catchUpPhase d (catchUpStart d (catchUpCloses rest v))) ∧
          storeReady (catchUpPhase d (catchUpStart d (catchUpCloses rest v))) := fun v kv e =>
        ih (by rw [e]; simp) kv
      by_cases ha : slotOnAir s.store.slots[n] = true
      · have c := closeOnAir_head (nowMinute s) hn k
        have kv : storeReady (closeOnAir n (nowMinute s) true false s) :=
          ⟨storeWorked_free c.1 k.1, closeOnAir_books n _ true false k.2 hn.taken (by simp)⟩
        obtain ⟨g1, g2⟩ := step _ kv c.2.1
        simp only [ha, if_true]
        exact ⟨⟨_, fun x => absurd ha (by simp only [slotOnAir, x]; simp), fun _ => c, g1⟩, g2⟩
      · have c := closeMissed_head (nowMinute s) hn k
        have kv : storeReady (closeMissed n (nowMinute s) s) :=
          ⟨storeWorked_free c.1 k.1, closeMissed_books n _ k.2 hn.taken⟩
        obtain ⟨g1, g2⟩ := step _ kv c.2.1
        simp only [ha, Bool.false_eq_true, if_false]
        refine ⟨⟨_, fun _ => c, fun x => absurd ?_ ha, g1⟩, g2⟩
        have := hn.taken
        simp only [slotOnAir]
        cases hs : s.store.slots[n].state <;> simp_all
    · have hf' : ¬finalEnd s.store.slots[n] ≤ s.clock.minute.toNat := hf
      simp only [hf, hf', if_false]
      exact headCaughtUp_of hn k

/-- R66: the catch-up takes the timelines of the ports in their order. -/
theorem catchUpPorts_at (ports : List (Fin 64)) {s : State} (k : storeReady s) :
    portsCaughtUp ports s (ports.foldl (fun t d => catchUpTimeline d t) s) ∧
    storeReady (ports.foldl (fun t d => catchUpTimeline d t) s) := by
  induction ports generalizing s with
  | nil => exact ⟨rfl, k⟩
  | cons d rest ih =>
    obtain ⟨a1, a2⟩ := catchUpTimeline_members d _ rfl k
    obtain ⟨b1, b2⟩ := ih a2
    exact ⟨⟨_, a1, b1⟩, b2⟩

/-- R65, R66: the catch-up. -/
theorem catchUp_at {s : State} (k : storeReady s) : portsCaughtUp (List.finRange 64) s (catchUp s) :=
  (catchUpPorts_at _ k).1

end Sys2Proof.Machine
end

