-- ==== Sys2Proof/Laws/Protection.lean ====
section
/-! SUPPORT. What protection, a health change, a switch point and a tick do to the row of one delivery port, each said once
(R76, R78, R107 to R111). -/

namespace Sys2Proof.Machine

/-! ### The rule at one port -/

/-- The healths of the source ports. -/
def healthsOf (s : State) : Fin 48 → Health := fun p => s.monitors[p].health

/-- R46, R71: the owning booking of a port is on that port. -/
def ownersHome (s : State) : Prop := ∀ (d : Fin 64) (n : Fin 1024), ownerOf d s = some n → s.store.slots[n].port = d

theorem ownersHome_of {s : State} (h : timelinesLawful s) : ownersHome s := fun d n k =>
  ((h.1 d n).1 (List.mem_of_find?_eq_some k)).2.1

/-- R110, R111: the row r of port e once protection has looked at its owning booking, if `cond` holds of it. -/
def toldRow (cond : Slot → Bool) (e : Fin 64) (s : State) (r : Row) : Row :=
  match ownerOf e s with
  | some n => if cond s.store.slots[n] then protectedRow s.store.slots[n] (healthsOf s) r else r
  | none => r

/-- Protection changes rows alone. -/
theorem protectPort_frame (cond : Slot → Bool) (d : Fin 64) (s : State) :
    protectPort cond d s = { s with rows := (protectPort cond d s).rows } := by
  simp only [protectPort, applyProtection]
  repeat' split
  all_goals rfl

/-- R108: protection at one port requests on that port alone. -/
theorem protectPort_row (cond : Slot → Bool) (d e : Fin 64) {s : State} (h : ownersHome s) :
    (protectPort cond d s).rows[e] = if d = e then toldRow cond e s s.rows[e] else s.rows[e] := by
  by_cases hde : d = e
  · subst hde
    rw [if_pos rfl]
    match ho : ownerOf d s with
    | none => simp only [protectPort, toldRow, ho]
    | some n =>
      simp only [protectPort, toldRow, ho]
      split
      · simp only [applyProtection, h _ _ ho, protectedRow, healthOf]
        split
        · rename_i h1 h2
          exact (if_pos h2).symm
        · rename_i h1 h2
          refine Eq.trans ?_ (if_neg h2).symm
          simp only [request, setRow, requestRow, Fin.getElem_fin, Vector.getElem_set_self]
          rfl
      · rfl
  · rw [if_neg hde]
    match ho : ownerOf d s with
    | none => simp only [protectPort, ho]
    | some n =>
      simp only [protectPort, ho]
      split
      · simp only [applyProtection, h _ _ ho]
        split
        · rfl
        · have : d.val ≠ e.val := fun k => hde (Fin.ext k)
          simp [request, setRow, this]
      · rfl

/-- Protection over several ports changes rows alone. -/
theorem protectPorts_frame (cond : Slot → Bool) (l : List (Fin 64)) (s : State) :
    let t := l.foldl (fun t d => protectPort cond d t) s
    t = { s with rows := t.rows } := by
  induction l generalizing s with
  | nil => rfl
  | cons d l ih =>
    simp only [List.foldl_cons]
    rw [ih, protectPort_frame]

/-- R110, R111: protection over several ports looks at each of them once. -/
theorem protectPorts_row (cond : Slot → Bool) (l : List (Fin 64)) (e : Fin 64) (hn : l.Nodup) {s : State} (h : ownersHome s) :
    (l.foldl (fun t d => protectPort cond d t) s).rows[e] = if e ∈ l then toldRow cond e s s.rows[e] else s.rows[e] := by
  induction l generalizing s with
  | nil => rfl
  | cons d l ih =>
    rw [List.foldl_cons]
    have fr := protectPort_frame cond d s
    have pr := protectPort_row cond d e h
    generalize (protectPort cond d s).rows = w at *
    rw [fr, ih (List.nodup_cons.1 hn).2 (s := { s with rows := w }) h]
    show (if e ∈ l then toldRow cond e s w[e] else w[e]) = _
    by_cases hde : d = e
    · subst hde
      have hd : d ∉ l := (List.nodup_cons.1 hn).1
      simp only [hd, if_false, List.mem_cons, true_or, if_true]
      simpa using pr
    · have hed : ¬e = d := fun k => hde k.symm
      rw [if_neg hde] at pr
      simp only [List.mem_cons, hed, false_or]
      rw [pr]

/-- The alarm ranking unit and the status page logic leave the rows. -/
theorem deriveSources_row (t : State) (d : Fin 64) : (markPage (deriveSources t)).rows[d] = t.rows[d] := by
  have : (markPage (deriveSources t)).rows = t.rows := by simp [markPage]
  rw [this]

/-! ### A health change -/

theorem updateMonitor_frame (p : Fin 48) (m : Monitor) (s : State) :
    (updateMonitor p m s).store = s.store ∧ (updateMonitor p m s).clock = s.clock ∧
    (updateMonitor p m s).monitors = s.monitors.set p m := by
  simp only [updateMonitor]
  split
  · exact ⟨rfl, rfl, rfl⟩
  · simp only [healthChanged, markPage, protectHealth]
    rw [protectPorts_frame]
    simp [setMonitor]

/-- R94, R110: what a monitor's new state does to the row of a port. -/
theorem updateMonitor_row (p : Fin 48) (m : Monitor) (e : Fin 64) {s : State} (h : ownersHome s) :
    (updateMonitor p m s).rows[e] = if m.health = s.monitors[p].health then s.rows[e]
      else toldRow (fun b => isLeg b p) e (setMonitor p m s) s.rows[e] := by
  simp only [updateMonitor]
  split
  · rfl
  · have := protectPorts_row (fun b => isLeg b p) (List.finRange 64) e (List.nodup_finRange 64) (s := setMonitor p m s) h
    simp only [List.mem_finRange, if_true] at this
    simp only [healthChanged]
    rw [deriveSources_row]
    exact this

/-- R107: the rule looks at the healths of the legs alone. -/
theorem chooseLater_congr (b : Slot) {h k : Fin 48 → Health} (e : ∀ p, isLeg b p = true → h p = k p) (x : Source) :
    chooseLater b h x = chooseLater b k x := by
  have e1 : h b.primary = k b.primary := e _ (by simp [isLeg])
  simp only [chooseLater]
  split
  · rfl
  · rename_i q _ _
    have e2 : h q = k q := e _ (by simp [isLeg, *])
    simp only [chooseAuto, e1, e2]
  · rename_i q _ _
    have e2 : h q = k q := e _ (by simp [isLeg, *])
    simp only [chooseAuto, e1, e2]
  · rfl

theorem protectedRow_congr (b : Slot) {h k : Fin 48 → Health} (e : ∀ p, isLeg b p = true → h p = k p) (r : Row) :
    protectedRow b h r = protectedRow b k r := by
  simp only [protectedRow, chooseLater_congr b e]

theorem healthsTold_congr (b : Slot) (old : Fin 48 → Health) {n m : Fin 48 → Health} (l : List (Fin 48))
    (h : ∀ p ∈ l, n p = m p) (r : Row) : healthsTold b old n l r = healthsTold b old m l r := by
  induction l generalizing old r with
  | nil => rfl
  | cons p l ih =>
    simp only [healthsTold, h p (List.mem_cons_self ..)]
    exact ih _ (fun q hq => h q (List.mem_cons_of_mem _ hq)) _

/-- R110: one more health change is one more application of the rule. -/
theorem healthsTold_snoc (b : Slot) (old new : Fin 48 → Health) (l : List (Fin 48)) (p : Fin 48) (r : Row) :
    healthsTold b old new (l ++ [p]) r =
      protectedRow b (fun q => if q ∈ l ++ [p] then new q else old q) (healthsTold b old new l r) := by
  induction l generalizing old r with
  | nil =>
    simp only [healthsTold, List.nil_append]
    apply protectedRow_congr
    intro q _
    by_cases h : q = p <;> simp [h]
  | cons x l ih =>
    simp only [healthsTold, List.cons_append]
    rw [ih]
    apply protectedRow_congr
    intro q _
    by_cases h : q = x
    · by_cases h2 : q ∈ l ++ [p] <;> simp [h]
    · simp [h]

/-! ### A switch point -/

/-- Two rows carry the same source and hold the same pending selection. -/
def sameSelection (a b : Row) : Prop := a.current = b.current ∧ a.pending = b.pending

theorem sameSelection_trans {a b c : Row} (h : sameSelection a b) (k : sameSelection b c) : sameSelection a c :=
  ⟨h.1.trans k.1, h.2.trans k.2⟩

theorem protectedRow_same (b : Slot) (h : Fin 48 → Health) {x y : Row} (e : sameSelection x y) :
    sameSelection (protectedRow b h x) (protectedRow b h y) := by
  obtain ⟨e1, e2⟩ := e
  have ei : intended x = intended y := by simp only [intended, e1, e2]
  simp only [protectedRow, ei, e1]
  split
  · exact ⟨e1, e2⟩
  · exact ⟨rfl, rfl⟩

/-- R79: the tick part leaves the source and the pending selection. -/
theorem tickRows_same (s : State) (d : Fin 64) : sameSelection (tickRows s).rows[d] s.rows[d] := by
  simp only [tickRows, build_getFin, tickRow]
  exact ⟨rfl, rfl⟩

/-- R76: a switch point carries out the pending selection. -/
theorem switchRow_same (inside : Bool) {x y : Row} (e : sameSelection x y) :
    sameSelection (switchRow inside x) (selectionTaken y) := by
  obtain ⟨e1, e2⟩ := e
  simp only [switchRow, selectionTaken, intended, ← e2, ← e1]
  cases h : x.pending with
  | none => exact ⟨rfl, h⟩
  | some t => exact ⟨rfl, rfl⟩

theorem selectionTaken_none {r : Row} (h : ¬r.pending.isSome = true) : sameSelection (selectionTaken r) r := by
  simp only [selectionTaken, sameSelection, intended]
  cases e : r.pending <;> simp_all

theorem crosspointTick_frame (s : State) :
    (crosspointTick s).store = s.store ∧ (crosspointTick s).clock = s.clock ∧ (crosspointTick s).monitors = s.monitors := by
  simp only [crosspointTick, switchPoint, handExecutions, markPage]
  repeat' split
  · exact ⟨rfl, rfl, rfl⟩
  · rw [protectPorts_frame]; simp [tickRows]
  · exact ⟨rfl, rfl, rfl⟩

/-- R76, R78, R111: what the crosspoint's tick does to the row of an owned port. -/
theorem crosspointTick_row {s : State} (h : ownersHome s) {d : Fin 64} {n : Fin 1024} (ho : ownerOf d s = some n) :
    sameSelection (crosspointTick s).rows[d] (if tickSwitches s = true ∧ s.rows[d].pending.isSome = true then
      protectedRow s.store.slots[n] (healthsOf s) (selectionTaken s.rows[d]) else s.rows[d]) := by
  have tr := tickRows_same s d
  have sw := switchRow_same false tr
  have pe : (tickRows s).rows[d].pending = s.rows[d].pending := tr.2
  simp only [crosspointTick, tickSwitches, decide_eq_true_eq]
  split
  · rename_i hl
    have mem : d ∈ pendingPorts (tickRows s) ↔ s.rows[d].pending.isSome = true := by
      simp only [pendingPorts, List.mem_filter, List.mem_finRange, true_and, pe]
    simp only [hl, true_and, switchPoint, handExecutions]
    split
    · rename_i he
      have hp : ¬s.rows[d].pending.isSome = true := by
        rw [← mem, List.isEmpty_iff.1 he]; simp
      rw [if_neg hp]
      simp only [build_getFin]
      exact sameSelection_trans sw (selectionTaken_none hp)
    · have nd : (pendingPorts (tickRows s)).Nodup := List.Nodup.filter _ (List.nodup_finRange 64)
      have fr := protectPorts_row (fun _ => true) (pendingPorts (tickRows s)) d nd
        (s := { tickRows s with rows := build fun d => switchRow false (tickRows s).rows[d] }) h
      rw [deriveSources_row, fr]
      have hw : ownerOf d ({ tickRows s with rows := build fun d => switchRow false (tickRows s).rows[d] } : State) = some n :=
        ho
      simp only [toldRow, hw, if_true, build_getFin]
      by_cases hp : s.rows[d].pending.isSome = true
      · rw [if_pos (mem.2 hp), if_pos hp]
        exact protectedRow_same _ _ sw
      · rw [if_neg (fun k => hp (mem.1 k)), if_neg hp]
        exact sameSelection_trans sw (selectionTaken_none hp)
  · rename_i hl
    simp only [hl, false_and, if_false]
    exact tr

/-! ### A tick, block by block -/

/-- The row r of a port that booking b owns, part of the way through a tick: the legs `first` have changed their health before
the crosspoint took it, and `later` since. `crossed` is none until the crosspoint has taken it, and then says whether it
switched. -/
def rowMidTick (b : Slot) (crossed : Option Bool) (first later : List (Fin 48)) (old new : Fin 48 → Health) (r : Row) : Row :=
  let met := healthsTold b old new first r
  match crossed with
  | none => met
  | some switched =>
    let half := fun p => if p ∈ first then new p else old p
    healthsTold b half new later
      (if switched = true ∧ met.pending.isSome = true then protectedRow b half (selectionTaken met) else met)

theorem rowMidTick_congr (b : Slot) (c : Option Bool) (first later : List (Fin 48)) (old : Fin 48 → Health)
    {n m : Fin 48 → Health} (r : Row) (h : ∀ p ∈ first ++ later, n p = m p) :
    rowMidTick b c first later old n r = rowMidTick b c first later old m r := by
  have h1 : ∀ p ∈ first, n p = m p := fun p hp => h p (by simp [hp])
  have h2 : ∀ p ∈ later, n p = m p := fun p hp => h p (by simp [hp])
  have e : (fun p => if p ∈ first then n p else old p) = fun p => if p ∈ first then m p else old p := by
    funext p
    split
    · exact h1 p ‹_›
    · rfl
  cases c with
  | none => exact healthsTold_congr b old first h1 r
  | some sw =>
    simp only [rowMidTick, e, healthsTold_congr b old first h1 r]
    exact healthsTold_congr b _ later h2 _

/-- From u to s the monitors of `done` have taken a tick, and the crosspoint as `crossed` says: booking n owns port d. -/
structure tickRowOf (u s : State) (d : Fin 64) (n : Fin 1024) (crossed : Option Bool) (done : List (Fin 48)) : Prop where
  store : s.store = u.store
  clock : s.clock = u.clock
  rest : ∀ p, p ∉ done → s.monitors[p] = u.monitors[p]
  row : ∃ first later : List (Fin 48), (first ++ later).Nodup ∧ (crossed = none → later = []) ∧
    (∀ p, p ∈ first ++ later ↔ isLeg u.store.slots[n] p = true ∧ healthsOf s p ≠ healthsOf u p) ∧
    sameSelection s.rows[d] (rowMidTick u.store.slots[n] crossed first later (healthsOf u) (healthsOf s) u.rows[d])

theorem tickRowOf_start (u : State) (d : Fin 64) (n : Fin 1024) : tickRowOf u u d n none [] :=
  ⟨rfl, rfl, fun _ _ => rfl, [], [], List.nodup_nil, fun _ => rfl, fun p => by simp, rfl, rfl⟩

/-- R110: a monitor takes the tick. -/
theorem updateMonitor_tickRow {u s : State} (h : ownersHome u) {d : Fin 64} {n : Fin 1024} (ho : ownerOf d u = some n)
    {c : Option Bool} {done : List (Fin 48)} (i : tickRowOf u s d n c done) (p : Fin 48) (hp : p ∉ done) (m : Monitor) :
    tickRowOf u (updateMonitor p m s) d n c (p :: done) := by
  obtain ⟨i1, i2, i3, first, later, nd, c0, hm, hr⟩ := i
  obtain ⟨f1, f2, f3⟩ := updateMonitor_frame p m s
  have hs : ownersHome s := by simpa only [ownersHome, ownerOf, i1] using h
  have ur := updateMonitor_row p m d hs
  have hms : ∀ q, q ≠ p → (updateMonitor p m s).monitors[q] = s.monitors[q] := fun q hq => by
    have : p.val ≠ q.val := fun k => hq (Fin.ext k.symm)
    rw [f3]; simp [this]
  have hmp : (updateMonitor p m s).monitors[p] = m := by rw [f3]; simp
  have hsm : healthsOf (setMonitor p m s) = healthsOf (updateMonitor p m s) := by
    funext q; simp only [healthsOf, setMonitor, f3]
  generalize updateMonitor p m s = t at *
  have hpp : healthsOf s p = healthsOf u p := by simp only [healthsOf, i3 p hp]
  have hpn : p ∉ first ++ later := fun k => ((hm p).1 k).2 hpp
  have hse : ∀ q, q ≠ p → healthsOf t q = healthsOf s q := fun q hq => by simp only [healthsOf, hms q hq]
  have cong : ∀ r, rowMidTick u.store.slots[n] c first later (healthsOf u) (healthsOf t) r =
      rowMidTick u.store.slots[n] c first later (healthsOf u) (healthsOf s) r := fun r =>
    rowMidTick_congr _ _ _ _ _ _ fun q hq => hse q fun e => hpn (e ▸ hq)
  refine ⟨f1.trans i1, f2.trans i2, fun q hq => ?_, ?_⟩
  · simp only [List.mem_cons, not_or] at hq
    rw [hms q hq.1, i3 q hq.2]
  by_cases hh : m.health = s.monitors[p].health
  · rw [if_pos hh] at ur
    have hall : healthsOf t = healthsOf s := by
      funext q
      by_cases hq : q = p
      · subst hq; simp only [healthsOf, hmp, hh]
      · exact hse q hq
    rw [ur, hall]
    exact ⟨first, later, nd, c0, hm, hr⟩
  rw [if_neg hh] at ur
  have hchg : healthsOf t p ≠ healthsOf u p := by
    rw [← hpp]; simp only [healthsOf, hmp]; exact hh
  have hw : ownerOf d (setMonitor p m s) = some n := by simpa only [ownerOf, setMonitor, i1] using ho
  have sl : (setMonitor p m s).store.slots[n] = u.store.slots[n] := by show s.store.slots[n] = _; rw [i1]
  simp only [toldRow, hw, sl, hsm] at ur
  by_cases hl : isLeg u.store.slots[n] p = true
  · rw [if_pos hl] at ur
    have key : ∀ q, isLeg u.store.slots[n] q = true → q ∉ first ++ later ++ [p] → healthsOf t q = healthsOf u q := by
      intro q hq k
      have h1 : q ≠ p := fun e => k (by simp [e])
      have h2 : q ∉ first ++ later := fun e => k (by simp only [List.mem_append] at e ⊢; exact .inl e)
      rw [hse q h1]
      exact Classical.byContradiction fun h3 => h2 ((hm q).2 ⟨hq, h3⟩)
    have memb : ∀ q, q ∈ first ++ later ++ [p] ↔
        isLeg u.store.slots[n] q = true ∧ healthsOf t q ≠ healthsOf u q := by
      intro q
      by_cases hq : q = p
      · subst hq; simpa [hchg] using hl
      · rw [hse q hq, ← hm q]; simp [hq]
    have nd' : (first ++ later ++ [p]).Nodup := List.nodup_append.2 ⟨nd, by simp, fun a ha b hb e => by
      simp only [List.mem_singleton] at hb
      exact hpn (hb ▸ e ▸ ha)⟩
    cases c with
    | none =>
      obtain rfl := c0 rfl
      simp only [List.append_nil] at *
      refine ⟨first ++ [p], [], by simpa using nd', fun _ => rfl, by simpa using memb, ?_⟩
      simp only [rowMidTick] at cong hr ⊢
      rw [ur, healthsTold_snoc, cong, protectedRow_congr _ (k := fun q => if q ∈ first ++ [p] then healthsOf t q
        else healthsOf u q) fun q hq => by split <;> [rfl; exact key q hq ‹_›]]
      exact protectedRow_same _ _ hr
    | some sw =>
      refine ⟨first, later ++ [p], by simpa [List.append_assoc] using nd', fun k => absurd k (by simp),
        by simpa [List.append_assoc] using memb, ?_⟩
      simp only [rowMidTick] at cong hr ⊢
      rw [ur, healthsTold_snoc, cong, protectedRow_congr _ (k := fun q => if q ∈ later ++ [p] then healthsOf t q
        else if q ∈ first then healthsOf t q else healthsOf u q) fun q hq => by
          split
          · rfl
          · split
            · rfl
            · exact key q hq (by simp_all)]
      exact protectedRow_same _ _ hr
  · rw [if_neg hl] at ur
    refine ⟨first, later, nd, c0, fun q => ?_, ?_⟩
    · by_cases hq : q = p
      · subst hq; exact ⟨fun k => absurd k hpn, fun k => absurd k.1 hl⟩
      · rw [hse q hq]; exact hm q
    · rw [ur, cong]; exact hr

/-- R76, R78, R111: the crosspoint takes the tick. -/
theorem crosspointTick_tickRow {u s : State} (h : ownersHome u) {d : Fin 64} {n : Fin 1024} (ho : ownerOf d u = some n)
    {done : List (Fin 48)} (i : tickRowOf u s d n none done) :
    tickRowOf u (crosspointTick s) d n (some (tickSwitches u)) done := by
  obtain ⟨i1, i2, i3, first, later, nd, c0, hm, hr⟩ := i
  obtain rfl := c0 rfl
  have hs : ownersHome s := by simpa only [ownersHome, ownerOf, i1] using h
  have cr := crosspointTick_row hs (d := d) (n := n) (by simpa only [ownerOf, i1] using ho)
  obtain ⟨f1, f2, f3⟩ := crosspointTick_frame s
  have eh : healthsOf (crosspointTick s) = healthsOf s := by funext q; simp only [healthsOf, f3]
  refine ⟨f1.trans i1, f2.trans i2, fun p hp => by rw [f3]; exact i3 p hp, first, [], nd, fun _ => rfl,
    by rw [eh]; exact hm, ?_⟩
  rw [eh]
  simp only [rowMidTick, List.append_nil] at *
  refine sameSelection_trans cr ?_
  have hsw : tickSwitches s = tickSwitches u := by simp only [tickSwitches, i2]
  have hsl : s.store.slots[n] = u.store.slots[n] := by rw [i1]
  rw [hsw, hsl, protectedRow_congr _ (k := fun q => if q ∈ first then healthsOf s q else healthsOf u q) fun q hq => by
    split
    · rfl
    · exact Classical.byContradiction fun k => ‹q ∉ first› ((hm q).2 ⟨hq, k⟩)]
  simp only [healthsTold, ← hr.2]
  split
  · apply protectedRow_same
    simp only [selectionTaken, sameSelection, intended, hr.1, hr.2, and_self]
  · exact hr

end Sys2Proof.Machine
end

