-- ==== Sys2Proof/Laws/Rows.lean ====
section
/-! SUPPORT. Every operation keeps the law of the selection table (R73, R76, R79). -/

namespace Sys2Proof.Machine

theorem rows_congr {s t : State} (h : rowsLawful s) (e : t.rows = s.rows) : rowsLawful t := by
  simpa only [rowsLawful, e] using h

theorem requestRow_lawful (target : Source) (cause : Cause) {r : Row} (h : rowLawful r) :
    rowLawful (requestRow target cause r) := by
  refine ⟨fun x hx => ?_, h.2⟩
  simp only [requestRow] at hx
  split at hx
  · simp at hx
  · rename_i hn
    cases hx; exact hn

theorem switchRow_lawful (inside : Bool) {r : Row} (h : rowLawful r) : rowLawful (switchRow inside r) := by
  simp only [switchRow]
  split
  · exact ⟨by simp, h.2⟩
  · exact h

theorem tickRow_lawful (hasOwner : Bool) {r : Row} (h : rowLawful r) : rowLawful (tickRow hasOwner r) := by
  refine ⟨h.1, ?_⟩
  simp only [tickRow]
  split
  · exact Nat.min_le_left _ _
  · exact h.2

theorem latch_rows (f : Flag) {s : State} (good : rowsLawful s) : rowsLawful (latch f s) := by
  exact rows_congr good (by simp)

theorem modeWrite_rows (mode : BitVec 2) (spotlight : BitVec 6) {s : State} (good : rowsLawful s) :
    rowsLawful (modeWrite mode spotlight s) := by
  exact rows_congr good (by simp)

theorem setSlot_rows (n : Fin 1024) (b : Slot) {s : State} (good : rowsLawful s) : rowsLawful (setSlot n b s) := by
  exact rows_congr good (by simp)

theorem takeEntry_rows {s : State} (good : rowsLawful s) : rowsLawful (takeEntry s) := by
  exact rows_congr good (by simp)

theorem finishOrder_rows (outcome : OutcomeCode) (result : List Byte) {s : State} (good : rowsLawful s) :
    rowsLawful (finishOrder outcome result s) := by
  exact rows_congr good (by simp)

theorem setStage_rows (stage : Stage) {s : State} (good : rowsLawful s) : rowsLawful (setStage stage s) := by
  exact rows_congr good (by simp)

theorem orderEndWrite_rows (value : Word) {s : State} (good : rowsLawful s) : rowsLawful (orderEndWrite value s) := by
  exact rows_congr good (by simp)

theorem submit_rows (accesses : List Access) {s : State} (good : rowsLawful s) : rowsLawful (submit accesses s) := by
  exact rows_congr good (by simp)

/-- A lawful row may be stored. -/
theorem setRow_rows (d : Fin 64) {r : Row} (hr : rowLawful r) {s : State} (good : rowsLawful s) :
    rowsLawful (setRow d r s) := by
  intro e
  by_cases he : d = e
  · subst he; simpa [setRow] using hr
  · simpa [setRow, Vector.getElem_set, Fin.val_inj, he] using good e

theorem request_rows (d : Fin 64) (target : Source) (cause : Cause) {s : State} (good : rowsLawful s) :
    rowsLawful (request d target cause s) :=
  setRow_rows d (requestRow_lawful target cause (good d)) good

theorem applyProtection_rows (n : Fin 1024) {s : State} (good : rowsLawful s) : rowsLawful (applyProtection n s) := by
  simp only [applyProtection]
  (repeat' split) <;>
    (repeat (with_reducible first | apply request_rows)) <;> exact good

theorem applyActivation_rows (n : Fin 1024) {s : State} (good : rowsLawful s) : rowsLawful (applyActivation n s) := by
  simp only [applyActivation]
  (repeat (with_reducible first | apply request_rows))
  exact good

theorem protectPort_rows (cond : Slot → Bool) (d : Fin 64) {s : State} (good : rowsLawful s) :
    rowsLawful (protectPort cond d s) := by
  simp only [protectPort]
  (repeat' split) <;>
    (repeat (with_reducible first | apply applyProtection_rows)) <;> exact good

theorem protectHealth_rows (p : Fin 48) {s : State} (good : rowsLawful s) : rowsLawful (protectHealth p s) := by
  exact foldl_closed (fun t d ht => protectPort_rows _ d ht) _ good

theorem deriveSources_rows {s : State} (good : rowsLawful s) : rowsLawful (deriveSources s) := by
  exact rows_congr good (by simp)

theorem markPage_rows {s : State} (good : rowsLawful s) : rowsLawful (markPage s) := by
  exact rows_congr good (by simp)

theorem handExecutions_rows (ports :
    List (Fin 64)) {s : State} (good : rowsLawful s) : rowsLawful (handExecutions ports s) := by
  simp only [handExecutions]
  split
  · exact good
  · exact markPage_rows (deriveSources_rows (foldl_closed (fun t d ht => protectPort_rows _ d ht) _ good))

theorem switchPoint_rows (inside : Bool) {s : State} (good : rowsLawful s) : rowsLawful (switchPoint inside s) := by
  refine handExecutions_rows _ fun d => ?_
  simpa using switchRow_lawful inside (good d)

theorem tickRows_rows {s : State} (good : rowsLawful s) : rowsLawful (tickRows s) := by
  intro d
  simpa [tickRows] using tickRow_lawful _ (good d)

theorem crosspointTick_rows {s : State} (good : rowsLawful s) : rowsLawful (crosspointTick s) := by
  simp only [crosspointTick]
  (repeat' split) <;>
    (repeat (with_reducible first | apply switchPoint_rows | apply tickRows_rows)) <;> exact good

theorem setMonitor_rows (p : Fin 48) (m : Monitor) {s : State} (good : rowsLawful s) :
    rowsLawful (setMonitor p m s) := by
  exact rows_congr good (by simp)

theorem healthChanged_rows (p : Fin 48) {s : State} (good : rowsLawful s) : rowsLawful (healthChanged p s) := by
  simp only [healthChanged]
  (repeat (with_reducible first | apply markPage_rows | apply deriveSources_rows | apply protectHealth_rows))
  exact good

theorem updateMonitor_rows (p : Fin 48) (m : Monitor) {s : State} (good : rowsLawful s) :
    rowsLawful (updateMonitor p m s) := by
  simp only [updateMonitor]
  (repeat' split) <;>
    (repeat (with_reducible first | apply setMonitor_rows | apply healthChanged_rows)) <;> exact good

theorem monitorTick_rows (p : Fin 48) {s : State} (good : rowsLawful s) : rowsLawful (monitorTick p s) := by
  simp only [monitorTick]
  (repeat' split) <;>
    (repeat (with_reducible first | apply setMonitor_rows | apply updateMonitor_rows)) <;> exact good

theorem takeTickEarly_rows (p : Fin 48) {s : State} (good : rowsLawful s) : rowsLawful (takeTickEarly p s) := by
  simp only [takeTickEarly]
  (repeat (with_reducible first | apply updateMonitor_rows))
  exact good

theorem holdOffReached_rows (p : Fin 48) {s : State} (good : rowsLawful s) : rowsLawful (holdOffReached p s) := by
  simp only [holdOffReached]
  (repeat' split) <;>
    (repeat (with_reducible first | apply takeTickEarly_rows)) <;> exact good

theorem restoreExpired_rows (p : Fin 48) {s : State} (good : rowsLawful s) : rowsLawful (restoreExpired p s) := by
  simp only [restoreExpired]
  (repeat' split) <;>
    (repeat (with_reducible first | apply takeTickEarly_rows)) <;> exact good

theorem receiverObservation_rows (p : Fin 48) (seen : Observation) {s : State} (good : rowsLawful s) :
    rowsLawful (receiverObservation p seen s) := by
  simp only [receiverObservation]
  (repeat (with_reducible first | apply updateMonitor_rows))
  exact good

theorem lossOfLight_rows (p : Fin 48) {s : State} (good : rowsLawful s) : rowsLawful (lossOfLight p s) := by
  simp only [lossOfLight]
  (repeat (with_reducible first | apply updateMonitor_rows))
  exact good

theorem countMeters_rows (e : EndedSecond) {s : State} (good : rowsLawful s) : rowsLawful (countMeters e s) := by
  exact rows_congr good (by simp)

theorem setMeter_rows (n : Fin 1024) (m : Meter) {s : State} (good : rowsLawful s) : rowsLawful (setMeter n m s) := by
  exact rows_congr good (by simp)

theorem takeTariffBoundary_rows {s : State} (good : rowsLawful s) : rowsLawful (takeTariffBoundary s) := by
  exact rows_congr good (by simp)

theorem leaveTimeline_rows (n : Fin 1024) {s : State} (good : rowsLawful s) : rowsLawful (leaveTimeline n s) := by
  exact rows_congr good (by simp)

theorem countRecheck_rows {s : State} (good : rowsLawful s) : rowsLawful (countRecheck s) := by
  exact rows_congr good (by simp)

theorem lastRecheck_rows {s : State} (good : rowsLawful s) : rowsLawful (lastRecheck s) := by
  exact rows_congr good (by simp)

theorem settleClose_rows (kind : TicketKind) (n : Fin 1024) (closeMinute : Nat) (forOrder : Bool) {s : State}
    (good : rowsLawful s) : rowsLawful (settleClose kind n closeMinute forOrder s) := by
  exact rows_congr good (by simp)

theorem handToAlarms_rows {s : State} (good : rowsLawful s) : rowsLawful (handToAlarms s) := by
  exact rows_congr good (by simp)

theorem beginClose_rows (n : Fin 1024) (minute : Nat) {s : State} (good : rowsLawful s) :
    rowsLawful (beginClose n minute s) := by
  simp only [beginClose]
  (repeat' split) <;>
    (repeat (with_reducible first
          | apply leaveTimeline_rows | apply handToAlarms_rows | apply request_rows)) <;> exact good

theorem holdClose_rows (n : Fin 1024) (minute : Nat) {s : State} (good : rowsLawful s) :
    rowsLawful (holdClose n minute s) := by
  exact rows_congr good (by simp)

theorem closeOnAir_rows (n : Fin 1024) (minute : Nat) (counted forOrder : Bool) {s : State} (good : rowsLawful s) :
    rowsLawful (closeOnAir n minute counted forOrder s) := by
  simp only [closeOnAir]
  (repeat' split) <;>
    (repeat (with_reducible first
          | apply beginClose_rows | apply settleClose_rows | apply holdClose_rows)) <;> exact good

theorem closeMissed_rows (n : Fin 1024) (minute : Nat) {s : State} (good : rowsLawful s) :
    rowsLawful (closeMissed n minute s) := by
  exact rows_congr good (by simp)

theorem markOwned_rows (d : Fin 64) {s : State} (good : rowsLawful s) : rowsLawful (markOwned d s) :=
  setRow_rows d (show rowLawful { s.rows[d] with owned := true } from good d) good

theorem activate_rows (n : Fin 1024) (minute : Nat) (first : Stamp) (band : Option Band) {s : State}
    (good : rowsLawful s) : rowsLawful (activate n minute first band s) := by
  simp only [activate]
  (repeat (with_reducible first
        | apply setSlot_rows | apply setMeter_rows | apply handToAlarms_rows | apply markOwned_rows
        | apply applyActivation_rows | apply submit_rows))
  exact good

theorem enterOverrun_rows (n : Fin 1024) {s : State} (good : rowsLawful s) : rowsLawful (enterOverrun n s) := by
  exact rows_congr good (by simp)

theorem boundaryClose_rows (n : Fin 1024) (minute : Nat) (counted : Bool) {s : State} (good : rowsLawful s) :
    rowsLawful (boundaryClose n minute counted s) := by
  simp only [boundaryClose]
  (repeat' split) <;>
    (repeat (with_reducible first | apply closeOnAir_rows | apply countRecheck_rows)) <;> exact good

theorem boundaryHead_rows (minute : Nat) (counted : Bool) (d : Fin 64) {s : State} (good : rowsLawful s) :
    rowsLawful (boundaryHead minute counted d s) := by
  simp only [boundaryHead]
  (repeat' split) <;>
    (repeat (with_reducible first | apply boundaryClose_rows | apply enterOverrun_rows)) <;> exact good

theorem boundaryStart_rows (minute : Nat) (swapped : Bool) (d : Fin 64) {s : State} (good : rowsLawful s) :
    rowsLawful (boundaryStart minute swapped d s) := by
  simp only [boundaryStart]
  (repeat' split) <;>
    (repeat (with_reducible first | apply activate_rows)) <;> exact good

theorem boundaryTimeline_rows (minute : Nat) (counted swapped : Bool) (d : Fin 64) {s : State} (good : rowsLawful s) :
    rowsLawful (boundaryTimeline minute counted swapped d s) := by
  simp only [boundaryTimeline]
  (repeat (with_reducible first | apply boundaryStart_rows | apply boundaryHead_rows))
  exact good

theorem storeTimelines_rows (taken : Bool) (minute : Nat) (counted swapped : Bool) (ports :
    List (Fin 64)) {s : State} (good : rowsLawful s) : rowsLawful (storeTimelines taken minute counted swapped ports s) := by
  simp only [storeTimelines]
  split
  · exact foldl_closed (fun t d ht => boundaryTimeline_rows _ _ _ d ht) _ good
  · exact good

theorem openRecheck_rows (recheckAfter : Nat) {s : State} (good : rowsLawful s) :
    rowsLawful (openRecheck recheckAfter s) := by
  exact rows_congr good (by simp)

theorem boundaryCounted_rows (minute swapAfter recheckAfter : Nat) {s : State} (good : rowsLawful s) :
    rowsLawful (boundaryCounted minute swapAfter recheckAfter s) := by
  simp only [boundaryCounted]
  (repeat (with_reducible first
        | apply storeTimelines_rows | apply openRecheck_rows | apply lastRecheck_rows
        | apply takeTariffBoundary_rows))
  exact good

theorem boundaryUncounted_rows (minute recheckAfter : Nat) {s : State} (good : rowsLawful s) :
    rowsLawful (boundaryUncounted minute recheckAfter s) := by
  simp only [boundaryUncounted]
  (repeat (with_reducible first | apply lastRecheck_rows | apply storeTimelines_rows | apply openRecheck_rows))
  exact good

theorem catchUpCloses_rows (members :
    List (Fin 1024)) {s : State} (good : rowsLawful s) : rowsLawful (catchUpCloses members s) := by
  induction members generalizing s with
  | nil => exact good
  | cons n rest ih =>
    simp only [catchUpCloses]
    (repeat' split) <;> 
      first
        | with_reducible exact good
        | with_reducible exact ih (closeOnAir_rows _ _ _ _ good)
        | with_reducible exact ih (closeMissed_rows _ _ good)

theorem catchUpStart_rows (d : Fin 64) {s : State} (good : rowsLawful s) : rowsLawful (catchUpStart d s) := by
  simp only [catchUpStart]
  (repeat' split) <;>
    (repeat (with_reducible first | apply activate_rows)) <;> exact good

theorem catchUpPhase_rows (d : Fin 64) {s : State} (good : rowsLawful s) : rowsLawful (catchUpPhase d s) := by
  exact rows_congr good (by simp)

theorem catchUpTimeline_rows (d : Fin 64) {s : State} (good : rowsLawful s) : rowsLawful (catchUpTimeline d s) := by
  simp only [catchUpTimeline]
  (repeat (with_reducible first | apply catchUpPhase_rows | apply catchUpStart_rows | apply catchUpCloses_rows))
  exact good

theorem catchUp_rows {s : State} (good : rowsLawful s) : rowsLawful (catchUp s) := by
  exact foldl_closed (fun t d ht => catchUpTimeline_rows d ht) _ good

theorem enterRunning_rows {s : State} (good : rowsLawful s) : rowsLawful (enterRunning s) := by
  simp only [enterRunning]
  (repeat (with_reducible first | apply takeEntry_rows | apply catchUp_rows | apply latch_rows))
  exact good

theorem settlePage_rows {s : State} (good : rowsLawful s) : rowsLawful (settlePage s) := by
  exact rows_congr good (by simp)

theorem boundaryPage_rows (minute : BitVec 32) {s : State} (good : rowsLawful s) :
    rowsLawful (boundaryPage minute s) := by
  exact rows_congr good (by simp)

theorem abandonPage_rows (issued : Nat) {s : State} (good : rowsLawful s) : rowsLawful (abandonPage issued s) := by
  exact rows_congr good (by simp)

theorem crosspointBlock_rows {s : State} (good : rowsLawful s) : rowsLawful (crosspointBlock s) := by
  simp only [crosspointBlock]
  (repeat' split) <;>
    (repeat (with_reducible first | apply crosspointTick_rows)) <;> exact good

theorem blockTick_rows (k : Fin 49) {s : State} (good : rowsLawful s) : rowsLawful (blockTick k s) := by
  simp only [blockTick]
  (repeat' split) <;>
    (repeat (with_reducible first | apply monitorTick_rows | apply crosspointBlock_rows)) <;> exact good

theorem blockAhead_rows (k : Fin 49) {s : State} (good : rowsLawful s) : rowsLawful (blockAhead k s) := by
  simp only [blockAhead]
  split
  · split
    · exact good
    · exact takeTickEarly_rows _ good
  · split
    · exact good
    · exact crosspointTick_rows good

theorem ticksAhead_rows (early : TickOrder) {s : State} (good : rowsLawful s) : rowsLawful (ticksAhead early s) := by
  exact foldl_closed (fun t k ht => blockAhead_rows k ht) _ good

theorem blocksTick_rows (order done :
    List (Fin 49)) {s : State} (good : rowsLawful s) : rowsLawful (blocksTick order done s) := by
  induction order generalizing s done with
  | nil => exact good
  | cons b rest ih =>
    simp only [blocksTick]
    split
    · exact ih _ good
    · exact ih _ (blockTick_rows b good)

theorem handTick_rows (order : TickOrder) (e : EndedSecond) {s : State} (good : rowsLawful s) :
    rowsLawful (handTick order e s) := by
  simp only [handTick]
  (repeat (with_reducible first | apply countMeters_rows | apply blocksTick_rows))
  exact good

theorem owedTick_rows (order : TickOrder) (ended : BitVec 32) {s : State} (good : rowsLawful s) :
    rowsLawful (owedTick order ended s) := by
  simp only [owedTick]
  (repeat (with_reducible first | apply takeTariffBoundary_rows | apply handTick_rows))
  exact good

theorem setRollover_rows (r : Rollover) {s : State} (good : rowsLawful s) : rowsLawful (setRollover r s) := by
  exact rows_congr good (by simp)

theorem setTime_rows (minute : BitVec 32) (second : Nat) {s : State} (good : rowsLawful s) :
    rowsLawful (setTime minute second s) := by
  exact rows_congr good (by simp)

theorem rollTime_rows (minute : BitVec 32) (clockSet : Bool) {s : State} (good : rowsLawful s) :
    rowsLawful (rollTime minute clockSet s) := by
  exact rows_congr good (by simp)

theorem boundaryAfterTick_rows (minute : BitVec 32) (clockSet : Bool) (swapAfter recheckAfter : Nat) {s : State}
    (good : rowsLawful s) : rowsLawful (boundaryAfterTick minute clockSet swapAfter recheckAfter s) := by
  simp only [boundaryAfterTick]
  (repeat (with_reducible first
        | apply boundaryPage_rows | apply boundaryCounted_rows | apply rollTime_rows | apply setRollover_rows))
  exact good

theorem boundaryBeforeTick_rows (recheckAfter : Nat) {s : State} (good : rowsLawful s) :
    rowsLawful (boundaryBeforeTick recheckAfter s) := by
  simp only [boundaryBeforeTick]
  (repeat (with_reducible first | apply boundaryUncounted_rows | apply setRollover_rows | apply setTime_rows))
  exact good

theorem takeBoundary_rows (swapAfter recheckAfter : Nat) {s : State} (good : rowsLawful s) :
    rowsLawful (takeBoundary swapAfter recheckAfter s) := by
  simp only [takeBoundary]
  (repeat' split) <;>
    (repeat (with_reducible first | apply boundaryAfterTick_rows | apply boundaryBeforeTick_rows)) <;> exact good

theorem minuteBoundary_rows (early : TickOrder) (boundary : Bool) (swapAfter recheckAfter : Nat) {s : State}
    (good : rowsLawful s) : rowsLawful (minuteBoundary early boundary swapAfter recheckAfter s) := by
  simp only [minuteBoundary]
  (repeat' split) <;>
    (repeat (with_reducible first | apply ticksAhead_rows | apply takeBoundary_rows)) <;> exact good

theorem settleBoundary_rows {s : State} (good : rowsLawful s) : rowsLawful (settleBoundary s) := by
  simp only [settleBoundary]
  (repeat' split) <;>
    (repeat (with_reducible first | apply boundaryAfterTick_rows)) <;> exact good

theorem completeSecond_rows (ahead : Bool) {s : State} (good : rowsLawful s) : rowsLawful (completeSecond ahead s) := by
  exact rows_congr good (by simp)

theorem secondTick_rows (order : TickOrder) {s : State} (good : rowsLawful s) : rowsLawful (secondTick order s) := by
  simp only [secondTick]
  (repeat' split) <;>
    (repeat (with_reducible first
          | apply settleBoundary_rows | apply boundaryPage_rows | apply setRollover_rows | apply owedTick_rows
          | apply completeSecond_rows | apply handTick_rows)) <;> exact good

theorem changeReference_rows (c : Clock) {s : State} (good : rowsLawful s) : rowsLawful (changeReference c s) := by
  exact rows_congr good (by simp)

theorem pulseFreeRun_rows (instant : Nat) (order : TickOrder) {s : State} (good : rowsLawful s) :
    rowsLawful (pulseFreeRun instant order s) := by
  simp only [pulseFreeRun]
  (repeat' split) <;>
    (repeat (with_reducible first | apply secondTick_rows | apply changeReference_rows)) <;> exact good

theorem secrefPulse_rows (instant : Nat) (order : TickOrder) {s : State} (good : rowsLawful s) :
    rowsLawful (secrefPulse instant order s) := by
  simp only [secrefPulse]
  (repeat' split) <;>
    (repeat (with_reducible first | apply secondTick_rows | apply pulseFreeRun_rows)) <;> exact good

theorem secrefTimeout_rows (order : TickOrder) {s : State} (good : rowsLawful s) :
    rowsLawful (secrefTimeout order s) := by
  simp only [secrefTimeout]
  (repeat' split) <;>
    (repeat (with_reducible first | apply secondTick_rows | apply changeReference_rows)) <;> exact good

theorem ownTick_rows (order : TickOrder) {s : State} (good : rowsLawful s) : rowsLawful (ownTick order s) := by
  simp only [ownTick]
  (repeat' split) <;>
    (repeat (with_reducible first | apply secondTick_rows)) <;> exact good

theorem pulseSwitch_rows {s : State} (good : rowsLawful s) : rowsLawful (pulseSwitch s) := by
  simp only [pulseSwitch]
  split <;> exact switchPoint_rows _ good

theorem framerefPulse_rows (instant : Nat) {s : State} (good : rowsLawful s) :
    rowsLawful (framerefPulse instant s) := by
  simp only [framerefPulse]
  (repeat' split) <;>
    (repeat (with_reducible first | apply pulseSwitch_rows | apply changeReference_rows)) <;> exact good

theorem bookOrder_rows (o : Order) {s : State} (good : rowsLawful s) : rowsLawful (bookOrder o s) := by
  exact rows_congr good (by simp)

theorem cancelAccepted_rows (n : Fin 1024) {s : State} (good : rowsLawful s) : rowsLawful (cancelAccepted n s) := by
  exact rows_congr good (by simp)

theorem cancelOrder_rows (o : Order) {s : State} (good : rowsLawful s) : rowsLawful (cancelOrder o s) := by
  simp only [cancelOrder]
  (repeat' split) <;>
    (repeat (with_reducible first
          | apply finishOrder_rows | apply cancelAccepted_rows | apply setStage_rows
          | apply closeOnAir_rows)) <;> exact good

theorem extendOrder_rows (o : Order) {s : State} (good : rowsLawful s) : rowsLawful (extendOrder o s) := by
  exact rows_congr good (by simp)

theorem lodgeSwitch_rows (d : Fin 64) (target : Source) {s : State} (good : rowsLawful s) :
    rowsLawful (lodgeSwitch d target s) := by
  simp only [lodgeSwitch]
  (repeat (with_reducible first | apply finishOrder_rows | apply request_rows))
  exact good

theorem switchOrder_rows (o : Order) {s : State} (good : rowsLawful s) : rowsLawful (switchOrder o s) := by
  simp only [switchOrder]
  (repeat' split) <;>
    (repeat (with_reducible first | apply finishOrder_rows | apply lodgeSwitch_rows)) <;> exact good

theorem storeLegMode_rows (n : Fin 1024) (mode : LegMode) {s : State} (good : rowsLawful s) :
    rowsLawful (storeLegMode n mode s) := by
  simp only [storeLegMode]
  (repeat' split) <;>
    (repeat (with_reducible first
          | apply setSlot_rows | apply finishOrder_rows | apply applyProtection_rows)) <;> exact good

theorem setLegOrder_rows (o : Order) {s : State} (good : rowsLawful s) : rowsLawful (setLegOrder o s) := by
  simp only [setLegOrder]
  (repeat' split) <;>
    (repeat (with_reducible first | apply finishOrder_rows | apply storeLegMode_rows)) <;> exact good

theorem applySetPort_rows (p : Fin 48) (o : Order) {s : State} (good : rowsLawful s) :
    rowsLawful (applySetPort p o s) := by
  simp only [applySetPort]
  (repeat' split) <;>
    (repeat (with_reducible first | apply finishOrder_rows | apply updateMonitor_rows)) <;> exact good

theorem setPortOrder_rows (o : Order) {s : State} (good : rowsLawful s) : rowsLawful (setPortOrder o s) := by
  simp only [setPortOrder]
  (repeat' split) <;>
    (repeat (with_reducible first | apply finishOrder_rows | apply applySetPort_rows)) <;> exact good

theorem readPortOrder_rows (o : Order) {s : State} (good : rowsLawful s) : rowsLawful (readPortOrder o s) := by
  exact rows_congr good (by simp)

theorem loadTariffOrder_rows (o : Order) {s : State} (good : rowsLawful s) : rowsLawful (loadTariffOrder o s) := by
  exact rows_congr good (by simp)

theorem latchAccountOrder_rows (o : Order) {s : State} (good : rowsLawful s) :
    rowsLawful (latchAccountOrder o s) := by
  exact rows_congr good (by simp)

theorem closeMatchOrder_rows (o : Order) {s : State} (good : rowsLawful s) : rowsLawful (closeMatchOrder o s) := by
  exact rows_congr good (by simp)

theorem setClockOrder_rows (o : Order) {s : State} (good : rowsLawful s) : rowsLawful (setClockOrder o s) := by
  exact rows_congr good (by simp)

theorem setStart_rows (p : StartPhase) (c : StartCode) {s : State} (good : rowsLawful s) :
    rowsLawful (setStart p c s) := by
  exact rows_congr good (by simp)

theorem identityWriteComplete_rows {s : State} (good : rowsLawful s) : rowsLawful (identityWriteComplete s) := by
  simp only [identityWriteComplete]
  (repeat' split) <;>
    (repeat (with_reducible first | apply enterRunning_rows | apply setStart_rows)) <;> exact good

theorem startDormant_rows {s : State} (good : rowsLawful s) : rowsLawful (startDormant s) := by
  exact rows_congr good (by simp)

theorem startHeld_rows {s : State} (good : rowsLawful s) : rowsLawful (startHeld s) := by
  simp only [startHeld]
  (repeat' split) <;>
    (repeat (with_reducible first | apply enterRunning_rows | apply setStart_rows)) <;> exact good

theorem startRunning_rows {s : State} (good : rowsLawful s) : rowsLawful (startRunning s) := by
  exact rows_congr good (by simp)

theorem startCommand_rows {s : State} (good : rowsLawful s) : rowsLawful (startCommand s) := by
  simp only [startCommand]
  (repeat' split) <;>
    (repeat (with_reducible first
          | apply startDormant_rows | apply startHeld_rows | apply startRunning_rows)) <;> exact good

theorem haltCommand_rows {s : State} (good : rowsLawful s) : rowsLawful (haltCommand s) := by
  exact rows_congr good (by simp)

theorem setGate_rows (g : Gate) {s : State} (good : rowsLawful s) : rowsLawful (setGate g s) := by
  exact rows_congr good (by simp)

theorem completeInFlight_rows (cut : CutOff) {s : State} (good : rowsLawful s) :
    rowsLawful (completeInFlight cut s) := by
  exact rows_congr good (by simp)

theorem completeAccesses_rows (cut : CutOff) {s : State} (good : rowsLawful s) :
    rowsLawful (completeAccesses cut s) := by
  exact rows_congr good (by simp)

theorem completeTick_rows (cut : CutOff) {s : State} (good : rowsLawful s) : rowsLawful (completeTick cut s) := by
  simp only [completeTick]
  (repeat' split) <;>
    (repeat (with_reducible first | apply setRollover_rows | apply owedTick_rows)) <;> exact good

theorem completeHolds_rows {s : State} (good : rowsLawful s) : rowsLawful (completeHolds s) := by
  exact rows_congr good (by simp)

theorem ownerTakes_rows (o : Order) {s : State} (good : rowsLawful s) : rowsLawful (ownerTakes o s) := by
  simp only [ownerTakes]
  (repeat' split) <;>
    (repeat (with_reducible first
          | apply bookOrder_rows | apply cancelOrder_rows | apply extendOrder_rows | apply switchOrder_rows
          | apply setLegOrder_rows | apply setPortOrder_rows | apply readPortOrder_rows | apply loadTariffOrder_rows
          | apply latchAccountOrder_rows | apply closeMatchOrder_rows | apply setClockOrder_rows)) <;> exact good

theorem completeEntry_rows (cut : CutOff) {s : State} (good : rowsLawful s) : rowsLawful (completeEntry cut s) := by
  exact rows_congr good (by simp)

theorem completeDispatched_rows (cut : CutOff) {s : State} (good : rowsLawful s) :
    rowsLawful (completeDispatched cut s) := by
  simp only [completeDispatched]
  (repeat' split) <;>
    (repeat (with_reducible first
          | apply completeInFlight_rows | apply ownerTakes_rows | apply setGate_rows)) <;> exact good

theorem completeSegment_rows (cut : CutOff) {s : State} (good : rowsLawful s) :
    rowsLawful (completeSegment cut s) := by
  exact rows_congr good (by simp)

theorem completeOrder_rows (cut : CutOff) {s : State} (good : rowsLawful s) : rowsLawful (completeOrder cut s) := by
  simp only [completeOrder]
  (repeat (with_reducible first
        | apply completeSegment_rows | apply completeDispatched_rows | apply completeEntry_rows | apply setGate_rows))
  exact good

theorem completeInside_rows (cut : CutOff) {s : State} (good : rowsLawful s) : rowsLawful (completeInside cut s) := by
  simp only [completeInside]
  (repeat (with_reducible first
        | apply completeOrder_rows | apply completeHolds_rows | apply completeTick_rows
        | apply completeAccesses_rows))
  exact good

theorem softClear_rows {s : State} (good : rowsLawful s) : rowsLawful (softClear s) := by
  exact rows_congr good (by simp)

theorem latchLeave_rows (from_ : RunState) {s : State} (good : rowsLawful s) : rowsLawful (latchLeave from_ s) := by
  exact rows_congr good (by simp)

theorem softReset_rows (cut : CutOff) {s : State} (good : rowsLawful s) : rowsLawful (softReset cut s) := by
  simp only [softReset]
  (repeat (with_reducible first
        | apply settlePage_rows | apply latchLeave_rows | apply softClear_rows | apply completeInside_rows
        | apply abandonPage_rows))
  exact good

theorem hardReset_rows (s : State) : rowsLawful (hardReset s) := by
  intro d
  simp [hardReset, State.hardReset, Row.hardReset, rowLawful]

theorem resetRelease_rows (instant : Nat) {s : State} (good : rowsLawful s) :
    rowsLawful (resetRelease instant s) := by
  simp only [resetRelease]
  split
  · exact good
  · exact rows_congr (hardReset_rows s) (by simp)

theorem areaWrite_rows (high : Bool) (value : Word) {s : State} (good : rowsLawful s) :
    rowsLawful (areaWrite high value s) := by
  exact rows_congr good (by simp)

theorem flagsWrite_rows (value : Word) {s : State} (good : rowsLawful s) : rowsLawful (flagsWrite value s) := by
  exact rows_congr good (by simp)

theorem ctrlCommand_rows (command : BitVec 2) (cut : CutOff) {s : State} (good : rowsLawful s) :
    rowsLawful (ctrlCommand command cut s) := by
  simp only [ctrlCommand]
  (repeat' split) <;>
    (repeat (with_reducible first
          | apply startCommand_rows | apply haltCommand_rows | apply softReset_rows)) <;> exact good

theorem ctrlWrite_rows (value : Word) (cut : CutOff) {s : State} (good : rowsLawful s) :
    rowsLawful (ctrlWrite value cut s) := by
  simp only [ctrlWrite]
  (repeat' split) <;>
    (repeat (with_reducible first | apply ctrlCommand_rows | apply modeWrite_rows)) <;> exact good

theorem nextAlarmRegister_rows (value : Word) {s : State} (good : rowsLawful s) :
    rowsLawful (nextAlarmRegister value s) := by
  exact rows_congr good (by simp)

theorem registerWrite_rows (r : Register) (enables : BitVec 4) (value : Word) (cut : CutOff) {s : State}
    (good : rowsLawful s) : rowsLawful (registerWrite r enables value cut s) := by
  simp only [registerWrite]
  (repeat' split) <;>
    (repeat (with_reducible first
          | apply ctrlWrite_rows | apply areaWrite_rows | apply orderEndWrite_rows | apply flagsWrite_rows
          | apply nextAlarmRegister_rows)) <;> exact good

end Sys2Proof.Machine
end

