-- ==== Sys2Proof/Laws/Silent.lean ====
section
/-! SUPPORT. In the fatal state every operation but a reset leaves the part HELD and fatal and puts nothing on the link but
interrupt messages (R12, R15, R172). -/

namespace Sys2Proof.Machine

/-- A state with the same link is as silent. -/
theorem silent_congr {l : List LinkOp} {s t : State} (h : silentFrom l s) (e : t.link = s.link) : silentFrom l t := by
  simpa only [silentFrom, e] using h

/-- The interrupt message is the one entry a silent part adds. -/
theorem message_silent {l : List LinkOp} {s : State} (good : silentFrom l s) : silentFrom l (record .message s) := by
  obtain ⟨h1, h2, n, hn⟩ := good
  refine ⟨h1, h2, n + 1, ?_⟩
  simp [record, hn, List.replicate_succ']

theorem setFlags_silent (f : BitVec 7) {l : List LinkOp} {s : State} (good : silentFrom l s) :
    silentFrom l (setFlags f s) := by
  simp only [setFlags]
  split
  · exact message_silent good
  · exact good

theorem latch_silent (f : Flag) {l : List LinkOp} {s : State} (good : silentFrom l s) : silentFrom l (latch f s) := by
  simp only [latch]
  (repeat' split) <;>
    (repeat (with_reducible first | apply setFlags_silent)) <;> exact good

theorem followAlarm_silent {l : List LinkOp} {s : State} (good : silentFrom l s) : silentFrom l (followAlarm s) := by
  simp only [followAlarm]
  (repeat (with_reducible first | apply setFlags_silent))
  exact good

theorem setAlarm_silent (a : Alarm) {l : List LinkOp} {s : State} (good : silentFrom l s) :
    silentFrom l (setAlarm a s) := by
  simp only [setAlarm]
  (repeat (with_reducible first | apply followAlarm_silent))
  exact good

theorem setSeverity_silent (i : Fin 51) (severity : Fin 4) {l : List LinkOp} {s : State} (good : silentFrom l s) :
    silentFrom l (setSeverity i severity s) := by
  simp only [setSeverity]
  (repeat (with_reducible first | apply setAlarm_silent))
  exact good

theorem nextAlarmWrite_silent (ack push pop : Bool) (item : BitVec 6)
    {l : List LinkOp} {s : State} (good : silentFrom l s) :
    silentFrom l (nextAlarmWrite ack push pop item s) := by
  simp only [nextAlarmWrite]
  (repeat (with_reducible first | apply setAlarm_silent))
  exact good

theorem modeWrite_silent (mode : BitVec 2) (spotlight : BitVec 6)
    {l : List LinkOp} {s : State} (good : silentFrom l s) :
    silentFrom l (modeWrite mode spotlight s) := by
  simp only [modeWrite]
  (repeat (with_reducible first | apply setAlarm_silent))
  exact good

theorem changeAccount_silent (m : Nat) (f : Account → Account) {l : List LinkOp} {s : State} (good : silentFrom l s) :
    silentFrom l (changeAccount m f s) := by
  exact silent_congr good (by simp)

theorem freeAccountSlot_silent (k : Fin 128) {l : List LinkOp} {s : State} (good : silentFrom l s) :
    silentFrom l (freeAccountSlot k s) := by
  exact silent_congr good (by simp)

theorem loseTicket_silent (m : Option Nat) {l : List LinkOp} {s : State} (good : silentFrom l s) :
    silentFrom l (loseTicket m s) := by
  simp only [loseTicket]
  (repeat' split) <;>
    (repeat (with_reducible first | apply changeAccount_silent | apply latch_silent)) <;> exact good

theorem raiseNumber_silent {l : List LinkOp} {s : State} (good : silentFrom l s) : silentFrom l (raiseNumber s) := by
  exact silent_congr good (by simp)

theorem setSlot_silent (n : Fin 1024) (b : Slot) {l : List LinkOp} {s : State} (good : silentFrom l s) :
    silentFrom l (setSlot n b s) := by
  exact silent_congr good (by simp)

theorem takeClose_silent (r : Raise) {l : List LinkOp} {s : State} (good : silentFrom l s) :
    silentFrom l (takeClose r s) := by
  exact silent_congr good (by simp)

theorem loseRaise_silent (r : Raise) {l : List LinkOp} {s : State} (good : silentFrom l s) :
    silentFrom l (loseRaise r s) := by
  simp only [loseRaise]
  (repeat (with_reducible first | apply loseTicket_silent))
  exact good

theorem endClose_silent (r : Raise) {l : List LinkOp} {s : State} (good : silentFrom l s) :
    silentFrom l (endClose r s) := by
  exact silent_congr good (by simp)

theorem closeInside_silent (r : Raise) {l : List LinkOp} {s : State} (good : silentFrom l s) :
    silentFrom l (closeInside r s) := by
  simp only [closeInside]
  (repeat (with_reducible first | apply endClose_silent | apply loseRaise_silent | apply raiseNumber_silent))
  exact good

theorem enterHeld_silent {l : List LinkOp} {s : State} (good : silentFrom l s) : silentFrom l (enterHeld s) :=
  latch_silent _ ⟨good.1, rfl, good.2.2⟩

theorem dropAccess_silent (a : Access) {l : List LinkOp} {s : State} (good : silentFrom l s) :
    silentFrom l (dropAccess a s) := by
  simp only [dropAccess]
  (repeat' split) <;>
    (repeat (with_reducible first
          | apply closeInside_silent | apply endClose_silent | apply loseRaise_silent | apply freeAccountSlot_silent
          | apply loseTicket_silent)) <;> exact good

theorem clearAccesses_silent {l : List LinkOp} {s : State} (good : silentFrom l s) :
    silentFrom l (clearAccesses s) := by
  exact silent_congr good (by simp)

theorem dropAccesses_silent {l : List LinkOp} {s : State} (good : silentFrom l s) :
    silentFrom l (dropAccesses s) := by
  exact foldl_closed (fun t a ht => dropAccess_silent a ht) _ (clearAccesses_silent good)

theorem takeBusFault_silent {l : List LinkOp} {s : State} (good : silentFrom l s) :
    silentFrom l (takeBusFault s) := by
  simpa only [takeBusFault, if_pos good.1] using good

/-- R15: all host-memory access is stopped. -/
theorem closed_of_silent {l : List LinkOp} {s : State} (good : silentFrom l s) :
    readsOpen s = false ∧ linkOpen s = false ∧ startOpen s = false ∧ pagesOn s = false := by
  simp [readsOpen, linkOpen, startOpen, pagesOn, good.1]

theorem issue_silent (w : HostWrite) {l : List LinkOp} {s : State} (good : silentFrom l s) :
    silentFrom l (issue w s) := by
  simpa [issue, (closed_of_silent good).2.1] using good

theorem issueAll_silent (ws : List HostWrite) {l : List LinkOp} {s : State} (good : silentFrom l s) :
    silentFrom l (issueAll ws s) := by
  induction ws generalizing s with
  | nil => exact good
  | cons w ws ih => exact ih (issue_silent w good)

theorem issueRead_silent (a : Address) (n : Nat) {l : List LinkOp} {s : State} (good : silentFrom l s) :
    silentFrom l (issueRead a n s) := by
  simpa [issueRead, (closed_of_silent good).1] using good

theorem setUnit_silent (u : UnitState) {l : List LinkOp} {s : State} (good : silentFrom l s) :
    silentFrom l (setUnit u s) := by
  exact silent_congr good (by simp)

theorem takeEntry_silent {l : List LinkOp} {s : State} (good : silentFrom l s) : silentFrom l (takeEntry s) := by
  simp only [takeEntry]
  (repeat' split) <;>
    (repeat (with_reducible first | apply setUnit_silent | apply issueRead_silent)) <;> exact good

theorem afterOrder_silent {l : List LinkOp} {s : State} (good : silentFrom l s) : silentFrom l (afterOrder s) := by
  simp only [afterOrder]
  (repeat' split) <;>
    (repeat (with_reducible first | apply enterHeld_silent | apply takeEntry_silent)) <;> exact good

theorem orderDone_silent (notify : Bool) {l : List LinkOp} {s : State} (good : silentFrom l s) :
    silentFrom l (orderDone notify s) := by
  simp only [orderDone]
  split
  · exact afterOrder_silent (latch_silent _ good)
  · exact afterOrder_silent good

theorem report_silent (notify : Bool) (outcome : OutcomeCode) (result : List Byte)
    {l : List LinkOp} {s : State} (good : silentFrom l s) :
    silentFrom l (report notify outcome result s) := by
  simp only [report]
  (repeat' split) <;>
    (repeat (with_reducible first
          | apply issueAll_silent | apply setUnit_silent | apply issue_silent
          | apply orderDone_silent)) <;> exact good

theorem finishOrder_silent (outcome : OutcomeCode) (result : List Byte)
    {l : List LinkOp} {s : State} (good : silentFrom l s) :
    silentFrom l (finishOrder outcome result s) := by
  simp only [finishOrder]
  (repeat' split) <;>
    (repeat (with_reducible first | apply report_silent)) <;> exact good

theorem setStage_silent (stage : Stage) {l : List LinkOp} {s : State} (good : silentFrom l s) :
    silentFrom l (setStage stage s) := by
  exact silent_congr good (by simp)

theorem examineEntry_silent (bytes : Vector Byte 24) {l : List LinkOp} {s : State} (good : silentFrom l s) :
    silentFrom l (examineEntry bytes s) := by
  simp only [examineEntry]
  (repeat' split) <;>
    (repeat (with_reducible first | apply report_silent | apply setUnit_silent)) <;> exact good

theorem entryRead_silent (bytes : Vector Byte 24) {l : List LinkOp} {s : State} (good : silentFrom l s) :
    silentFrom l (entryRead bytes s) := by
  simp only [entryRead]
  (repeat' split) <;>
    (repeat (with_reducible first | apply examineEntry_silent)) <;> exact good

theorem orderEndWrite_silent (value : Word) {l : List LinkOp} {s : State} (good : silentFrom l s) :
    silentFrom l (orderEndWrite value s) := by
  simp only [orderEndWrite]
  (repeat (with_reducible first | apply takeEntry_silent))
  exact good

theorem setInFlight_silent (a : Option Access) {l : List LinkOp} {s : State} (good : silentFrom l s) :
    silentFrom l (setInFlight a s) := by
  exact silent_congr good (by simp)

theorem unblockRing_silent {l : List LinkOp} {s : State} (good : silentFrom l s) : silentFrom l (unblockRing s) := by
  simp only [unblockRing]
  (repeat' split) <;>
    (repeat (with_reducible first | apply setSeverity_silent)) <;> exact good

theorem blockRing_silent {l : List LinkOp} {s : State} (good : silentFrom l s) : silentFrom l (blockRing s) := by
  simp only [blockRing]
  (repeat' split) <;>
    (repeat (with_reducible first | apply setSeverity_silent)) <;> exact good

theorem ticketWritten_silent {l : List LinkOp} {s : State} (good : silentFrom l s) :
    silentFrom l (ticketWritten s) := by
  simp only [ticketWritten]
  (repeat (with_reducible first | apply unblockRing_silent | apply latch_silent))
  exact good

theorem recordClose_silent (r : Raise) {l : List LinkOp} {s : State} (good : silentFrom l s) :
    silentFrom l (recordClose r s) := by
  simp only [recordClose]
  (repeat (with_reducible first | apply issueAll_silent))
  exact good

theorem finishClose_silent (r : Raise) (number : BitVec 32) {l : List LinkOp} {s : State} (good : silentFrom l s) :
    silentFrom l (finishClose r number s) := by
  simp only [finishClose]
  (repeat' split) <;>
    (repeat (with_reducible first | apply finishOrder_silent | apply endClose_silent)) <;> exact good

theorem lostClose_silent (r : Raise) {l : List LinkOp} {s : State} (good : silentFrom l s) :
    silentFrom l (lostClose r s) := by
  simp only [lostClose]
  (repeat (with_reducible first | apply finishClose_silent | apply recordClose_silent))
  exact good

theorem beginAccess_silent (a : Access) {l : List LinkOp} {s : State} (good : silentFrom l s) :
    silentFrom l (beginAccess a s) := by
  simp only [beginAccess]
  (repeat' split) <;>
    (repeat (with_reducible first
          | apply issue_silent | apply finishOrder_silent | apply setInFlight_silent | apply issueRead_silent
          | apply lostClose_silent | apply loseRaise_silent | apply raiseNumber_silent
          | apply setStage_silent)) <;> exact good

theorem pump_silent (accesses : List Access) {l : List LinkOp} {s : State} (good : silentFrom l s) :
    silentFrom l (pump accesses s) := by
  induction accesses generalizing s with
  | nil => exact good
  | cons a rest ih =>
    simp only [pump]
    split
    · exact good
    · exact ih (beginAccess_silent a good)

theorem pumpWaiting_silent {l : List LinkOp} {s : State} (good : silentFrom l s) : silentFrom l (pumpWaiting s) := by
  simp only [pumpWaiting]
  (repeat (with_reducible first | apply pump_silent))
  exact good

theorem submit_silent (accesses : List Access) {l : List LinkOp} {s : State} (good : silentFrom l s) :
    silentFrom l (submit accesses s) := by
  simp only [submit]
  (repeat (with_reducible first | apply pumpWaiting_silent))
  exact good

theorem writeClose_silent (r : Raise) {l : List LinkOp} {s : State} (good : silentFrom l s) :
    silentFrom l (writeClose r s) := by
  simp only [writeClose]
  (repeat' split) <;>
    (repeat (with_reducible first
          | apply issueAll_silent | apply setInFlight_silent | apply recordClose_silent | apply ticketWritten_silent
          | apply finishClose_silent)) <;> exact good

theorem raiseRead_silent (r : Raise) (empty : Bool) {l : List LinkOp} {s : State} (good : silentFrom l s) :
    silentFrom l (raiseRead r empty s) := by
  simp only [raiseRead]
  (repeat' split) <;>
    (repeat (with_reducible first
          | apply setInFlight_silent | apply writeClose_silent | apply lostClose_silent
          | apply blockRing_silent | apply loseRaise_silent)) <;> exact good

theorem totalRead_silent (k : Fin 128) (minute : Nat) (empty : Bool)
    {l : List LinkOp} {s : State} (good : silentFrom l s) :
    silentFrom l (totalRead k minute empty s) := by
  simp only [totalRead]
  (repeat' split) <;>
    (repeat (with_reducible first
          | apply setInFlight_silent | apply raiseNumber_silent | apply issueAll_silent | apply finishOrder_silent
          | apply freeAccountSlot_silent | apply ticketWritten_silent)) <;> exact good

theorem ticketSlotRead_silent (state : Byte) {l : List LinkOp} {s : State} (good : silentFrom l s) :
    silentFrom l (ticketSlotRead state s) := by
  simp only [ticketSlotRead]
  (repeat' split) <;>
    (repeat (with_reducible first
          | apply pumpWaiting_silent | apply raiseRead_silent | apply totalRead_silent | apply unblockRing_silent
          | apply setInFlight_silent)) <;> exact good

theorem request_silent (d : Fin 64) (target : Source) (cause : Cause)
    {l : List LinkOp} {s : State} (good : silentFrom l s) :
    silentFrom l (request d target cause s) := by
  exact silent_congr good (by simp)

theorem applyProtection_silent (n : Fin 1024) {l : List LinkOp} {s : State} (good : silentFrom l s) :
    silentFrom l (applyProtection n s) := by
  exact silent_congr good (by simp)

theorem applyActivation_silent (n : Fin 1024) {l : List LinkOp} {s : State} (good : silentFrom l s) :
    silentFrom l (applyActivation n s) := by
  exact silent_congr good (by simp)

theorem protectPort_silent (cond : Slot → Bool) (d : Fin 64) {l : List LinkOp} {s : State} (good : silentFrom l s) :
    silentFrom l (protectPort cond d s) := by
  exact silent_congr good (by simp)

theorem protectHealth_silent (p : Fin 48) {l : List LinkOp} {s : State} (good : silentFrom l s) :
    silentFrom l (protectHealth p s) := by
  exact silent_congr good (by simp)

theorem deriveSources_silent {l : List LinkOp} {s : State} (good : silentFrom l s) :
    silentFrom l (deriveSources s) := by
  simp only [deriveSources]
  (repeat (with_reducible first | apply setAlarm_silent))
  exact good

theorem markPage_silent {l : List LinkOp} {s : State} (good : silentFrom l s) : silentFrom l (markPage s) := by
  simp only [markPage]
  exact good

theorem handExecutions_silent (ports :
    List (Fin 64)) {l : List LinkOp} {s : State} (good : silentFrom l s) : silentFrom l (handExecutions ports s) := by
  simp only [handExecutions]
  split
  · exact good
  · exact markPage_silent (deriveSources_silent (foldl_closed (fun t d ht => protectPort_silent _ d ht) _ good))

theorem switchPoint_silent (inside : Bool) {l : List LinkOp} {s : State} (good : silentFrom l s) :
    silentFrom l (switchPoint inside s) := by
  simp only [switchPoint]
  (repeat (with_reducible first | apply handExecutions_silent))
  exact good

theorem tickRows_silent {l : List LinkOp} {s : State} (good : silentFrom l s) : silentFrom l (tickRows s) := by
  exact silent_congr good (by simp)

theorem crosspointTick_silent {l : List LinkOp} {s : State} (good : silentFrom l s) :
    silentFrom l (crosspointTick s) := by
  simp only [crosspointTick]
  (repeat' split) <;>
    (repeat (with_reducible first | apply switchPoint_silent | apply tickRows_silent)) <;> exact good

theorem setMonitor_silent (p : Fin 48) (m : Monitor) {l : List LinkOp} {s : State} (good : silentFrom l s) :
    silentFrom l (setMonitor p m s) := by
  exact silent_congr good (by simp)

theorem healthChanged_silent (p : Fin 48) {l : List LinkOp} {s : State} (good : silentFrom l s) :
    silentFrom l (healthChanged p s) := by
  simp only [healthChanged]
  (repeat (with_reducible first | apply markPage_silent | apply deriveSources_silent | apply protectHealth_silent))
  exact good

theorem updateMonitor_silent (p : Fin 48) (m : Monitor) {l : List LinkOp} {s : State} (good : silentFrom l s) :
    silentFrom l (updateMonitor p m s) := by
  simp only [updateMonitor]
  (repeat' split) <;>
    (repeat (with_reducible first | apply setMonitor_silent | apply healthChanged_silent)) <;> exact good

theorem monitorTick_silent (p : Fin 48) {l : List LinkOp} {s : State} (good : silentFrom l s) :
    silentFrom l (monitorTick p s) := by
  simp only [monitorTick]
  (repeat' split) <;>
    (repeat (with_reducible first | apply setMonitor_silent | apply updateMonitor_silent)) <;> exact good

theorem takeTickEarly_silent (p : Fin 48) {l : List LinkOp} {s : State} (good : silentFrom l s) :
    silentFrom l (takeTickEarly p s) := by
  simp only [takeTickEarly]
  (repeat (with_reducible first | apply updateMonitor_silent))
  exact good

theorem holdOffReached_silent (p : Fin 48) {l : List LinkOp} {s : State} (good : silentFrom l s) :
    silentFrom l (holdOffReached p s) := by
  simp only [holdOffReached]
  (repeat' split) <;>
    (repeat (with_reducible first | apply takeTickEarly_silent)) <;> exact good

theorem restoreExpired_silent (p : Fin 48) {l : List LinkOp} {s : State} (good : silentFrom l s) :
    silentFrom l (restoreExpired p s) := by
  simp only [restoreExpired]
  (repeat' split) <;>
    (repeat (with_reducible first | apply takeTickEarly_silent)) <;> exact good

theorem receiverObservation_silent (p : Fin 48) (seen : Observation)
    {l : List LinkOp} {s : State} (good : silentFrom l s) :
    silentFrom l (receiverObservation p seen s) := by
  simp only [receiverObservation]
  (repeat (with_reducible first | apply updateMonitor_silent))
  exact good

theorem lossOfLight_silent (p : Fin 48) {l : List LinkOp} {s : State} (good : silentFrom l s) :
    silentFrom l (lossOfLight p s) := by
  simp only [lossOfLight]
  (repeat (with_reducible first | apply updateMonitor_silent))
  exact good

theorem countMeters_silent (e : EndedSecond) {l : List LinkOp} {s : State} (good : silentFrom l s) :
    silentFrom l (countMeters e s) := by
  exact silent_congr good (by simp)

theorem setMeter_silent (n : Fin 1024) (m : Meter) {l : List LinkOp} {s : State} (good : silentFrom l s) :
    silentFrom l (setMeter n m s) := by
  exact silent_congr good (by simp)

theorem takeTariffBoundary_silent {l : List LinkOp} {s : State} (good : silentFrom l s) :
    silentFrom l (takeTariffBoundary s) := by
  exact silent_congr good (by simp)

theorem leaveTimeline_silent (n : Fin 1024) {l : List LinkOp} {s : State} (good : silentFrom l s) :
    silentFrom l (leaveTimeline n s) := by
  exact silent_congr good (by simp)

theorem makeRecheck_silent {l : List LinkOp} {s : State} (good : silentFrom l s) : silentFrom l (makeRecheck s) := by
  simp only [makeRecheck]
  (repeat (with_reducible first | apply submit_silent))
  exact good

theorem countRecheck_silent {l : List LinkOp} {s : State} (good : silentFrom l s) :
    silentFrom l (countRecheck s) := by
  simp only [countRecheck]
  (repeat' split) <;>
    (repeat (with_reducible first | apply makeRecheck_silent)) <;> exact good

theorem lastRecheck_silent {l : List LinkOp} {s : State} (good : silentFrom l s) : silentFrom l (lastRecheck s) := by
  simp only [lastRecheck]
  (repeat' split) <;>
    (repeat (with_reducible first | apply makeRecheck_silent)) <;> exact good

theorem settleClose_silent (kind : TicketKind) (n : Fin 1024) (closeMinute : Nat) (forOrder : Bool)
    {l : List LinkOp} {s : State} (good : silentFrom l s) :
    silentFrom l (settleClose kind n closeMinute forOrder s) := by
  simp only [settleClose]
  (repeat (with_reducible first | apply submit_silent | apply takeClose_silent))
  exact good

theorem handToAlarms_silent {l : List LinkOp} {s : State} (good : silentFrom l s) :
    silentFrom l (handToAlarms s) := by
  simp only [handToAlarms]
  (repeat (with_reducible first | apply deriveSources_silent))
  exact good

theorem beginClose_silent (n : Fin 1024) (minute : Nat) {l : List LinkOp} {s : State} (good : silentFrom l s) :
    silentFrom l (beginClose n minute s) := by
  simp only [beginClose]
  (repeat' split) <;>
    (repeat (with_reducible first
          | apply leaveTimeline_silent | apply handToAlarms_silent | apply request_silent)) <;> exact good

theorem holdClose_silent (n : Fin 1024) (minute : Nat) {l : List LinkOp} {s : State} (good : silentFrom l s) :
    silentFrom l (holdClose n minute s) := by
  exact silent_congr good (by simp)

theorem closeOnAir_silent (n : Fin 1024) (minute : Nat) (counted forOrder : Bool)
    {l : List LinkOp} {s : State} (good : silentFrom l s) :
    silentFrom l (closeOnAir n minute counted forOrder s) := by
  simp only [closeOnAir]
  (repeat' split) <;>
    (repeat (with_reducible first
          | apply beginClose_silent | apply settleClose_silent | apply holdClose_silent)) <;> exact good

theorem closeMissed_silent (n : Fin 1024) (minute : Nat) {l : List LinkOp} {s : State} (good : silentFrom l s) :
    silentFrom l (closeMissed n minute s) := by
  simp only [closeMissed]
  (repeat (with_reducible first | apply settleClose_silent | apply leaveTimeline_silent))
  exact good

theorem markOwned_silent (d : Fin 64) {l : List LinkOp} {s : State} (good : silentFrom l s) :
    silentFrom l (markOwned d s) := by
  exact silent_congr good (by simp)

theorem activate_silent (n : Fin 1024) (minute : Nat) (first : Stamp) (band : Option Band)
    {l : List LinkOp} {s : State} (good : silentFrom l s) :
    silentFrom l (activate n minute first band s) := by
  simp only [activate]
  (repeat (with_reducible first
        | apply setSlot_silent | apply setMeter_silent | apply handToAlarms_silent | apply markOwned_silent
        | apply applyActivation_silent | apply submit_silent))
  exact good

theorem enterOverrun_silent (n : Fin 1024) {l : List LinkOp} {s : State} (good : silentFrom l s) :
    silentFrom l (enterOverrun n s) := by
  simp only [enterOverrun]
  (repeat (with_reducible first | apply submit_silent | apply setSlot_silent))
  exact good

theorem boundaryClose_silent (n : Fin 1024) (minute : Nat) (counted : Bool)
    {l : List LinkOp} {s : State} (good : silentFrom l s) :
    silentFrom l (boundaryClose n minute counted s) := by
  simp only [boundaryClose]
  (repeat' split) <;>
    (repeat (with_reducible first | apply closeOnAir_silent | apply countRecheck_silent)) <;> exact good

theorem boundaryHead_silent (minute : Nat) (counted : Bool) (d : Fin 64)
    {l : List LinkOp} {s : State} (good : silentFrom l s) :
    silentFrom l (boundaryHead minute counted d s) := by
  simp only [boundaryHead]
  (repeat' split) <;>
    (repeat (with_reducible first | apply boundaryClose_silent | apply enterOverrun_silent)) <;> exact good

theorem boundaryStart_silent (minute : Nat) (swapped : Bool) (d : Fin 64)
    {l : List LinkOp} {s : State} (good : silentFrom l s) :
    silentFrom l (boundaryStart minute swapped d s) := by
  simp only [boundaryStart]
  (repeat' split) <;>
    (repeat (with_reducible first | apply activate_silent)) <;> exact good

theorem boundaryTimeline_silent (minute : Nat) (counted swapped : Bool) (d : Fin 64)
    {l : List LinkOp} {s : State} (good : silentFrom l s) :
    silentFrom l (boundaryTimeline minute counted swapped d s) := by
  simp only [boundaryTimeline]
  (repeat (with_reducible first | apply boundaryStart_silent | apply boundaryHead_silent))
  exact good

theorem storeTimelines_silent (taken : Bool) (minute : Nat) (counted swapped : Bool) (ports :
    List (Fin 64)) {l : List LinkOp} {s : State} (good : silentFrom l s) :
    silentFrom l (storeTimelines taken minute counted swapped ports s) := by
  simp only [storeTimelines]
  split
  · exact foldl_closed (fun t d ht => boundaryTimeline_silent _ _ _ d ht) _ good
  · exact good

theorem openRecheck_silent (recheckAfter : Nat) {l : List LinkOp} {s : State} (good : silentFrom l s) :
    silentFrom l (openRecheck recheckAfter s) := by
  simp only [openRecheck]
  (repeat' split) <;>
    (repeat (with_reducible first | apply makeRecheck_silent)) <;> exact good

theorem boundaryCounted_silent (minute swapAfter recheckAfter : Nat)
    {l : List LinkOp} {s : State} (good : silentFrom l s) :
    silentFrom l (boundaryCounted minute swapAfter recheckAfter s) := by
  simp only [boundaryCounted]
  (repeat (with_reducible first
        | apply storeTimelines_silent | apply openRecheck_silent | apply lastRecheck_silent
        | apply takeTariffBoundary_silent))
  exact good

theorem boundaryUncounted_silent (minute recheckAfter : Nat) {l : List LinkOp} {s : State} (good : silentFrom l s) :
    silentFrom l (boundaryUncounted minute recheckAfter s) := by
  simp only [boundaryUncounted]
  (repeat (with_reducible first | apply lastRecheck_silent | apply storeTimelines_silent | apply openRecheck_silent))
  exact good

theorem catchUpCloses_silent (members :
    List (Fin 1024)) {l : List LinkOp} {s : State} (good : silentFrom l s) :
    silentFrom l (catchUpCloses members s) := by
  induction members generalizing s with
  | nil => exact good
  | cons n rest ih =>
    simp only [catchUpCloses]
    (repeat' split) <;> 
      first
        | with_reducible exact good
        | with_reducible exact ih (closeOnAir_silent _ _ _ _ good)
        | with_reducible exact ih (closeMissed_silent _ _ good)

theorem catchUpStart_silent (d : Fin 64) {l : List LinkOp} {s : State} (good : silentFrom l s) :
    silentFrom l (catchUpStart d s) := by
  simp only [catchUpStart]
  (repeat' split) <;>
    (repeat (with_reducible first | apply activate_silent)) <;> exact good

theorem catchUpPhase_silent (d : Fin 64) {l : List LinkOp} {s : State} (good : silentFrom l s) :
    silentFrom l (catchUpPhase d s) := by
  simp only [catchUpPhase]
  (repeat' split) <;>
    (repeat (with_reducible first | apply enterOverrun_silent)) <;> exact good

theorem catchUpTimeline_silent (d : Fin 64) {l : List LinkOp} {s : State} (good : silentFrom l s) :
    silentFrom l (catchUpTimeline d s) := by
  simp only [catchUpTimeline]
  (repeat (with_reducible first | apply catchUpPhase_silent | apply catchUpStart_silent | apply catchUpCloses_silent))
  exact good

theorem catchUp_silent {l : List LinkOp} {s : State} (good : silentFrom l s) : silentFrom l (catchUp s) := by
  exact foldl_closed (fun t d ht => catchUpTimeline_silent d ht) _ good

theorem releaseFirst_silent {l : List LinkOp} {s : State} (good : silentFrom l s) :
    silentFrom l (releaseFirst s) := by
  simp only [releaseFirst]
  (repeat' split) <;>
    (repeat (with_reducible first
          | apply lastRecheck_silent | apply countRecheck_silent | apply settleClose_silent)) <;> exact good

theorem beginPage_silent (time : Stamp) {l : List LinkOp} {s : State} (good : silentFrom l s) :
    silentFrom l (beginPage time s) := by
  simp only [beginPage]
  exact good

theorem nextMark_silent {l : List LinkOp} {s : State} (good : silentFrom l s) : silentFrom l (nextMark s) := by
  simp only [nextMark]
  exact good

theorem pageTick_silent (boundary : Bool) (time : Stamp) {l : List LinkOp} {s : State} (good : silentFrom l s) :
    silentFrom l (pageTick boundary time s) := by
  simp only [pageTick]
  (repeat' split) <;>
    (repeat (with_reducible first
          | apply nextMark_silent | apply beginPage_silent | apply markPage_silent)) <;> exact good

theorem settlePage_silent {l : List LinkOp} {s : State} (good : silentFrom l s) : silentFrom l (settlePage s) := by
  simp only [settlePage]
  exact takeOwed_holds (fun time _ => pageTick_silent true time) _ good

theorem boundaryPage_silent (minute : BitVec 32) {l : List LinkOp} {s : State} (good : silentFrom l s) :
    silentFrom l (boundaryPage minute s) := by
  simp only [boundaryPage]
  (repeat (with_reducible first | apply settlePage_silent | apply pageTick_silent))
  exact good

theorem secondPage_silent (ahead : Bool) {l : List LinkOp} {s : State} (good : silentFrom l s) :
    silentFrom l (secondPage ahead s) := by
  simp only [secondPage]
  apply pageTick_silent
  split
  · exact good
  · exact nextMark_silent good

theorem endPage_silent {l : List LinkOp} {s : State} (good : silentFrom l s) : silentFrom l (endPage s) := by
  simp only [endPage]
  exact good

theorem pageComplete_silent {l : List LinkOp} {s : State} (good : silentFrom l s) :
    silentFrom l (pageComplete s) := by
  simp only [pageComplete]
  (repeat' split) <;>
    (repeat (with_reducible first | apply issueAll_silent | apply latch_silent | apply endPage_silent)) <;> exact good

theorem crosspointBlock_silent {l : List LinkOp} {s : State} (good : silentFrom l s) :
    silentFrom l (crosspointBlock s) := by
  simp only [crosspointBlock]
  (repeat' split) <;>
    (repeat (with_reducible first | apply crosspointTick_silent)) <;> exact good

theorem blockTick_silent (k : Fin 49) {l : List LinkOp} {s : State} (good : silentFrom l s) :
    silentFrom l (blockTick k s) := by
  simp only [blockTick]
  (repeat' split) <;>
    (repeat (with_reducible first | apply monitorTick_silent | apply crosspointBlock_silent)) <;> exact good

theorem blockAhead_silent (k : Fin 49) {l : List LinkOp} {s : State} (good : silentFrom l s) :
    silentFrom l (blockAhead k s) := by
  simp only [blockAhead]
  split
  · split
    · exact good
    · exact takeTickEarly_silent _ good
  · split
    · exact good
    · exact crosspointTick_silent good

theorem ticksAhead_silent (early : TickOrder) {l : List LinkOp} {s : State} (good : silentFrom l s) :
    silentFrom l (ticksAhead early s) := by
  exact foldl_closed (fun t k ht => blockAhead_silent k ht) _ good

theorem blocksTick_silent (order done :
    List (Fin 49)) {l : List LinkOp} {s : State} (good : silentFrom l s) :
    silentFrom l (blocksTick order done s) := by
  induction order generalizing s done with
  | nil => exact good
  | cons b rest ih =>
    simp only [blocksTick]
    split
    · exact ih _ good
    · exact ih _ (blockTick_silent b good)

theorem handTick_silent (order : TickOrder) (e : EndedSecond) {l : List LinkOp} {s : State} (good : silentFrom l s) :
    silentFrom l (handTick order e s) := by
  simp only [handTick]
  (repeat (with_reducible first | apply countMeters_silent | apply blocksTick_silent))
  exact good

theorem owedTick_silent (order : TickOrder) (ended : BitVec 32) {l : List LinkOp} {s : State} (good : silentFrom l s) :
    silentFrom l (owedTick order ended s) := by
  simp only [owedTick]
  (repeat (with_reducible first | apply takeTariffBoundary_silent | apply handTick_silent))
  exact good

theorem setRollover_silent (r : Rollover) {l : List LinkOp} {s : State} (good : silentFrom l s) :
    silentFrom l (setRollover r s) := by
  exact silent_congr good (by simp)

theorem setTime_silent (minute : BitVec 32) (second : Nat) {l : List LinkOp} {s : State} (good : silentFrom l s) :
    silentFrom l (setTime minute second s) := by
  exact silent_congr good (by simp)

theorem rollTime_silent (minute : BitVec 32) (clockSet : Bool) {l : List LinkOp} {s : State} (good : silentFrom l s) :
    silentFrom l (rollTime minute clockSet s) := by
  exact silent_congr good (by simp)

theorem boundaryAfterTick_silent (minute : BitVec 32) (clockSet : Bool) (swapAfter recheckAfter : Nat)
    {l : List LinkOp} {s : State} (good : silentFrom l s) :
    silentFrom l (boundaryAfterTick minute clockSet swapAfter recheckAfter s) := by
  simp only [boundaryAfterTick]
  (repeat (with_reducible first
        | apply boundaryPage_silent | apply boundaryCounted_silent | apply rollTime_silent
        | apply setRollover_silent))
  exact good

theorem boundaryBeforeTick_silent (recheckAfter : Nat) {l : List LinkOp} {s : State} (good : silentFrom l s) :
    silentFrom l (boundaryBeforeTick recheckAfter s) := by
  simp only [boundaryBeforeTick]
  (repeat (with_reducible first | apply boundaryUncounted_silent | apply setRollover_silent | apply setTime_silent))
  exact good

theorem takeBoundary_silent (swapAfter recheckAfter : Nat) {l : List LinkOp} {s : State} (good : silentFrom l s) :
    silentFrom l (takeBoundary swapAfter recheckAfter s) := by
  simp only [takeBoundary]
  (repeat' split) <;>
    (repeat (with_reducible first | apply boundaryAfterTick_silent | apply boundaryBeforeTick_silent)) <;> exact good

theorem minuteBoundary_silent (early : TickOrder) (boundary : Bool) (swapAfter recheckAfter : Nat)
    {l : List LinkOp} {s : State} (good : silentFrom l s) :
    silentFrom l (minuteBoundary early boundary swapAfter recheckAfter s) := by
  simp only [minuteBoundary]
  (repeat' split) <;>
    (repeat (with_reducible first | apply ticksAhead_silent | apply takeBoundary_silent)) <;> exact good

theorem settleBoundary_silent {l : List LinkOp} {s : State} (good : silentFrom l s) :
    silentFrom l (settleBoundary s) := by
  simp only [settleBoundary]
  (repeat' split) <;>
    (repeat (with_reducible first | apply boundaryAfterTick_silent)) <;> exact good

theorem completeSecond_silent (ahead : Bool) {l : List LinkOp} {s : State} (good : silentFrom l s) :
    silentFrom l (completeSecond ahead s) := by
  simp only [completeSecond]
  (repeat' split) <;>
    (repeat (with_reducible first | apply secondPage_silent | apply setRollover_silent)) <;> exact good

theorem secondTick_silent (order : TickOrder) {l : List LinkOp} {s : State} (good : silentFrom l s) :
    silentFrom l (secondTick order s) := by
  simp only [secondTick]
  (repeat' split) <;>
    (repeat (with_reducible first
          | apply settleBoundary_silent | apply boundaryPage_silent | apply setRollover_silent | apply owedTick_silent
          | apply completeSecond_silent | apply handTick_silent)) <;> exact good

theorem referenceChanged_silent {l : List LinkOp} {s : State} (good : silentFrom l s) :
    silentFrom l (referenceChanged s) := by
  simp only [referenceChanged]
  (repeat (with_reducible first | apply setSeverity_silent | apply latch_silent))
  exact good

theorem changeReference_silent (c : Clock) {l : List LinkOp} {s : State} (good : silentFrom l s) :
    silentFrom l (changeReference c s) := by
  simp only [changeReference]
  (repeat (with_reducible first | apply referenceChanged_silent))
  exact good

theorem pulseFreeRun_silent (instant : Nat) (order : TickOrder) {l : List LinkOp} {s : State} (good : silentFrom l s) :
    silentFrom l (pulseFreeRun instant order s) := by
  simp only [pulseFreeRun]
  (repeat' split) <;>
    (repeat (with_reducible first | apply secondTick_silent | apply changeReference_silent)) <;> exact good

theorem secrefPulse_silent (instant : Nat) (order : TickOrder) {l : List LinkOp} {s : State} (good : silentFrom l s) :
    silentFrom l (secrefPulse instant order s) := by
  simp only [secrefPulse]
  (repeat' split) <;>
    (repeat (with_reducible first | apply secondTick_silent | apply pulseFreeRun_silent)) <;> exact good

theorem secrefTimeout_silent (order : TickOrder) {l : List LinkOp} {s : State} (good : silentFrom l s) :
    silentFrom l (secrefTimeout order s) := by
  simp only [secrefTimeout]
  (repeat' split) <;>
    (repeat (with_reducible first | apply secondTick_silent | apply changeReference_silent)) <;> exact good

theorem ownTick_silent (order : TickOrder) {l : List LinkOp} {s : State} (good : silentFrom l s) :
    silentFrom l (ownTick order s) := by
  simp only [ownTick]
  (repeat' split) <;>
    (repeat (with_reducible first | apply secondTick_silent)) <;> exact good

theorem pulseSwitch_silent {l : List LinkOp} {s : State} (good : silentFrom l s) : silentFrom l (pulseSwitch s) := by
  simp only [pulseSwitch]
  split <;> exact switchPoint_silent _ good

theorem framerefPulse_silent (instant : Nat) {l : List LinkOp} {s : State} (good : silentFrom l s) :
    silentFrom l (framerefPulse instant s) := by
  simp only [framerefPulse]
  (repeat' split) <;>
    (repeat (with_reducible first | apply pulseSwitch_silent | apply changeReference_silent)) <;> exact good

theorem framerefTimeout_silent {l : List LinkOp} {s : State} (good : silentFrom l s) :
    silentFrom l (framerefTimeout s) := by
  simp only [framerefTimeout]
  (repeat' split) <;>
    (repeat (with_reducible first | apply changeReference_silent)) <;> exact good

theorem bookOrder_silent (o : Order) {l : List LinkOp} {s : State} (good : silentFrom l s) :
    silentFrom l (bookOrder o s) := by
  simp only [bookOrder]
  (repeat' split) <;>
    (repeat (with_reducible first
          | apply finishOrder_silent | apply submit_silent | apply setStage_silent)) <;> exact good

theorem acceptBooking_silent (n : Fin 1024) (b : Slot) {l : List LinkOp} {s : State} (good : silentFrom l s) :
    silentFrom l (acceptBooking n b s) := by
  exact silent_congr good (by simp)

theorem bookFromRecord_silent (n : Fin 1024) (r : BookRecord) {l : List LinkOp} {s : State} (good : silentFrom l s) :
    silentFrom l (bookFromRecord n r s) := by
  simp only [bookFromRecord]
  (repeat' split) <;>
    (repeat (with_reducible first | apply submit_silent | apply acceptBooking_silent)) <;> exact good

theorem bookRecordRead_silent (bytes : Vector Byte 20) {l : List LinkOp} {s : State} (good : silentFrom l s) :
    silentFrom l (bookRecordRead bytes s) := by
  simp only [bookRecordRead]
  (repeat' split) <;>
    (repeat (with_reducible first | apply bookFromRecord_silent | apply setInFlight_silent)) <;> exact good

theorem cancelAccepted_silent (n : Fin 1024) {l : List LinkOp} {s : State} (good : silentFrom l s) :
    silentFrom l (cancelAccepted n s) := by
  simp only [cancelAccepted]
  (repeat' split) <;>
    (repeat (with_reducible first
          | apply leaveTimeline_silent | apply settleClose_silent | apply setMeter_silent)) <;> exact good

theorem cancelOrder_silent (o : Order) {l : List LinkOp} {s : State} (good : silentFrom l s) :
    silentFrom l (cancelOrder o s) := by
  simp only [cancelOrder]
  (repeat' split) <;>
    (repeat (with_reducible first
          | apply finishOrder_silent | apply cancelAccepted_silent | apply setStage_silent
          | apply closeOnAir_silent)) <;> exact good

theorem grantExtension_silent (n : Fin 1024) (minutes : Nat) {l : List LinkOp} {s : State} (good : silentFrom l s) :
    silentFrom l (grantExtension n minutes s) := by
  simp only [grantExtension]
  (repeat' split) <;>
    (repeat (with_reducible first
          | apply finishOrder_silent | apply submit_silent | apply setSlot_silent
          | apply setStage_silent)) <;> exact good

theorem extendOrder_silent (o : Order) {l : List LinkOp} {s : State} (good : silentFrom l s) :
    silentFrom l (extendOrder o s) := by
  simp only [extendOrder]
  (repeat' split) <;>
    (repeat (with_reducible first | apply finishOrder_silent | apply grantExtension_silent)) <;> exact good

theorem lodgeSwitch_silent (d : Fin 64) (target : Source) {l : List LinkOp} {s : State} (good : silentFrom l s) :
    silentFrom l (lodgeSwitch d target s) := by
  simp only [lodgeSwitch]
  (repeat (with_reducible first | apply finishOrder_silent | apply request_silent))
  exact good

theorem switchOrder_silent (o : Order) {l : List LinkOp} {s : State} (good : silentFrom l s) :
    silentFrom l (switchOrder o s) := by
  simp only [switchOrder]
  (repeat' split) <;>
    (repeat (with_reducible first | apply finishOrder_silent | apply lodgeSwitch_silent)) <;> exact good

theorem storeLegMode_silent (n : Fin 1024) (mode : LegMode) {l : List LinkOp} {s : State} (good : silentFrom l s) :
    silentFrom l (storeLegMode n mode s) := by
  simp only [storeLegMode]
  (repeat' split) <;>
    (repeat (with_reducible first
          | apply setSlot_silent | apply finishOrder_silent | apply applyProtection_silent)) <;> exact good

theorem setLegOrder_silent (o : Order) {l : List LinkOp} {s : State} (good : silentFrom l s) :
    silentFrom l (setLegOrder o s) := by
  simp only [setLegOrder]
  (repeat' split) <;>
    (repeat (with_reducible first | apply finishOrder_silent | apply storeLegMode_silent)) <;> exact good

theorem applySetPort_silent (p : Fin 48) (o : Order) {l : List LinkOp} {s : State} (good : silentFrom l s) :
    silentFrom l (applySetPort p o s) := by
  simp only [applySetPort]
  (repeat' split) <;>
    (repeat (with_reducible first | apply finishOrder_silent | apply updateMonitor_silent)) <;> exact good

theorem setPortOrder_silent (o : Order) {l : List LinkOp} {s : State} (good : silentFrom l s) :
    silentFrom l (setPortOrder o s) := by
  simp only [setPortOrder]
  (repeat' split) <;>
    (repeat (with_reducible first | apply finishOrder_silent | apply applySetPort_silent)) <;> exact good

theorem readPortOrder_silent (o : Order) {l : List LinkOp} {s : State} (good : silentFrom l s) :
    silentFrom l (readPortOrder o s) := by
  simp only [readPortOrder]
  (repeat' split) <;>
    (repeat (with_reducible first | apply finishOrder_silent | apply setMonitor_silent)) <;> exact good

theorem readSegment_silent (address : Address) {l : List LinkOp} {s : State} (good : silentFrom l s) :
    silentFrom l (readSegment address s) := by
  simp only [readSegment]
  (repeat' split) <;>
    (repeat (with_reducible first | apply setStage_silent | apply issueRead_silent)) <;> exact good

theorem loadTariffOrder_silent (o : Order) {l : List LinkOp} {s : State} (good : silentFrom l s) :
    silentFrom l (loadTariffOrder o s) := by
  simp only [loadTariffOrder]
  (repeat' split) <;>
    (repeat (with_reducible first | apply finishOrder_silent | apply readSegment_silent)) <;> exact good

theorem stageTariff_silent (t : Tariff) {l : List LinkOp} {s : State} (good : silentFrom l s) :
    silentFrom l (stageTariff t s) := by
  exact silent_congr good (by simp)

theorem segmentTaken_silent (bytes : Vector Byte 240) {l : List LinkOp} {s : State} (good : silentFrom l s) :
    silentFrom l (segmentTaken bytes s) := by
  simp only [segmentTaken]
  (repeat' split) <;>
    (repeat (with_reducible first | apply finishOrder_silent | apply stageTariff_silent)) <;> exact good

theorem tariffSegmentRead_silent (bytes : Vector Byte 240) {l : List LinkOp} {s : State} (good : silentFrom l s) :
    silentFrom l (tariffSegmentRead bytes s) := by
  simp only [tariffSegmentRead]
  (repeat' split) <;>
    (repeat (with_reducible first | apply segmentTaken_silent)) <;> exact good

theorem latchAccountOrder_silent (o : Order) {l : List LinkOp} {s : State} (good : silentFrom l s) :
    silentFrom l (latchAccountOrder o s) := by
  simp only [latchAccountOrder]
  (repeat' split) <;>
    (repeat (with_reducible first | apply finishOrder_silent)) <;> exact good

theorem closeMatchOrder_silent (o : Order) {l : List LinkOp} {s : State} (good : silentFrom l s) :
    silentFrom l (closeMatchOrder o s) := by
  simp only [closeMatchOrder]
  (repeat' split) <;>
    (repeat (with_reducible first
          | apply finishOrder_silent | apply submit_silent | apply setStage_silent)) <;> exact good

theorem setClockOrder_silent (o : Order) {l : List LinkOp} {s : State} (good : silentFrom l s) :
    silentFrom l (setClockOrder o s) := by
  simp only [setClockOrder]
  (repeat' split) <;>
    (repeat (with_reducible first
          | apply finishOrder_silent | apply setRollover_silent | apply setTime_silent)) <;> exact good

theorem setStart_silent (p : StartPhase) (c : StartCode) {l : List LinkOp} {s : State} (good : silentFrom l s) :
    silentFrom l (setStart p c s) := by
  simp only [setStart]
  exact good

theorem headerReadComplete_silent (bytes : Vector Byte 80) {l : List LinkOp} {s : State} (good : silentFrom l s) :
    silentFrom l (headerReadComplete bytes s) := by
  simpa [headerReadComplete, (closed_of_silent good).2.2.1] using good

theorem identityWriteComplete_silent {l : List LinkOp} {s : State} (good : silentFrom l s) :
    silentFrom l (identityWriteComplete s) := by
  simpa [identityWriteComplete, (closed_of_silent good).2.2.1] using good

theorem setHaltWaiting_silent (b : Bool) {l : List LinkOp} {s : State} (good : silentFrom l s) :
    silentFrom l (setHaltWaiting b s) := by
  simp only [setHaltWaiting]
  exact good

theorem startCommand_silent {l : List LinkOp} {s : State} (good : silentFrom l s) :
    silentFrom l (startCommand s) := by
  simp only [startCommand, good.2.1, startHeld, good.1]
  exact good

theorem haltCommand_silent {l : List LinkOp} {s : State} (good : silentFrom l s) : silentFrom l (haltCommand s) := by
  simp only [haltCommand, good.2.1]
  exact good

theorem busFaultAt_silent (after : Nat) {l : List LinkOp} {s : State} (good : silentFrom l s) :
    silentFrom l (busFaultAt after s) := by
  simp only [busFaultAt]
  split
  · exact takeBusFault_silent good
  · simpa [good.1] using good

theorem scheduleOwn_silent (instant : Nat) {l : List LinkOp} {s : State} (good : silentFrom l s) :
    silentFrom l (scheduleOwn instant s) := by
  exact silent_congr good (by simp)

theorem flagsRead_silent (enables : BitVec 4) {l : List LinkOp} {s : State} (good : silentFrom l s) :
    silentFrom l (flagsRead enables s) := by
  simp only [flagsRead]
  (repeat' split) <;>
    (repeat (with_reducible first | apply setFlags_silent)) <;> exact good

theorem areaWrite_silent (high : Bool) (value : Word) {l : List LinkOp} {s : State} (good : silentFrom l s) :
    silentFrom l (areaWrite high value s) := by
  simp only [areaWrite]
  (repeat' split) <;> exact good

theorem flagsWrite_silent (value : Word) {l : List LinkOp} {s : State} (good : silentFrom l s) :
    silentFrom l (flagsWrite value s) := by
  simp only [flagsWrite]
  (repeat (with_reducible first | apply setFlags_silent))
  exact good

theorem nextAlarmRegister_silent (value : Word) {l : List LinkOp} {s : State} (good : silentFrom l s) :
    silentFrom l (nextAlarmRegister value s) := by
  simp only [nextAlarmRegister]
  (repeat (with_reducible first | apply nextAlarmWrite_silent))
  exact good


end Sys2Proof.Machine
end

