-- ==== Sys2Proof/Tests/Slice0.lean ====
section
/-! SUPPORT. The model's own tests: well-formedness, the worked sequences of spec/, and for each statement of
Certificates/Slice0/Obligations.lean that has hypotheses a theorem witness_<Name> that shows states and operands which meet
them, at the boundary of each clause. Expected values come from the section of spec/ named at the test. -/

namespace Sys2Proof.Tests

-- One elaboration thread: the evaluations below are large, and the check bounds the memory.
set_option Elab.async false

open Sys2Proof.Machine

/-! ### Sample states -/

/-- The state a command leaves. -/
def after (c : Instr) (s : State) : State :=
  match exec c s with
  | .next t => t
  | .fault _ | .refused _ => s

/-- 10 section 10.5.1: the values of class 1. -/
def class1 : ClassTariff :=
  { rate := { peak := 1200, standard := 850, night := 300 }, multiplier := 12, rebate := 4, minimum := 30, allowance := 120,
    cutoff := 60 }

/-- 09 section 9.10.1: hour 141 PEAK and the others STANDARD. -/
def table6 : Tariff :=
  { bands := build fun h => if h.val = 141 then .peak else .standard, classes := build fun _ => class1 }

/-- A monitor in service and OK, its light and lock present. -/
def goodLine : Monitor := { Monitor.hardReset with inService := true, health := .ok, light := true, lock := true }

/-- The part RUNNING, with one window for the book and the ring, the clock LOCKED and PRESENT, a tariff, and S3 and S4 in
service. -/
def base : State :=
  { State.reset with
    link := { Link.hardReset with
      area := 0x100000
      run := .running
      lastStart := .ok
      windows := build fun k => if k = 0 then some { base := 0x200000, pages := 32, permission := .readWrite } else none }
    clock := { Clock.hardReset with
      minute := 532660
      second := 30
      secref := .locked
      frameref := .present
      lastTick := some 5000000000
      lastFrame := some 5000000000 }
    alarm := Alarm.hardReset
    store := { Store.hardReset with bookBase := 0x200000, bookCount := 32 }
    monitors := build fun p => if p = 3 ∨ p = 4 then goodLine else Monitor.hardReset
    tariffs := { Tariffs.hardReset with current := some table6, number := 6 }
    tickets := { Tickets.hardReset with ring := some { base := 0x210000, count := 16 } } }

/-- 04 section 4.11.1: booking 17 before its start. -/
def slot17 : Slot :=
  { state := .accepted, port := 12, primary := 3, backup := none, cls := 1, matchNumber := 1207, client := 9,
    hostReference := 77, start := 532635, duration := 90, extension := 0, legMode := .autoHold, activation := none }

/-- 04 section 4.11.1: booking 22, from 23:00, here with a backup. -/
def slot22 : Slot := { slot17 with backup := some 4, start := 532740, duration := 60, legMode := .autoRevertive }

/-- Bookings 17 and 22 on D12, with their account. -/
def booked (s17 : Slot) : State :=
  { base with
    store := { base.store with
      slots := (base.store.slots.set (17 : Fin 1024) s17).set (22 : Fin 1024) slot22
      timelines := base.store.timelines.set (12 : Fin 64) [17, 22] }
    accounts := base.accounts.set (0 : Fin 128)
      { Account.hardReset with isOpen := true, matchNumber := 1207, openCount := 2 } }

/-- Both bookings ACCEPTED, at minute 532,600. -/
def accepted : State := { booked slot17 with clock := { base.clock with minute := 532600 } }

/-- The meter of a booking activated at 532,635 whose seconds have been counted as given. -/
def meterOf (x : Nat) : Meter :=
  { Meter.cleared with
    booked := { peak := x, standard := 0, night := 0 }
    startBand := some .peak
    firstCounted := some { minute := 532635, second := 0 }
    lastTable := some 6 }

/-- Booking 17 on air on S3. -/
def onAir : State :=
  let s := booked { slot17 with state := .active, activation := some 532635 }
  { s with
    rows := s.rows.set (12 : Fin 64) { Row.hardReset with current := .port 3, owned := true, last := .port 3 }
    tariffs := { s.tariffs with meters := s.tariffs.meters.set (17 : Fin 1024) (meterOf 720) } }

/-- s with an order handed to its owning block. -/
def given (code : OrderCode) (a b c : BitVec 32) (d : BitVec 64) (s : State) : State :=
  { s with orders := { s.orders with
      unit := .acting { code := code, notify := false, a := a, b := b, c := c, d := d } .dispatched } }

/-- s at the given minute and second. -/
def atTime (minute : BitVec 32) (second : Nat) (s : State) : State :=
  { s with clock := { s.clock with minute := minute, second := second } }

/-- The boundary into the next minute, or the tick of second 59, outstanding. -/
def rolled (r : Rollover) (s : State) : State := { s with clock := { s.clock with rollover := r } }

/-- s in a run state. -/
def inRun (r : RunState) (s : State) : State := { s with link := { s.link with run := r } }

/-- The bytes of `v` in `len` bytes of a record, from offset `off` on, and zero elsewhere. -/
def record {n : Nat} (fields : List (Nat × Nat × Nat)) : Vector Byte n :=
  build fun i => fields.foldl (fun x f =>
    if f.1 ≤ i.val ∧ i.val < f.1 + f.2.1 then BitVec.ofNat 8 (f.2.2 / 2 ^ (8 * (i.val - f.1))) else x) 0

/-- A soft reset that meets no work under way. -/
def idleCut : CutOff :=
  { pageIssued := 0, accessIssued := 0, orderIssued := 0, entry := none, record := build fun _ => 0, segment := none,
    slotState := 0, order := [] }

/-- The SOFT_RESET that cuts the work off there. -/
def reset (cut : CutOff) : Instr := .softReset cut.pageIssued cut.orderIssued cut.toCutAnswers

/-! ### Well-formedness -/

theorem test_wf_refuses_double_tick_pulse : (Instr.secrefPulse 0 [3, 3]).wf = false := by decide

theorem test_wf_refuses_double_tick_timeout : (Instr.secrefTimeout [48, 0, 48]).wf = false := by decide

theorem test_wf_refuses_double_tick_own : (Instr.ownTick [0, 1, 0]).wf = false := by decide

theorem test_wf_refuses_double_tick_early : (Instr.minuteBoundary ⟨[48, 48], true, 0, 64⟩).wf = false := by decide

theorem test_wf_refuses_whole_page : (reset { idleCut with pageIssued := 7 }).wf = false := by decide

theorem test_wf_refuses_double_tick_reset : (reset { idleCut with order := [3, 48, 3] }).wf = false := by decide

theorem test_wf_refuses_reset_by_register :
    (Instr.registerWrite ⟨.ctrl, { idleCut with pageIssued := 7 }⟩ 15 3).wf = false := by decide

theorem test_wf_admits : (reset { idleCut with pageIssued := 6, orderIssued := 99, order := [48, 3] }).wf = true ∧
    (Instr.ownTick [48, 0]).wf = true ∧ Instr.start.wf = true := by decide

/-! ### Worked sequences of spec/ -/

/-- 10 section 10.5.1. -/
theorem test_rate_booking17 :
    rate class1 { Meter.cleared with
      booked := { peak := 2700, standard := 2700, night := 0 }
      overrun := { peak := 0, standard := 437, night := 0 }
      excess := { peak := 150, standard := 0, night := 0 }
      outage := 270, allowanceUsed := 120, startBand := some .peak } = 100036 := by decide +kernel

/-- 10 section 10.5.2: 720 and 2,000 counted seconds. -/
theorem test_rate_booking19 : rate class1 (meterOf 720) = 36000 ∧ rate class1 (meterOf 2000) = 40000 := by decide +kernel

/-- 09 section 9.10.1. -/
theorem test_hour_of_week : hourOfWeek 532635 = 141 ∧ hourOfWeek 532680 = 142 := by decide +kernel

/-- 10 section 10.5.2: booking 18 is cancelled late. -/
theorem test_late_cancel :
    ((after .cancel (given .cancel 17 0 0 0 accepted)).tickets.inFlight.bind fun a =>
      match a with
      | .raise r => some (r.ticket.kind, r.ticket.charge, r.ticket.charged)
      | _ => none) = some (.lateCancel, 36000, 0) := by decide +kernel

/-- 04 section 4.11.1: EXTEND 17, 10 in a gap of 15. -/
theorem test_extend :
    (after .extend (given .extend 17 10 0 0 onAir)).store.slots[17].extension = 10 ∧
      (after .extend (given .extend 17 20 0 0 onAir)).store.slots[17].extension = 15 := by decide +kernel

/-- R16, R31, R118: what RESETN returning high at instant 0 leaves. -/
theorem test_reset_release :
    (after (.resetRelease 0) State.hardReset).alarm = State.reset.alarm ∧
      (after (.resetRelease 0) State.hardReset).clock = State.reset.clock ∧
      (after (.resetRelease 0) State.hardReset).link = State.reset.link := by decide +kernel

/-! ### Witnesses: queue, resets and laws -/

/-- s with one command waiting. -/
def queued (c : Instr) (s : State) : State := { s with pending := [c] }

theorem onAir_slots (n : Fin 1024) : onAir.store.slots[n] =
    if n = 22 then slot22 else if n = 17 then { slot17 with state := .active, activation := some 532635 }
    else Slot.hardReset := by
  simp only [onAir, booked, base, State.reset, State.hardReset, Store.hardReset, Fin.getElem_fin, Vector.getElem_set,
    build_get, Fin.ext_iff]
  simp [eq_comm]

theorem onAir_timelines : ∀ d : Fin 64, onAir.store.timelines[d] = if d = 12 then [17, 22] else [] := by decide +kernel

theorem onAir_timelinesLawful : timelinesLawful onAir := by
  refine ⟨fun d n => ?_, fun d => ?_⟩
  · have h : Machine.closing n onAir = false := rfl
    rw [onAir_timelines, onAir_slots, h]
    by_cases h22 : n = 22
    · subst h22; simp [slot22, slot17, eq_comm]
    · by_cases h17 : n = 17
      · subst h17; simp [slot17, eq_comm]
      · simp only [h22, h17, if_false]
        split <;> simp [h22, h17, Slot.hardReset]
  · rw [onAir_timelines]
    split
    · simp only [List.mem_cons, List.not_mem_nil, or_false, forall_eq_or_imp, forall_eq, onAir_slots]
      decide
    · simp

theorem witness_StepRunsTheFrontCommand :
    (queued .start base).pending = .start :: [] ∧ State.reset.pending = [] := ⟨rfl, rfl⟩

theorem witness_ResetReleaseState :
    State.reset.resetn = true ∧ State.hardReset.resetn = false ∧ Instr.start ≠ .hardReset ∧
      ∀ i, Instr.start ≠ .resetRelease i := by simp [State.reset, State.hardReset]

theorem witness_AlarmLawKept : alarmLawful (queued .halt onAir) ∧ ∃ t, step (queued .halt onAir) = .next t := by
  refine ⟨?_, _, rfl⟩
  unfold alarmLawful acksBounded flagsPermitted alarmFollows
  decide +kernel

theorem onAir_bookingsLawful : bookingsLawful onAir := by
  refine ⟨onAir_timelinesLawful, Nat.zero_le _, fun h => absurd h (by decide), fun n h => absurd h ?_, fun r k => ?_,
    fun _ => rfl⟩
  · show Access.recordRead n ∉ ([] : List Access)
    exact List.not_mem_nil
  · show Access.closeWrite r ∉ ([] : List Access) ∧ Access.totalWrite k ∉ ([] : List Access)
    exact ⟨List.not_mem_nil, List.not_mem_nil⟩

theorem witness_ItemSeverityLawsKept : systemItemsFollow (queued .halt onAir) ∧ bookingsLawful (queued .halt onAir) ∧
    sourceItemsFollow (queued .halt onAir) ∧ ∃ t, step (queued .halt onAir) = .next t := by
  refine ⟨?_, onAir_bookingsLawful, ?_, _, rfl⟩
  · unfold systemItemsFollow
    decide +kernel
  · unfold sourceItemsFollow
    decide +kernel

theorem witness_TimelineLawKept : bookingsLawful (queued .halt onAir) ∧ ∃ t, step (queued .halt onAir) = .next t :=
  ⟨onAir_bookingsLawful, _, rfl⟩

theorem witness_PortsLawKept : portsLawful (queued .halt onAir) ∧ ∃ t, step (queued .halt onAir) = .next t := by
  refine ⟨⟨fun n p h hp => ?_, ?_, fun n _ => rfl⟩, _, rfl⟩
  · change onAir.store.slots[n].state ≠ .free at h
    change isLeg onAir.store.slots[n] p = true at hp
    change onAir.monitors[p].inService = true
    rw [onAir_slots] at h hp
    revert h hp
    split
    · intro _; revert p; decide +kernel
    · split
      · intro _; revert p; decide +kernel
      · simp [Slot.hardReset]
  · unfold monitorsLawful monitorLawful
    decide +kernel

theorem witness_RowLawKept : rowsLawful (queued .halt onAir) ∧ ∃ t, step (queued .halt onAir) = .next t := by
  refine ⟨fun d => ⟨?_, ?_⟩, _, rfl⟩
  · have h : ∀ e : Fin 64, onAir.rows[e].pending = none := by decide +kernel
    intro x hx
    change onAir.rows[d].pending = some x at hx
    rw [h] at hx
    exact absurd hx (by simp)
  · revert d; decide +kernel

theorem onAir_meters (n : Fin 1024) : onAir.tariffs.meters[n] = if n = 17 then meterOf 720 else Meter.cleared := by
  simp only [onAir, booked, base, State.reset, State.hardReset, Tariffs.hardReset, Fin.getElem_fin, Vector.getElem_set,
    build_get, Fin.ext_iff]
  simp [eq_comm]

/-- A state with no work under way meets the law of the accounts when the accounts and the slots do. -/
theorem accountsLawful_of {s : State} (h : s.store.holds = []) (k : accessesIdle s)
    (h1 : ∀ j k : Fin 128, s.accounts[j].isOpen = true → s.accounts[k].isOpen = true →
      s.accounts[j].matchNumber = s.accounts[k].matchNumber → j = k)
    (h2 : ∀ k : Fin 128, s.accounts[k].chargeTotal < 2 ^ 40)
    (h3 : ∀ n : Fin 1024, s.store.slots[n].state ≠ .free →
      ∃ k : Fin 128, s.accounts[k].isOpen = true ∧ s.accounts[k].matchNumber = s.store.slots[n].matchNumber)
    (h4 : ∀ k : Fin 128, s.accounts[k].isOpen = true → s.accounts[k].openCount = matchSlots s.accounts[k].matchNumber s) :
    accountsLawful s := by
  have e : outstanding s = [] := by simp [outstanding, k.1, k.2]
  have c : closingSlots s = [] := by simp [closingSlots, ratedSlots, h, e]
  refine ⟨h1, h2, h3, h4, ?_, ?_, ?_, ?_⟩ <;> simp [c, e]

theorem onAir_taken (n : Fin 1024) : (onAir.store.slots[n].state ≠ .free ↔ n = 22 ∨ n = 17) ∧
    (onAir.store.slots[n].state ≠ .free → onAir.store.slots[n].matchNumber = 1207) := by
  rw [onAir_slots]
  by_cases h22 : n = 22
  · simp [h22, slot22, slot17]
  · by_cases h17 : n = 17 <;> simp [h22, h17, slot17, Slot.hardReset]

theorem onAir_accounts : ∀ k : Fin 128, onAir.accounts[k].isOpen = true →
    k = 0 ∧ onAir.accounts[k].matchNumber = 1207 ∧ onAir.accounts[k].openCount = 2 := by decide +kernel

theorem onAir_matchSlots : matchSlots 1207 onAir = 2 := by
  have e : (fun n : Fin 1024 => decide (onAir.store.slots[n].state ≠ .free ∧ onAir.store.slots[n].matchNumber = 1207)) =
      fun n => decide (n = 22 ∨ n = 17) := by
    funext n
    obtain ⟨h1, h2⟩ := onAir_taken n
    exact decide_eq_decide.2 ⟨fun h => h1.1 h.1, fun h => ⟨h1.2 h, h2 (h1.2 h)⟩⟩
  rw [matchSlots, e]
  decide +kernel

theorem onAir_accountsLawful : accountsLawful onAir := by
  refine accountsLawful_of rfl ⟨rfl, rfl⟩ (fun j k h1 h2 _ => ?_) (by decide +kernel) (fun n h => ?_) fun k h => ?_
  · rw [(onAir_accounts j h1).1, (onAir_accounts k h2).1]
  · exact ⟨0, by decide +kernel, by rw [(onAir_taken n).2 h]; decide +kernel⟩
  · obtain ⟨-, h1, h2⟩ := onAir_accounts k h
    rw [h1, h2, onAir_matchSlots]

theorem witness_AccountAndMeterLawsKept : bookingsLawful (queued .halt onAir) ∧ accountsLawful (queued .halt onAir) ∧
    metersLawful (queued .halt onAir) ∧ ∃ t, step (queued .halt onAir) = .next t := by
  refine ⟨onAir_bookingsLawful, onAir_accountsLawful, fun n => ?_, _, rfl⟩
  change meterLawful onAir.tariffs.meters[n]
  rw [onAir_meters]
  split <;> refine ⟨by decide, by decide, by decide, fun b => ?_⟩ <;> cases b <;> decide

theorem witness_ClockLawKept : clockLawful (queued .halt onAir) ∧ ∃ t, step (queued .halt onAir) = .next t := by
  refine ⟨?_, _, rfl⟩
  unfold clockLawful
  decide +kernel

/-- RUNNING, and DORMANT, where no window is in force. -/
theorem witness_RunLawKept : runLawful (queued .halt onAir) ∧ (∃ t, step (queued .halt onAir) = .next t) ∧
    windowsLawful (queued .start State.reset) ∧ State.reset.link.run = .dormant ∧
    ∃ t, step (queued .start State.reset) = .next t := by
  refine ⟨?_, ⟨_, rfl⟩, fun _ _ => by decide +kernel, rfl, _, rfl⟩
  unfold runLawful
  simp [queued, onAir, booked, base, State.reset, State.hardReset, OrderUnit.hardReset, Tickets.hardReset, Link.hardReset]

theorem witness_AreaStaysAligned : areaAligned (queued .halt onAir) ∧ ∃ t, step (queued .halt onAir) = .next t := by
  refine ⟨?_, _, rfl⟩
  unfold areaAligned
  decide +kernel

/-- The fatal state. -/
def fatal : State := { onAir with link := { onAir.link with run := .held, fatal := .bus } }

theorem witness_FatalPartIsSilent :
    silentFrom [] (queued .start fatal) ∧ fatal.resetn = true ∧ (queued .start fatal).pending = .start :: [] ∧
      Instr.start ≠ .hardReset ∧ (∀ p o a, Instr.start ≠ .softReset p o a) ∧
      (∀ e v cut, Instr.start = .registerWrite ⟨.ctrl, cut⟩ e v → v.extractLsb' 0 2 ≠ 3) ∧
      ∃ t, step (queued .start fatal) = .next t :=
  ⟨⟨rfl, rfl, 0, rfl⟩, rfl, rfl, by simp, by simp, by simp, _, rfl⟩

/-! ### Witnesses: the register window -/

/-- 08 section 8.8.1: item 14 pending at severity 2, ALARM permitted. -/
def alarmed : State :=
  { base with
    alarm := { base.alarm with items := base.alarm.items.set (14 : Fin 51) { severity := 2, acked := 0 } }
    link := { base.link with permissions := 0x7F, flags := 8 } }

theorem witness_ModeWriteTaken : alarmed.resetn = true ∧ (after (.modeWrite 3 50) alarmed).alarm.mode = .fixed ∧
    (after (.modeWrite 3 50) alarmed).alarm.spotlight = 50 ∧ (after (.modeWrite 2 51) alarmed).alarm.mode = .inhibit ∧
    (after (.modeWrite 2 51) alarmed).alarm.spotlight = 0 ∧ (after (.modeWrite 2 51) alarmed).link.flags = 0 := by
  decide +kernel

/-- 08 section 8.8.1: ACK 14 with PUSH, and the same with POP; R128: item 51 names nothing, and a POP is taken. -/
theorem witness_NextAlarmWriteTaken : alarmed.resetn = true ∧ acknowledges true 14 alarmed.alarm 14 ∧
    ¬acknowledges true 51 alarmed.alarm 14 ∧
    (after (.push 14 true false) alarmed).alarm.floor = { top := 3, middle := 0, bottom := 0 } ∧
    (after (.push 14 true false) alarmed).alarm.items[14].acked = 2 ∧
    (after (.push 14 true true) alarmed).alarm.floor = { top := 0, middle := 0, bottom := 0 } ∧
    (after (.push 51 true false) alarmed).alarm = alarmed.alarm ∧ (after (.ack 14 false) alarmed).link.flags = 0 ∧
    (after .pop (after (.push 14 true false) alarmed)).alarm.floor.top = 0 := by
  unfold acknowledges
  decide +kernel

theorem witness_FlagsReadTaken : alarmed.resetn = true ∧ (after (.flagsRead 15) alarmed).link.answer = [8, 0, 0x7F, 0] ∧
    (after (.flagsRead 8) alarmed).link.answer = [0] := by decide +kernel

theorem witness_FlagsWriteTaken : alarmed.resetn = true ∧ (after (.flagsWrite 0x77FFFF) alarmed).link.flags = 0 ∧
    (after (.flagsWrite 0x080000) { alarmed with link := { alarmed.link with flags := 0 } }).link.log = [.message] := by
  decide +kernel

/-- R6: in DORMANT, in RUNNING and while a START is in progress. -/
theorem witness_AreaWriteTaken : State.reset.resetn = true ∧ State.reset.link.run = .dormant ∧
    State.reset.link.start = .idle ∧ base.link.run ≠ .dormant ∧
    (after (.areaWrite false 0xFFFFFFFF) State.reset).link.area = 0xFFFFF000 ∧
    (after (.areaWrite true 0xFFFFFFFF) State.reset).link.area = 0xFFFFFFFF00000000 ∧
    (after (.areaWrite false 0) (after .start State.reset)).link.area = 0 := by decide +kernel

/-- R7, R9: in RUNNING and in the fatal state. -/
theorem witness_OrderEntryTaken : base.resetn = true ∧ runLawful base ∧ entryTaken base = base ∧ fatal.resetn = true ∧
    runLawful fatal ∧ (after (.orderEndWrite 0x1F00) fatal).orders.endIndex = 31 ∧
    (after (.orderEndWrite 0x1F00) fatal).orders.unit = .idle ∧
    (after (.orderEndWrite 0x1F00) base).orders.unit = .reading ∧
    (after (.orderEndWrite 0x1F00) base).link.log = [.read 0x100100 24] ∧
    (after (.orderEndWrite 0xE0FF) base).orders.unit = .idle := by
  refine ⟨rfl, ?_, ?_, rfl, ?_, by decide +kernel⟩
  · unfold runLawful
    simp [base, State.reset, State.hardReset, OrderUnit.hardReset, Tickets.hardReset, Link.hardReset]
  · simp [entryTaken, base, State.reset, State.hardReset, OrderUnit.hardReset]
  · unfold runLawful
    simp [fatal, onAir, booked, base, State.reset, State.hardReset, OrderUnit.hardReset, Tickets.hardReset, Link.hardReset]

/-- Writes of each kind: START, PUSH, ACK, POP and none; enables short of four; the read-only registers. -/
theorem witness_RegisterWriteTaken : base.resetn = true ∧ (14 : BitVec 4) ≠ 15 ∧
    (0x80000100 : Word).getLsbD 8 = true ∧ (0x80000005 : Word).getLsbD 8 = false ∧ (0x80000005 : Word).getLsbD 31 = true ∧
    (0x200 : Word).getLsbD 8 = false ∧ (0x200 : Word).getLsbD 31 = false ∧ (0x200 : Word).getLsbD 9 = true ∧
    (0 : Word).getLsbD 9 = false ∧ (after (.registerWrite ⟨.ctrl, idleCut⟩ 15 0x8A12) alarmed).link.run = .held ∧
    (after (.registerWrite ⟨.ctrl, idleCut⟩ 15 0x8A12) alarmed).alarm.spotlight = 10 ∧
    (after (.registerWrite ⟨.nextAlarm, idleCut⟩ 15 0x8000010E) alarmed).alarm.floor.top = 3 ∧
    (after (.registerWrite ⟨.ctrl, idleCut⟩ 15 3) alarmed).link.run = .dormant := by decide +kernel

/-- 08 section 8.8.2 for SPOTLIGHT; INHIBIT, no visible item, and the reported item of FIXED. -/
theorem witness_NextAlarmReads : visibleItem alarmed.alarm 14 ∧ alarmed.alarm.mode = .fixed ∧
    (∀ j : Fin 51, visibleItem alarmed.alarm j → alarmed.alarm.items[j].severity < alarmed.alarm.items[(14 : Fin 51)].severity ∨
      alarmed.alarm.items[j].severity = alarmed.alarm.items[(14 : Fin 51)].severity ∧ (14 : Fin 51) ≤ j) ∧
    (∀ i : Fin 51, ¬visibleItem base.alarm i) ∧ (after (.modeWrite 2 0) alarmed).alarm.mode = .inhibit ∧
    (after (.modeWrite 1 14) alarmed).alarm.mode = .spotlight ∧ visibleItem (after (.modeWrite 1 14) alarmed).alarm 14 ∧
    readRegister .nextAlarm alarmed = 0x20E ∧ readRegister .nextAlarm base = 0x80000000 := by
  unfold visibleItem
  decide +kernel

/-- 01 section 1.3: RUNNING, LOCKED, PRESENT, last start OK, CURRENT. -/
theorem test_status : readRegister .status base = 0x110D := by decide +kernel

/-! ### Witnesses: START, HALT, resets and bus faults -/

/-- The part with its exchange area at an address. -/
def areaAt (a : Address) : State := { State.reset with link := { State.reset.link with area := a } }

/-- R6: the highest area base. -/
theorem witness_StatusReads : areaAligned (areaAt 0xFFFFFFFFFFFFF000) ∧
    readRegister .areaLo (areaAt 0xFFFFFFFFFFFFF000) = 0xFFFFF000 ∧
    readRegister .areaHi (areaAt 0xFFFFFFFFFFFFF000) = 0xFFFFFFFF := by
  unfold areaAligned
  decide +kernel

/-- R10: the last area that fits below 2^64, the first that does not, and a START in progress. -/
theorem witness_StartTakenInDormant : State.reset.resetn = true ∧ State.reset.link.run = .dormant ∧
    (areaAt 0xFFFFFFFFFFFFE000).link.area.toNat + 8192 ≤ 2 ^ 64 ∧
    2 ^ 64 < (areaAt 0xFFFFFFFFFFFFF000).link.area.toNat + 8192 ∧ (areaAt 0xFFFFFFFFFFFFF000).link.start = .idle ∧
    (after .start (areaAt 0xFFFFFFFFFFFFE000)).link.start ≠ .idle ∧
    (after .start (areaAt 0xFFFFFFFFFFFFF000)).link.lastStart = .windowBad := by decide +kernel

/-- The part HELD, and with a halt waiting. -/
def held : State := inRun .held onAir

def haltWaits : State :=
  { given .book 0 0 0 0 base with link := { base.link with haltWaiting := true } }

theorem onAir_caughtUp : caughtUp onAir := by
  intro d n h
  rw [onAir_timelines] at h
  split at h
  · obtain rfl : (17 : Fin 1024) = n := by simpa using h
    exact .inr (.inl (by decide +kernel))
  · simp at h

/-- Booking 17 as given alone on D12, at minute 532,660. -/
def lone (b : Slot) : State :=
  { onAir with store := { onAir.store with
      slots := onAir.store.slots.set (17 : Fin 1024) b
      timelines := onAir.store.timelines.set (12 : Fin 64) [17] } }

/-- Nothing is due on a timeline but D12's, when the timelines are those of onAir or a change of D12's. -/
theorem others_empty {s : State} {l : List (Fin 1024)} (h : s.store.timelines = onAir.store.timelines.set (12 : Fin 64) l) :
    ∀ e : Fin 64, e ≠ 12 → s.store.timelines[e] = [] := by
  intro e he
  have hs : s.store.timelines[e] = onAir.store.timelines[e] := by
    rw [h]
    simp only [Fin.getElem_fin, Vector.getElem_set]
    rw [if_neg (fun hc => he (Fin.ext (by simpa using hc.symm)))]
  rw [hs, onAir_timelines, if_neg he]

theorem others_caughtUp {s : State} {l : List (Fin 1024)} (h : s.store.timelines = onAir.store.timelines.set (12 : Fin 64) l) :
    ∀ e : Fin 64, e ≠ 12 → caughtUpAt e s := by
  intro e he n hn
  rw [others_empty h e he] at hn
  simp at hn

/-- The part HELD with booking 17 as given alone on D12, and the part in START with it. -/
def lateHeld (b : Slot) : State := inRun .held (lone b)

def lateStart (b : Slot) : State :=
  { lone b with link := { (lone b).link with run := .dormant, start := .identityWrite } }

/-- What is due at the minute 532,660: a final end on air, an interval passed unheard, a start passed, and a booked end passed
with extension left. -/
def overdue : Slot := { slot17 with state := .active, start := 532570, activation := some 532570 }
def missedOne : Slot := { slot17 with start := 532569 }
def lateOne : Slot := { slot17 with start := 532660 }
def overrunOne : Slot := { slot17 with state := .active, start := 532570, extension := 1, activation := some 532570 }

theorem late_ends : finalEnd overdue = 532660 ∧ finalEnd missedOne = 532659 ∧ lateOne.start = 532660 ∧
    bookedEnd overrunOne = 532660 ∧ finalEnd overrunOne = 532661 := by decide

/-- D12 with booking 17 as given and booking 22, and D13 with booking 18 from a start minute. -/
def twoPorts (b : Slot) (start : Nat) : State :=
  { onAir with store := { onAir.store with
      slots := (onAir.store.slots.set (17 : Fin 1024) b).set (18 : Fin 1024)
        { slot17 with port := 13, primary := 4, start := start, duration := 60 }
      timelines := onAir.store.timelines.set (13 : Fin 64) [18] } }

theorem twoPorts_timelines (b : Slot) (start : Nat) : ∀ d : Fin 64, (twoPorts b start).store.timelines[d] =
    if d = 12 then [17, 22] else if d = 13 then [18] else [] := by
  have h : ∀ d : Fin 64, (onAir.store.timelines.set (13 : Fin 64) [18])[d] =
      if d = 12 then [17, 22] else if d = 13 then [18] else [] := by decide +kernel
  exact h

theorem twoPorts_slots (b : Slot) (start : Nat) (n : Fin 1024) : (twoPorts b start).store.slots[n] =
    if n = 18 then { slot17 with port := 13, primary := 4, start := start, duration := 60 } else if n = 17 then b
    else if n = 22 then slot22 else Slot.hardReset := by
  simp only [twoPorts, onAir, booked, base, State.reset, State.hardReset, Store.hardReset, Fin.getElem_fin,
    Vector.getElem_set, build_get, Fin.ext_iff]
  by_cases h17 : n.val = 17
  · simp [h17]
  · by_cases h18 : n.val = 18
    · simp [h18]
    · by_cases h22 : n.val = 22
      · simp [h22]
      · have e17 : ¬17 = n.val := fun e => h17 e.symm
        have e18 : ¬18 = n.val := fun e => h18 e.symm
        have e22 : ¬22 = n.val := fun e => h22 e.symm
        simp [h17, h18, h22, e17, e18, e22]

/-- The bookings of the two ports are lawful, whatever the run state and the clock. -/
theorem twoPorts_bookingsLawful (b : Slot) (start : Nat) (s : State) (h : b.state ≠ .free) (hp : b.port = 12)
    (hd : 0 < b.duration) (he : finalEnd b ≤ 532740) (e : s.store = (twoPorts b start).store)
    (e2 : s.tickets = onAir.tickets) : bookingsLawful s := by
  have hc : ∀ n, Machine.closing n s = false := fun n => by
    simp only [Machine.closing, closingSlots, ratedSlots, outstanding, e, e2]
    rfl
  have hi : outstanding s = [] := by rw [outstanding, e2]; rfl
  refine ⟨⟨fun d n => ?_, fun d => ?_⟩, by rw [hi]; decide, fun g => absurd g (by rw [hi]; decide),
    fun n g => absurd g (by rw [hi]; exact List.not_mem_nil), fun r k => by rw [hi]; exact ⟨List.not_mem_nil, List.not_mem_nil⟩,
    fun _ => by rw [e2]; rfl⟩
  · rw [hc, e, twoPorts_timelines, twoPorts_slots]
    by_cases h18 : n = 18
    · subst h18
      by_cases d13 : d = 13
      · subst d13; simp [slot17]
      · by_cases d12 : d = 12 <;> simp [d12, d13, slot17, eq_comm]
    · by_cases h17 : n = 17
      · subst h17
        by_cases d12 : d = 12
        · subst d12; simp [h, hp]
        · by_cases d13 : d = 13 <;> simp [d12, d13, hp, eq_comm]
      · by_cases h22 : n = 22
        · subst h22
          by_cases d12 : d = 12
          · subst d12; simp [slot22, slot17]
          · by_cases d13 : d = 13 <;> simp [d12, d13, slot22, slot17, eq_comm]
        · split
          · simp [h17, h22, Slot.hardReset]
          · split <;> simp [h18, Slot.hardReset]
  · rw [e, twoPorts_timelines]
    split
    · simp only [List.mem_cons, List.not_mem_nil, or_false, forall_eq_or_imp, forall_eq, twoPorts_slots, List.pairwise_cons,
        List.Pairwise.nil, and_true, false_imp_iff, implies_true]
      exact ⟨⟨hd, show 0 < slot22.duration by decide⟩, he⟩
    · split
      · simp only [List.mem_cons, List.not_mem_nil, or_false, forall_eq, twoPorts_slots, List.pairwise_cons,
          List.Pairwise.nil, and_true, false_imp_iff, implies_true]
        exact (show 0 < 60 by decide)
      · simp

/-- R66: D12's head has passed its final end and D13's its start. -/
def heldTwo : State := inRun .held (twoPorts overdue 532660)

def startTwo : State := { twoPorts overdue 532660 with
  link := { onAir.link with run := .dormant, start := .identityWrite } }

/-- R140, R41: a late activation between the tick of a second 59 and its boundary, either way round, and behind a SET CLOCK. -/
theorem test_late_activation_first_second :
    let first (r : Rollover) (second : Nat) : Option Stamp :=
      (after .start (rolled r (atTime 532660 second (lateHeld lateOne)))).tariffs.meters[17].firstCounted
    first (.tickFirst 532661 false) 59 = some { minute := 532661, second := 1 } ∧
    first (.boundaryFirst 532659) 0 = some { minute := 532660, second := 0 } ∧
    first (.tickFirst 532659 true) 0 = some { minute := 532660, second := 1 } := by
  decide +kernel

theorem witness_StartTakenInHeldOrRunning : base.link.run = .running ∧ base.link.haltWaiting = false ∧
    haltWaits.resetn = true ∧ haltWaits.link.run = .running ∧ haltWaits.link.haltWaiting = true ∧
    haltWaits.link.fatal = .none ∧ fatal.link.run = .held ∧ fatal.link.fatal = .bus ∧ held.link.run = .held ∧
    linkFree held ∧ held.orders.unit = .idle ∧ caughtUp held ∧
    (∀ b, (lateHeld b).link.run = .held ∧ linkFree (lateHeld b) ∧ (lateHeld b).orders.unit = .idle ∧
      (lateHeld b).store.timelines[(12 : Fin 64)] = [17] ∧ (lateHeld b).store.slots[(17 : Fin 1024)] = b ∧
      (∀ e, e ≠ 12 → caughtUpAt e (lateHeld b)) ∧ accessesIdle (lateHeld b)) ∧
    (after .start (lateHeld overdue)).link.log = [.read 0x210000 1] ∧
    (after .start (lateHeld missedOne)).tickets.inFlight.isSome = true ∧
    (after .start (lateHeld lateOne)).tariffs.meters[17].firstCounted = some { minute := 532660, second := 31 } ∧
    (after .start (lateHeld overrunOne)).store.slots[17].state = .overrun ∧
    heldTwo.link.run = .held ∧ linkFree heldTwo ∧ heldTwo.orders.unit = .idle ∧ bookingsLawful heldTwo ∧
    (after .start heldTwo).tickets.inFlight.isSome = true ∧ (after .start heldTwo).tickets.waiting.length = 2 ∧
    (after .start heldTwo).store.slots[18].state = .active := by
  refine ⟨rfl, rfl, rfl, rfl, rfl, rfl, rfl, rfl, rfl, ⟨rfl, rfl, rfl⟩, rfl, onAir_caughtUp, fun b => ?_, ?_, ?_, ?_, ?_,
    rfl, ⟨rfl, rfl, rfl⟩, rfl, ?_, ?_, ?_, ?_⟩
  · refine ⟨rfl, ⟨rfl, rfl, rfl⟩, rfl, ?_, ?_, others_caughtUp rfl, rfl, rfl⟩ <;>
      simp [lateHeld, inRun, lone]
  case refine_6 =>
    exact twoPorts_bookingsLawful overdue 532660 _ (by decide) rfl (by decide) (by decide) rfl rfl
  all_goals decide +kernel

theorem witness_HaltTaken : State.reset.link.run ≠ .running ∧ base.link.run = .running ∧ base.orders.unit = .idle ∧
    (given .book 0 0 0 0 base).orders.unit ≠ .idle ∧ (given .book 0 0 0 0 base).link.run = .running := by decide +kernel

/-- The part waiting for the header, and for its identity word. -/
def inStart (p : StartPhase) : State :=
  { State.reset with link := { State.reset.link with area := 0x100000, start := p } }

/-- A header whose book and ring lie in window 1 at the ends it covers. -/
def header : Vector Byte 80 :=
  record [(0, 4, 1), (8, 8, 0x200000), (16, 2, 1024), (18, 2, 4096), (24, 8, 0x210000), (32, 8, 0x200000), (40, 4, 48),
    (44, 1, 3)]

/-- The same with a ring that overlaps the book, so that only the last check fails. -/
def headerOverlap : Vector Byte 80 :=
  record [(0, 4, 1), (8, 8, 0x200000), (16, 2, 1024), (18, 2, 4096), (24, 8, 0x20FFE0), (32, 8, 0x200000), (40, 4, 48),
    (44, 1, 3)]

theorem header_windows (bytes : Vector Byte 80) (h : bytes = header ∨ bytes = headerOverlap) :
    headerWindow bytes 1 = (0x200000, 48, 3) ∧ headerWindow bytes 2 = (0, 0, 0) ∧ headerWindow bytes 3 = (0, 0, 0) := by
  rcases h with rfl | rfl <;> decide +kernel

theorem header_startsWith (bytes : Vector Byte 80) (h : bytes = header ∨ bytes = headerOverlap) :
    ∀ c ∈ [StartCode.version, .windowBad, .bookCount, .bookWindow, .ringCount], ¬startFails bytes (inStart .headerRead) c := by
  obtain ⟨h1, h2, h3⟩ := header_windows bytes h
  have hf : fieldAt bytes 0 4 = 1 ∧ fieldAt bytes 8 8 = 0x200000 ∧ fieldAt bytes 16 2 = 1024 ∧ fieldAt bytes 18 2 = 4096 := by
    rcases h with rfl | rfl <;> decide +kernel
  obtain ⟨f1, f2, f3, f4⟩ := hf
  simp only [List.forall_mem_cons, List.not_mem_nil, false_imp_iff, implies_true, and_true]
  refine ⟨?_, ?_, ?_, ?_, ?_⟩ <;> simp only [startFails, f1, f2, f3, f4]
  · decide
  · rintro ⟨k, b, pages, perm, hk1, hk3, hw, hbad⟩
    interval_cases k <;> simp_all
  · rintro (h | h | ⟨n, hn, -⟩) <;> omega
  · rintro (h | h | h)
    · omega
    · exact h 1 (by omega) (by omega) 0x200000 48 h1 (by omega)
    · revert h; unfold crosses; decide +kernel
  · omega

theorem witness_HeaderReadTaken : (inStart .headerRead).resetn = true ∧ (inStart .headerRead).link.start = .headerRead ∧
    (inStart .headerRead).link.fatal = .none ∧ (inStart .headerRead).link.gate = .open ∧
    State.reset.link.start ≠ .headerRead ∧
    (∀ c ∈ startOrder, ¬startFails header (inStart .headerRead) c) ∧
    startOrder = [.version, .windowBad, .bookCount, .bookWindow, .ringCount] ++ .ringWindow :: [] ∧
    (∀ c ∈ [StartCode.version, .windowBad, .bookCount, .bookWindow, .ringCount],
      ¬startFails headerOverlap (inStart .headerRead) c) ∧
    startFails headerOverlap (inStart .headerRead) .ringWindow ∧
    startFails (record []) (inStart .headerRead) .version := by
  refine ⟨rfl, rfl, rfl, rfl, by decide, ?_, rfl, header_startsWith _ (.inr rfl), ?_, ?_⟩
  · intro c hc
    rcases List.mem_append.mp (show c ∈ [.version, .windowBad, .bookCount, .bookWindow, .ringCount] ++ [.ringWindow] from hc)
      with h | h
    · exact header_startsWith _ (.inl rfl) c h
    · obtain rfl := List.mem_singleton.mp h
      have f : fieldAt header 24 8 = 0x210000 ∧ fieldAt header 18 2 = 4096 ∧ fieldAt header 8 8 = 0x200000 ∧
        fieldAt header 16 2 = 1024 := by decide +kernel
      simp only [startFails, f.1, f.2.1, f.2.2.1, f.2.2.2]
      rintro (h | h | h | h)
      · omega
      · exact h 1 (by omega) (by omega) 0x200000 48 (header_windows header (.inl rfl)).1 (by omega)
      · revert h; unfold crosses; decide +kernel
      · revert h; unfold crosses; decide +kernel
  · refine .inr (.inr (.inr ?_))
    unfold crosses
    decide +kernel
  · show fieldAt (record [] : Vector Byte 80) 0 4 ≠ 1
    decide +kernel

theorem witness_IdentityWriteResumes : (inStart .identityWrite).resetn = true ∧
    State.reset.link.start ≠ .identityWrite ∧ (inStart .identityWrite).link.start = .identityWrite ∧
    (inStart .identityWrite).link.fatal = .none ∧ (inStart .identityWrite).link.gate = .open ∧
    (inStart .identityWrite).orders.unit = .idle ∧ caughtUp (inStart .identityWrite) ∧
    (∀ b, (lateStart b).link.start = .identityWrite ∧ (lateStart b).resetn = true ∧ (lateStart b).link.fatal = .none ∧
      (lateStart b).link.gate = .open ∧ (lateStart b).orders.unit = .idle ∧
      (lateStart b).store.timelines[(12 : Fin 64)] = [17] ∧ (lateStart b).store.slots[(17 : Fin 1024)] = b ∧
      (∀ e, e ≠ 12 → caughtUpAt e (lateStart b)) ∧ accessesIdle (lateStart b)) ∧
    (after .identityWriteComplete (lateStart missedOne)).tickets.inFlight.isSome = true ∧
    (after .identityWriteComplete (lateStart lateOne)).store.slots[17].state = .active ∧
    startTwo.link.start = .identityWrite ∧ startTwo.resetn = true ∧ startTwo.link.fatal = .none ∧
    startTwo.link.gate = .open ∧ startTwo.orders.unit = .idle ∧ bookingsLawful startTwo ∧
    (after .identityWriteComplete startTwo).store.timelines[(12 : Fin 64)] = [22] ∧
    (after .identityWriteComplete startTwo).store.slots[18].state = .active := by
  refine ⟨rfl, by decide, rfl, rfl, rfl, rfl, fun d n h => ?_, fun b => ?_, ?_, ?_, rfl, rfl, rfl, rfl, rfl,
    twoPorts_bookingsLawful overdue 532660 _ (by decide) rfl (by decide) (by decide) rfl rfl, ?_, ?_⟩
  · have : ∀ e : Fin 64, (inStart .identityWrite).store.timelines[e] = [] := by decide +kernel
    rw [this] at h
    simp at h
  · refine ⟨rfl, rfl, rfl, rfl, rfl, ?_, ?_, others_caughtUp rfl, rfl, rfl⟩ <;> simp [lateStart, lone]
  all_goals decide +kernel

/-- The close of booking 17 on air, and the close of booking 22 as given. -/
def raised (forOrder : Bool) : Raise := closeRaise .booking 17 532725 forOrder onAir

def raisedNext : Raise := closeRaise .missed 22 532725 false onAir

/-- The ticket of booking 17 being raised, with that of booking 22 waiting behind it, and both in their account. -/
def rising : State :=
  { onAir with
    store := { onAir.store with timelines := onAir.store.timelines.set (12 : Fin 64) [] }
    accounts := onAir.accounts.set (0 : Fin 128) { onAir.accounts[0] with closedCount := 2, chargeTotal := 36000 }
    tickets := { onAir.tickets with
      number := 1
      inFlight := some (.raise (raised false))
      waiting := [.raise raisedNext] } }

theorem rising_closing (n : Fin 1024) : Machine.closing n rising = decide (n ∈ [(17 : Fin 1024), 22]) := rfl

theorem rising_bookingsLawful : bookingsLawful rising := by
  have ht : ∀ d : Fin 64, rising.store.timelines[d] = [] := by decide +kernel
  refine ⟨⟨fun d n => ?_, fun d => ?_⟩, by decide, fun h => absurd h (by decide), fun n h => ?_, fun r k => ?_, fun h => ?_⟩
  · rw [ht, rising_closing]
    refine ⟨fun h => absurd h List.not_mem_nil, fun h => absurd h.2.2 ?_⟩
    rcases (onAir_taken n).1.1 h.1 with rfl | rfl <;> decide
  · rw [ht]
    simp
  · have e : outstanding rising = [.raise (raised false), .raise raisedNext] := rfl
    rw [e] at h
    simp at h
  · have e : outstanding rising = [.raise (raised false), .raise raisedNext] := rfl
    rw [e]
    simp
  · exact absurd (show (some (Access.raise (raised false))) = none from h) (by simp)

theorem rising_accounts : ∀ k : Fin 128, rising.accounts[k].isOpen = true →
    k = 0 ∧ rising.accounts[k].matchNumber = 1207 ∧ rising.accounts[k].openCount = 2 := by decide +kernel

theorem rising_accountsLawful : accountsLawful rising := by
  have e : outstanding rising = [.raise (raised false), .raise raisedNext] := rfl
  refine ⟨fun j k h1 h2 _ => ?_, by decide +kernel, fun n h => ⟨0, by decide +kernel, ?_⟩, fun k h => ?_, ?_, ?_, ?_, ?_⟩
  · rw [(rising_accounts j h1).1, (rising_accounts k h2).1]
  · rw [show rising.store.slots[n].matchNumber = 1207 from (onAir_taken n).2 h]
    decide +kernel
  · obtain ⟨-, h1, h2⟩ := rising_accounts k h
    rw [h1, h2]
    exact onAir_matchSlots.symm
  · show [(17 : Fin 1024), 22].Nodup
    decide
  · intro n hn
    exact (onAir_taken n).1.2 (by
      have : n ∈ [(17 : Fin 1024), 22] := hn
      simpa [or_comm] using this)
  · rw [e]
    intro r hr
    have : r = raised false ∨ r = raisedNext := by simpa using hr
    rcases this with rfl | rfl <;> decide +kernel
  · rw [e]
    intro k hk
    simp at hk

/-- R15, R68, R164: a ticket is being raised, and another waits, when the fault comes; both are lost. -/
theorem witness_BusFaultTaken : (Instr.busFault = .busFault ∨ Instr.busFault = .completionTimeout) ∧ fatal.resetn = true ∧
    fatal.link.fatal = .bus ∧ rising.resetn = true ∧ rising.link.fatal = .none ∧ bookingsLawful rising ∧
    accountsLawful rising ∧ raisesOf rising = [raised false, raisedNext] ∧
    raisesIn rising.tickets.waiting = [raisedNext] ∧ raisedCount 1207 rising = 2 ∧ (17 : Fin 1024) ∈ ratedSlots rising ∧
    (let t := after (.busFault 0) rising
     t.accounts[0] = { Account.hardReset with
       isOpen := true
       matchNumber := 1207
       closedCount := 2
       chargeTotal := 36000
       unwritten := 2 } ∧
      t.tickets.number = 2 ∧ t.tickets.lost = 2 ∧ t.store.slots[22].state = .free ∧ t.link.log = [] ∧
      t.alarm.items[50].severity = 3) ∧
    (after (.busFault 3) rising).link.gate = .faultAfter 2 ∧
    (after (.completionTimeout 0) (after .start State.reset)).link.lastStart = .fatal := by
  refine ⟨.inl rfl, rfl, rfl, rfl, rfl, rising_bookingsLawful, rising_accountsLawful, rfl, rfl, ?_, ?_, ?_, ?_⟩ <;>
    decide +kernel

/-- R169, R164, R68: a fault announced for a write of a page, which stays torn, of a ticket, of a record, and of an EXTEND. -/
theorem witness_BusFaultTaken_announced :
    let gated (n : Nat) (s : State) : State := { s with link := { s.link with gate := .faultAfter n } }
    let page := [writeAt 0x101000 [1], writeAt 0x101FFC [1]]
    let paged (n : Nat) : State := gated n { onAir with link := { onAir.link with page := some page, permissions := 0x7F } }
    let lost (n : Nat) : State := gated n rising
    let asks : State := gated 0 (given .extend 17 10 0 0 onAir)
    ((paged 1).resetn = true ∧ linkOpen (paged 1) = true ∧ (paged 1).link.page = some page ∧
      (let t := after .pageComplete (paged 1)
       t.link.fatal = .bus ∧ t.link.page = none ∧ hostWrites t = [writeAt 0x101000 [1]] ∧ flagSet .page t = false) ∧
      flagSet .page (after .pageComplete (paged 2)) = true) ∧
    ((lost 1).resetn = true ∧ linkOpen (lost 1) = true ∧ (lost 1).tickets.inFlight = some (.raise (raised false)) ∧
      (lost 1).tickets.ring = some { base := 0x210000, count := 16 } ∧ (lost 1).link.pageTicks = [] ∧
      5 < (closeTraffic false (raised false) rising).length ∧
      (let t := after (.ticketSlotReadComplete 0) (lost 1)
       (hostWrites t).length = 1 ∧ t.tickets.writePosition = 0 ∧ t.tickets.lost = 2 ∧ t.store.slots[17].state = .free) ∧
      (let t := after (.ticketSlotReadComplete 0) (lost 5)
       (hostWrites t).length = 5 ∧ t.tickets.writePosition = 1 ∧ t.tickets.lost = 2)) ∧
    (asks.resetn = true ∧ linkOpen asks = true ∧ asks.link.gate = .faultAfter 0 ∧
      (∃ o, asks.orders.unit = .acting o .dispatched ∧ o.code = .extend ∧ (17 : Fin 1024).val = o.a.toNat ∧
        o.b.toNat = 10) ∧
      accessesIdle asks ∧ 17 < asks.store.bookCount ∧ Machine.closing 17 asks = false ∧
      asks.store.slots[(17 : Fin 1024)].state ≠ .free ∧ asks.store.slots[(17 : Fin 1024)].port = 12 ∧
      asks.store.timelines[(12 : Fin 64)] = [] ++ 17 :: [22] ∧ 0 < extensionGrant 17 10 [22] asks ∧
      (let t := after .extend asks
       t.store.slots[17].extension = 10 ∧ t.link.fatal = .bus ∧ hostWrites t = [] ∧ t.orders.next = 0)) := by
  refine ⟨?_, ?_, rfl, by decide +kernel, rfl, ⟨_, rfl, rfl, by decide +kernel, by decide +kernel⟩, ⟨rfl, rfl⟩, ?_⟩ <;>
    decide +kernel

/-- R15, R68: the fault on the first write of a record, after the two of the ticket: the ticket is written and counted lost. -/
theorem test_fault_on_record :
    (let t := after (.ticketSlotReadComplete 0) (after (.busFault 3) rising)
     t.link.log.length = 2 ∧ t.tickets.lost = 2 ∧ t.tickets.writePosition = 1 ∧ t.accounts[0].unwritten = 2) := by
  decide +kernel

/-- The ticket of a cancelled booking 17 being raised, with nothing behind it. -/
def risingAlone : State :=
  { onAir with
    store := { onAir.store with timelines := onAir.store.timelines.set (12 : Fin 64) [22] }
    tickets := { onAir.tickets with inFlight := some (.raise (raised false)) } }

/-- With nothing under way, and with two closes. -/
theorem witness_SoftResetTaken : onAir.resetn = true ∧ onAir.link.start ≠ .headerRead ∧ onAir.link.page = none ∧
    onAir.store.holds = [] ∧ accessesIdle onAir ∧ onAir.orders.unit = .idle ∧ (∀ e, onAir.clock.rollover ≠ .boundaryFirst e) ∧
    (after (reset idleCut) onAir).link.run = .dormant ∧
    (after (reset idleCut) onAir).rows[12].current = .port 3 ∧
    rising.resetn = true ∧ bookingsLawful rising ∧ rising.orders.unit = .idle ∧ (22 : Fin 1024) ∈ closingSlots rising ∧
    (after (reset { idleCut with accessIssued := 1 }) rising).store.slots[22].state = .free ∧ onAir.link.pageTicks = [] ∧
    (after (reset idleCut) { onAir with link := { onAir.link with pageDue := true } }).link.pageDue = true ∧
    (after (reset idleCut) { onAir with link := { onAir.link with pageNext := true } }).link.pageNext = true := by
  refine ⟨rfl, by decide, rfl, rfl, ⟨rfl, rfl⟩, rfl, fun e h => ?_, ?_, ?_, rfl, rising_bookingsLawful, rfl, ?_, ?_, rfl,
    ?_, ?_⟩
  · exact Rollover.noConfusion (show Rollover.none = .boundaryFirst e from h)
  all_goals decide +kernel

/-- R14: a ticket of which one write had been issued is written whole, and the next one is lost; the flags are cleared after
it all. With none issued both are lost, also beside two writes of the report of an order. -/
theorem test_soft_reset_completes :
    (let t := after (reset { idleCut with accessIssued := 1 }) rising
     (hostWrites t).length = 2 ∧ t.tickets.number = 2 ∧ t.tickets.lost = 1 ∧ t.accounts[0].chargeTotal = 36000 ∧
      t.link.flags = 0) ∧
    (let t := after (reset { idleCut with orderIssued := 2 }) (given .readPort 3 0 0 0 rising)
     (hostWrites t).length = 2 ∧ t.tickets.number = 2 ∧ t.tickets.lost = 2 ∧ t.accounts[0].openCount = 0) := by
  decide +kernel

/-- R28: a BOOK, an EXTEND whose entry had just been read and an entry not ready in flight at a soft reset written to CTRL are
completed inside the part, with the writes issued or with none. -/
theorem test_soft_reset_orders :
    (let cut : CutOff := { idleCut with orderIssued := 2, record := build fun i =>
       if i.val = 0 ∨ i.val = 2 then 1 else if i.val = 3 then 3 else if i.val = 4 then 0xB7 else if i.val = 5 then 4
       else if i.val = 7 then 12 else if i.val = 8 then 3 else if i.val = 9 then 4 else if i.val = 10 then 15
       else if i.val = 12 then 0xF5 else if i.val = 13 then 0x20 else if i.val = 14 then 8 else 0 }
     (after (.registerWrite ⟨.ctrl, cut⟩ 15 3) (given .book 31 0 0 0 onAir)).store.slots[31].state = .accepted) ∧
    (let cut : CutOff := { idleCut with entry := some (record [(0, 1, 1), (1, 1, 3), (4, 4, 17), (8, 4, 10)]) }
     let t := after (.registerWrite ⟨.ctrl, cut⟩ 15 3) { onAir with orders := { onAir.orders with unit := .reading } }
     t.store.slots[17].extension = 10 ∧ hostWrites t = []) ∧
    (hostWrites (after (.registerWrite ⟨.ctrl, { idleCut with orderIssued := 2, entry := some (build fun _ => 0) }⟩ 15 3)
      { base with orders := { base.orders with unit := .reading } })).length = 2 := by decide +kernel

/-- The part with a page in flight. -/
def paging : State := { base with link := { base.link with page := some [writeAt 0x101000 [1]], permissions := 0x7F } }

/-- The tick of a boundary is outstanding at the page logic, with its closes and re-check still under way as s has them. -/
def pageOwed (s : State) : State :=
  { s with link := { s.link with pageTicks := s.link.pageTicks ++ [tickOwed { minute := 532661, second := 0 } s] } }

/-- The times of the boundaries owed. -/
def owedTimes (s : State) : List Stamp := s.link.pageTicks.map (·.time)

/-- The three commands that can bring it, where the boundary is through and where a ticket still waits. -/
theorem witness_PageCompleted : linkFree base ∧ base.link.page = none ∧ linkFree paging ∧
    paging.link.page = some [writeAt 0x101000 [1]] ∧ (after .pageComplete paging).link.flags = 16 ∧
    linkFree (pageOwed risingAlone) ∧ (pageOwed risingAlone).link.pageTicks ≠ [] ∧
    (after (.ticketSlotReadComplete 0) (pageOwed risingAlone)).link.pageCount = 1 ∧
    (after (.ticketSlotReadComplete 0) (pageOwed risingAlone)).tickets.writePosition = 1 ∧
    linkFree (pageOwed rising) ∧
    owedTimes (after (.ticketSlotReadComplete 0) (pageOwed rising)) = [{ minute := 532661, second := 0 }] :=
  ⟨⟨rfl, rfl, rfl⟩, rfl, ⟨rfl, rfl, rfl⟩, rfl, by decide +kernel, ⟨rfl, rfl, rfl⟩, by decide, by decide +kernel,
    by decide +kernel, ⟨rfl, rfl, rfl⟩, by decide +kernel⟩

/-- R166: two boundaries owed for one ticket bring one page, that of the first, and the mark for the next tick. A boundary
whose ticket is through brings its page while that of a later one still waits. -/
theorem test_two_boundaries :
    (let t := after (.ticketSlotReadComplete 0) (pageOwed (pageOwed risingAlone))
     t.link.pageTicks = [] ∧ t.link.pageCount = 1 ∧ t.link.page.isSome = true ∧ t.link.pageDue = true) ∧
    (let s := pageOwed risingAlone
     let later := after (.minuteBoundary ⟨[], true, 0, 0⟩) (rolled (.tickFirst 532662 false)
       { s with tickets := { s.tickets with waiting := [.raise raisedNext] } })
     owedTimes later = [{ minute := 532661, second := 0 }, { minute := 532662, second := 0 }] ∧ later.link.pageCount = 0 ∧
      (let t := after (.ticketSlotReadComplete 0) later
       owedTimes t = [{ minute := 532662, second := 0 }] ∧ t.link.pageCount = 1 ∧
        ((t.link.page.getD [])[1]?.map fun w => w.bytes.take 5) = some (le 4 532661 ++ [0]))) := by
  decide +kernel

/-! ### Witnesses: the network clock -/

/-- A part in FREE_RUN whose relock run stands at a count, its last pulse at 1 s. -/
def freeRun (count : Nat) : State :=
  { State.reset with clock := { State.reset.clock with relock := { count := count, last := 1000000000 } } }

/-- D12 with a selection pending. -/
def switching : State :=
  let row : Row := { onAir.rows[(12 : Fin 64)] with pending := some { target := .port 4, cause := .protection } }
  { onAir with rows := onAir.rows.set (12 : Fin 64) row }

/-- S3 as a monitor given. -/
def withS3 (m : Monitor) (s : State) : State := { s with monitors := s.monitors.set (3 : Fin 48) m }

/-- D12 with a selection pending, and its carrier S3 about to enter FAILED at the tick. -/
def failing (f : FramerefState) : State :=
  withS3 { goodLine with holdOff := 1, seen := { lightLost := true, lockLost := true, blocks := 0 } }
    { switching with
      clock := { switching.clock with frameref := f }
      link := { switching.link with permissions := 0x7F } }

/-- Each of the four ticks, and a boundary outstanding before one; R38, R78: a tick in LOST with a selection pending; R166: the
page due mark set. -/
theorem witness_SecondTicksTaken :
    (∃ w, tickBy (.secrefPulse 6000000000 [48, 3]) onAir w ∧ w.clock.rollover = .none) ∧
    (∃ w, tickBy (.secrefPulse 2001000000 []) (freeRun 2) w ∧ w.clock.rollover = .none) ∧
    (∃ w, tickBy (.ownTick [3]) State.reset w ∧ w.clock.rollover = .none) ∧
    (∃ w, tickBy (.secrefTimeout []) onAir w ∧ w.clock.rollover = .none) ∧
    (∃ w, tickBy (.ownTick []) (rolled (.tickFirst 1 false) State.reset) w ∧ w.clock.rollover = .tickFirst 1 false) ∧
    (let t := after (.secrefPulse 6000000000 []) { switching with clock := { switching.clock with frameref := .lost } }
     t.rows[12].current = .port 4 ∧ t.rows[12].changed = false) ∧
    (let t := after (.secrefPulse 6000000000 []) { onAir with link := { onAir.link with pageDue := true } }
     t.link.pageCount = 1 ∧ t.link.page.isSome = true ∧ t.link.pageDue = false) := by
  refine ⟨⟨_, .inl ⟨_, _, rfl, rfl, rfl⟩, rfl⟩,
    ⟨_, .inr (.inl ⟨_, _, rfl, rfl, rfl, by unfold relockGap; decide +kernel, rfl⟩), rfl⟩,
    ⟨_, .inr (.inr (.inl ⟨_, _, rfl, rfl, rfl, rfl⟩)), rfl⟩,
    ⟨_, .inr (.inr (.inr ⟨_, _, rfl, rfl, rfl, rfl⟩)), rfl⟩,
    ⟨_, .inr (.inr (.inl ⟨_, _, rfl, rfl, rfl, rfl⟩)), rfl⟩, ?_, ?_⟩ <;> decide +kernel

/-- R94, R107, R110, R166: the carrier of an owned port fails at a tick. Its booking has no backup, so the rule chooses the
carrier, the current source, and clears the pending selection (R73). In LOST the switch point comes before that or after it. The
change brings the tick's page, the item rises and ALARM with it. -/
theorem witness_SecondTicksTaken_changes :
    tickBy (.secrefPulse 6000000000 [48]) (failing .present) { failing .present with
      clock := { (failing .present).clock with lastTick := some 6000000000 } } ∧
    timelinesLawful (failing .present) ∧ timelinesLawful (failing .lost) ∧ sourceItemsFollow (failing .present) ∧
    acksBounded (failing .present) ∧ ownerOf 12 (failing .present) = some 17 ∧ ownerOf 0 (failing .present) = none ∧
    isLeg (failing .present).store.slots[(17 : Fin 1024)] 3 = true ∧ (failing .present).link.pageTicks = [] ∧
    (let t := after (.secrefPulse 6000000000 [48]) (failing .present)
     t.monitors[3].health = .failed ∧ t.rows[12].pending = none ∧ t.rows[12].current = .port 3 ∧ t.link.pageCount = 1 ∧
      t.alarm.items[3].severity = 3 ∧ t.link.flags = 8 ∧ t.link.log = [.message]) ∧
    (let t := after (.secrefPulse 6000000000 [3]) (failing .lost)
     t.rows[12].current = .port 3 ∧ t.rows[12].pending = none) ∧
    (let t := after (.secrefPulse 6000000000 [48]) (failing .lost)
     t.rows[12].current = .port 4 ∧ t.rows[12].pending = some { target := .port 3, cause := .protection }) := by
  refine ⟨.inl ⟨_, _, rfl, rfl, rfl⟩, onAir_timelinesLawful, onAir_timelinesLawful, ?_, ?_, ?_, ?_, ?_, rfl, ?_, ?_, ?_⟩
  · unfold sourceItemsFollow
    decide +kernel
  · unfold acksBounded
    decide +kernel
  all_goals decide +kernel

/-- R166: a tick with the mark set begins its page also while the tick of a boundary is owed; so does one after a FRAMEREF pulse
that came behind that boundary. With no mark it begins none. -/
theorem test_tick_while_page_owed :
    (let t := after (.secrefPulse 6000000000 [])
       (pageOwed { rising with link := { rising.link with pageDue := true } })
     t.link.pageCount = 1 ∧ t.link.pageDue = false ∧ owedTimes t = [{ minute := 532661, second := 0 }] ∧
      (t.link.page.getD [])[1]?.map (fun w => w.bytes.take 5) = some (le 4 532660 ++ [31])) ∧
    (let s := after (.framerefPulse 7) (pageOwed { switching with tickets := rising.tickets })
     s.link.pageNext = true ∧ (after (.secrefPulse 6000000000 []) s).link.pageCount = 1 ∧
      (after (.secrefPulse 6000000000 []) s).link.pageNext = false) ∧
    (after (.secrefPulse 6000000000 []) (pageOwed rising)).link.pageCount = 0 := by decide +kernel

/-- 09 section 9.10.1: a second of the booked phase is counted in PEAK; 03: the second count rises. -/
theorem test_tick : (after (.secrefPulse 6000000000 [48, 3]) onAir).tariffs.meters[17].booked.peak = 721 ∧
    (after (.secrefPulse 6000000000 [48, 3]) onAir).clock.second = 31 := by decide +kernel

/-- The tick of second 59 of minute 532,660 is owed, with a table staged. -/
def owing : State :=
  let s := rolled (.boundaryFirst 532660) (atTime 532661 0 onAir)
  { s with tariffs := { s.tariffs with staged := some table6 } }

/-- R136, R142: the second is counted under table 6, and then the staged table is current as table 7; and the tick that a soft
reset has had the blocks take. -/
theorem witness_OwedTickTaken : owing.resetn = true ∧ (∃ w, tickBy (.secrefPulse 6000000000 []) owing w ∧
      w.clock.rollover = .boundaryFirst 532660 ∧ w.tariffs.current = some table6 ∧ countsAt 17 532660 59 w ∧
      ¬countsAt 22 532660 59 w) ∧
    (∃ w, tickBy (.secrefPulse 6000000000 []) (rolled (.handed 532660) onAir) w ∧ w.clock.rollover = .handed 532660) ∧
    (let t := after (.secrefPulse 6000000000 []) owing
     t.tariffs.meters[17].booked.peak = 721 ∧ t.tariffs.meters[17].lastTable = some 6 ∧ t.tariffs.number = 7 ∧
      t.clock.minute = 532661 ∧ t.link.pageCount = 1) ∧
    (after (.secrefPulse 6000000000 []) (rolled (.handed 532660) onAir)).tariffs.meters[17].booked.peak = 720 ∧
    (∃ w, tickBy (.secrefPulse 6000000000 []) (rolled (.handed 532660) rising) w ∧ w.clock.rollover = .handed 532660) ∧
    owedTimes (after (.secrefPulse 6000000000 []) (rolled (.handed 532660) rising)) = [{ minute := 532661, second := 0 }] := by
  refine ⟨rfl, ⟨_, .inl ⟨_, _, rfl, rfl, rfl⟩, rfl, rfl, ⟨?_, ?_, ?_, { minute := 532635, second := 0 }, ?_, ?_⟩, fun h => ?_⟩,
    ⟨_, .inl ⟨_, _, rfl, rfl, rfl⟩, rfl⟩, ?_, ?_, ⟨_, .inl ⟨_, _, rfl, rfl, rfl⟩, rfl⟩, ?_⟩
  case refine_6 =>
    have h1 := h.1
    revert h1
    decide +kernel
  all_goals decide +kernel

/-- R33: the bounds of the spacing. -/
theorem witness_RelockRunTaken : (freeRun 1).resetn = true ∧ (freeRun 1).clock.secref = .freeRun ∧
    (freeRun 0).clock.relock.count = 0 ∧ (freeRun 1).clock.relock.count = 1 ∧
    relockGap (freeRun 1).clock.relock 1999000000 ∧ relockGap (freeRun 1).clock.relock 2001000000 ∧
    ¬relockGap (freeRun 1).clock.relock 1998999999 ∧ ¬relockGap (freeRun 1).clock.relock 2001000001 ∧
    base.clock.secref = .locked ∧ (after (.secrefPulse 2001000000 []) (freeRun 2)).clock.secref = .locked := by
  unfold relockGap
  decide +kernel

theorem witness_FramerefTaken : timelinesLawful switching ∧ switching.resetn = true ∧ switching.clock.frameref = .present ∧
    State.reset.clock.frameref = .lost ∧ (∀ d : Fin 64, onAir.rows[d].pending = none) ∧
    (switching.rows[(12 : Fin 64)].pending.isSome = true) ∧ crosspointTicked switching = false ∧
    (after (.framerefPulse 7) switching).rows[12].current = .port 4 ∧ (after (.framerefPulse 7) switching).link.pageDue = true ∧
    crosspointTicked (rolled (.tickFirst 532661 false) switching) = true ∧
    (after (.framerefPulse 7) (rolled (.tickFirst 532661 false) switching)).link.pageDue = false ∧
    (after (.framerefPulse 7) (rolled (.tickFirst 532661 false) switching)).link.pageNext = true ∧
    (after .framerefTimeout base).alarm.items[48].severity = 1 := by
  refine ⟨onAir_timelinesLawful, ?_⟩
  decide +kernel

/-- The ring blocked. -/
def blockedRing (s : State) : State := { s with tickets := { s.tickets with blocked := true } }

/-- R53: at 532,725 D12's head has its final end and D13's its start. -/
def dueTwo : State := twoPorts { slot17 with state := .active, activation := some 532635 } 532725

theorem dueTwo_bookingsLawful (s : State) (e : s.store = dueTwo.store) (e2 : s.tickets = onAir.tickets) : bookingsLawful s :=
  twoPorts_bookingsLawful _ 532725 s (by decide) rfl (by decide) (by decide) e e2

/-- Two timelines due, after their tick and before it. -/
theorem witness_MinuteBoundaryTaken_several :
    (let s := rolled (.tickFirst 532725 false) dueTwo
     linkFree s ∧ bookingsLawful s ∧ s.link.run = .running ∧ accessesIdle s ∧ s.tickets.blocked = false ∧
      s.clock.rollover = .tickFirst 532725 false ∧
      (after (.minuteBoundary ⟨[], true, 13, 0⟩) s).tickets.waiting.length = 2 ∧
      (after (.minuteBoundary ⟨[], true, 13, 0⟩) s).store.slots[18].state = .active) ∧
    (let s := atTime 532724 59 dueTwo
     linkFree s ∧ bookingsLawful s ∧ s.link.run = .running ∧ accessesIdle s ∧ s.tickets.blocked = false ∧
      s.clock.rollover = .none ∧ s.clock.second = 59 ∧
      (after (.minuteBoundary ⟨[], true, 0, 0⟩) s).store.holds.length = 1 ∧
      (after (.minuteBoundary ⟨[], true, 0, 0⟩) s).store.slots[18].state = .active) := by
  refine ⟨⟨⟨rfl, rfl, rfl⟩, dueTwo_bookingsLawful _ rfl rfl, rfl, ⟨rfl, rfl⟩, rfl, rfl, ?_, ?_⟩,
    ⟨rfl, rfl, rfl⟩, dueTwo_bookingsLawful _ rfl rfl, rfl, ⟨rfl, rfl⟩, rfl, rfl, rfl, ?_, ?_⟩ <;> decide +kernel

/-- R53, R68: D0's head has its OVERRUN and D12's its activation when a fault comes on the write of the first: with a table
taken between the two ports the boundary is taken whole all the same. -/
theorem test_fault_within_boundary :
    (let t := after (.minuteBoundary ⟨[], true, 1, 0⟩) (after (.busFault 1) (rolled (.tickFirst 532635 false)
      (atTime 532634 59 { accepted with store := { accepted.store with
        slots := accepted.store.slots.set (18 : Fin 1024) { overrunOne with port := 0, start := 532545 }
        timelines := accepted.store.timelines.set (0 : Fin 64) [18] } })))
     t.link.fatal = .bus ∧ t.link.run = .held ∧ hostWrites t = [] ∧ t.store.slots[18].state = .overrun ∧
      t.store.slots[17].state = .active) := by decide +kernel

/-- Second 59 running and its boundary outstanding, with nothing due; R163: a blocked ring in RUNNING, in HELD and in DORMANT;
and blocks that take the tick ahead. -/
theorem witness_MinuteBoundaryTaken : base.clock.rollover = .none ∧ base.clock.second ≠ 59 ∧
    owing.clock.rollover = .boundaryFirst 532660 ∧ (rolled (.handed 532660) base).clock.rollover = .handed 532660 ∧
    (atTime 532660 59 base).clock.second = 59 ∧ (atTime 532660 59 base).link.gate ≠ .muteAfter 0 ∧
    accessesIdle (atTime 532660 59 base) ∧ (∀ d, ¬dueAt 532661 d (atTime 532660 59 base)) ∧
    (rolled (.tickFirst 532661 true) base).clock.rollover = .tickFirst 532661 true ∧
    (after (.minuteBoundary ⟨[], true, 0, 0⟩) (atTime 4294967295 59 base)).clock.minute = 0 ∧
    recheckDue (blockedRing (atTime 532660 59 base)) ∧
    (after (.minuteBoundary ⟨[], true, 0, 0⟩) (blockedRing (atTime 532660 59 base))).link.log = [.read 0x210000 1] ∧
    (after (.minuteBoundary ⟨[], true, 64, 1⟩) (blockedRing (atTime 532660 59 (inRun .held base)))).tickets.inFlight =
      some .recheck ∧
    (after (.minuteBoundary ⟨[], true, 0, 0⟩) (blockedRing (atTime 532660 59 (inRun .dormant base)))).link.log = [] ∧
    (after (.minuteBoundary ⟨[48, 3], false, 0, 0⟩) (atTime 532660 59 base)).crosspointAhead = true := by
  refine ⟨rfl, by decide, rfl, rfl, rfl, by decide, ⟨rfl, rfl⟩, fun d h => ?_, rfl, ?_⟩
  · obtain ⟨n, hn, -⟩ := h
    have : ∀ e : Fin 64, (atTime 532660 59 base).store.timelines[e] = [] := by decide +kernel
    rw [this] at hn
    simp at hn
  · unfold recheckDue
    decide +kernel

/-- Nothing is due on a timeline but D12's. -/
theorem others_not_due (minute : Nat) (s : State) (h : s.store.timelines = onAir.store.timelines) :
    ∀ e : Fin 64, e ≠ 12 → ¬dueAt minute e s := by
  rintro e he ⟨n, hn, -⟩
  rw [h, onAir_timelines, if_neg he] at hn
  simp at hn

/-- 04 section 4.11.1: the boundary into 21:15. -/
def starting : State := rolled (.tickFirst 532635 false) (atTime 532634 59 accepted)

theorem witness_BoundaryActivates : linkFree starting ∧ accessesIdle starting ∧ starting.link.run = .running ∧
    starting.clock.rollover = .tickFirst 532635 false ∧ starting.store.timelines[(12 : Fin 64)].head? = some 17 ∧
    starting.store.slots[(17 : Fin 1024)].state = .accepted ∧ starting.store.slots[(17 : Fin 1024)].start = 532635 ∧
    starting.store.slots[(17 : Fin 1024)].port = 12 ∧ (∀ e, e ≠ 12 → ¬dueAt 532635 e starting) ∧
    (after (.minuteBoundary ⟨[], true, 0, 0⟩) starting).tariffs.meters[17].startBand = some .peak ∧
    (after (.minuteBoundary ⟨[], true, 64, 0⟩) starting).tariffs.meters[17].startBand = some .peak ∧
    (after (.minuteBoundary ⟨[], true, 0, 0⟩) (blockedRing starting)).tickets.waiting.length = 2 ∧
    (let s := atTime 532634 59 accepted
     linkFree s ∧ accessesIdle s ∧ s.link.run = .running ∧ s.clock.rollover = .none ∧ s.clock.second = 59 ∧
      s.store.timelines[(12 : Fin 64)].head? = some 17 ∧ s.store.slots[(17 : Fin 1024)].state = .accepted ∧
      s.store.slots[(17 : Fin 1024)].start = 532635 ∧ s.store.slots[(17 : Fin 1024)].port = 12 ∧
      (∀ e, e ≠ 12 → ¬dueAt 532635 e s) ∧
      (after (.minuteBoundary ⟨[], true, 0, 0⟩) s).store.slots[17].state = .active ∧
      (after (.minuteBoundary ⟨[], true, 0, 0⟩) s).tariffs.meters[17].startBand = none) := by
  refine ⟨⟨rfl, rfl, rfl⟩, ⟨rfl, rfl⟩, rfl, rfl, ?_, ?_, ?_, ?_, others_not_due _ _ rfl, ?_, ?_, ?_,
    ⟨rfl, rfl, rfl⟩, ⟨rfl, rfl⟩, rfl, rfl, rfl, ?_, ?_, ?_, ?_, others_not_due _ _ rfl, ?_, ?_⟩ <;> decide +kernel

/-- 04 section 4.11.1: booking 17 with an extension of 10 at its booked end, and booking 17 alone at its final end. -/
def ending (extension : Nat) (l : List (Fin 1024)) : State :=
  { onAir with store := { onAir.store with
      slots := onAir.store.slots.set (17 : Fin 1024) { onAir.store.slots[(17 : Fin 1024)] with extension := extension }
      timelines := onAir.store.timelines.set (12 : Fin 64) l } }

theorem others_not_due_ending (minute : Nat) {l : List (Fin 1024)} {s : State}
    (h : s.store.timelines = onAir.store.timelines.set (12 : Fin 64) l) : ∀ e : Fin 64, e ≠ 12 → ¬dueAt minute e s := by
  rintro e he ⟨n, hn, -⟩
  rw [others_empty h e he] at hn
  simp at hn

/-- Booking 17 at its final end with booking 22 starting at the same minute. -/
def meeting : State :=
  let s := rolled (.tickFirst 532725 false) (ending 0 [17, 22])
  { s with store := { s.store with slots := s.store.slots.set (22 : Fin 1024) { slot22 with start := 532725 } } }

/-- Booking 17 alone at its final end, the tick taken. -/
def closingNow : State := rolled (.tickFirst 532725 false) (ending 0 [17])

/-- R53, R56 to R58: the OVERRUN of an extended booking, a close before its tick and after it, with its ticket, and R57: a
handover, which asks for no BLACK. -/
theorem witness_BoundaryEndsBookings :
    (let s := rolled (.tickFirst 532725 false) (ending 10 [17, 22])
     linkFree s ∧ accessesIdle s ∧ s.link.run = .running ∧ s.store.timelines[(12 : Fin 64)] = 17 :: [22] ∧
      (17 : Fin 1024) ∉ [(22 : Fin 1024)] ∧ s.store.slots[(17 : Fin 1024)].port = 12 ∧
      (∀ e, e ≠ 12 → ¬dueAt 532725 e s) ∧ s.store.slots[(17 : Fin 1024)].state = .active ∧
      bookedEnd s.store.slots[(17 : Fin 1024)] = 532725 ∧ 0 < s.store.slots[(17 : Fin 1024)].extension) ∧
    (let s := atTime 532724 59 (ending 10 [17, 22])
     linkFree s ∧ accessesIdle s ∧ s.link.run = .running ∧ s.clock.rollover = .none ∧ s.clock.second = 59 ∧
      s.store.timelines[(12 : Fin 64)] = 17 :: [22] ∧ (∀ e, e ≠ 12 → ¬dueAt 532725 e s) ∧
      s.store.slots[(17 : Fin 1024)].state = .active ∧ bookedEnd s.store.slots[(17 : Fin 1024)] = 532725 ∧
      0 < s.store.slots[(17 : Fin 1024)].extension ∧
      (after (.minuteBoundary ⟨[], true, 0, 0⟩) s).store.slots[17].state = .overrun) ∧
    (let s := atTime 532724 59 (ending 0 [17])
     linkFree s ∧ accessesIdle s ∧ s.link.run = .running ∧ s.clock.rollover = .none ∧ s.clock.second = 59 ∧
      s.store.timelines[(12 : Fin 64)] = 17 :: [] ∧ (∀ e, e ≠ 12 → ¬dueAt 532725 e s) ∧
      slotOnAir s.store.slots[(17 : Fin 1024)] = true ∧ finalEnd s.store.slots[(17 : Fin 1024)] = 532725 ∧
      (after (.minuteBoundary ⟨[], true, 0, 2⟩) s).store.holds.length = 1) ∧
    (linkFree closingNow ∧ accessesIdle closingNow ∧ closingNow.link.run = .running ∧ closingNow.store.holds = [] ∧
      closingNow.tickets.blocked = false ∧ closingNow.tickets.ring = some { base := 0x210000, count := 16 } ∧
      closingNow.store.timelines[(12 : Fin 64)] = 17 :: [] ∧ (∀ e, e ≠ 12 → ¬dueAt 532725 e closingNow) ∧
      slotOnAir closingNow.store.slots[(17 : Fin 1024)] = true ∧ finalEnd closingNow.store.slots[(17 : Fin 1024)] = 532725) ∧
    (let t := after (.ticketSlotReadComplete 0) (after (.minuteBoundary ⟨[], true, 0, 0⟩) closingNow)
     t.store.slots[17].state = .free ∧ t.accounts[0].closedCount = 1 ∧ t.accounts[0].openCount = 1 ∧
      t.accounts[0].chargeTotal = 36000 ∧ t.link.pageCount = 1 ∧ t.tickets.writePosition = 1) ∧
    (linkFree meeting ∧ (∀ e, e ≠ 12 → ¬dueAt 532725 e meeting) ∧ meeting.store.timelines[(12 : Fin 64)] = 17 :: [22] ∧
      meeting.store.slots[(22 : Fin 1024)].state = .accepted ∧ meeting.store.slots[(22 : Fin 1024)].start = 532725 ∧
      meeting.store.slots[(22 : Fin 1024)].port = 12 ∧
      (after (.minuteBoundary ⟨[], true, 0, 0⟩) meeting).rows[12].pending = none ∧
      (after (.minuteBoundary ⟨[], true, 0, 0⟩) meeting).store.slots[22].state = .active) := by
  refine ⟨⟨⟨rfl, rfl, rfl⟩, ⟨rfl, rfl⟩, rfl, ?_, ?_, ?_, others_not_due_ending _ rfl, ?_, ?_, ?_⟩,
    ⟨⟨rfl, rfl, rfl⟩, ⟨rfl, rfl⟩, rfl, rfl, rfl, ?_, others_not_due_ending _ rfl, ?_, ?_, ?_, ?_⟩,
    ⟨⟨rfl, rfl, rfl⟩, ⟨rfl, rfl⟩, rfl, rfl, rfl, ?_, others_not_due_ending _ rfl, ?_, ?_, ?_⟩,
    ⟨⟨rfl, rfl, rfl⟩, ⟨rfl, rfl⟩, rfl, rfl, rfl, rfl, ?_, others_not_due_ending _ rfl, ?_, ?_⟩, ?_,
    ⟨rfl, rfl, rfl⟩, others_not_due_ending _ rfl, ?_⟩ <;> decide +kernel

/-- R168: a page that waited for a ticket shows the time that the clock left at its tick, minute 532,725 and second 0, and not
that of the tick which has come meanwhile. -/
theorem test_page_time :
    (let t := after (.ticketSlotReadComplete 0) (after (.secrefPulse 6000000000 []) (after (.minuteBoundary ⟨[], true, 0, 0⟩)
      (atTime 532725 0 closingNow)))
     t.clock.second = 1 ∧ (t.link.page.bind fun ws => ws[1]?.map fun w => w.bytes.take 5) =
       some (le 4 532725 ++ [0])) := by decide +kernel

/-! ### Witnesses: line monitors and protection -/

/-- 06 section 6.9.1: T2, T3, T5 and T7, and the severe threshold at its edge. -/
theorem witness_MonitorJudgesSecond : goodLine.inService = true ∧ goodLine.firstSecond = false ∧
    Monitor.hardReset.inService = false ∧ { goodLine with firstSecond := true }.firstSecond = true ∧
    (monitorAtTick { goodLine with firstSecond := true, light := false }).firstSecond = false ∧
    (monitorAtTick { goodLine with seen := { goodLine.seen with blocks := 300 } }).health = .suspect ∧
    (monitorAtTick { goodLine with seen := { goodLine.seen with blocks := 299 } }).lastClass = .errored ∧
    (monitorAtTick { goodLine with
      health := .suspect
      badCount := 1
      seen := { lightLost := true, lockLost := true, blocks := 0 } }).health = .failed ∧
    (monitorAtTick { goodLine with health := .failed }).restoreTimer = 120 := by decide +kernel

/-- 06 section 6.9.2: an edge under fast detect. -/
theorem witness_ObservationTaken : onAir.resetn = true ∧ onAir.monitors[(3 : Fin 48)].light = true ∧
    onAir.monitors[(0 : Fin 48)].light = false ∧ onAir.monitors[(3 : Fin 48)].fastDetect = false ∧
    (withS3 { goodLine with fastDetect := true } onAir).monitors[(3 : Fin 48)].fastDetect = true ∧
    (withS3 { goodLine with fastDetect := true } onAir).monitors[(3 : Fin 48)].health = .ok ∧
    (after (.lossOfLightEdge 3) (withS3 { goodLine with fastDetect := true } onAir)).monitors[3].health = .failed ∧
    (after (.lossOfLightEdge 3) (withS3 { goodLine with fastDetect := true } onAir)).alarm.items[3].severity = 3 := by
  decide +kernel

/-- A bad second at hold-off 1 in OK and at hold-off 2 in SUSPECT, the end of a restore, and a second with none of them. -/
theorem witness_HoldOffAndRestoreTaken :
    (let m : Monitor := { goodLine with holdOff := 1, seen := { lightLost := true, lockLost := true, blocks := 0 } }
     m.inService = true ∧ m.firstSecond = false ∧ m.tookTick = false ∧ m.health = .ok ∧ m.holdOff ≤ 1 ∧
      (after (.holdOffReached 3) (withS3 m onAir)).monitors[3].health = .failed) ∧
    (let m : Monitor := { goodLine with health := .suspect, badCount := 1, seen := { goodLine.seen with blocks := 300 } }
     m.severeThreshold ≤ m.seen.blocks ∧ m.holdOff ≤ m.badCount + 1 ∧
      (after (.holdOffReached 3) (withS3 m onAir)).monitors[3].health = .failed) ∧
    (let m : Monitor := { goodLine with health := .recovering, restoreTimer := 1 }
     m.seen.lightLost = false ∧ m.seen.lockLost = false ∧ ¬m.severeThreshold ≤ m.seen.blocks ∧ m.restoreTimer ≤ 1 ∧
      (after (.restoreTimerExpiry 3) (withS3 m onAir)).monitors[3].health = .ok) ∧
    goodLine.health ≠ .suspect ∧ (after (.holdOffReached 3) onAir).monitors[3].tookTick = false := by decide +kernel

/-- 07 section 7.9: the four modes, with a backup and without. -/
theorem witness_SelectionRuleChooses :
    (fun _ : Fin 48 => Health.ok) slot22.primary ≠ .outOfService ∧ slot22.backup = some 4 ∧ (4 : Fin 48) ≠ slot22.primary ∧
    slot22.legMode = .autoRevertive ∧ slot17.backup = none ∧ { slot22 with legMode := .lockBackup }.legMode = .lockBackup ∧
    { slot22 with legMode := .lockPrimary }.legMode = .lockPrimary ∧
    chooseLater slot22 (fun _ => .ok) (.port 4) = .port 3 ∧
    chooseLater { slot22 with legMode := .autoHold } (fun _ => .ok) (.port 4) = .port 4 := by decide +kernel

/-! ### Witnesses: the orders -/

/-- s with the entry at NEXT being read. -/
def reading (s : State) : State := { s with orders := { s.orders with unit := .reading } }

/-- An entry by its state, order code and notify bytes. -/
def entry (state code notify : Nat) : Vector Byte 24 :=
  Tests.record [(0, 1, state), (1, 1, code), (2, 1, notify), (4, 4, 0xFFFFFFFF), (16, 8, 7)]

theorem witness_EntryReadTaken : linkFree base ∧ base.orders.unit ≠ .reading ∧ linkFree (reading base) ∧
    (reading base).orders.unit = .reading ∧ fieldAt (entry 0 1 1) 0 1 ≠ 1 ∧ fieldAt (entry 1 0 1) 0 1 = 1 ∧
    fieldAt (entry 1 0 1) 1 1 = 0 ∧ 11 < fieldAt (entry 1 12 1) 1 1 ∧ fieldAt (entry 1 1 0) 1 1 = 1 ∧
    fieldAt (entry 1 11 0) 1 1 = 11 ∧ (after (.entryReadComplete (entry 1 12 1)) (reading base)).orders.next = 1 ∧
    (after (.entryReadComplete (entry 1 12 1)) (reading base)).link.log.getLast? =
      some (.write (writeAt 0x100100 [3])) := by
  refine ⟨⟨rfl, rfl, rfl⟩, by decide, ⟨rfl, rfl, rfl⟩, rfl, ?_⟩
  decide +kernel

/-- What `handed` asks, for an order given to a state whose link is open. -/
theorem handed_given {code : OrderCode} {a b c : BitVec 32} {d : BitVec 64} {s : State} (h : linkFree s) :
    handed code { code := code, notify := false, a := a, b := b, c := c, d := d } (given code a b c d s) := ⟨h, rfl, rfl⟩

theorem base_free : linkFree base := ⟨rfl, rfl, rfl⟩

theorem onAir_free : linkFree onAir := ⟨rfl, rfl, rfl⟩

theorem accepted_free : linkFree accepted := ⟨rfl, rfl, rfl⟩

/-- The close of booking 17 held, its last second counted or not. -/
def holding (counted : Bool) : State :=
  { onAir with store := { onAir.store with
      timelines := onAir.store.timelines.set (12 : Fin 64) [22]
      holds := [{ slot := 17, closeMinute := 532725, counted := counted }] } }

theorem holding_free (counted : Bool) : linkFree (holding counted) := ⟨rfl, rfl, rfl⟩

theorem rising_free : linkFree rising := ⟨rfl, rfl, rfl⟩

/-- BOOK 32 and 1,024 pass the count of 32; 31 is FREE; 17 is not; the close of 17 is held. -/
theorem witness_BookTaken : (∃ o, handed .book o (given .book 32 0 0 0 onAir) ∧ onAir.store.bookCount ≤ o.a.toNat) ∧
    (∃ o, handed .book o (given .book 1024 0 0 0 onAir) ∧ 1024 ≤ o.a.toNat) ∧
    (∃ o, handed .book o (given .book 31 0 0 0 onAir) ∧ o.a.toNat = 31 ∧ 31 < onAir.store.bookCount) ∧
    onAir.store.slots[(31 : Fin 1024)].state = .free ∧ accessesIdle onAir ∧ Machine.closing 31 onAir = false ∧
    onAir.store.slots[(17 : Fin 1024)].state ≠ .free ∧ Machine.closing 17 onAir = false ∧
    (∃ o, handed .book o (given .book 17 0 0 0 (holding true))) ∧ Machine.closing 17 (holding true) = true ∧
    (∃ o, handed .book o (given .book 31 0 0 0 rising) ∧ o.a.toNat = 31) ∧ rising.tickets.inFlight ≠ none ∧
    Machine.closing 31 rising = false ∧
    (after .book (given .book 31 0 0 0 onAir)).link.log = [.read 0x2007C0 20] := by
  refine ⟨⟨_, handed_given onAir_free, by decide⟩, ⟨_, handed_given onAir_free, by decide⟩,
    ⟨_, handed_given onAir_free, by decide, by decide⟩, ?_, ⟨rfl, rfl⟩, rfl, ?_, rfl,
    ⟨_, handed_given (holding_free true)⟩, by decide, ⟨_, handed_given rising_free, by decide⟩, ?_, ?_, ?_⟩ <;>
    decide +kernel

/-- An order that its owning block has taken and that waits for an access. -/
def waits (code : OrderCode) (a : Access) (s : State) : State :=
  let o : Order := { code := code, notify := false, a := 31, b := 0, c := 0, d := 0 }
  { s with
    orders := { s.orders with unit := .acting o .queued }
    tickets := { s.tickets with inFlight := some a } }

/-- The record of slot 31 being read. -/
def bookRead : State := waits .book (.recordRead 31) onAir

/-- A booking record of class 1 on D12 from a start minute, for a duration and a match. -/
def bookRecord (start duration matchNumber : Nat) : Vector Byte 20 :=
  Tests.record [(0, 1, 1), (2, 1, 1), (3, 1, 3), (4, 2, matchNumber), (7, 1, 12), (8, 1, 3), (9, 1, 4), (10, 2, duration),
    (12, 4, start)]

/-- R50: back to back with booking 22, at the lowest start minute, crossing booking 17, and for match 0. -/
theorem witness_BookRecordTaken :
    linkFree bookRead ∧ (∃ o, bookRead.orders.unit = .acting o .queued) ∧
    bookRead.tickets.inFlight = some (.recordRead 31) ∧ bookRead.tickets.waiting = [] ∧ bookRead.link.pageTicks = [] ∧
    fieldAt (Tests.record [] : Vector Byte 20) 0 1 ≠ 1 ∧ fieldAt (bookRecord 532725 15 1207) 0 1 = 1 ∧
    (∀ c ∈ bookOrderOfChecks, ¬bookFails (bookRecord 532725 15 1207) bookRead c) ∧
    bookOrderOfChecks = [.noTariff, .badClass, .badPort, .sameLegs, .portOut, .badDuration] ++ .late :: [.range, .conflict,
      .noAccount] ∧
    (∀ c ∈ [OutcomeCode.noTariff, .badClass, .badPort, .sameLegs, .portOut, .badDuration],
      ¬bookFails (bookRecord 532660 15 1207) bookRead c) ∧
    bookFails (bookRecord 532660 15 1207) bookRead .late ∧ bookFails (bookRecord 532724 15 1207) bookRead .conflict ∧
    bookFails (bookRecord 532725 15 0) bookRead .noAccount := by
  refine ⟨⟨rfl, rfl, rfl⟩, ⟨_, rfl⟩, rfl, rfl, rfl, ?_⟩
  refine ⟨by decide +kernel, by decide +kernel, ?_, rfl, ?_, ?_, ?_, ?_⟩
  · simp only [bookOrderOfChecks, List.forall_mem_cons, bookFails, recordCrosses]
    refine ⟨?_, ?_, ?_, ?_, ?_, ?_, ?_, ?_, ?_, ?_, by simp⟩ <;> decide +kernel
  · simp only [List.forall_mem_cons, bookFails]
    refine ⟨?_, ?_, ?_, ?_, ?_, ?_, by simp⟩ <;> decide +kernel
  all_goals simp only [bookFails, recordCrosses]; decide +kernel

/-- bookRead with accesses that wait behind the record read. -/
def bookBehind (l : List Access) : State := { bookRead with tickets := { bookRead.tickets with waiting := l } }

/-- A record write that waits, alone, before a close, and before the re-check of a blocked ring. -/
theorem witness_BookRecordTaken_behind :
    let w := recordWrite onAir 17 0 [5]
    let record := bookRecord 532725 15 1207
    (bookBehind [.write w]).tickets.waiting = [w].map Access.write ∧
    (bookBehind [.write w, .raise raisedNext]).tickets.waiting = [w].map Access.write ++ .raise raisedNext :: [] ∧
    (blockedRing (bookBehind [.recheck])).tickets.blocked = true ∧
    (bookBehind [.write w]).tickets.ring = some { base := 0x210000, count := 16 } ∧
    (hostWrites (after (.bookRecordRead record) (bookBehind [.write w]))).head? = some w ∧
    (after (.bookRecordRead record) (bookBehind [.write w, .raise raisedNext])).tickets.inFlight = some (.raise raisedNext) ∧
    (after (.bookRecordRead record) (bookBehind [.write w, .raise raisedNext])).tickets.number = 1 ∧
    hostWrites (after (.bookRecordRead record) (bookBehind [.write w, .raise raisedNext])) = [w] ∧
    (after (.bookRecordRead record) (bookBehind [.write w, .raise raisedNext])).store.slots[31].state = .accepted ∧
    (after (.bookRecordRead record) (blockedRing (bookBehind [.recheck]))).tickets.inFlight = some .recheck := by
  refine ⟨rfl, rfl, rfl, rfl, ?_, ?_, ?_, ?_, ?_, ?_⟩ <;> decide +kernel

/-- CANCEL of a FREE slot, of an ACCEPTED one below and at the cutoff of 60, and of one on air. -/
theorem witness_CancelTaken : (∃ o, handed .cancel o (given .cancel 32 0 0 0 onAir) ∧ onAir.store.bookCount ≤ o.a.toNat) ∧
    (∃ o, handed .cancel o (given .cancel 31 0 0 0 onAir) ∧ o.a.toNat = 31) ∧ onAir.store.slots[(31 : Fin 1024)].state = .free ∧
    (∃ o, handed .cancel o (given .cancel 17 0 0 0 onAir) ∧ o.a.toNat = 17) ∧ accessesIdle onAir ∧
    Machine.closing 17 onAir = false ∧ onAir.store.slots[(17 : Fin 1024)].state ≠ .accepted ∧
    (∀ k ∈ onAir.store.timelines[(12 : Fin 64)], k ≠ 17 → onAir.store.slots[k].start ≠ 532660) ∧
    ratingTable onAir.tariffs.meters[(17 : Fin 1024)] onAir.tariffs = some table6 ∧
    (∃ o, handed .cancel o (given .cancel 17 0 0 0 accepted)) ∧ accepted.store.slots[(17 : Fin 1024)].state = .accepted ∧
    accepted.tariffs.current = some table6 ∧ 532635 - accepted.clock.minute.toNat < table6.classes[(1 : Fin 4)].cutoff ∧
    ¬532635 - (atTime 532575 0 accepted).clock.minute.toNat < table6.classes[(1 : Fin 4)].cutoff ∧
    Machine.closing 17 (holding true) = true ∧ (∃ o, handed .cancel o (given .cancel 17 0 0 0 (holding true))) ∧
    (after .cancel (given .cancel 17 0 0 0 onAir)).accounts[0].chargeTotal = 36000 ∧
    (after .cancel (given .cancel 17 0 0 0 onAir)).tickets.number = 1 ∧
    (after (.ticketSlotReadComplete 0) (after .cancel (given .cancel 17 0 0 0 onAir))).orders.next = 1 := by
  refine ⟨⟨_, handed_given onAir_free, by decide⟩, ⟨_, handed_given onAir_free, by decide⟩, ?_,
    ⟨_, handed_given onAir_free, by decide⟩, ⟨rfl, rfl⟩, rfl, ?_, ?_, ?_, ⟨_, handed_given accepted_free⟩, ?_, rfl, ?_, ?_, ?_,
    ⟨_, handed_given (holding_free true)⟩, ?_, ?_, ?_⟩ <;> decide +kernel

/-- 04 sections 4.11.1 and 4.11.2: minutes at their bounds, a grant cut by the gap, no gap, and the limit of 240. -/
theorem witness_ExtendTaken : (∃ o, handed .extend o (given .extend 32 1 0 0 onAir) ∧ onAir.store.bookCount ≤ o.a.toNat) ∧
    (∃ o, handed .extend o (given .extend 17 0 0 0 onAir) ∧ o.b.toNat = 0) ∧
    (∃ o, handed .extend o (given .extend 17 61 0 0 onAir) ∧ 60 < o.b.toNat) ∧
    (∃ o, handed .extend o (given .extend 17 60 0 0 onAir) ∧ o.b.toNat ≤ 60) ∧
    onAir.store.slots[(31 : Fin 1024)].state = .free ∧ Machine.closing 17 (holding true) = true ∧
    onAir.store.timelines[(12 : Fin 64)] = [] ++ 17 :: [22] ∧ (17 : Fin 1024) ∉ ([] : List (Fin 1024)) ∧
    onAir.store.timelines[(12 : Fin 64)] = [17] ++ 22 :: [] ∧ (22 : Fin 1024) ∉ [(17 : Fin 1024)] ∧ accessesIdle onAir ∧
    (after .extend (given .extend 17 1 0 0 (ending 15 [17, 22]))).store.slots[17].extension = 15 ∧
    (after .extend (given .extend 17 1 0 0 (ending 240 [17]))).orders.next = 1 ∧
    (let s : State := { onAir with tickets := { onAir.tickets with inFlight := some .recheck } }
     (∃ o, handed .extend o (given .extend 17 60 0 0 s)) ∧ Machine.closing 17 s = false ∧ s.tickets.inFlight ≠ none ∧
      (after .extend (given .extend 17 60 0 0 s)).store.slots[17].extension = 15 ∧
      (after .extend (given .extend 17 60 0 0 s)).tickets.waiting.length = 2) := by
  refine ⟨⟨_, handed_given onAir_free, by decide⟩, ⟨_, handed_given onAir_free, by decide⟩,
    ⟨_, handed_given onAir_free, by decide⟩, ⟨_, handed_given onAir_free, by decide⟩, ?_, ?_, ?_, ?_, ?_, ?_, ⟨rfl, rfl⟩,
    ?_, ?_, ⟨_, handed_given ⟨rfl, rfl, rfl⟩⟩, rfl, ?_, ?_, ?_⟩ <;> decide +kernel

/-- D63 and D64, S47 and source 48, BLACK, and D12 with its owner. -/
theorem witness_SwitchTaken : (∃ o, handed .switch o (given .switch 64 255 0 0 onAir) ∧ 64 ≤ o.a.toNat) ∧
    (∃ o, handed .switch o (given .switch 0 48 0 0 onAir) ∧ 48 ≤ o.b.toNat ∧ o.b.toNat ≠ 255) ∧
    (∃ o, handed .switch o (given .switch 63 47 0 0 onAir) ∧ o.a.toNat = 63 ∧ o.b.toNat = 47) ∧
    (∃ o, handed .switch o (given .switch 12 255 0 0 onAir) ∧ o.b.toNat = 255) ∧ (ownerOf 12 onAir).isSome = true ∧
    ownerOf 63 onAir = none ∧
    (after .switch (given .switch 63 47 0 0 onAir)).rows[63].pending = some { target := .port 47, cause := .manual } := by
  refine ⟨⟨_, handed_given onAir_free, by decide⟩, ⟨_, handed_given onAir_free, by decide⟩,
    ⟨_, handed_given onAir_free, by decide⟩, ⟨_, handed_given onAir_free, by decide⟩, ?_, ?_, ?_⟩ <;> decide +kernel

/-- The four modes and mode 4, on booking 17 on air without a backup and booking 22 ACCEPTED with one. -/
theorem witness_SetLegTaken : (∃ o, handed .setLeg o (given .setLeg 32 0 0 0 onAir) ∧ onAir.store.bookCount ≤ o.a.toNat) ∧
    (∃ o, handed .setLeg o (given .setLeg 17 4 0 0 onAir) ∧ 4 ≤ o.b.toNat) ∧
    (∃ o, handed .setLeg o (given .setLeg 17 3 0 0 onAir) ∧
      [LegMode.autoRevertive, .autoHold, .lockPrimary, .lockBackup][o.b.toNat]? = some .lockBackup) ∧
    onAir.store.slots[(17 : Fin 1024)].backup = none ∧ onAir.store.slots[(22 : Fin 1024)].backup ≠ none ∧
    onAir.store.slots[(31 : Fin 1024)].state = .free ∧ Machine.closing 17 (holding true) = true ∧
    (∃ o, handed .setLeg o (given .setLeg 17 2 0 0 switching)) ∧
    slotOnAir switching.store.slots[(17 : Fin 1024)] = true ∧
    (after .setLeg (given .setLeg 17 2 0 0 switching)).rows[12].pending = none ∧
    (after .setLeg (given .setLeg 22 3 0 0 onAir)).store.slots[22].legMode = .lockBackup := by
  refine ⟨⟨_, handed_given onAir_free, by decide⟩, ⟨_, handed_given onAir_free, by decide⟩,
    ⟨_, handed_given onAir_free, by decide⟩, ?_, ?_, ?_, ?_, ⟨_, handed_given ⟨rfl, rfl, rfl⟩⟩, ?_, ?_, ?_⟩ <;>
  decide +kernel

/-- 06 section 6.9.3: a restore time of 900 is taken as 600; S3 off while booking 17 uses it; S47 into service. -/
theorem witness_SetPortTaken : (∃ o, handed .setPort o (given .setPort 48 1 2 120 onAir) ∧ 48 ≤ o.a.toNat) ∧
    (∃ o, handed .setPort o (given .setPort 3 256 2 120 onAir) ∧ o.a.toNat = 3 ∧ o.b.toNat % 256 = 0) ∧
    onAir.store.slots[(17 : Fin 1024)].state ≠ .free ∧ isLeg onAir.store.slots[(17 : Fin 1024)] 3 = true ∧
    (∃ o, handed .setPort o (given .setPort 3 0 2 120 (holding true)) ∧ o.b.toNat % 256 = 0) ∧
    (holding true).store.slots[(17 : Fin 1024)].state ≠ .free ∧ isLeg (holding true).store.slots[(17 : Fin 1024)] 3 = true ∧
    (∃ o, handed .setPort o (given .setPort 47 1 11 0x12C00000384 onAir) ∧ o.b.toNat % 256 ≠ 0) ∧
    (after .setPort (given .setPort 3 256 2 120 onAir)).monitors[3].inService = true ∧
    (let o : Order := { code := .setPort, notify := false, a := 47, b := 1, c := 11, d := 0x12C00000384 }
     let x := monitorSet o Monitor.hardReset
     x.restoreTime = 600 ∧ x.severeThreshold = 300 ∧ x.holdOff = 10 ∧ x.health = .ok) := by
  refine ⟨⟨_, handed_given onAir_free, by decide⟩, ⟨_, handed_given onAir_free, by decide⟩, ?_, ?_,
    ⟨_, handed_given (holding_free true), by decide⟩, ?_, ?_, ⟨_, handed_given onAir_free, by decide⟩, ?_, ?_⟩ <;>
  decide +kernel

theorem witness_ReadPortTaken : (∃ o, handed .readPort o (given .readPort 48 0 0 0 onAir) ∧ 48 ≤ o.a.toNat) ∧
    (∃ o, handed .readPort o (given .readPort 47 1 0 0 onAir) ∧ o.a.toNat = 47 ∧ o.b ≠ 0) ∧
    (after .readPort (given .readPort 3 1 0 0 (withS3 { goodLine with darkSeconds := 5 } onAir))).monitors[3].darkSeconds =
      0 := by
  refine ⟨⟨_, handed_given onAir_free, by decide⟩, ⟨_, handed_given onAir_free, by decide⟩, by decide +kernel⟩

/-- R133: the last segment that window 0 covers, one byte past it, and a length of 239. -/
theorem witness_LoadTariffTaken : (∃ o, handed .loadTariff o (given .loadTariff 240 0 0 0x101F10 base) ∧
      segmentPlaced base o.d.toNat ∧ o.a.toNat = 240) ∧
    (∃ o, handed .loadTariff o (given .loadTariff 239 0 0 0x101F10 base) ∧ o.a.toNat ≠ 240) ∧
    (∃ o, handed .loadTariff o (given .loadTariff 240 0 0 0x101F11 base) ∧ ¬segmentPlaced base o.d.toNat) ∧
    (after .loadTariff (given .loadTariff 240 0 0 0x101F10 base)).link.log = [.read 0x101F10 240] := by
  refine ⟨⟨_, handed_given base_free, .inl (by decide), by decide⟩, ⟨_, handed_given base_free, by decide⟩,
    ⟨_, handed_given base_free, ?_⟩, by decide +kernel⟩
  rintro (h | ⟨k, w, hw, -, h1, -⟩)
  · revert h; decide
  · rw [show base.link.windows[k] = if k = 0 then some { base := 0x200000, pages := 32, permission := .readWrite } else none
      by simp [base]] at hw
    split at hw
    · obtain rfl := Option.some.inj hw
      revert h1; decide
    · simp at hw

/-- A tariff segment at the limits of its fields, with a band entry for hour 167. -/
def segment (lastBand : Nat) : Vector Byte 240 :=
  Tests.record ([(0, 1, 1), (1, 1, 1), (2, 2, 240), (175, 1, lastBand)] ++ (List.range 4).flatMap fun c =>
    [(182 + 16 * c, 1, 32), (183 + 16 * c, 1, 8), (184 + 16 * c, 2, 240), (186 + 16 * c, 2, 3600), (188 + 16 * c, 2, 1440)])

/-- LOAD TARIFF waiting for its segment. -/
def loading : State := after .loadTariff (given .loadTariff 240 0 0 0x101F10 base)

theorem exists_lt_four (p : Nat → Prop) : (∃ c, c < 4 ∧ p c) ↔ p 0 ∨ p 1 ∨ p 2 ∨ p 3 := by
  constructor
  · rintro ⟨c, hc, h⟩
    interval_cases c <;> simp_all
  · rintro (h | h | h | h)
    exacts [⟨0, by omega, h⟩, ⟨1, by omega, h⟩, ⟨2, by omega, h⟩, ⟨3, by omega, h⟩]

/-- R134: every check passes at the limits; a length of 0 fails first, and band 3 of hour 167 before the class blocks. -/
theorem witness_TariffSegmentTaken : linkFree loading ∧ (∃ o, loading.orders.unit = .acting o .segmentRead) ∧
    (∀ o, base.orders.unit ≠ .acting o .segmentRead) ∧ (∀ x ∈ segmentOffsets, ¬segmentFails (segment 2) x) ∧
    segmentFails (Tests.record []) 2 ∧ segmentFails (segment 3) 175 ∧
    (∀ x ∈ segmentOffsets.take 170, ¬segmentFails (segment 3) x) ∧
    segmentOffsets = segmentOffsets.take 170 ++ 175 :: segmentOffsets.drop 171 ∧
    (after (.tariffSegmentRead (segment 2)) loading).tariffs.staged.isSome = true := by
  refine ⟨⟨rfl, rfl, rfl⟩, ⟨_, rfl⟩, fun o h => ?_, ?_⟩
  · exact UnitState.noConfusion (show UnitState.idle = .acting o .segmentRead from h)
  · simp only [segmentFails, exists_lt_four]
    refine ⟨fun x hx => ?_, ?_, ?_, fun x hx => ?_, ?_, ?_⟩
    · revert x
      decide +kernel
    · decide +kernel
    · decide +kernel
    · revert x
      decide +kernel
    · decide +kernel
    · decide +kernel

/-- Match 1207 with every booking closed. -/
def closedMatch : State :=
  let a : Account := { Account.hardReset with isOpen := true, matchNumber := 1207 }
  { base with accounts := base.accounts.set (0 : Fin 128) a }

theorem closedMatch_free (n : Fin 1024) : closedMatch.store.slots[n].state = .free := by
  simp [closedMatch, base, State.reset, State.hardReset, Store.hardReset, Slot.hardReset]

theorem closedMatch_slots (m : Nat) : matchSlots m closedMatch = 0 := by
  simp only [matchSlots, closedMatch_free, ne_eq, not_true, false_and, decide_false, List.countP_false,
    Function.const]

theorem closedMatch_open : ∀ k : Fin 128, closedMatch.accounts[k].isOpen = true → k = 0 := by decide +kernel

theorem closedMatch_accountsLawful : accountsLawful closedMatch := by
  refine accountsLawful_of rfl ⟨rfl, rfl⟩ (fun j k h1 h2 _ => ?_) (by decide +kernel)
    (fun n hn => absurd (closedMatch_free n) hn) fun k hk => ?_
  · rw [closedMatch_open j h1, closedMatch_open k h2]
  · rw [closedMatch_slots]
    revert k
    decide +kernel

/-- 10 section 10.5.3: match 1207 with bookings and without, with a close under way, and a match with no account. -/
theorem witness_AccountOrdersTaken :
    (∃ o, handed .latchAccount o (given .latchAccount 1207 0 0 0 onAir) ∧ o.a.toNat = 1207 ∧
      ¬∃ n ∈ closingSlots (given .latchAccount 1207 0 0 0 onAir), onAir.store.slots[n].matchNumber = o.a.toNat) ∧
    (∃ o, handed .closeMatch o (given .closeMatch 1207 0 0 0 onAir)) ∧ onAir.accounts[(0 : Fin 128)].isOpen = true ∧
    onAir.accounts[(0 : Fin 128)].matchNumber = 1207 ∧ accountsLawful onAir ∧ 0 < onAir.accounts[(0 : Fin 128)].openCount ∧
    (∃ o, handed .latchAccount o (given .latchAccount 1207 0 0 0 rising) ∧
      ∃ n ∈ closingSlots (given .latchAccount 1207 0 0 0 rising), rising.store.slots[n].matchNumber = o.a.toNat) ∧
    (∃ o, handed .closeMatch o (given .closeMatch 0 0 0 0 base)) ∧
    (∀ k : Fin 128, ¬(base.accounts[k].isOpen = true ∧ base.accounts[k].matchNumber = 0)) ∧
    (∃ o, handed .closeMatch o (given .closeMatch 1207 0 0 0 closedMatch)) ∧ accountsLawful closedMatch ∧
    closedMatch.accounts[(0 : Fin 128)].openCount = 0 ∧ accessesIdle closedMatch ∧
    closedMatch.tickets.ring = some { base := 0x210000, count := 16 } ∧
    (after .closeMatch (given .closeMatch 1207 0 0 0 closedMatch)).link.log = [.read 0x210000 1] ∧
    (after .latchAccount (given .latchAccount 1207 0 0 0 rising)).link.log = [] := by
  refine ⟨⟨_, handed_given onAir_free, by decide, fun ⟨n, hn, _⟩ => ?_⟩, ⟨_, handed_given onAir_free⟩, ?_, ?_,
    onAir_accountsLawful, ?_, ⟨_, handed_given rising_free, 17, ?_, ?_⟩, ⟨_, handed_given base_free⟩, ?_,
    ⟨_, handed_given ⟨rfl, rfl, rfl⟩⟩, closedMatch_accountsLawful, ?_, ⟨rfl, rfl⟩, rfl, ?_, ?_⟩
  · have e : closingSlots (given .latchAccount 1207 0 0 0 onAir) = [] := rfl
    rw [e] at hn
    simp at hn
  all_goals decide +kernel

theorem witness_SetClockTaken : (∃ o, handed .setClock o (given .setClock 0xFFFFFFFF 0 0 0 onAir)) ∧
    closingSlots (given .setClock 0xFFFFFFFF 0 0 0 onAir) = [] ∧
    (∃ o, handed .setClock o (given .setClock 0xFFFFFFFF 0 0 0 (holding true))) ∧
    closingSlots (given .setClock 0xFFFFFFFF 0 0 0 (holding true)) ≠ [] ∧
    (17 : Fin 1024).val < onAir.store.bookCount ∧ onAir.store.slots[(17 : Fin 1024)].state ≠ .free ∧
    (∃ o, handed .setClock o (given .setClock 0xFFFFFFFF 0 0 0 base)) ∧
    (∀ n : Fin 1024, n.val < base.store.bookCount → base.store.slots[n].state = .free) ∧
    (∀ m b, base.clock.rollover ≠ .tickFirst m b) ∧
    (∃ o, handed .setClock o (given .setClock 0 0 0 0 (rolled (.tickFirst 532661 false) base))) ∧
    (after .setClock (given .setClock 0xFFFFFFFF 0 0 0 base)).clock.minute = 0xFFFFFFFF := by
  refine ⟨⟨_, handed_given onAir_free⟩, rfl, ⟨_, handed_given (holding_free true)⟩, ?_, by decide, ?_,
    ⟨_, handed_given base_free⟩, ?_, fun m b h => ?_, ⟨_, handed_given ⟨rfl, rfl, rfl⟩⟩, ?_⟩
  case refine_4 => exact Rollover.noConfusion (show Rollover.none = .tickFirst m b from h)
  all_goals decide +kernel

/-! ### Witnesses: closes, tickets and rating -/

/-- No close held, one not counted, and one counted: with the link's queue free, behind a ticket in flight, and with a blocked
ring's re-check that follows the last close. -/
theorem witness_RatingReleased : linkFree onAir ∧ onAir.link.pageTicks = [] ∧ accessesIdle onAir ∧
    onAir.store.holds = [] ∧ linkFree (holding false) ∧
    (holding false).store.holds = { slot := 17, closeMinute := 532725, counted := false } :: [] ∧
    (holding true).store.holds = { slot := 17, closeMinute := 532725, counted := true } :: [] ∧
    accessesIdle (holding true) ∧
    (after .ratingRelease (holding true)).tickets.inFlight.isSome = true ∧
    (after .ratingRelease (holding true)).accounts[0].closedCount = 1 ∧
    (after .ratingRelease (holding true)).store.holds = [] ∧
    (let s : State := { holding true with tickets := { onAir.tickets with blocked := true, recheckIn := some 2 } }
     linkFree s ∧ accessesIdle s ∧ (after .ratingRelease s).tickets.waiting = [.recheck] ∧
      (after .ratingRelease s).tickets.recheckIn = none) ∧
    (let s : State := { holding true with tickets := { onAir.tickets with inFlight := some .recheck } }
     s.tickets.inFlight ≠ none ∧ (after .ratingRelease s).tickets.waiting.length = 1) := by
  refine ⟨⟨rfl, rfl, rfl⟩, rfl, ⟨rfl, rfl⟩, rfl, ⟨rfl, rfl, rfl⟩, rfl, rfl, ⟨rfl, rfl⟩, ?_, ?_, ?_,
    ⟨⟨rfl, rfl, rfl⟩, ⟨rfl, rfl⟩, ?_, ?_⟩, ?_, ?_⟩ <;> decide +kernel

/-- The part with the state byte of slot 15 being read for an access. -/
def ringReads (a : Access) (blocked : Bool) (s : State) : State :=
  { s with tickets := { s.tickets with inFlight := some a, blocked := blocked, writePosition := 15 } }

/-- 10 section 10.5.3: a ticket into an EMPTY slot and into a FULL one, for a close and for a CANCEL; CLOSE MATCH; and the
re-check. The write position returns to 0. -/
theorem witness_TicketSlotReadTaken :
    (let s := ringReads (.raise (raised false)) false onAir
     linkFree s ∧ s.tickets.ring = some { base := 0x210000, count := 16 } ∧ s.link.pageTicks = [] ∧ s.tickets.waiting = [] ∧
      s.tickets.inFlight = some (.raise (raised false)) ∧ (raised false).forOrder = false ∧
      accountOf (raised false).ticket.matchNumber s = some 0 ∧
      (after (.ticketSlotReadComplete 0) s).tickets.writePosition = 0 ∧
      (after (.ticketSlotReadComplete 0) s).store.slots[17].state = .free ∧
      (after (.ticketSlotReadComplete 1) s).alarm.items[49].severity = 2 ∧
      (after (.ticketSlotReadComplete 1) s).accounts[0].unwritten = 1) ∧
    (let s := waits .cancel (.raise (raised true)) onAir
     linkFree s ∧ s.tickets.waiting = [] ∧ (∃ o, s.orders.unit = .acting o .queued) ∧
      s.tickets.inFlight = some (.raise (raised true)) ∧ (raised true).forOrder = true ∧
      (after (.ticketSlotReadComplete 0) s).orders.next = 1) ∧
    (let s := ringReads (.totalCheck 0 532660) true (waits .closeMatch .recheck onAir)
     linkFree s ∧ (∃ o, s.orders.unit = .acting o .queued) ∧ s.tickets.inFlight = some (.totalCheck 0 532660) ∧
      (after (.ticketSlotReadComplete 0) s).accounts[0].isOpen = false ∧
      (after (.ticketSlotReadComplete 1) s).orders.next = 1) ∧
    (ringReads .recheck true base).tickets.inFlight = some .recheck ∧ (ringReads .recheck true base).tickets.blocked = true ∧
    (ringReads .recheck false base).tickets.blocked = false ∧ base.tickets.inFlight = none := by
  refine ⟨⟨⟨rfl, rfl, rfl⟩, rfl, rfl, rfl, rfl, rfl, ?_, ?_, ?_, ?_, ?_⟩, ⟨⟨rfl, rfl, rfl⟩, rfl, ⟨_, rfl⟩, rfl, rfl, ?_⟩,
    ⟨⟨rfl, rfl, rfl⟩, ⟨_, rfl⟩, rfl, ?_, ?_⟩, rfl, rfl, rfl, rfl⟩ <;> decide +kernel

/-- A record write, a close, a re-check and a report that wait behind the read for a close, and a close that waits behind
CLOSE MATCH on a blocked ring, whose item 49 stands at 2. -/
theorem witness_TicketSlotReadTaken_waiting :
    let w := recordWrite onAir 17 0 [5]
    let ring : Ring := { base := 0x210000, count := 16 }
    let behind (a : Access) (l : List Access) (s : State) : State :=
      { s with tickets := { s.tickets with inFlight := some a, waiting := l } }
    let blockedItem (s : State) : State :=
      { s with
        tickets := { s.tickets with blocked := true }
        alarm := { s.alarm with items := s.alarm.items.set (49 : Fin 51) { severity := 2, acked := 1 } }
        link := { s.link with permissions := 0x7F } }
    (let s := behind (.raise (raised false)) [.write w, .raise raisedNext] (blockedItem onAir)
     let t := after (.ticketSlotReadComplete 0) s
     linkFree s ∧ s.tickets.ring = some ring ∧ t.tickets.inFlight = some (.raise raisedNext) ∧ t.tickets.number = 1 ∧
      t.tickets.blocked = false ∧ t.alarm.items[49] = { severity := 0, acked := 0 } ∧ t.link.flags = 2 ∧
      (hostWrites t).getLast? = some w) ∧
    (let t := after (.ticketSlotReadComplete 1) (behind (.raise (raised false)) [.recheck, .write w] onAir)
     t.tickets.inFlight = some .recheck ∧ t.tickets.waiting = [.write w] ∧ t.tickets.lost = 1) ∧
    (let t := after (.ticketSlotReadComplete 0) (behind (.raise (raised false)) [.recheck, .write w, .report .ok []] bookRead)
     t.tickets.inFlight = none ∧ t.tickets.waiting = [] ∧ t.orders.next = 1) ∧
    (let t := after (.ticketSlotReadComplete 0) (behind (.raise (raised false)) [.recordRead 31] bookRead)
     t.tickets.inFlight = some (.recordRead 31)) ∧
    (let t := after (.ticketSlotReadComplete 0) (behind (.totalCheck 0 532660) [.raise raisedNext] (blockedItem bookRead))
     t.tickets.inFlight = some (.raise raisedNext) ∧ t.tickets.number = 2 ∧
      t.alarm.items[49] = { severity := 0, acked := 0 } ∧ t.link.flags = 2) := by
  refine ⟨⟨⟨rfl, rfl, rfl⟩, rfl, ?_, ?_, ?_, ?_, ?_, ?_⟩, ⟨?_, ?_, ?_⟩, ⟨?_, ?_, ?_⟩, ?_, ?_, ?_, ?_, ?_⟩ <;> decide +kernel

/-- R151: a meter within its ranges, and one with no counted second. -/
theorem witness_RatingLaw : (meterOf 720).startBand = some .peak ∧ 8 ≤ class1.multiplier ∧ class1.multiplier ≤ 32 ∧
    class1.rebate ≤ 8 ∧ class1.minimum ≤ 240 ∧ class1.rate.peak ≤ 65535 ∧ class1.rate.standard ≤ 65535 ∧
    class1.rate.night ≤ 65535 ∧ (meterOf 720).excess.peak ≤ (meterOf 720).booked.peak + (meterOf 720).overrun.peak ∧
    (meterOf 720).booked.peak ≤ 43200 ∧ (meterOf 720).overrun.peak ≤ 14400 ∧
    (meterOf 0).excess = { peak := 0, standard := 0, night := 0 } ∧ rate class1 (meterOf 0) = 36000 := by decide +kernel

end Sys2Proof.Tests
end

section
/-! ### R73: a request on a delivery port -/

namespace Sys2Proof.Machine

theorem setRow_row_same (d : Fin 64) (r : Row) (s : State) : (setRow d r s).rows[d] = r := by
  simp [setRow]

theorem setRow_row_other {d e : Fin 64} (he : e ≠ d) (r : Row) (s : State) : (setRow d r s).rows[e] = s.rows[e] :=
  Vector.getElem_set_ne d.isLt e.isLt fun h => he (Fin.ext h.symm)

/-- R73: a request writes the pending selection of its own row. -/
theorem request_row_same (d : Fin 64) (target : Source) (cause : Cause) (s : State) :
    (request d target cause s).rows[d] = requestRow target cause s.rows[d] :=
  setRow_row_same d _ s

/-- R73: a request leaves the row of every other delivery port. -/
theorem request_row_other {d e : Fin 64} (he : e ≠ d) (target : Source) (cause : Cause) (s : State) :
    (request d target cause s).rows[e] = s.rows[e] :=
  setRow_row_other he _ s

/-- R73: a request writes nothing but the selection table. -/
theorem request_writes_rows (d : Fin 64) (target : Source) (cause : Cause) (s : State) :
    request d target cause s = { s with rows := (request d target cause s).rows } :=
  rfl

/-- Settles O44: its own row, every other row, and the rest of the state. -/
theorem requestTaken : Obligations.RequestTaken := by
  intro d target cause s
  exact ⟨request_row_same d target cause s, fun _ he => request_row_other he target cause s,
    request_writes_rows d target cause s⟩

end Sys2Proof.Machine
end

section
/-! ### R86 to R92: what a monitor makes of the second that a tick ends -/

namespace Sys2Proof.Machine

/-! ### The class of the second -/

theorem classify_eq_dark (m : Monitor) : classify m = .dark ↔ m.seen.lightLost = true := by
  unfold classify
  split_ifs <;> simp_all

theorem classify_eq_severe (m : Monitor) : classify m = .severe ↔
    ¬m.seen.lightLost = true ∧ (m.seen.lockLost = true ∨ m.severeThreshold ≤ m.seen.blocks) := by
  unfold classify
  split_ifs with hdark hsevere
  · simp [hdark]
  · simp [hdark, hsevere]
  all_goals exact iff_of_false nofun fun h => hsevere h.2

theorem classify_eq_errored (m : Monitor) : classify m = .errored ↔
    ¬classify m = .dark ∧ ¬classify m = .severe ∧ 1 ≤ m.seen.blocks := by
  unfold classify
  split_ifs <;> simp_all

theorem classify_ne_none (m : Monitor) : classify m ≠ .none := by
  unfold classify
  split_ifs <;> simp

theorem badClass_iff (c : SecondClass) : badClass c = true ↔ c = .dark ∨ c = .severe := by
  cases c <;> simp [badClass]

theorem classify_eq_clean (m : Monitor) :
    classify m = .clean ↔ ¬(classify m = .dark ∨ classify m = .severe) ∧ ¬classify m = .errored := by
  have hn := classify_ne_none m
  cases h : classify m <;> simp_all

/-! ### The health machine (06 section 6.4) -/

/-- R90: hold-offs 0 and 1 fail the port at its first bad second. -/
theorem badSecond_of_ok {m : Monitor} (h : m.health = .ok) :
    badSecond m = if m.holdOff ≤ 1 then enterFailed m else { m with health := .suspect, badCount := 1 } := by
  simp [badSecond, h, countBad, enterFailed]

/-- R91: the raised bad count meets the hold-off as it stands. -/
theorem badSecond_of_suspect {m : Monitor} (h : m.health = .suspect) : badSecond m = countBad m := by
  simp [badSecond, h]

theorem badSecond_of_failed {m : Monitor} (h : m.health = .failed) : badSecond m = m := by
  simp [badSecond, h]

theorem badSecond_of_recovering {m : Monitor} (h : m.health = .recovering) : badSecond m = enterFailed m := by
  simp [badSecond, h]

theorem goodSecond_of_ok {m : Monitor} (h : m.health = .ok) : goodSecond m = m := by
  simp [goodSecond, h]

theorem goodSecond_of_suspect {m : Monitor} (h : m.health = .suspect) :
    goodSecond m = { m with health := .ok, badCount := 0 } := by
  simp [goodSecond, h]

/-- R92: the restore timer is loaded with the restore time as it stands. -/
theorem goodSecond_of_failed {m : Monitor} (h : m.health = .failed) :
    goodSecond m = { m with health := .recovering, restoreTimer := m.restoreTime } := by
  simp [goodSecond, h]

/-- R93: a timer of 1 or 0 ends the restore, and both leave the timer at 0. -/
theorem goodSecond_of_recovering {m : Monitor} (h : m.health = .recovering) : goodSecond m = { m with
    health := if m.restoreTimer ≤ 1 then .ok else .recovering
    restoreTimer := m.restoreTimer - 1 } := by
  simp only [goodSecond, h]
  split
  · have hz : m.restoreTimer - 1 = 0 := by omega
    rw [hz]
  · rw [← h]

/-- No tick judges a port out of service, and the health machine leaves one as it is. -/
theorem badSecond_of_outOfService {m : Monitor} (h : m.health = .outOfService) : badSecond m = m := by
  simp [badSecond, h]

theorem goodSecond_of_outOfService {m : Monitor} (h : m.health = .outOfService) : goodSecond m = m := by
  simp [goodSecond, h]

/-- R94: only an entry to FAILED from another health counts as a failure. -/
theorem badSecond_failures (m : Monitor) : (badSecond m).failures =
    if (badSecond m).health = .failed ∧ m.health ≠ .failed then min 65535 (m.failures + 1) else m.failures := by
  cases h : m.health with
  | ok => rw [badSecond_of_ok h]; split <;> simp [enterFailed, satAdd, max16]
  | suspect => rw [badSecond_of_suspect h, countBad]; split <;> simp [enterFailed, satAdd, max16]
  | failed => simp [badSecond_of_failed h]
  | recovering => simp [badSecond_of_recovering h, enterFailed, satAdd, max16]
  | outOfService => simp [badSecond_of_outOfService h, h]

theorem goodSecond_failures (m : Monitor) : (goodSecond m).failures = m.failures := by
  unfold goodSecond
  (repeat' split) <;> rfl

/-- R92, R94: a non-bad second brings no port to FAILED. -/
theorem goodSecond_not_failed (m : Monitor) : (goodSecond m).health ≠ .failed := by
  cases h : m.health with
  | ok => simp [goodSecond_of_ok h, h]
  | suspect => simp [goodSecond_of_suspect h]
  | failed => simp [goodSecond_of_failed h]
  | recovering => rw [goodSecond_of_recovering h]; dsimp only; split <;> simp
  | outOfService => simp [goodSecond_of_outOfService h, h]

/-- The health machine takes a second of class `c`. -/
def judge (c : SecondClass) (m : Monitor) : Monitor := if badClass c then badSecond m else goodSecond m

theorem judge_of_bad {c : SecondClass} (h : badClass c = true) (m : Monitor) : judge c m = badSecond m :=
  if_pos h

theorem judge_of_good {c : SecondClass} (h : ¬badClass c = true) (m : Monitor) : judge c m = goodSecond m :=
  if_neg h

theorem judge_failures (c : SecondClass) (m : Monitor) : (judge c m).failures =
    if (judge c m).health = .failed ∧ m.health ≠ .failed then min 65535 (m.failures + 1) else m.failures := by
  by_cases h : badClass c = true
  · rw [judge_of_bad h]; exact badSecond_failures m
  · rw [judge_of_good h, goodSecond_failures, if_neg fun hf => goodSecond_not_failed m hf.1]

/-! ### Counting and judging write fields of their own -/

/-- A monitor with the last class and the three counters that a tick gives it. -/
def tallied (last : SecondClass) (errored severe dark : Nat) (m : Monitor) : Monitor :=
  { m with lastClass := last, erroredSeconds := errored, severeSeconds := severe, darkSeconds := dark }

theorem countClass_eq_tallied (c : SecondClass) (m : Monitor) : countClass c { m with lastClass := c } =
    tallied c (countClass c m).erroredSeconds (countClass c m).severeSeconds (countClass c m).darkSeconds m := by
  cases c <;> rfl

section
variable (last : SecondClass) (errored severe dark : Nat)

theorem badSecond_tallied (m : Monitor) :
    badSecond (tallied last errored severe dark m) = tallied last errored severe dark (badSecond m) := by
  have same : (tallied last errored severe dark m).health = m.health := rfl
  cases h : m.health with
  | ok => rw [badSecond_of_ok (same.trans h), badSecond_of_ok h, apply_ite (tallied last errored severe dark)]; rfl
  | suspect =>
    rw [badSecond_of_suspect (same.trans h), badSecond_of_suspect h, countBad, countBad,
      apply_ite (tallied last errored severe dark)]
    rfl
  | failed => rw [badSecond_of_failed (same.trans h), badSecond_of_failed h]
  | recovering => rw [badSecond_of_recovering (same.trans h), badSecond_of_recovering h]; rfl
  | outOfService => rw [badSecond_of_outOfService (same.trans h), badSecond_of_outOfService h]

theorem goodSecond_tallied (m : Monitor) :
    goodSecond (tallied last errored severe dark m) = tallied last errored severe dark (goodSecond m) := by
  have same : (tallied last errored severe dark m).health = m.health := rfl
  cases h : m.health with
  | ok => rw [goodSecond_of_ok (same.trans h), goodSecond_of_ok h]
  | suspect => rw [goodSecond_of_suspect (same.trans h), goodSecond_of_suspect h]; rfl
  | failed => rw [goodSecond_of_failed (same.trans h), goodSecond_of_failed h]; rfl
  | recovering => rw [goodSecond_of_recovering (same.trans h), goodSecond_of_recovering h]; rfl
  | outOfService => rw [goodSecond_of_outOfService (same.trans h), goodSecond_of_outOfService h]

/-- The health machine reads no last class and no counter. -/
theorem judge_tallied (c : SecondClass) (m : Monitor) :
    judge c (tallied last errored severe dark m) = tallied last errored severe dark (judge c m) := by
  by_cases h : badClass c = true
  · simp only [judge_of_bad h, badSecond_tallied]
  · simp only [judge_of_good h, goodSecond_tallied]

end

/-- The settings, the receiver's levels and the mark of the first second stand while a second is judged. -/
theorem judge_keeps (c : SecondClass) (m : Monitor) : (judge c m).inService = m.inService ∧
    (judge c m).firstSecond = m.firstSecond ∧ (judge c m).holdOff = m.holdOff ∧ (judge c m).restoreTime = m.restoreTime ∧
    (judge c m).severeThreshold = m.severeThreshold ∧ (judge c m).fastDetect = m.fastDetect ∧
    (judge c m).light = m.light ∧ (judge c m).lock = m.lock := by
  by_cases h : badClass c = true
  · rw [judge_of_bad h]
    simp only [badSecond, countBad, enterFailed]
    (repeat' split) <;> exact ⟨rfl, rfl, rfl, rfl, rfl, rfl, rfl, rfl⟩
  · rw [judge_of_good h]
    simp only [goodSecond]
    (repeat' split) <;> exact ⟨rfl, rfl, rfl, rfl, rfl, rfl, rfl, rfl⟩

theorem judge_freshSeen (c : SecondClass) (m : Monitor) : freshSeen (judge c m) = freshSeen m := by
  obtain ⟨-, -, -, -, -, -, hlight, hlock⟩ := judge_keeps c m
  rw [freshSeen, freshSeen, hlight, hlock]

/-- R84, R86, R88: what a classed second leaves, field by field. -/
theorem classSecond_eq (m : Monitor) : classSecond m = { judge (classify m) m with
    lastClass := classify m
    erroredSeconds := (countClass (classify m) m).erroredSeconds
    severeSeconds := (countClass (classify m) m).severeSeconds
    darkSeconds := (countClass (classify m) m).darkSeconds
    seen := freshSeen m } := by
  change { judge (classify m) (countClass (classify m) { m with lastClass := classify m }) with
    seen := freshSeen (judge (classify m) (countClass (classify m) { m with lastClass := classify m })) } = _
  rw [judge_freshSeen, countClass_eq_tallied, judge_tallied]
  rfl

/-! ### The tick -/

theorem monitorAtTick_outOfService {m : Monitor} (h : m.inService = false) : monitorAtTick m = m := by
  simp [monitorAtTick, h]

/-- R87: the first tick in service classes nothing. -/
theorem monitorAtTick_firstSecond {m : Monitor} (hs : m.inService = true) (hf : m.firstSecond = true) :
    monitorAtTick m = { m with firstSecond := false, seen := freshSeen m } := by
  simp [monitorAtTick, hs, hf]

theorem monitorAtTick_classed {m : Monitor} (hs : m.inService = true) (hf : m.firstSecond = false) :
    monitorAtTick m = classSecond m := by
  simp [monitorAtTick, hs, hf]

/-- Settles O40: the three cases of the tick, and in the classed one the class, its counter and the health machine. -/
theorem monitorJudgesSecond : Obligations.MonitorJudgesSecond := by
  refine ⟨fun m => monitorAtTick_outOfService, fun m => monitorAtTick_firstSecond, fun m hs hf => ?_⟩
  intro dark severe errored bad x
  have hdark : classify m = .dark ↔ dark := classify_eq_dark m
  have hsevere : classify m = .severe ↔ severe := classify_eq_severe m
  have herrored : classify m = .errored ↔ errored := by
    rw [classify_eq_errored, hdark, hsevere]
  have hbad : badClass (classify m) = true ↔ bad := by
    rw [badClass_iff, hdark, hsevere]
  have hclean : classify m = .clean ↔ ¬bad ∧ ¬errored := by
    rw [classify_eq_clean, hdark, hsevere, herrored]
  have hx : x = classSecond m := monitorAtTick_classed hs hf
  have judgeBad (h : bad) : judge (classify m) m = badSecond m := judge_of_bad (hbad.mpr h) m
  have judgeGood (h : ¬bad) : judge (classify m) m = goodSecond m := judge_of_good (mt hbad.mp h) m
  obtain ⟨hservice, hfirst, hhold, hrestore, hthreshold, hfast, -, -⟩ := judge_keeps (classify m) m
  clear_value x
  rw [classSecond_eq] at hx
  subst hx
  refine ⟨hdark, hsevere, herrored, hclean, fun h => ?_, fun h => ?_, fun h => ?_, fun h => ?_, rfl,
    fun ok h => ?_, fun ok h => ?_, fun suspect h => ?_, fun suspect h => ?_, fun failed h => ?_, fun failed h => ?_,
    fun recovering h => ?_, fun recovering h => ?_, judge_failures (classify m) m,
    hservice.trans hs, hfirst.trans hf, hhold, hrestore, hthreshold, hfast⟩
  · rw [hdark.mpr h]; exact ⟨rfl, rfl, rfl⟩
  · rw [hsevere.mpr h]; exact ⟨rfl, rfl, rfl⟩
  · rw [herrored.mpr h]; exact ⟨rfl, rfl, rfl⟩
  · rw [hclean.mpr h]; exact ⟨rfl, rfl, rfl⟩
  · rw [judgeBad h, badSecond_of_ok ok]; split <;> exact ⟨rfl, rfl⟩
  · rw [judgeGood h, goodSecond_of_ok ok]; exact ⟨ok, rfl⟩
  · rw [judgeBad h, badSecond_of_suspect suspect, countBad]; split <;> exact ⟨rfl, rfl⟩
  · rw [judgeGood h, goodSecond_of_suspect suspect]; exact ⟨rfl, rfl⟩
  · rw [judgeBad h, badSecond_of_failed failed]; exact failed
  · rw [judgeGood h, goodSecond_of_failed failed]; exact ⟨rfl, rfl⟩
  · rw [judgeBad h, badSecond_of_recovering recovering]; exact ⟨rfl, rfl⟩
  · rw [judgeGood h, goodSecond_of_recovering recovering]; exact ⟨rfl, rfl⟩

end Sys2Proof.Machine
end

section
/-! ### R105 to R107: the leg the selection rule chooses -/

namespace Sys2Proof.Machine

/-! ### The modes that read no health (R105) -/

section
variable {b : Slot} {k : Fin 48}

theorem chooseAtActivation_of_primaryOnly (h : b.legMode = .lockPrimary ∨ b.backup = none) (health : Fin 48 → Health) :
    chooseAtActivation b health = .port b.primary := by
  rcases h with mode | backup
  · rw [chooseAtActivation, mode]
  · rw [chooseAtActivation, backup]; cases b.legMode <;> rfl

theorem chooseLater_of_primaryOnly (h : b.legMode = .lockPrimary ∨ b.backup = none) (health : Fin 48 → Health)
    (leg : Source) : chooseLater b health leg = .port b.primary := by
  rcases h with mode | backup
  · rw [chooseLater, mode]
  · rw [chooseLater, backup]; cases b.legMode <;> rfl

theorem chooseAtActivation_of_lockBackup (backup : b.backup = some k) (mode : b.legMode = .lockBackup)
    (health : Fin 48 → Health) : chooseAtActivation b health = .port k := by
  rw [chooseAtActivation, mode, backup]

theorem chooseLater_of_lockBackup (backup : b.backup = some k) (mode : b.legMode = .lockBackup)
    (health : Fin 48 → Health) (leg : Source) : chooseLater b health leg = .port k := by
  rw [chooseLater, mode, backup]

/-! ### AUTO with a backup, at activation (R106) -/

theorem chooseAtActivation_of_auto (backup : b.backup = some k)
    (mode : b.legMode = .autoRevertive ∨ b.legMode = .autoHold) (health : Fin 48 → Health) :
    chooseAtActivation b health =
      if (health b.primary = .failed ∨ health b.primary = .recovering) ∧ health k = .ok then .port k
      else .port b.primary := by
  rcases mode with mode | mode <;> rw [chooseAtActivation, mode, backup] <;> cases health b.primary <;> simp

/-! ### AUTO with a backup, afterwards (R107) -/

theorem chooseLater_of_auto (backup : b.backup = some k)
    (mode : b.legMode = .autoRevertive ∨ b.legMode = .autoHold) (health : Fin 48 → Health) (leg : Source) :
    chooseLater b health leg = chooseAuto b k health leg := by
  rcases mode with mode | mode <;> rw [chooseLater, mode, backup]

theorem chooseAuto_primary (b : Slot) (k : Fin 48) (health : Fin 48 → Health) :
    chooseAuto b k health (.port b.primary) =
      if health b.primary = .failed ∧ health k = .ok then .port k else .port b.primary :=
  if_pos rfl

/-- The two steps that leave an intended backup, the failure of R107's step 1 and the return of step 2, as one condition. -/
theorem chooseAuto_backup (other : k ≠ b.primary) (health : Fin 48 → Health) :
    chooseAuto b k health (.port k) =
      if health k = .failed ∧ health b.primary = .ok ∨ b.legMode = .autoRevertive ∧ health b.primary = .ok then
        .port b.primary
      else .port k := by
  have notPrimary : Source.port k ≠ .port b.primary := fun h => other (Source.port.inj h)
  rw [chooseAuto, if_neg notPrimary, if_pos rfl, ite_or]

end

/-- Settles O43: the modes that read no health (R105), the choice at activation (R106), and the later choice from either
leg (R107). -/
theorem selectionRuleChooses : Obligations.SelectionRuleChooses := by
  intro b health k _ _
  refine ⟨fun primaryOnly leg => ⟨chooseAtActivation_of_primaryOnly primaryOnly health,
    chooseLater_of_primaryOnly primaryOnly health leg⟩, fun backup other => ⟨fun mode leg =>
    ⟨chooseAtActivation_of_lockBackup backup mode health, chooseLater_of_lockBackup backup mode health leg⟩,
    fun auto => ?_⟩⟩
  have apart : Source.port k ≠ .port b.primary := fun h => other (Source.port.inj h)
  rw [chooseAtActivation_of_auto backup auto, chooseLater_of_auto backup auto, chooseLater_of_auto backup auto]
  exact ⟨apart.ite_eq_left_iff, ite_eq_or_eq _ _ _, chooseAuto_primary b k health, chooseAuto_backup other health⟩

end Sys2Proof.Machine
end

section
/-! ### R124, R128: the commands of a NEXT_ALARM write -/

namespace Sys2Proof.Machine

theorem live_of_resetn {f : State → State} {s : State} (h : s.resetn = true) : live f s = .next (f s) := by
  simp [live, h]

theorem itemPending_iff (x : AlarmItem) : itemPending x = true ↔ x.acked < x.severity := by
  simp [itemPending]

theorem ackTarget_eq_some_iff (a : Alarm) (item : BitVec 6) (i : Fin 51) :
    ackTarget a item = some i ↔ item.toNat = i.val ∧ a.items[i].acked < a.items[i].severity := by
  unfold ackTarget
  split
  next named =>
    constructor
    · intro h
      obtain ⟨hp, hi⟩ := Option.ite_none_right_eq_some.mp h
      obtain rfl := Option.some.inj hi
      exact ⟨rfl, (itemPending_iff _).mp hp⟩
    · rintro ⟨hi, hp⟩
      obtain rfl : (⟨item.toNat, named⟩ : Fin 51) = i := Fin.ext hi
      exact if_pos ((itemPending_iff _).mpr hp)
  next unnamed =>
    refine iff_of_false nofun fun h => unnamed ?_
    rw [h.1]
    exact i.isLt

/-! ### The ACK with its PUSH -/

section
variable {ack : Bool} {item : BitVec 6} {a : Alarm} {i : Fin 51}

theorem acknowledges_unique (hi : acknowledges ack item a i) {j : Fin 51} (hj : acknowledges ack item a j) : j = i :=
  Fin.ext (hj.2.1.symm.trans hi.2.1)

theorem acknowledged_of_acknowledges (h : acknowledges ack item a i) (push : Bool) :
    acknowledged ack push item a = ackItem i push a := by
  obtain ⟨hack, target⟩ := h
  rw [acknowledged, if_pos hack, (ackTarget_eq_some_iff a item i).mpr target]

/-- R128: an ACK that names no pending item has no effect, and its PUSH has none either. -/
theorem acknowledged_of_none (h : ∀ i, ¬acknowledges ack item a i) (push : Bool) : acknowledged ack push item a = a := by
  have none : (if ack then ackTarget a item else none) = none := by
    refine Option.eq_none_iff_forall_not_mem.mpr fun i hi => h i ?_
    obtain ⟨hack, target⟩ := Option.ite_none_right_eq_some.mp hi
    exact ⟨hack, (ackTarget_eq_some_iff a item i).mp target⟩
  rw [acknowledged, none]

end

theorem ackItem_acked_same (i : Fin 51) (push : Bool) (a : Alarm) :
    (ackItem i push a).items[i].acked = a.items[i].severity := by
  simp [ackItem]

theorem ackItem_acked_other {i j : Fin 51} (h : j ≠ i) (push : Bool) (a : Alarm) :
    (ackItem i push a).items[j].acked = a.items[j].acked := by
  simp [ackItem, Vector.getElem_set_ne i.isLt j.isLt fun e => h (Fin.ext e.symm)]

/-- R128, step 1: the mode and the spotlight stand, and the acknowledged level rises to the severity at the item named. -/
theorem acknowledged_rule (ack push : Bool) (item : BitVec 6) (a : Alarm) :
    (acknowledged ack push item a).mode = a.mode ∧ (acknowledged ack push item a).spotlight = a.spotlight ∧
    ∀ j : Fin 51,
      (acknowledges ack item a j → (acknowledged ack push item a).items[j].acked = a.items[j].severity) ∧
      (¬acknowledges ack item a j → (acknowledged ack push item a).items[j].acked = a.items[j].acked) := by
  by_cases h : ∃ i, acknowledges ack item a i
  · obtain ⟨i, hi⟩ := h
    rw [acknowledged_of_acknowledges hi]
    refine ⟨rfl, rfl, fun j => ⟨fun hj => ?_, fun hj => ?_⟩⟩
    · obtain rfl := acknowledges_unique hi hj
      exact ackItem_acked_same j push a
    · have other : j ≠ i := by
        rintro rfl
        exact hj hi
      exact ackItem_acked_other other push a
  · have none := not_exists.mp h
    rw [acknowledged_of_none none]
    exact ⟨rfl, rfl, fun j => ⟨fun hj => absurd hj (none j), fun _ => rfl⟩⟩

/-- R124: the push of the severity plus 1, which discards the old bottom. -/
theorem acknowledged_floor_of_push {ack push : Bool} {item : BitVec 6} {a : Alarm} {i : Fin 51} (hpush : push = true)
    (h : acknowledges ack item a i) :
    (acknowledged ack push item a).floor = pushFloor a.items[i].severity.succ a.floor := by
  rw [acknowledged_of_acknowledges h]
  exact if_pos hpush

theorem acknowledged_floor_of_no_push {ack push : Bool} {item : BitVec 6} {a : Alarm}
    (h : ∀ i, ¬(push = true ∧ acknowledges ack item a i)) : (acknowledged ack push item a).floor = a.floor := by
  by_cases hi : ∃ i, acknowledges ack item a i
  · obtain ⟨i, hi⟩ := hi
    rw [acknowledged_of_acknowledges hi]
    exact if_neg fun hpush => h i ⟨hpush, hi⟩
  · rw [acknowledged_of_none (not_exists.mp hi)]

/-! ### The POP, and the whole write -/

/-- R128, step 2: the POP comes after the ACK and its PUSH, and touches the floor only. -/
theorem nextAlarmWritten_eq (ack push pop : Bool) (item : BitVec 6) (a : Alarm) :
    nextAlarmWritten ack push pop item a = { acknowledged ack push item a with
      floor := if pop then popFloor (acknowledged ack push item a).floor else (acknowledged ack push item a).floor } := by
  cases pop <;> rfl

theorem nextAlarmWritten_rule (ack push pop : Bool) (item : BitVec 6) (a : Alarm) :
    nextAlarmRule ack push pop item a (nextAlarmWritten ack push pop item a) := by
  obtain ⟨hmode, hspotlight, hacked⟩ := acknowledged_rule ack push item a
  have hseverity := nextAlarmWritten_severity ack push pop item a
  rw [nextAlarmWritten_eq] at hseverity ⊢
  refine ⟨hmode, hspotlight, fun i => ⟨hseverity i, hacked i⟩, (acknowledged ack push item a).floor, ?_,
    acknowledged_floor_of_no_push, rfl⟩
  intro i hpush hi
  rw [acknowledged_floor_of_push hpush hi]
  exact ⟨Fin.val_succ _, rfl, rfl⟩

theorem live_nextAlarmWrite (ack push pop : Bool) (item : BitVec 6) {s : State} (h : s.resetn = true) :
    ∃ a : Alarm, live (nextAlarmWrite ack push pop item) s = .next (withAlarm a s) ∧
      nextAlarmRule ack push pop item s.alarm a :=
  ⟨_, by rw [live_of_resetn h, nextAlarmWrite, setAlarm_eq], nextAlarmWritten_rule ack push pop item s.alarm⟩

/-- Settles O17: ACK, PUSH and POP are the one write of NEXT_ALARM, with their command bits (R128). -/
theorem nextAlarmWriteTaken : Obligations.NextAlarmWriteTaken :=
  ⟨fun item pop _ h => live_nextAlarmWrite true false pop item h,
    fun item ack pop _ h => live_nextAlarmWrite ack true pop item h,
    fun _ h => live_nextAlarmWrite false false true 0 h⟩

end Sys2Proof.Machine
end

section
/-! ### R125, R127: the reported item, and what NEXT_ALARM reads -/

namespace Sys2Proof.Machine

/-! ### The ranking -/

/-- R125: item i is visible, and it comes first among the visible items: of highest severity, and of equals the one with the
lowest number. -/
def ranksFirst (a : Alarm) (i : Fin 51) : Prop :=
  visibleItem a i ∧ ∀ j : Fin 51, visibleItem a j →
    a.items[j].severity < a.items[i].severity ∨ a.items[j].severity = a.items[i].severity ∧ i ≤ j

theorem itemVisible_iff (a : Alarm) (i : Fin 51) : itemVisible a.floor a.items[i] = true ↔ visibleItem a i := by
  simp [itemVisible, itemPending, visibleItem]

/-- R122: a pending item has a severity of 1 at least. -/
theorem severity_pos_of_visible {a : Alarm} {i : Fin 51} (h : visibleItem a i) : 1 ≤ a.items[i].severity.val :=
  Nat.one_le_of_lt (Fin.lt_def.mp h.1)

theorem visibleFrom_eq_some_iff (a : Alarm) (severity : Nat) (i : Fin 51) :
    visibleFrom a severity = some i ↔ (visibleItem a i ∧ severity ≤ a.items[i].severity.val) ∧
      ∀ j < i, visibleItem a j → a.items[j].severity.val < severity := by
  rw [visibleFrom, ← Fin.find?_eq_find?_finRange, Fin.find?_eq_some_iff]
  simp [← itemVisible_iff]

theorem visibleFrom_eq_none_iff (a : Alarm) (severity : Nat) :
    visibleFrom a severity = none ↔ ∀ j : Fin 51, visibleItem a j → a.items[j].severity.val < severity := by
  rw [visibleFrom, ← Fin.find?_eq_find?_finRange, Fin.find?_eq_none_iff]
  simp [← itemVisible_iff]

section
variable {a : Alarm} {i : Fin 51}

theorem severity_le_of_ranksFirst (h : ranksFirst a i) {j : Fin 51} (hj : visibleItem a j) :
    a.items[j].severity.val ≤ a.items[i].severity.val := by
  obtain lower | ⟨equal, -⟩ := h.2 j hj
  · exact Nat.le_of_lt lower
  · exact Nat.le_of_eq (congrArg Fin.val equal)

theorem visibleFrom_above (h : ranksFirst a i) {severity : Nat} (above : a.items[i].severity.val < severity) :
    visibleFrom a severity = none :=
  (visibleFrom_eq_none_iff a severity).mpr fun _ hj => Nat.lt_of_le_of_lt (severity_le_of_ranksFirst h hj) above

/-- At the severity of the first item the search meets no item before it. -/
theorem visibleFrom_own (h : ranksFirst a i) {severity : Nat} (own : a.items[i].severity.val = severity) :
    visibleFrom a severity = some i := by
  subst own
  refine (visibleFrom_eq_some_iff a _ i).mpr ⟨⟨h.1, Nat.le_refl _⟩, fun j before hj => ?_⟩
  obtain lower | ⟨-, after⟩ := h.2 j hj
  · exact lower
  · exact absurd before (Fin.not_lt.mpr after)

/-- R125, FIXED: the three searches, from severity 3 downwards, find the first item at its own severity. -/
theorem fixedItem_of_ranksFirst (h : ranksFirst a i) : fixedItem a = some i := by
  have positive := severity_pos_of_visible h.1
  have bound := a.items[i].severity.isLt
  obtain three | two | one : a.items[i].severity.val = 3 ∨ a.items[i].severity.val = 2 ∨ a.items[i].severity.val = 1 := by
    omega
  · rw [fixedItem, visibleFrom_own h three, Option.some_or]
  · rw [fixedItem, visibleFrom_above h (by omega), visibleFrom_own h two, Option.none_or, Option.some_or]
  · rw [fixedItem, visibleFrom_above h (by omega), visibleFrom_above h (by omega), visibleFrom_own h one,
      Option.none_or, Option.none_or]

end

theorem fixedItem_of_none_visible {a : Alarm} (h : ∀ i : Fin 51, ¬visibleItem a i) : fixedItem a = none := by
  have none (severity : Nat) : visibleFrom a severity = none :=
    (visibleFrom_eq_none_iff a severity).mpr fun j hj => absurd hj (h j)
  rw [fixedItem, none, none, none]
  rfl

/-! ### The reported item of each mode (R125) -/

section
variable {a : Alarm}

theorem reportedItem_inhibit (mode : a.mode = .inhibit) : reportedItem a = none := by
  rw [reportedItem, mode]

theorem reportedItem_spotlight (mode : a.mode = .spotlight) (visible : visibleItem a a.spotlight) :
    reportedItem a = some a.spotlight := by
  rw [reportedItem, mode]
  exact if_pos ((itemVisible_iff a a.spotlight).mpr visible)

/-- R125: FIXED, and SPOTLIGHT while its item is not visible, report by the fixed ranking. -/
theorem reportedItem_fixed (mode : a.mode ≠ .inhibit) (h : a.mode = .fixed ∨ ¬visibleItem a a.spotlight) :
    reportedItem a = fixedItem a := by
  unfold reportedItem
  split
  case h_1 => rfl
  case h_2 spotlight =>
    have hidden : ¬visibleItem a a.spotlight := h.resolve_left fun fixed => nomatch fixed.symm.trans spotlight
    exact if_neg (mt (itemVisible_iff a a.spotlight).mp hidden)
  case h_3 inhibit => exact absurd inhibit mode

theorem reportedItem_eq_none (h : a.mode = .inhibit ∨ ∀ i : Fin 51, ¬visibleItem a i) : reportedItem a = none := by
  by_cases mode : a.mode = .inhibit
  · exact reportedItem_inhibit mode
  · have hidden := h.resolve_left mode
    rw [reportedItem_fixed mode (.inr (hidden a.spotlight)), fixedItem_of_none_visible hidden]

theorem reportedItem_eq_some {i : Fin 51} (mode : a.mode ≠ .inhibit) (visible : visibleItem a i)
    (lit : a.mode = .spotlight ∧ visibleItem a a.spotlight → i = a.spotlight)
    (first : a.mode = .fixed ∨ ¬visibleItem a a.spotlight → ∀ j : Fin 51, visibleItem a j →
      a.items[j].severity < a.items[i].severity ∨ a.items[j].severity = a.items[i].severity ∧ i ≤ j) :
    reportedItem a = some i := by
  by_cases ranked : a.mode = .fixed ∨ ¬visibleItem a a.spotlight
  · rw [reportedItem_fixed mode ranked]
    exact fixedItem_of_ranksFirst ⟨visible, first ranked⟩
  · obtain ⟨notFixed, shown⟩ := not_or.mp ranked
    have spotlight : a.mode = .spotlight := by
      cases h : a.mode with
      | fixed => exact absurd h notFixed
      | spotlight => rfl
      | inhibit => exact absurd h mode
    have shown := Classical.not_not.mp shown
    rw [reportedItem_spotlight spotlight shown, lit ⟨spotlight, shown⟩]

end

/-! ### The fields of the word (R127) -/

theorem extractLsb'_toNat_eq_div_mod (w : Word) (low width : Nat) :
    (w.extractLsb' low width).toNat = w.toNat / 2 ^ low % 2 ^ width := by
  rw [BitVec.extractLsb'_toNat, Nat.shiftRight_eq_div_pow]

theorem extractLsb'_eq_zero {w : Word} {low width : Nat} (h : w.toNat / 2 ^ low % 2 ^ width = 0) :
    w.extractLsb' low width = 0 :=
  BitVec.eq_of_toNat_eq (((extractLsb'_toNat_eq_div_mod w low width).trans h).trans BitVec.toNat_zero.symm)

theorem getLsbD_eq_decide_div_mod (w : Word) (k : Nat) : w.getLsbD k = decide (w.toNat / 2 ^ k % 2 = 1) :=
  Nat.testBit_eq_decide_div_mod_eq

section
variable {s : State}

theorem readNextAlarm_toNat_of_none (h : reportedItem s.alarm = none) :
    (readRegister .nextAlarm s).toNat = s.alarm.floor.top.val * 2 ^ 12 + 2 ^ 31 := by
  have top := s.alarm.floor.top.isLt
  simp only [readRegister, readNextAlarm, h, packed, List.map_cons, List.map_nil, List.sum_cons, List.sum_nil,
    Nat.reducePow, BitVec.toNat_ofNat]
  omega

theorem readNextAlarm_toNat_of_some {i : Fin 51} (h : reportedItem s.alarm = some i) :
    (readRegister .nextAlarm s).toNat =
      i.val + s.alarm.items[i].severity.val * 2 ^ 8 + s.alarm.floor.top.val * 2 ^ 12 := by
  have top := s.alarm.floor.top.isLt
  have severity := s.alarm.items[i].severity.isLt
  simp only [readRegister, readNextAlarm, h, packed, List.map_cons, List.map_nil, List.sum_cons, List.sum_nil,
    Nat.reducePow, BitVec.toNat_ofNat]
  omega

theorem nextAlarm_reads_floor (s : State) :
    ((readRegister .nextAlarm s).extractLsb' 12 3).toNat = s.alarm.floor.top.val := by
  have top := s.alarm.floor.top.isLt
  rw [extractLsb'_toNat_eq_div_mod]
  cases h : reportedItem s.alarm with
  | none => rw [readNextAlarm_toNat_of_none h]; omega
  | some i =>
    have severity := s.alarm.items[i].severity.isLt
    rw [readNextAlarm_toNat_of_some h]
    omega

theorem nextAlarm_reads_none (h : reportedItem s.alarm = none) :
    (readRegister .nextAlarm s).getLsbD 31 = true ∧ (readRegister .nextAlarm s).extractLsb' 0 6 = 0 ∧
    (readRegister .nextAlarm s).extractLsb' 8 2 = 0 := by
  have top := s.alarm.floor.top.isLt
  have word := readNextAlarm_toNat_of_none h
  refine ⟨?_, extractLsb'_eq_zero ?_, extractLsb'_eq_zero ?_⟩
  · rw [getLsbD_eq_decide_div_mod, word, decide_eq_true_eq]; omega
  · rw [word]; omega
  · rw [word]; omega

theorem nextAlarm_reads_item {i : Fin 51} (h : reportedItem s.alarm = some i) :
    (readRegister .nextAlarm s).getLsbD 31 = false ∧ ((readRegister .nextAlarm s).extractLsb' 0 6).toNat = i.val ∧
    ((readRegister .nextAlarm s).extractLsb' 8 2).toNat = s.alarm.items[i].severity.val := by
  have top := s.alarm.floor.top.isLt
  have severity := s.alarm.items[i].severity.isLt
  have word := readNextAlarm_toNat_of_some h
  refine ⟨?_, ?_, ?_⟩
  · rw [getLsbD_eq_decide_div_mod, word, decide_eq_false_iff_not]; omega
  · rw [extractLsb'_toNat_eq_div_mod, word]; omega
  · rw [extractLsb'_toNat_eq_div_mod, word]; omega

end

/-- Settles O23: the word shows the reported item, and the item reported is the one the mode ranks first. -/
theorem nextAlarmReads : Obligations.NextAlarmReads := by
  intro s
  refine ⟨nextAlarm_reads_floor s, fun h => nextAlarm_reads_none (reportedItem_eq_none h), ?_⟩
  intro i mode visible lit first
  exact nextAlarm_reads_item (reportedItem_eq_some mode visible lit first)

end Sys2Proof.Machine
end

section
/-! ### R150 to R152: the charge of a close, and its bounds -/

namespace Sys2Proof.Machine

/-! ### Prices over the bands -/

theorem bandPrice_le_add {x y z rate : PerBand} (h : ∀ b, bandValue b x ≤ bandValue b y + bandValue b z) :
    bandPrice x rate ≤ bandPrice y rate + bandPrice z rate := by
  have peak := Nat.mul_le_mul_right rate.peak (h .peak)
  have standard := Nat.mul_le_mul_right rate.standard (h .standard)
  have night := Nat.mul_le_mul_right rate.night (h .night)
  simp only [bandValue, Nat.add_mul] at peak standard night
  unfold bandPrice
  omega

theorem bandPrice_le_bandSum_mul {rate : PerBand} {top : Nat} (h : ∀ b, bandValue b rate ≤ top) (x : PerBand) :
    bandPrice x rate ≤ bandSum x * top := by
  simp only [bandPrice, bandSum, Nat.add_mul]
  exact Nat.add_le_add (Nat.add_le_add (Nat.mul_le_mul_left _ (h .peak)) (Nat.mul_le_mul_left _ (h .standard)))
    (Nat.mul_le_mul_left _ (h .night))

theorem bandPrice_eq_zero {x : PerBand} (h : bandSum x = 0) (rate : PerBand) : bandPrice x rate = 0 := by
  obtain ⟨⟨peak, standard⟩, night⟩ : (x.peak = 0 ∧ x.standard = 0) ∧ x.night = 0 := by
    simpa only [bandSum, Nat.add_eq_zero_iff] using h
  simp [bandPrice, peak, standard, night]

/-! ### The terms of the steps (R150) -/

section
variable {c : ClassTariff} {m : Meter}

theorem startRate_of_startBand {band : Band} (h : m.startBand = some band) : startRate c m = bandValue band c.rate := by
  simp [startRate, h]

theorem startRate_le {top : Nat} (h : ∀ b, bandValue b c.rate ≤ top) : startRate c m ≤ top := by
  cases start : m.startBand with
  | none => simp [startRate, start]
  | some band => exact startRate_of_startBand start ▸ h band

theorem shortfall_eq_ite (c : ClassTariff) (m : Meter) : shortfall c m =
    if chargedSeconds m < c.minimum * 60 then c.minimum * 60 - chargedSeconds m else 0 := by
  unfold shortfall
  split <;> omega

theorem shortfall_le (hminimum : c.minimum ≤ 240) : shortfall c m ≤ 14400 :=
  (Nat.sub_le _ _).trans (Nat.mul_le_mul_right 60 hminimum)

/-- R151: an excess second is a charged second of its band, and earns at most the eight rates that second adds. -/
theorem rebateOf_le_gross (hmultiplier : 8 ≤ c.multiplier) (hrebate : c.rebate ≤ 8)
    (hexcess : ∀ b, bandValue b m.excess ≤ bandValue b m.booked + bandValue b m.overrun) :
    rebateOf c m ≤ gross c m := by
  calc rebateOf c m
      ≤ 8 * (bandPrice m.booked c.rate + bandPrice m.overrun c.rate) :=
        Nat.mul_le_mul hrebate (bandPrice_le_add hexcess)
    _ = 8 * bandPrice m.booked c.rate + bandPrice m.overrun c.rate * 8 := by ring
    _ ≤ 8 * bandPrice m.booked c.rate + bandPrice m.overrun c.rate * c.multiplier :=
        Nat.add_le_add_left (Nat.mul_le_mul_left _ hmultiplier) _
    _ ≤ gross c m := Nat.le_add_right _ _

/-- R151: the seconds of the gross, weighted. A shortfall fills the charged seconds up to the minimum alone, so it never
adds to the largest gross. -/
theorem weightedSeconds_le (hminimum : c.minimum ≤ 240) (hbooked : bandSum m.booked ≤ 43200)
    (hoverrun : bandSum m.overrun ≤ 14400) :
    8 * bandSum m.booked + bandSum m.overrun * 32 + 8 * shortfall c m ≤ 806400 := by
  unfold shortfall chargedSeconds
  omega

/-- R151: every second of the gross is priced at no more than the largest rate. -/
theorem gross_le (hmultiplier : c.multiplier ≤ 32) (hminimum : c.minimum ≤ 240)
    (hrate : ∀ b, bandValue b c.rate ≤ 65535) (hbooked : bandSum m.booked ≤ 43200)
    (hoverrun : bandSum m.overrun ≤ 14400) : gross c m ≤ 52847424000 := by
  calc gross c m
      ≤ 8 * (bandSum m.booked * 65535) + bandSum m.overrun * 65535 * 32 + 8 * shortfall c m * 65535 :=
        Nat.add_le_add
          (Nat.add_le_add (Nat.mul_le_mul_left 8 (bandPrice_le_bandSum_mul hrate m.booked))
            (Nat.mul_le_mul (bandPrice_le_bandSum_mul hrate m.overrun) hmultiplier))
          (Nat.mul_le_mul_left _ (startRate_le hrate))
    _ = (8 * bandSum m.booked + bandSum m.overrun * 32 + 8 * shortfall c m) * 65535 := by ring
    _ ≤ 806400 * 65535 := Nat.mul_le_mul_right _ (weightedSeconds_le hminimum hbooked hoverrun)
    _ = 52847424000 := by norm_num

theorem rate_le_of_gross_le {units : Nat} (h : gross c m ≤ 480 * units) : rate c m ≤ units := by
  unfold rate
  omega

/-- R152: with no counted second the whole gross is the shortfall, the minimum in seconds. -/
theorem gross_of_no_seconds (h : chargedSeconds m = 0) : gross c m = 480 * (c.minimum * startRate c m) := by
  obtain ⟨hbooked, hoverrun⟩ := Nat.add_eq_zero_iff.mp h
  rw [gross, shortfall, h, bandPrice_eq_zero hbooked, bandPrice_eq_zero hoverrun, Nat.sub_zero]
  ring

theorem rate_of_no_seconds (hcharged : chargedSeconds m = 0) (hexcess : bandSum m.excess = 0) :
    rate c m = c.minimum * startRate c m := by
  rw [rate, gross_of_no_seconds hcharged, rebateOf, bandPrice_eq_zero hexcess]
  omega

end

/-- Settles O60: the terms the statement writes out are those of the model, and each keeps its bound. -/
theorem ratingLaw : Obligations.RatingLaw := by
  intro c m band hband booked overrun total short start gross8 rebate8
  have hshort : short = shortfall c m := (shortfall_eq_ite c m).symm
  have hstart : start = startRate c m := (startRate_of_startBand hband).symm
  have hgross : gross8 = gross c m := by
    simp only [gross8, hshort, hstart, gross, Nat.mul_assoc]
    rfl
  have hrebate : rebate8 = rebateOf c m := rfl
  rw [hgross, hrebate, hshort, hstart]
  refine ⟨rfl, fun hcharged hexcess => rate_of_no_seconds hcharged (by rw [hexcess]; rfl), ?_⟩
  intro hmultiplier8 hmultiplier32 hrebate8 hminimum hpeak hstandard hnight hpeakX hstandardX hnightX hbooked
    hoverrun
  have hrate : ∀ b, bandValue b c.rate ≤ 65535
    | .peak => hpeak
    | .standard => hstandard
    | .night => hnight
  have hexcess : ∀ b, bandValue b m.excess ≤ bandValue b m.booked + bandValue b m.overrun
    | .peak => hpeakX
    | .standard => hstandardX
    | .night => hnightX
  have hgrossTop := gross_le hmultiplier32 hminimum hrate hbooked hoverrun
  have htotal : total ≤ 57600 := Nat.add_le_add hbooked hoverrun
  exact ⟨rebateOf_le_gross hmultiplier8 hrebate8 hexcess, htotal, shortfall_le hminimum, hgrossTop,
    rate_le_of_gross_le hgrossTop⟩

end Sys2Proof.Machine
end

section
/-! ### The effect of a command as one function, and what a law of every step asks -/

namespace Sys2Proof.Machine

/-- What a command makes of the part while RESETN is high. The two commands of the reset pin have their own place in
`effect`, and leave the part here. -/
def liveEffect (c : Instr) (s : State) : State :=
  match c with
  | .start => startCommand s
  | .halt => haltCommand s
  | .softReset pageIssued orderIssued answer =>
    softReset { toCutAnswers := answer, pageIssued := pageIssued, orderIssued := orderIssued } s
  | .modeWrite mode spotlight => modeWrite mode spotlight s
  | .areaWrite high value => areaWrite high value s
  | .orderEndWrite value => orderEndWrite value s
  | .flagsRead enables => flagsRead enables s
  | .flagsWrite value => flagsWrite value s
  | .ack item pop => nextAlarmWrite true false pop item s
  | .push item ack pop => nextAlarmWrite ack true pop item s
  | .pop => nextAlarmWrite false false true 0 s
  | .registerWrite register enables value => registerWrite register.register enables value register.cut s
  | .hardReset | .resetRelease _ => s
  | .secrefPulse instant order => secrefPulse instant order s
  | .secrefTimeout order => secrefTimeout order s
  | .ownTick order => ownTick order s
  | .relockTimeout => relockTimeout s
  | .framerefPulse instant => framerefPulse instant s
  | .framerefTimeout => framerefTimeout s
  | .minuteBoundary order => minuteBoundary order.early order.boundary order.swapAfter order.recheckAfter s
  | .receiverObservation port seen => receiverObservation port seen s
  | .lossOfLightEdge port => lossOfLight port s
  | .holdOffReached port => holdOffReached port s
  | .restoreTimerExpiry port => restoreExpired port s
  | .busFault after | .completionTimeout after => busFaultAt after s
  | .headerReadComplete bytes => headerReadComplete bytes s
  | .identityWriteComplete => identityWriteComplete s
  | .orderTaken => takeEntry s
  | .entryReadComplete bytes => entryRead bytes s
  | .book => takeOrder .book bookOrder s
  | .bookRecordRead bytes => settlePage (bookRecordRead bytes s)
  | .cancel => takeOrder .cancel cancelOrder s
  | .extend => takeOrder .extend extendOrder s
  | .switch => takeOrder .switch switchOrder s
  | .setLeg => takeOrder .setLeg setLegOrder s
  | .setPort => takeOrder .setPort setPortOrder s
  | .readPort => takeOrder .readPort readPortOrder s
  | .loadTariff => takeOrder .loadTariff loadTariffOrder s
  | .tariffSegmentRead bytes => tariffSegmentRead bytes s
  | .latchAccount => takeOrder .latchAccount latchAccountOrder s
  | .closeMatch => takeOrder .closeMatch closeMatchOrder s
  | .setClock => takeOrder .setClock setClockOrder s
  | .ratingRelease => settlePage (releaseFirst s)
  | .pageComplete => pageComplete s
  | .ticketSlotReadComplete state => settlePage (ticketSlotRead state s)

/-- What a command makes of the part: the reset pin acts always, any other command while RESETN is high (R16; log 18). -/
def effect (c : Instr) (s : State) : State :=
  match c with
  | .hardReset => hardReset s
  | .resetRelease instant => resetRelease instant s
  | c => if s.resetn then liveEffect c s else s

/-- Every command answers with its effect. -/
theorem exec_eq_effect (c : Instr) (s : State) : exec c s = .next (effect c s) := by
  cases c <;> rfl

theorem effect_live {c : Instr} {s : State} (hr : s.resetn = true) (hh : c ≠ .hardReset) (hi : ∀ i, c ≠ .resetRelease i) :
    effect c s = liveEffect c s := by
  cases c <;> simp_all [effect]

/-- While RESETN is high the answer of a command is its live effect. -/
theorem exec_live {c : Instr} {s : State} (hr : s.resetn = true) (hh : c ≠ .hardReset) (hi : ∀ i, c ≠ .resetRelease i) :
    exec c s = .next (liveEffect c s) := by
  rw [exec_eq_effect, effect_live hr hh hi]

/-- While RESETN is low a command that does not move the reset pin leaves the part. -/
theorem exec_low {c : Instr} {s : State} (hr : s.resetn = false) (hh : c ≠ .hardReset) (hi : ∀ i, c ≠ .resetRelease i) :
    exec c s = .next s := by
  rw [exec_eq_effect]
  cases c <;> simp_all [effect]

/-- A property of the state that the two commands of the reset pin and every live effect keep is kept by every command. -/
theorem effect_keeps {P : State → Prop} {s : State} (h : P s) (hard : P (hardReset s))
    (release : ∀ instant, P (resetRelease instant s)) (live : s.resetn = true → ∀ c, P (liveEffect c s)) (c : Instr) :
    P (effect c s) := by
  by_cases hh : c = .hardReset
  · exact hh ▸ hard
  by_cases hi : ∃ i, c = .resetRelease i
  · obtain ⟨i, rfl⟩ := hi
    exact release i
  by_cases hr : s.resetn = true
  · rw [effect_live hr hh (fun i e => hi ⟨i, e⟩)]
    exact live hr c
  · have e := exec_low (c := c) (by simpa using hr) hh (fun i e => hi ⟨i, e⟩)
    rw [exec_eq_effect] at e
    rw [Host.Outcome.next.inj e]
    exact h

/-- A law that does not look at the queue and that every effect keeps is kept by every step. -/
theorem step_keeps {P : State → Prop} (queue : ∀ s rest, P s → P { s with pending := rest })
    (effects : ∀ c s, P s → P (effect c s)) {s t : State} (h : P s) (hs : step s = .next t) : P t := by
  simp only [step] at hs
  split at hs
  · exact Host.Outcome.next.inj hs ▸ h
  · next c rest _ =>
    rw [exec_eq_effect] at hs
    exact Host.Outcome.next.inj hs ▸ effects c _ (queue s rest h)

/-- No command touches the queue. -/
theorem liveEffect_pending (c : Instr) (s : State) : (liveEffect c s).pending = s.pending := by
  cases c with
  | book => exact takeOrder_keeps State.pending _ (by simp) s
  | cancel => exact takeOrder_keeps State.pending _ (by simp) s
  | extend => exact takeOrder_keeps State.pending _ (by simp) s
  | switch => exact takeOrder_keeps State.pending _ (by simp) s
  | setLeg => exact takeOrder_keeps State.pending _ (by simp) s
  | setPort => exact takeOrder_keeps State.pending _ (by simp) s
  | readPort => exact takeOrder_keeps State.pending _ (by simp) s
  | loadTariff => exact takeOrder_keeps State.pending _ (by simp) s
  | latchAccount => exact takeOrder_keeps State.pending _ (by simp) s
  | closeMatch => exact takeOrder_keeps State.pending _ (by simp) s
  | setClock => exact takeOrder_keeps State.pending _ (by simp) s
  | _ => simp [liveEffect]

theorem effect_pending (c : Instr) (s : State) : (effect c s).pending = s.pending :=
  effect_keeps (P := fun t => t.pending = s.pending) rfl rfl
    (fun instant => by simp only [resetRelease]; split <;> simp [hardReset])
    (fun _ c => liveEffect_pending c s) c

/-- Settles O1: both cases of `step`. -/
theorem stepRunsTheFrontCommand : Obligations.StepRunsTheFrontCommand :=
  ⟨fun _ _ _ h => by simp [step, h], fun _ h => by simp [step, h]⟩

/-- Settles O2: the answer is the effect of the command, which leaves the queue. -/
theorem everyCommandAnswers : Obligations.EveryCommandAnswers :=
  fun c s => ⟨effect c s, exec_eq_effect c s, effect_pending c s⟩

end Sys2Proof.Machine
end

section
/-! ### What a soft reset leaves under way: nothing (R14, R28) -/

namespace Sys2Proof.Machine

theorem kept_waiting {s t : State} (k : kept s t) (h : s.tickets.waiting = []) : t.tickets.waiting = [] :=
  k.elim (fun k => k.2.2.1.trans h) (fun k => k.1.2.2)

theorem quiet_of_none {s : State} (hw : s.tickets.waiting = []) (hn : ¬s.tickets.inFlight.isSome = true) : quiet s :=
  ⟨by simpa using hn, hw⟩

/-- A close written with nothing behind it leaves no access. -/
theorem writeClose_quiet (r : Raise) {s : State} (hw : s.tickets.waiting = []) : quiet (writeClose r s) := by
  have k1 := kept_of_stays (issueAll_stays (ticketWrites r.ticket s) (setInFlight (some (.closeWrite r)) s))
  have w1 := kept_waiting k1 hw
  simp only [writeClose]
  split
  · have w2 := kept_waiting (kept_of_stays (stays_trans (ticketWritten_stays _) (recordClose_stays r _))) w1
    split
    · exact finishClose_quiet r _ ⟨rfl, w2⟩
    · exact quiet_of_none w2 (by assumption)
  · exact quiet_of_none w1 (by assumption)

theorem raiseRead_quiet (r : Raise) (empty : Bool) {s : State} (hw : s.tickets.waiting = []) :
    quiet (raiseRead r empty s) := by
  simp only [raiseRead]
  split
  · exact writeClose_quiet r hw
  · exact lostClose_quiet r (quiet_kept (s := setInFlight none s) ⟨rfl, hw⟩
      (kept_of_stays (stays_trans (loseTicket_stays _ _) (blockRing_stays _))))

theorem totalRead_quiet (k : Fin 128) (minute : Nat) (empty : Bool) {s : State} (hw : s.tickets.waiting = []) :
    quiet (totalRead k minute empty s) := by
  simp only [totalRead]
  split
  · have w := kept_waiting (kept_of_stays (issueAll_stays (ticketWrites (totalTicket s.accounts[k] minute)
      (setInFlight (some (.totalWrite k)) (raiseNumber s))) (setInFlight (some (.totalWrite k)) (raiseNumber s)))) hw
    split
    · refine quiet_kept (quiet_kept (s := setInFlight none _) ⟨rfl, w⟩ (kept_of_stays ?_)) (finishOrder_kept _ _ _)
      exact stays_trans (ticketWritten_stays _) (freeAccountSlot_stays k _)
    · exact quiet_of_none w (by assumption)
  · exact quiet_kept (s := setInFlight none s) ⟨rfl, hw⟩ (finishOrder_kept _ _ _)

theorem bookFromRecord_quiet (n : Fin 1024) (r : BookRecord) {s : State} (q : quiet s) : quiet (bookFromRecord n r s) := by
  have writes : ∀ (ws : List HostWrite) (outcome : OutcomeCode) (result : List Byte),
      ∀ a ∈ ws.map Access.write ++ [.report outcome result], plain a := by
    intro ws outcome result a ha
    rcases List.mem_append.1 ha with ha | ha
    · obtain ⟨w, -, rfl⟩ := List.mem_map.1 ha
      exact .inl ⟨w, rfl⟩
    · exact .inr ⟨outcome, result, List.mem_singleton.1 ha⟩
  simp only [bookFromRecord]
  split
  · exact submit_quiet (writes [] _ _) q
  · split
    · exact submit_quiet (writes _ _ _) q
    · exact submit_quiet (writes _ _ _) (by simpa [quiet] using q)

/-- R14: the access in flight, completed with nothing behind it, leaves no access. -/
theorem completeInFlight_quiet (cut : CutOff) {s : State} (hw : s.tickets.waiting = []) :
    quiet (completeInFlight cut s) := by
  have q0 : quiet (setInFlight none s) := ⟨rfl, hw⟩
  have dropped : ∀ r, quiet (endClose r (loseRaise r (setInFlight none s))) := fun r => by
    simpa [quiet, loseRaise] using quiet_kept q0 (kept_of_stays (loseTicket_stays (some r.ticket.matchNumber) _))
  have freed : ∀ (k : Fin 128) {t : State}, quiet t → quiet (freeAccountSlot k (loseTicket none t)) := fun k t q =>
    quiet_kept q (kept_of_stays (stays_trans (loseTicket_stays none t) (freeAccountSlot_stays k _)))
  simp only [completeInFlight]
  split
  · split
    · exact raiseRead_quiet _ _ hw
    · exact dropped _
  · exact bookFromRecord_quiet _ _ q0
  · split
    · exact totalRead_quiet _ _ _ hw
    · exact freed _ (quiet_kept q0 (kept_of_stays (raiseNumber_stays _)))
  · exact dropped _
  · exact freed _ q0
  · split
    · exact quiet_kept q0 (kept_of_stays (unblockRing_stays _))
    · exact q0
  · exact q0
  · exact q0
  · exact ⟨by assumption, hw⟩

theorem completeNext_quiet (cut : CutOff) (a : Access) {s : State} (q : quiet s) : quiet (completeNext cut a s) :=
  completeInFlight_quiet cut (beginAccess_waiting a (quiet_kept q (kept_of_stays (gateNext_stays a s))))

theorem completeAccesses_quiet (cut : CutOff) (s : State) : quiet (completeAccesses cut s) :=
  foldl_closed (P := quiet) (fun _ a q => completeNext_quiet cut a q) _
    (completeInFlight_quiet cut (by simp [setGate, setWaiting]))

theorem completeTick_quiet (cut : CutOff) {s : State} (q : quiet s) : quiet (completeTick cut s) := by
  simp only [completeTick]
  (repeat' split) <;> first | exact q | simpa [quiet] using q

theorem completeHold_quiet (h : Hold) {s : State} (q : quiet s) : quiet (completeHold h s) := by
  have m := quiet_kept q (kept_of_stays (takeClose_stays (closeRaise .booking h.slot h.closeMinute false s) s))
  have v := closeInside_view (closeRaise .booking h.slot h.closeMinute false s)
    (takeClose (closeRaise .booking h.slot h.closeMinute false s) s)
  simp only [runView, Prod.mk.injEq] at v
  exact ⟨v.2.2.2.2.2.2.1.trans m.1, v.2.2.2.2.2.2.2.1.trans m.2⟩

theorem completeHolds_quiet {s : State} (q : quiet s) : quiet (completeHolds s) :=
  foldl_closed (P := quiet) (fun _ h q => completeHold_quiet h q) _ q

theorem completeEntry_quiet (cut : CutOff) {s : State} (q : quiet s) : quiet (completeEntry cut s) := by
  simp only [completeEntry]
  split
  · exact entryRead_quiet _ q
  · exact q

theorem completeDispatched_quiet (cut : CutOff) {s : State} (q : quiet s) : quiet (completeDispatched cut s) := by
  simp only [completeDispatched]
  split
  · exact completeInFlight_quiet cut (ownerTakes_waiting _ (quiet_kept q (kept_of_stays (setGate_stays _ s))))
  all_goals exact q

theorem completeSegment_quiet (cut : CutOff) {s : State} (q : quiet s) : quiet (completeSegment cut s) := by
  simp only [completeSegment]
  split
  · exact tariffSegmentRead_quiet _ q
  · exact q

/-- R14, R28: once the work under way has been completed inside the part no access is left, in any state. -/
theorem completeInside_quiet (cut : CutOff) (s : State) : quiet (completeInside cut s) :=
  completeSegment_quiet cut (completeDispatched_quiet cut (completeEntry_quiet cut
    (quiet_kept (completeHolds_quiet (completeTick_quiet cut (completeAccesses_quiet cut s)))
      (kept_of_stays (setGate_stays _ _)))))

/-- R166: in DORMANT the page logic begins no page. -/
theorem settlePage_dormant {s : State} (h : s.link.run = .dormant) : pageKept s (settlePage s) := by
  obtain ⟨-, -, kept, taken⟩ := settlePage_taken s
  cases e : s.link.pageTicks.takeWhile (pageReady (settlePage s)) with
  | nil => exact (kept e).1
  | cons x later => exact ((taken x later e).2.2.2 fun o => o.1 h).1

theorem settlePage_view_dormant {s : State} (h : s.link.run = .dormant) : runView (settlePage s) = runView s := by
  have f := (settlePage_taken s).1
  have p := (settlePage_dormant h).1
  have e : runView (withPage (settlePage s) s) = runView s := by simp [runView, withPage, p]
  rwa [← f] at e

theorem latchLeave_view (from_ : RunState) (s : State) : runView (latchLeave from_ s) = runView s := by
  simp only [latchLeave]
  split
  · rfl
  · exact latch_view _ _

theorem softClear_view (s : State) : runView (softClear s) = runView (softState s) := by
  simp [softClear, clearFloor]

/-- R14: what every soft reset leaves of the run state, the order unit and the accesses. -/
theorem softReset_view (cut : CutOff) (s : State) :
    runView (softReset cut s) = (.dormant, .none, .idle, false, none, .idle, none, [], none) := by
  obtain ⟨h1, h2⟩ := completeInside_quiet cut (abandonPage cut.pageIssued s)
  have e : runView (latchLeave s.link.run (softClear (completeInside cut (abandonPage cut.pageIssued s)))) =
      (.dormant, .none, .idle, false, none, .idle, none, [], none) := by
    rw [latchLeave_view, softClear_view]
    simp [runView, softState, softLink, OrderUnit.hardReset, h1, h2]
  rw [softReset, settlePage_view_dormant (Prod.mk.inj e).1, e]

end Sys2Proof.Machine
end

section
/-! ### The laws that every step keeps, assembled from the laws of the operations -/

namespace Sys2Proof.Machine

/-- An order command keeps what the work of its owning block keeps. -/
theorem takeOrder_holds {P : State → Prop} {act : Order → State → State} (code : OrderCode) {s : State} (h : P s)
    (ha : ∀ o, s.orders.unit = .acting o .dispatched → P (act o s)) : P (takeOrder code act s) := by
  simp only [takeOrder, orderFor]
  split
  · next o e =>
    split at e
    · next o' hu =>
      split at e
      · exact ha o (Option.some.inj e ▸ hu)
      · cases e
    all_goals cases e
  · exact h

/-- R122, R130, R170, R172: every command keeps the law while RESETN is high. -/
theorem liveEffect_alarm {s : State} (h : alarmLawful s) : ∀ c, alarmLawful (liveEffect c s)
  | .start => startCommand_alarm h
  | .halt => haltCommand_alarm h
  | .softReset _ _ _ => softReset_alarm _ h
  | .modeWrite mode spotlight => modeWrite_alarm mode spotlight h
  | .areaWrite high value => areaWrite_alarm high value h
  | .orderEndWrite value => orderEndWrite_alarm value h
  | .flagsRead enables => flagsRead_alarm enables h
  | .flagsWrite value => flagsWrite_alarm value h
  | .ack item pop => nextAlarmWrite_alarm true false pop item h
  | .push item ack pop => nextAlarmWrite_alarm ack true pop item h
  | .pop => nextAlarmWrite_alarm false false true 0 h
  | .registerWrite register enables value => registerWrite_alarm register.register enables value register.cut h
  | .hardReset => h
  | .resetRelease _ => h
  | .secrefPulse instant order => secrefPulse_alarm instant order h
  | .secrefTimeout order => secrefTimeout_alarm order h
  | .ownTick order => ownTick_alarm order h
  | .relockTimeout => alarm_congr h (by simp [liveEffect])
  | .framerefPulse instant => framerefPulse_alarm instant h
  | .framerefTimeout => framerefTimeout_alarm h
  | .minuteBoundary _ => minuteBoundary_alarm _ _ _ _ h
  | .receiverObservation port seen => receiverObservation_alarm port seen h
  | .lossOfLightEdge port => lossOfLight_alarm port h
  | .holdOffReached port => holdOffReached_alarm port h
  | .restoreTimerExpiry port => restoreExpired_alarm port h
  | .busFault after => busFaultAt_alarm after h
  | .completionTimeout after => busFaultAt_alarm after h
  | .headerReadComplete bytes => headerReadComplete_alarm bytes h
  | .identityWriteComplete => identityWriteComplete_alarm h
  | .orderTaken => takeEntry_alarm h
  | .entryReadComplete bytes => entryRead_alarm bytes h
  | .book => takeOrder_holds _ h fun o _ => bookOrder_alarm o h
  | .bookRecordRead bytes => settlePage_alarm (bookRecordRead_alarm bytes h)
  | .cancel => takeOrder_holds _ h fun o _ => cancelOrder_alarm o h
  | .extend => takeOrder_holds _ h fun o _ => extendOrder_alarm o h
  | .switch => takeOrder_holds _ h fun o _ => switchOrder_alarm o h
  | .setLeg => takeOrder_holds _ h fun o _ => setLegOrder_alarm o h
  | .setPort => takeOrder_holds _ h fun o _ => setPortOrder_alarm o h
  | .readPort => takeOrder_holds _ h fun o _ => readPortOrder_alarm o h
  | .loadTariff => takeOrder_holds _ h fun o _ => loadTariffOrder_alarm o h
  | .tariffSegmentRead bytes => tariffSegmentRead_alarm bytes h
  | .latchAccount => takeOrder_holds _ h fun o _ => latchAccountOrder_alarm o h
  | .closeMatch => takeOrder_holds _ h fun o _ => closeMatchOrder_alarm o h
  | .setClock => takeOrder_holds _ h fun o _ => setClockOrder_alarm o h
  | .ratingRelease => settlePage_alarm (releaseFirst_alarm h)
  | .pageComplete => pageComplete_alarm h
  | .ticketSlotReadComplete state => settlePage_alarm (ticketSlotRead_alarm state h)

theorem effect_alarm (c : Instr) (s : State) (h : alarmLawful s) : alarmLawful (effect c s) :=
  effect_keeps h (hardReset_alarm s) (fun _ => resetRelease_alarm _ h) (fun _ => liveEffect_alarm h) c

/-- R39, R120: every command keeps the law while RESETN is high. -/
theorem liveEffect_items {s : State} (h : systemItemsFollow s) : ∀ c, systemItemsFollow (liveEffect c s)
  | .start => startCommand_items h
  | .halt => haltCommand_items h
  | .softReset _ _ _ => softReset_items _ h
  | .modeWrite mode spotlight => modeWrite_items mode spotlight h
  | .areaWrite high value => areaWrite_items high value h
  | .orderEndWrite value => orderEndWrite_items value h
  | .flagsRead enables => flagsRead_items enables h
  | .flagsWrite value => flagsWrite_items value h
  | .ack item pop => nextAlarmWrite_items true false pop item h
  | .push item ack pop => nextAlarmWrite_items ack true pop item h
  | .pop => nextAlarmWrite_items false false true 0 h
  | .registerWrite register enables value => registerWrite_items register.register enables value register.cut h
  | .hardReset => h
  | .resetRelease _ => h
  | .secrefPulse instant order => secrefPulse_items instant order h
  | .secrefTimeout order => secrefTimeout_items order h
  | .ownTick order => ownTick_items order h
  | .relockTimeout => relockTimeout_items h
  | .framerefPulse instant => framerefPulse_items instant h
  | .framerefTimeout => framerefTimeout_items h
  | .minuteBoundary _ => minuteBoundary_items _ _ _ _ h
  | .receiverObservation port seen => receiverObservation_items port seen h
  | .lossOfLightEdge port => lossOfLight_items port h
  | .holdOffReached port => holdOffReached_items port h
  | .restoreTimerExpiry port => restoreExpired_items port h
  | .busFault after => busFaultAt_items after h
  | .completionTimeout after => busFaultAt_items after h
  | .headerReadComplete bytes => headerReadComplete_items bytes h
  | .identityWriteComplete => identityWriteComplete_items h
  | .orderTaken => takeEntry_items h
  | .entryReadComplete bytes => entryRead_items bytes h
  | .book => takeOrder_holds _ h fun o _ => bookOrder_items o h
  | .bookRecordRead bytes => settlePage_items (bookRecordRead_items bytes h)
  | .cancel => takeOrder_holds _ h fun o _ => cancelOrder_items o h
  | .extend => takeOrder_holds _ h fun o _ => extendOrder_items o h
  | .switch => takeOrder_holds _ h fun o _ => switchOrder_items o h
  | .setLeg => takeOrder_holds _ h fun o _ => setLegOrder_items o h
  | .setPort => takeOrder_holds _ h fun o _ => setPortOrder_items o h
  | .readPort => takeOrder_holds _ h fun o _ => readPortOrder_items o h
  | .loadTariff => takeOrder_holds _ h fun o _ => loadTariffOrder_items o h
  | .tariffSegmentRead bytes => tariffSegmentRead_items bytes h
  | .latchAccount => takeOrder_holds _ h fun o _ => latchAccountOrder_items o h
  | .closeMatch => takeOrder_holds _ h fun o _ => closeMatchOrder_items o h
  | .setClock => takeOrder_holds _ h fun o _ => setClockOrder_items o h
  | .ratingRelease => settlePage_items (releaseFirst_items h)
  | .pageComplete => pageComplete_items h
  | .ticketSlotReadComplete state => settlePage_items (ticketSlotRead_items state h)

theorem effect_items (c : Instr) (s : State) (h : systemItemsFollow s) : systemItemsFollow (effect c s) :=
  effect_keeps h (hardReset_items s) (fun _ => resetRelease_items _ h) (fun _ => liveEffect_items h) c

/-- R31 to R38: every command keeps the law while RESETN is high. -/
theorem liveEffect_clock {s : State} (h : clockLawful s) : ∀ c, clockLawful (liveEffect c s)
  | .start => startCommand_clock h
  | .halt => haltCommand_clock h
  | .softReset _ _ _ => softReset_clock _ h
  | .modeWrite mode spotlight => modeWrite_clock mode spotlight h
  | .areaWrite high value => areaWrite_clock high value h
  | .orderEndWrite value => orderEndWrite_clock value h
  | .flagsRead _ => clock_congr h (by simp [liveEffect])
  | .flagsWrite value => flagsWrite_clock value h
  | .ack _ _ => clock_congr h (by simp [liveEffect])
  | .push _ _ _ => clock_congr h (by simp [liveEffect])
  | .pop => clock_congr h (by simp [liveEffect])
  | .registerWrite register enables value => registerWrite_clock register.register enables value register.cut h
  | .hardReset => h
  | .resetRelease _ => h
  | .secrefPulse instant order => secrefPulse_clock instant order h
  | .secrefTimeout order => secrefTimeout_clock order h
  | .ownTick order => ownTick_clock order h
  | .relockTimeout => relockTimeout_clock h
  | .framerefPulse instant => framerefPulse_clock instant h
  | .framerefTimeout => framerefTimeout_clock h
  | .minuteBoundary _ => minuteBoundary_clock _ _ _ _ h
  | .receiverObservation _ _ => clock_congr h (by simp [liveEffect])
  | .lossOfLightEdge _ => clock_congr h (by simp [liveEffect])
  | .holdOffReached _ => clock_congr h (by simp [liveEffect])
  | .restoreTimerExpiry _ => clock_congr h (by simp [liveEffect])
  | .busFault _ => clock_congr h (by simp [liveEffect])
  | .completionTimeout _ => clock_congr h (by simp [liveEffect])
  | .headerReadComplete _ => clock_congr h (by simp [liveEffect])
  | .identityWriteComplete => clock_congr h (by simp [liveEffect])
  | .orderTaken => clock_congr h (by simp [liveEffect])
  | .entryReadComplete _ => clock_congr h (by simp [liveEffect])
  | .book => takeOrder_holds _ h fun o _ => bookOrder_clock o h
  | .bookRecordRead bytes => settlePage_clock (clock_congr h (by simp))
  | .cancel => takeOrder_holds _ h fun o _ => cancelOrder_clock o h
  | .extend => takeOrder_holds _ h fun o _ => extendOrder_clock o h
  | .switch => takeOrder_holds _ h fun o _ => switchOrder_clock o h
  | .setLeg => takeOrder_holds _ h fun o _ => setLegOrder_clock o h
  | .setPort => takeOrder_holds _ h fun o _ => setPortOrder_clock o h
  | .readPort => takeOrder_holds _ h fun o _ => readPortOrder_clock o h
  | .loadTariff => takeOrder_holds _ h fun o _ => loadTariffOrder_clock o h
  | .tariffSegmentRead _ => clock_congr h (by simp [liveEffect])
  | .latchAccount => takeOrder_holds _ h fun o _ => latchAccountOrder_clock o h
  | .closeMatch => takeOrder_holds _ h fun o _ => closeMatchOrder_clock o h
  | .setClock => takeOrder_holds _ h fun o _ => setClockOrder_clock o h
  | .ratingRelease => settlePage_clock (clock_congr h (by simp))
  | .pageComplete => clock_congr h (by simp [liveEffect])
  | .ticketSlotReadComplete state => settlePage_clock (clock_congr h (by simp))

theorem effect_clock (c : Instr) (s : State) (h : clockLawful s) : clockLawful (effect c s) :=
  effect_keeps h (hardReset_clock s) (fun _ => resetRelease_clock _ h) (fun _ => liveEffect_clock h) c

/-- R97, R138: every command keeps the law while RESETN is high. -/
theorem liveEffect_ports {s : State} (h : portsLawful s) : ∀ c, portsLawful (liveEffect c s)
  | .start => startCommand_ports h
  | .halt => haltCommand_ports h
  | .softReset _ _ _ => softReset_ports _ h
  | .modeWrite mode spotlight => modeWrite_ports mode spotlight h
  | .areaWrite high value => areaWrite_ports high value h
  | .orderEndWrite value => orderEndWrite_ports value h
  | .flagsRead _ => ports_congr h (by simp [liveEffect])
  | .flagsWrite value => flagsWrite_ports value h
  | .ack _ _ => ports_congr h (by simp [liveEffect])
  | .push _ _ _ => ports_congr h (by simp [liveEffect])
  | .pop => ports_congr h (by simp [liveEffect])
  | .registerWrite register enables value => registerWrite_ports register.register enables value register.cut h
  | .hardReset => h
  | .resetRelease _ => h
  | .secrefPulse instant order => secrefPulse_ports instant order h
  | .secrefTimeout order => secrefTimeout_ports order h
  | .ownTick order => ownTick_ports order h
  | .relockTimeout => ports_congr h (by simp [liveEffect])
  | .framerefPulse _ => ports_congr h (by simp [liveEffect])
  | .framerefTimeout => ports_congr h (by simp [liveEffect])
  | .minuteBoundary _ => minuteBoundary_ports _ _ _ _ h
  | .receiverObservation port seen => receiverObservation_ports port seen h
  | .lossOfLightEdge port => lossOfLight_ports port h
  | .holdOffReached port => holdOffReached_ports port h
  | .restoreTimerExpiry port => restoreExpired_ports port h
  | .busFault after => busFaultAt_ports after h
  | .completionTimeout after => busFaultAt_ports after h
  | .headerReadComplete bytes => headerReadComplete_ports bytes h
  | .identityWriteComplete => identityWriteComplete_ports h
  | .orderTaken => takeEntry_ports h
  | .entryReadComplete bytes => entryRead_ports bytes h
  | .book => takeOrder_holds _ h fun o _ => bookOrder_ports o h
  | .bookRecordRead bytes => settlePage_ports (bookRecordRead_ports bytes h)
  | .cancel => takeOrder_holds _ h fun o _ => cancelOrder_ports o h
  | .extend => takeOrder_holds _ h fun o _ => extendOrder_ports o h
  | .switch => takeOrder_holds _ h fun o _ => switchOrder_ports o h
  | .setLeg => takeOrder_holds _ h fun o _ => setLegOrder_ports o h
  | .setPort => takeOrder_holds _ h fun o _ => setPortOrder_ports o h
  | .readPort => takeOrder_holds _ h fun o _ => readPortOrder_ports o h
  | .loadTariff => takeOrder_holds _ h fun o _ => loadTariffOrder_ports o h
  | .tariffSegmentRead bytes => tariffSegmentRead_ports bytes h
  | .latchAccount => takeOrder_holds _ h fun o _ => latchAccountOrder_ports o h
  | .closeMatch => takeOrder_holds _ h fun o _ => closeMatchOrder_ports o h
  | .setClock => takeOrder_holds _ h fun o _ => setClockOrder_ports o h
  | .ratingRelease => settlePage_ports (releaseFirst_ports h)
  | .pageComplete => pageComplete_ports h
  | .ticketSlotReadComplete state => settlePage_ports (ticketSlotRead_ports state h)

theorem effect_ports (c : Instr) (s : State) (h : portsLawful s) : portsLawful (effect c s) :=
  effect_keeps h (hardReset_ports s) (fun _ => resetRelease_ports _ h) (fun _ => liveEffect_ports h) c

/-- R73, R76, R79: every command keeps the law while RESETN is high. -/
theorem liveEffect_rows {s : State} (h : rowsLawful s) : ∀ c, rowsLawful (liveEffect c s)
  | .start => startCommand_rows h
  | .halt => haltCommand_rows h
  | .softReset _ _ _ => softReset_rows _ h
  | .modeWrite mode spotlight => modeWrite_rows mode spotlight h
  | .areaWrite high value => areaWrite_rows high value h
  | .orderEndWrite value => orderEndWrite_rows value h
  | .flagsRead _ => rows_congr h (by simp [liveEffect])
  | .flagsWrite value => flagsWrite_rows value h
  | .ack _ _ => rows_congr h (by simp [liveEffect])
  | .push _ _ _ => rows_congr h (by simp [liveEffect])
  | .pop => rows_congr h (by simp [liveEffect])
  | .registerWrite register enables value => registerWrite_rows register.register enables value register.cut h
  | .hardReset => h
  | .resetRelease _ => h
  | .secrefPulse instant order => secrefPulse_rows instant order h
  | .secrefTimeout order => secrefTimeout_rows order h
  | .ownTick order => ownTick_rows order h
  | .relockTimeout => rows_congr h (by simp [liveEffect])
  | .framerefPulse instant => framerefPulse_rows instant h
  | .framerefTimeout => rows_congr h (by simp [liveEffect])
  | .minuteBoundary _ => minuteBoundary_rows _ _ _ _ h
  | .receiverObservation port seen => receiverObservation_rows port seen h
  | .lossOfLightEdge port => lossOfLight_rows port h
  | .holdOffReached port => holdOffReached_rows port h
  | .restoreTimerExpiry port => restoreExpired_rows port h
  | .busFault _ => rows_congr h (by simp [liveEffect])
  | .completionTimeout _ => rows_congr h (by simp [liveEffect])
  | .headerReadComplete _ => rows_congr h (by simp [liveEffect])
  | .identityWriteComplete => identityWriteComplete_rows h
  | .orderTaken => takeEntry_rows h
  | .entryReadComplete _ => rows_congr h (by simp [liveEffect])
  | .book => takeOrder_holds _ h fun o _ => bookOrder_rows o h
  | .bookRecordRead bytes => settlePage_rows (rows_congr h (by simp))
  | .cancel => takeOrder_holds _ h fun o _ => cancelOrder_rows o h
  | .extend => takeOrder_holds _ h fun o _ => extendOrder_rows o h
  | .switch => takeOrder_holds _ h fun o _ => switchOrder_rows o h
  | .setLeg => takeOrder_holds _ h fun o _ => setLegOrder_rows o h
  | .setPort => takeOrder_holds _ h fun o _ => setPortOrder_rows o h
  | .readPort => takeOrder_holds _ h fun o _ => readPortOrder_rows o h
  | .loadTariff => takeOrder_holds _ h fun o _ => loadTariffOrder_rows o h
  | .tariffSegmentRead _ => rows_congr h (by simp [liveEffect])
  | .latchAccount => takeOrder_holds _ h fun o _ => latchAccountOrder_rows o h
  | .closeMatch => takeOrder_holds _ h fun o _ => closeMatchOrder_rows o h
  | .setClock => takeOrder_holds _ h fun o _ => setClockOrder_rows o h
  | .ratingRelease => settlePage_rows (rows_congr h (by simp))
  | .pageComplete => rows_congr h (by simp [liveEffect])
  | .ticketSlotReadComplete state => settlePage_rows (rows_congr h (by simp))

theorem effect_rows (c : Instr) (s : State) (h : rowsLawful s) : rowsLawful (effect c s) :=
  effect_keeps h (hardReset_rows s) (fun _ => resetRelease_rows _ h) (fun _ => liveEffect_rows h) c

/-- R153: every command keeps the law while RESETN is high. -/
theorem liveEffect_accounts {s : State} (h : accountsApart s) : ∀ c, accountsApart (liveEffect c s)
  | .start => startCommand_accounts h
  | .halt => haltCommand_accounts h
  | .softReset _ _ _ => softReset_accounts _ h
  | .modeWrite mode spotlight => modeWrite_accounts mode spotlight h
  | .areaWrite high value => areaWrite_accounts high value h
  | .orderEndWrite value => orderEndWrite_accounts value h
  | .flagsRead _ => accounts_congr h (by simp [liveEffect])
  | .flagsWrite value => flagsWrite_accounts value h
  | .ack _ _ => accounts_congr h (by simp [liveEffect])
  | .push _ _ _ => accounts_congr h (by simp [liveEffect])
  | .pop => accounts_congr h (by simp [liveEffect])
  | .registerWrite register enables value => registerWrite_accounts register.register enables value register.cut h
  | .hardReset => h
  | .resetRelease _ => h
  | .secrefPulse instant order => secrefPulse_accounts instant order h
  | .secrefTimeout order => secrefTimeout_accounts order h
  | .ownTick order => ownTick_accounts order h
  | .relockTimeout => accounts_congr h (by simp [liveEffect])
  | .framerefPulse _ => accounts_congr h (by simp [liveEffect])
  | .framerefTimeout => accounts_congr h (by simp [liveEffect])
  | .minuteBoundary _ => minuteBoundary_accounts _ _ _ _ h
  | .receiverObservation _ _ => accounts_congr h (by simp [liveEffect])
  | .lossOfLightEdge _ => accounts_congr h (by simp [liveEffect])
  | .holdOffReached _ => accounts_congr h (by simp [liveEffect])
  | .restoreTimerExpiry _ => accounts_congr h (by simp [liveEffect])
  | .busFault after => busFaultAt_accounts after h
  | .completionTimeout after => busFaultAt_accounts after h
  | .headerReadComplete bytes => headerReadComplete_accounts bytes h
  | .identityWriteComplete => identityWriteComplete_accounts h
  | .orderTaken => takeEntry_accounts h
  | .entryReadComplete bytes => entryRead_accounts bytes h
  | .book => takeOrder_holds _ h fun o _ => bookOrder_accounts o h
  | .bookRecordRead bytes => settlePage_accounts (bookRecordRead_accounts bytes h)
  | .cancel => takeOrder_holds _ h fun o _ => cancelOrder_accounts o h
  | .extend => takeOrder_holds _ h fun o _ => extendOrder_accounts o h
  | .switch => takeOrder_holds _ h fun o _ => switchOrder_accounts o h
  | .setLeg => takeOrder_holds _ h fun o _ => setLegOrder_accounts o h
  | .setPort => takeOrder_holds _ h fun o _ => setPortOrder_accounts o h
  | .readPort => takeOrder_holds _ h fun o _ => readPortOrder_accounts o h
  | .loadTariff => takeOrder_holds _ h fun o _ => loadTariffOrder_accounts o h
  | .tariffSegmentRead bytes => tariffSegmentRead_accounts bytes h
  | .latchAccount => takeOrder_holds _ h fun o _ => latchAccountOrder_accounts o h
  | .closeMatch => takeOrder_holds _ h fun o _ => closeMatchOrder_accounts o h
  | .setClock => takeOrder_holds _ h fun o _ => setClockOrder_accounts o h
  | .ratingRelease => settlePage_accounts (releaseFirst_accounts h)
  | .pageComplete => pageComplete_accounts h
  | .ticketSlotReadComplete state => settlePage_accounts (ticketSlotRead_accounts state h)

theorem effect_accounts (c : Instr) (s : State) (h : accountsApart s) : accountsApart (effect c s) :=
  effect_keeps h (hardReset_accounts s) (fun _ => resetRelease_accounts _ h) (fun _ => liveEffect_accounts h) c

theorem settlePage_books {s : State} (h : bookingsLawful s) : bookingsLawful (settlePage s) :=
  books_same h (by simp)

theorem hardReset_books (s : State) : bookingsLawful (hardReset s) :=
  reset_books rfl rfl rfl

/-- R45, R46, R21: every command keeps the law while RESETN is high. -/
theorem liveEffect_books {s : State} (h : bookingsLawful s) : ∀ c, bookingsLawful (liveEffect c s)
  | .start => startCommand_books h
  | .halt => haltCommand_books h
  | .softReset _ _ _ => softReset_books _ h
  | .modeWrite _ _ => books_same h (by simp [liveEffect])
  | .areaWrite _ _ => books_same h (by simp [liveEffect])
  | .orderEndWrite value => orderEndWrite_books value h
  | .flagsRead _ => books_same h (by simp [liveEffect])
  | .flagsWrite _ => books_same h (by simp [liveEffect])
  | .ack _ _ => books_same h (by simp [liveEffect])
  | .push _ _ _ => books_same h (by simp [liveEffect])
  | .pop => books_same h (by simp [liveEffect])
  | .registerWrite register enables value => registerWrite_books register.register enables value register.cut h
  | .hardReset => h
  | .resetRelease _ => h
  | .secrefPulse instant order => secrefPulse_books instant order h
  | .secrefTimeout order => secrefTimeout_books order h
  | .ownTick order => ownTick_books order h
  | .relockTimeout => books_same h (by simp [liveEffect])
  | .framerefPulse _ => books_same h (by simp [liveEffect])
  | .framerefTimeout => books_same h (by simp [liveEffect])
  | .minuteBoundary _ => minuteBoundary_books _ _ _ _ h
  | .receiverObservation _ _ => books_same h (by simp [liveEffect])
  | .lossOfLightEdge _ => books_same h (by simp [liveEffect])
  | .holdOffReached _ => books_same h (by simp [liveEffect])
  | .restoreTimerExpiry _ => books_same h (by simp [liveEffect])
  | .busFault after => busFaultAt_books after h
  | .completionTimeout after => busFaultAt_books after h
  | .headerReadComplete bytes => headerReadComplete_books bytes h
  | .identityWriteComplete => identityWriteComplete_books h
  | .orderTaken => takeEntry_books h
  | .entryReadComplete bytes => entryRead_books bytes h
  | .book => takeOrder_holds _ h fun _ hu => bookOrder_books h hu
  | .bookRecordRead bytes => settlePage_books (bookRecordRead_books bytes h)
  | .cancel => takeOrder_holds _ h fun _ hu => cancelOrder_books h hu
  | .extend => takeOrder_holds _ h fun _ hu => extendOrder_books h hu
  | .switch => takeOrder_holds _ h fun _ hu => switchOrder_books h hu
  | .setLeg => takeOrder_holds _ h fun _ hu => setLegOrder_books h hu
  | .setPort => takeOrder_holds _ h fun _ hu => setPortOrder_books h hu
  | .readPort => takeOrder_holds _ h fun _ hu => readPortOrder_books h hu
  | .loadTariff => takeOrder_holds _ h fun _ hu => loadTariffOrder_books h hu
  | .tariffSegmentRead bytes => tariffSegmentRead_books bytes h
  | .latchAccount => takeOrder_holds _ h fun _ hu => latchAccountOrder_books h hu
  | .closeMatch => takeOrder_holds _ h fun _ hu => closeMatchOrder_books h hu
  | .setClock => takeOrder_holds _ h fun _ hu => setClockOrder_books h hu
  | .ratingRelease => settlePage_books (releaseFirst_books h)
  | .pageComplete => pageComplete_books h
  | .ticketSlotReadComplete state => settlePage_books (ticketSlotRead_books state h)

theorem effect_books (c : Instr) (s : State) (h : bookingsLawful s) : bookingsLawful (effect c s) :=
  effect_keeps h (hardReset_books s) (fun _ => resetRelease_books _ h) (fun _ => liveEffect_books h) c

theorem softReset_run (cut : CutOff) (s : State) : runLawful (softReset cut s) := by
  have e := softReset_view cut s
  simp only [runView, Prod.mk.injEq] at e
  simp [runLawful, e]

theorem ctrlWrite_run (value : Word) (cut : CutOff) {s : State} (h : runLawful s) : runLawful (ctrlWrite value cut s) := by
  have hm : runLawful (if value.getLsbD 15 then modeWrite (value.extractLsb' 4 2) (value.extractLsb' 8 6) s else s) := by
    split
    · exact modeWrite_run _ _ h
    · exact h
  simp only [ctrlWrite, ctrlCommand]
  split
  · exact startCommand_run hm
  split
  · exact haltCommand_run hm
  split
  · exact softReset_run _ _
  · exact hm

theorem registerWrite_run (r : Register) (enables : BitVec 4) (value : Word) (cut : CutOff) {s : State}
    (h : runLawful s) : runLawful (registerWrite r enables value cut s) := by
  simp only [registerWrite]
  split
  · exact h
  · cases r with
    | ctrl => exact ctrlWrite_run value cut h
    | areaLo => exact areaWrite_run false value h
    | areaHi => exact areaWrite_run true value h
    | order => exact orderEndWrite_run value h
    | flags => exact flagsWrite_run value h
    | nextAlarm => exact nextAlarmRegister_run value h
    | status => exact h
    | minute => exact h

/-- An order that its owning block has been handed and has not taken is in flight in RUNNING. -/
theorem running_of_dispatched {s : State} {o : Order} (h : runLawful s) (hu : s.orders.unit = .acting o .dispatched) :
    s.link.run = .running := by
  obtain ⟨-, -, -, -, orders, -⟩ := h
  exact (orders o .dispatched hu).resolve_left nofun

/-- R9, R12, R13, R15: every command keeps the law while RESETN is high. -/
theorem liveEffect_run {s : State} (h : runLawful s) : ∀ c, runLawful (liveEffect c s)
  | .start => startCommand_run h
  | .halt => haltCommand_run h
  | .softReset _ _ _ => softReset_run _ _
  | .modeWrite mode spotlight => modeWrite_run mode spotlight h
  | .areaWrite high value => areaWrite_run high value h
  | .orderEndWrite value => orderEndWrite_run value h
  | .flagsRead enables => flagsRead_run enables h
  | .flagsWrite value => flagsWrite_run value h
  | .ack item pop => nextAlarmWrite_run true false pop item h
  | .push item ack pop => nextAlarmWrite_run ack true pop item h
  | .pop => nextAlarmWrite_run false false true 0 h
  | .registerWrite register enables value => registerWrite_run register.register enables value register.cut h
  | .hardReset => h
  | .resetRelease _ => h
  | .secrefPulse instant order => secrefPulse_run instant order h
  | .secrefTimeout order => secrefTimeout_run order h
  | .ownTick order => ownTick_run order h
  | .relockTimeout => run_congr h (by simp [liveEffect])
  | .framerefPulse instant => framerefPulse_run instant h
  | .framerefTimeout => framerefTimeout_run h
  | .minuteBoundary _ => minuteBoundary_run _ _ _ _ h
  | .receiverObservation port seen => receiverObservation_run port seen h
  | .lossOfLightEdge port => lossOfLight_run port h
  | .holdOffReached port => holdOffReached_run port h
  | .restoreTimerExpiry port => restoreExpired_run port h
  | .busFault after => busFaultAt_run after h
  | .completionTimeout after => busFaultAt_run after h
  | .headerReadComplete bytes => headerReadComplete_run bytes h
  | .identityWriteComplete => identityWriteComplete_run h
  | .orderTaken => takeEntry_run h
  | .entryReadComplete bytes => entryRead_run bytes h
  | .book => takeOrder_holds _ h fun o hu => bookOrder_run o h (running_of_dispatched h hu)
  | .bookRecordRead bytes => settlePage_run (bookRecordRead_run bytes h)
  | .cancel => takeOrder_holds _ h fun o hu => cancelOrder_run o h (running_of_dispatched h hu)
  | .extend => takeOrder_holds _ h fun o hu => extendOrder_run o h (running_of_dispatched h hu)
  | .switch => takeOrder_holds _ h fun o _ => switchOrder_run o h
  | .setLeg => takeOrder_holds _ h fun o _ => setLegOrder_run o h
  | .setPort => takeOrder_holds _ h fun o _ => setPortOrder_run o h
  | .readPort => takeOrder_holds _ h fun o _ => readPortOrder_run o h
  | .loadTariff => takeOrder_holds _ h fun o hu => loadTariffOrder_run o h (running_of_dispatched h hu)
  | .tariffSegmentRead bytes => tariffSegmentRead_run bytes h
  | .latchAccount => takeOrder_holds _ h fun o _ => latchAccountOrder_run o h
  | .closeMatch => takeOrder_holds _ h fun o hu => closeMatchOrder_run o h (running_of_dispatched h hu)
  | .setClock => takeOrder_holds _ h fun o _ => setClockOrder_run o h
  | .ratingRelease => settlePage_run (releaseFirst_run h)
  | .pageComplete => pageComplete_run h
  | .ticketSlotReadComplete state => settlePage_run (ticketSlotRead_run state h)

theorem effect_run (c : Instr) (s : State) (h : runLawful s) : runLawful (effect c s) :=
  effect_keeps h (hardReset_run s) (fun _ => resetRelease_run _ h) (fun _ => liveEffect_run h) c

/-- Settles O6, from the law of every command. -/
theorem alarmLawKept : Obligations.AlarmLawKept :=
  fun _ _ => step_keeps (fun _ _ h => h) effect_alarm

/-- Settles O8, from the law of every command. -/
theorem timelineLawKept : Obligations.TimelineLawKept :=
  fun _ _ => step_keeps (fun _ _ h => h) effect_books

/-- Settles O9, from the law of every command. -/
theorem portsLawKept : Obligations.PortsLawKept :=
  fun _ _ => step_keeps (fun _ _ h => h) effect_ports

/-- Settles O10, from the law of every command. -/
theorem rowLawKept : Obligations.RowLawKept :=
  fun _ _ => step_keeps (fun _ _ h => h) effect_rows

/-- Settles O12, from the law of every command. -/
theorem clockLawKept : Obligations.ClockLawKept :=
  fun _ _ => step_keeps (fun _ _ h => h) effect_clock

end Sys2Proof.Machine
end

section
/-! ### The fatal state, the area base and RESETN through every command -/

namespace Sys2Proof.Machine

/-- Only the two commands of the reset pin move RESETN. -/
theorem liveEffect_resetn (c : Instr) (s : State) : (liveEffect c s).resetn = s.resetn := by
  cases c with
  | book => exact takeOrder_keeps State.resetn _ (by simp) s
  | cancel => exact takeOrder_keeps State.resetn _ (by simp) s
  | extend => exact takeOrder_keeps State.resetn _ (by simp) s
  | switch => exact takeOrder_keeps State.resetn _ (by simp) s
  | setLeg => exact takeOrder_keeps State.resetn _ (by simp) s
  | setPort => exact takeOrder_keeps State.resetn _ (by simp) s
  | readPort => exact takeOrder_keeps State.resetn _ (by simp) s
  | loadTariff => exact takeOrder_keeps State.resetn _ (by simp) s
  | latchAccount => exact takeOrder_keeps State.resetn _ (by simp) s
  | closeMatch => exact takeOrder_keeps State.resetn _ (by simp) s
  | setClock => exact takeOrder_keeps State.resetn _ (by simp) s
  | _ => simp [liveEffect]

/-- R15: in the fatal state a register write that is no SOFT RESET leaves the part silent. -/
theorem registerWrite_silent (r : Register) (enables : BitVec 4) (value : Word) (cut : CutOff) {l : List LinkOp}
    {s : State} (hc : r = .ctrl → value.extractLsb' 0 2 ≠ 3) (h : silentFrom l s) :
    silentFrom l (registerWrite r enables value cut s) := by
  simp only [registerWrite]
  split
  · exact h
  · cases r with
    | ctrl =>
      have hm : silentFrom l (if value.getLsbD 15 then modeWrite (value.extractLsb' 4 2) (value.extractLsb' 8 6) s else s) := by
        split
        · exact modeWrite_silent _ _ h
        · exact h
      simp only [ctrlWrite, ctrlCommand, if_neg (hc rfl)]
      split
      · exact startCommand_silent hm
      split
      · exact haltCommand_silent hm
      · exact hm
    | areaLo => exact areaWrite_silent false value h
    | areaHi => exact areaWrite_silent true value h
    | order => exact orderEndWrite_silent value h
    | flags => exact flagsWrite_silent value h
    | nextAlarm => exact nextAlarmRegister_silent value h
    | status => exact h
    | minute => exact h

/-- R15: in the fatal state every command that is no SOFT RESET leaves the part silent. -/
theorem liveEffect_silent {l : List LinkOp} {s : State} (h : silentFrom l s) :
    ∀ c : Instr, (∀ p o a, c ≠ .softReset p o a) →
      (∀ e v cut, c = .registerWrite ⟨.ctrl, cut⟩ e v → v.extractLsb' 0 2 ≠ 3) → silentFrom l (liveEffect c s)
  | .start, _, _ => startCommand_silent h
  | .halt, _, _ => haltCommand_silent h
  | .softReset p o a, hs, _ => absurd rfl (hs p o a)
  | .modeWrite mode spotlight, _, _ => modeWrite_silent mode spotlight h
  | .areaWrite high value, _, _ => areaWrite_silent high value h
  | .orderEndWrite value, _, _ => orderEndWrite_silent value h
  | .flagsRead enables, _, _ => flagsRead_silent enables h
  | .flagsWrite value, _, _ => flagsWrite_silent value h
  | .ack item pop, _, _ => nextAlarmWrite_silent true false pop item h
  | .push item ack pop, _, _ => nextAlarmWrite_silent ack true pop item h
  | .pop, _, _ => nextAlarmWrite_silent false false true 0 h
  | .registerWrite register enables value, _, hc =>
    registerWrite_silent _ enables value _ (fun e => hc enables value register.cut (by rw [← e])) h
  | .hardReset, _, _ => h
  | .resetRelease _, _, _ => h
  | .secrefPulse instant order, _, _ => secrefPulse_silent instant order h
  | .secrefTimeout order, _, _ => secrefTimeout_silent order h
  | .ownTick order, _, _ => ownTick_silent order h
  | .relockTimeout, _, _ => silent_congr h (by simp [liveEffect])
  | .framerefPulse instant, _, _ => framerefPulse_silent instant h
  | .framerefTimeout, _, _ => framerefTimeout_silent h
  | .minuteBoundary _, _, _ => minuteBoundary_silent _ _ _ _ h
  | .receiverObservation port seen, _, _ => receiverObservation_silent port seen h
  | .lossOfLightEdge port, _, _ => lossOfLight_silent port h
  | .holdOffReached port, _, _ => holdOffReached_silent port h
  | .restoreTimerExpiry port, _, _ => restoreExpired_silent port h
  | .busFault after, _, _ => busFaultAt_silent after h
  | .completionTimeout after, _, _ => busFaultAt_silent after h
  | .headerReadComplete bytes, _, _ => headerReadComplete_silent bytes h
  | .identityWriteComplete, _, _ => identityWriteComplete_silent h
  | .orderTaken, _, _ => takeEntry_silent h
  | .entryReadComplete bytes, _, _ => entryRead_silent bytes h
  | .book, _, _ => takeOrder_holds _ h fun o _ => bookOrder_silent o h
  | .bookRecordRead bytes, _, _ => settlePage_silent (bookRecordRead_silent bytes h)
  | .cancel, _, _ => takeOrder_holds _ h fun o _ => cancelOrder_silent o h
  | .extend, _, _ => takeOrder_holds _ h fun o _ => extendOrder_silent o h
  | .switch, _, _ => takeOrder_holds _ h fun o _ => switchOrder_silent o h
  | .setLeg, _, _ => takeOrder_holds _ h fun o _ => setLegOrder_silent o h
  | .setPort, _, _ => takeOrder_holds _ h fun o _ => setPortOrder_silent o h
  | .readPort, _, _ => takeOrder_holds _ h fun o _ => readPortOrder_silent o h
  | .loadTariff, _, _ => takeOrder_holds _ h fun o _ => loadTariffOrder_silent o h
  | .tariffSegmentRead bytes, _, _ => tariffSegmentRead_silent bytes h
  | .latchAccount, _, _ => takeOrder_holds _ h fun o _ => latchAccountOrder_silent o h
  | .closeMatch, _, _ => takeOrder_holds _ h fun o _ => closeMatchOrder_silent o h
  | .setClock, _, _ => takeOrder_holds _ h fun o _ => setClockOrder_silent o h
  | .ratingRelease, _, _ => settlePage_silent (releaseFirst_silent h)
  | .pageComplete, _, _ => pageComplete_silent h
  | .ticketSlotReadComplete state, _, _ => settlePage_silent (ticketSlotRead_silent state h)

/-- Settles O15: while RESETN is high the return of the reset pin changes nothing, and every other command leaves the part
silent. -/
theorem fatalPartIsSilent : Obligations.FatalPartIsSilent := by
  intro l c rest s t h hr hp hh hs hc ht
  have hq : silentFrom l { s with pending := rest } := h
  simp only [step, hp] at ht
  by_cases hi : ∃ i, c = .resetRelease i
  · obtain ⟨i, rfl⟩ := hi
    have e : resetRelease i { s with pending := rest } = { s with pending := rest } := if_pos hr
    rw [exec_eq_effect, effect, e] at ht
    exact Host.Outcome.next.inj ht ▸ ⟨hq, hr⟩
  · rw [exec_live (s := { s with pending := rest }) hr hh fun i e => hi ⟨i, e⟩] at ht
    exact Host.Outcome.next.inj ht ▸ ⟨liveEffect_silent hq c hs hc, (liveEffect_resetn c _).trans hr⟩

/-! ### The area base (R6) -/

/-- R6: the area base with one of its halves written, as a number. -/
theorem areaWith_toNat (high : Bool) (value : Word) (area : Address) : (areaWith high value area).toNat =
    if high then value.toNat * 2 ^ 32 + area.toNat % 2 ^ 32
    else area.toNat / 2 ^ 32 * 2 ^ 32 + value.toNat / 2 ^ 12 * 2 ^ 12 := by
  have join : ∀ (m : Nat) (a b : Nat), b < 2 ^ m → a <<< m ||| b = a * 2 ^ m + b := fun m a b h => by
    rw [← Nat.shiftLeft_add_eq_or_of_lt h, Nat.shiftLeft_eq]
  have hv := value.isLt
  have ha := area.isLt
  cases high
  · simp only [areaWith, Bool.false_eq_true, if_false, BitVec.toNat_append, BitVec.extractLsb'_toNat,
      show (0 : BitVec 12).toNat = 0 from rfl, Nat.or_zero, Nat.shiftRight_eq_div_pow, Nat.shiftLeft_eq]
    rw [← Nat.shiftLeft_eq, join 32 _ _ (by omega)]
    omega
  · simp only [areaWith, if_true, BitVec.toNat_append, BitVec.extractLsb'_toNat, Nat.shiftRight_zero]
    rw [join 32 _ _ (by omega)]

theorem aligned_iff (area : Address) : area.extractLsb' 0 12 = 0 ↔ area.toNat % 2 ^ 12 = 0 := by
  rw [← BitVec.toNat_inj]
  simp [BitVec.extractLsb'_toNat]

theorem areaWith_aligned (high : Bool) (value : Word) {area : Address} (h : area.extractLsb' 0 12 = 0) :
    (areaWith high value area).extractLsb' 0 12 = 0 := by
  rw [aligned_iff] at h ⊢
  rw [areaWith_toNat]
  cases high <;> simp <;> omega

theorem areaWrite_aligned (high : Bool) (value : Word) {s : State} (h : areaAligned s) :
    areaAligned (areaWrite high value s) := by
  simp only [areaWrite]
  split
  · exact areaWith_aligned high value h
  · exact h

theorem registerWrite_aligned (r : Register) (enables : BitVec 4) (value : Word) (cut : CutOff) {s : State}
    (h : areaAligned s) : areaAligned (registerWrite r enables value cut s) := by
  simp only [registerWrite]
  split
  · exact h
  · cases r with
    | areaLo => exact areaWrite_aligned false value h
    | areaHi => exact areaWrite_aligned true value h
    | _ => simpa [areaAligned] using h

/-- R6: every command but a write of the area base leaves it. -/
theorem liveEffect_aligned {s : State} (h : areaAligned s) (c : Instr) : areaAligned (liveEffect c s) := by
  cases c with
  | areaWrite high value => exact areaWrite_aligned high value h
  | registerWrite register enables value => exact registerWrite_aligned _ enables value _ h
  | book => exact takeOrder_holds _ h fun o _ => by simpa [areaAligned] using h
  | cancel => exact takeOrder_holds _ h fun o _ => by simpa [areaAligned] using h
  | extend => exact takeOrder_holds _ h fun o _ => by simpa [areaAligned] using h
  | switch => exact takeOrder_holds _ h fun o _ => by simpa [areaAligned] using h
  | setLeg => exact takeOrder_holds _ h fun o _ => by simpa [areaAligned] using h
  | setPort => exact takeOrder_holds _ h fun o _ => by simpa [areaAligned] using h
  | readPort => exact takeOrder_holds _ h fun o _ => by simpa [areaAligned] using h
  | loadTariff => exact takeOrder_holds _ h fun o _ => by simpa [areaAligned] using h
  | latchAccount => exact takeOrder_holds _ h fun o _ => by simpa [areaAligned] using h
  | closeMatch => exact takeOrder_holds _ h fun o _ => by simpa [areaAligned] using h
  | setClock => exact takeOrder_holds _ h fun o _ => by simpa [areaAligned] using h
  | _ => simpa [areaAligned, liveEffect] using h

/-- A hard reset leaves the area base 0, and its release does not move it. -/
theorem hardReset_aligned (s : State) : areaAligned (hardReset s) := by
  simp [areaAligned, hardReset, Link.hardReset]

theorem resetRelease_aligned (instant : Nat) {s : State} (h : areaAligned s) : areaAligned (resetRelease instant s) := by
  simp only [resetRelease]
  split
  · exact h
  · simpa [areaAligned, scheduleOwn] using hardReset_aligned s

/-- Settles O14, from what the commands make of the area base. -/
theorem areaStaysAligned : Obligations.AreaStaysAligned :=
  fun _ _ => step_keeps (fun _ _ h => h) fun c s h =>
    effect_keeps h (hardReset_aligned s) (fun _ => resetRelease_aligned _ h) (fun _ => liveEffect_aligned h) c

end Sys2Proof.Machine
end

section
/-! ### The register window: what its reads show and what its writes do (R4 to R8, R126, R170, R171) -/

namespace Sys2Proof.Machine

/-! ### The mode fields and the flags -/

theorem modeWritten_mode (mode : BitVec 2) (spotlight : BitVec 6) (a : Alarm) :
    (modeWritten mode spotlight a).mode =
      if mode = 0 then .fixed else if mode = 1 then .spotlight else if mode = 2 then .inhibit else a.mode := by
  simp only [modeWritten, rankingModeOf]
  split
  · rfl
  split
  · rfl
  split
  · rfl
  · rfl

theorem modeWritten_spotlight (mode : BitVec 2) (spotlight : BitVec 6) (a : Alarm) :
    (modeWritten mode spotlight a).spotlight.val =
      if spotlight.toNat ≤ 50 then spotlight.toNat else a.spotlight.val := by
  by_cases h : spotlight.toNat ≤ 50
  · simp [modeWritten, h, Nat.lt_succ_of_le h]
  · simp [modeWritten, h, show ¬spotlight.toNat < 51 by omega]

/-- Settles O16: the two fields are taken one by one, and ALARM follows the new mode. -/
theorem modeWriteTaken : Obligations.ModeWriteTaken := by
  intro mode spotlight s hr
  refine ⟨modeWritten mode spotlight s.alarm, ?_, modeWritten_mode .., modeWritten_spotlight .., rfl, rfl⟩
  rw [exec_live hr (by simp) (by simp)]
  exact congrArg _ (setAlarm_eq _ s)

/-- Flags that only fall send no message (R172). -/
theorem messages_of_subset {f g : BitVec 7} (h : f = 0 → g = 0) : messages f g = [] :=
  if_neg fun ⟨hf, hg⟩ => hg (h hf)

theorem readFlags_toNat (s : State) : (readFlags s).toNat = s.link.flags.toNat + s.link.permissions.toNat * 2 ^ 16 := by
  have flags := s.link.flags.isLt
  have permissions := s.link.permissions.isLt
  simp only [readFlags, packed, List.map_cons, List.map_nil, List.sum_cons, List.sum_nil, BitVec.toNat_ofNat]
  omega

theorem extractLsb'_eq_ofNat (w : Word) (low width : Nat) :
    w.extractLsb' low width = BitVec.ofNat width (w.toNat / 2 ^ low) := by
  rw [← Nat.shiftRight_eq_div_pow]
  rfl

theorem addressedBytes_readFlags (enables : BitVec 4) (s : State) :
    addressedBytes enables (readFlags s) = (List.finRange 4).filterMap fun k =>
      if enables.getLsbD k.val then
        some (BitVec.ofNat 8 ((s.link.flags.toNat + s.link.permissions.toNat * 2 ^ 16) / 2 ^ (8 * k.val)))
      else none := by
  simp only [addressedBytes, extractLsb'_eq_ofNat, readFlags_toNat]

/-- Settles O18: the flags a read leaves are some of those that stood, so it sends no message. -/
theorem flagsReadTaken : Obligations.FlagsReadTaken := by
  intro enables s hr
  have quiet : messages s.link.flags (alarmOnly s.link.flags) = [] :=
    messages_of_subset fun h => by simp [alarmOnly, h]
  rw [exec_live hr (by simp) (by simp), liveEffect, flagsRead, addressedBytes_readFlags]
  split
  · simp only [setFlags_eq, withFlags, quiet, List.append_nil]
    rfl
  · rfl

/-! ### FLAGS_WRITE -/

theorem withAlarmLevel_getLsbD_other (f : BitVec 7) (level : Bool) {k : Nat} (h : k ≠ 3) (hk : k < 7) :
    (withAlarmLevel f level).getLsbD k = f.getLsbD k := by
  have bit : ∀ j : Fin 7, j.val ≠ 3 → (flagBit .alarm).getLsbD j.val = false := by decide
  have alarm := bit ⟨k, hk⟩ h
  dsimp only at alarm
  cases level with
  | false =>
    simp only [withAlarmLevel, Bool.false_eq_true, if_false, BitVec.getLsbD_and, BitVec.getLsbD_not, alarm, Bool.not_false,
      Bool.and_true, decide_eq_true hk]
  | true => simp [withAlarmLevel, alarm]

theorem withAlarmLevel_getLsbD_alarm (f : BitVec 7) (level : Bool) : (withAlarmLevel f level).getLsbD 3 = level := by
  have bit : (flagBit .alarm).getLsbD 3 = true := by decide
  cases level with
  | false => simp [withAlarmLevel, bit]
  | true => simp [withAlarmLevel, bit]

theorem permitted_alarm (s : State) : permitted .alarm s = s.link.permissions.getLsbD 3 := by
  have all : ∀ p : BitVec 7, (p &&& 8 != 0) = p.getLsbD 3 := by decide
  exact all s.link.permissions

theorem alarmRaised_iff (a : Alarm) : alarmRaised a = true ↔ a.mode ≠ .inhibit ∧ ∃ i, visibleItem a i := by
  simp [alarmRaised, ← itemVisible_iff]

/-- Settles O19: the flags with the new permissions, and ALARM at the level that they give it. -/
theorem flagsWriteTaken : Obligations.FlagsWriteTaken := by
  intro value s hr
  let t : State := { s with link := { s.link with permissions := value.extractLsb' 16 7 } }
  refine ⟨withAlarmLevel (s.link.flags &&& value.extractLsb' 16 7) (alarmLevel t), ?_, fun k hk => ?_, ?_⟩
  · rw [exec_live hr (by simp) (by simp)]
    exact congrArg _ (setFlags_eq _ t)
  · rw [withAlarmLevel_getLsbD_other _ _ hk k.isLt, BitVec.getLsbD_and, BitVec.getLsbD_extractLsb', decide_eq_true k.isLt,
      Bool.true_and]
  · have permission : permitted .alarm t = value.getLsbD 19 := by
      rw [permitted_alarm]
      exact BitVec.getLsbD_extractLsb' ..
    rw [withAlarmLevel_getLsbD_alarm, alarmLevel, permission, Bool.and_eq_true, alarmRaised_iff, and_assoc]
    exact and_congr_right fun _ => and_comm

/-! ### AREA and ORDER -/

theorem areaWith_eq (high : Bool) (value : Word) (area : Address) :
    areaWith high value area = BitVec.ofNat 64 (if high then value.toNat * 2 ^ 32 + area.toNat % 2 ^ 32
      else area.toNat / 2 ^ 32 * 2 ^ 32 + value.toNat / 2 ^ 12 * 2 ^ 12) := by
  rw [← areaWith_toNat, BitVec.ofNat_toNat, BitVec.setWidth_eq]

/-- Settles O20: the base is taken where both conditions of R6 hold. -/
theorem areaWriteTaken : Obligations.AreaWriteTaken := by
  intro high value s hr
  rw [exec_live hr (by simp) (by simp), liveEffect, areaWrite]
  by_cases h : s.link.run = .dormant ∧ s.link.start = .idle
  · rw [if_pos h, if_pos ⟨h.1, by simp [startInProgress, h.2]⟩, areaWith_eq]
  · rw [if_neg h, if_neg fun ⟨hrun, hstart⟩ => h ⟨hrun, by simpa [startInProgress] using hstart⟩]

/-- R9: a part in RUNNING and not fatal reads host memory. -/
theorem readsOpen_of_running {s : State} (h : runLawful s) (hrun : s.link.run = .running) : readsOpen s = true := by
  have fatal : s.link.fatal = .none := by
    cases hf : s.link.fatal with
    | none => rfl
    | bus => exact absurd (h.1 hf).1 (by simp [hrun])
  simp [readsOpen, fatal, hrun]

/-- R18: in a lawful state the unit takes an entry exactly as the manual says. -/
theorem takeEntry_taken {s : State} (h : s.link.run = .running → readsOpen s = true) : takeEntry s = entryTaken s := by
  by_cases hm : mayTake s = true
  · obtain ⟨hrun, hwait, hunit, hnext⟩ : s.link.run = .running ∧ s.link.haltWaiting = false ∧ s.orders.unit = .idle ∧
        s.orders.next ≠ s.orders.endIndex := by
      simpa [mayTake, and_assoc] using hm
    rw [takeEntry, if_pos hm, entryTaken, if_pos ⟨hrun, hwait, hunit, hnext⟩, issueRead, if_pos (h hrun)]
    rfl
  · have none : ¬(s.link.run = .running ∧ s.link.haltWaiting = false ∧ s.orders.unit = .idle ∧
        s.orders.next ≠ s.orders.endIndex) := by
      simpa [mayTake, and_assoc] using hm
    rw [takeEntry, if_neg hm, entryTaken, if_neg none]

/-- Settles O21: a write of END leaves the conditions under which reads are open. -/
theorem orderEntryTaken : Obligations.OrderEntryTaken := by
  intro s hr lawful
  refine ⟨fun value => ?_, ?_⟩
  · have field : value.extractLsb' 8 5 = BitVec.ofNat 5 (value.toNat / 2 ^ 8 % 2 ^ 5) := by
      rw [extractLsb'_eq_ofNat, ← BitVec.toNat_inj]
      simp
    rw [exec_live hr (by simp) (by simp), liveEffect, orderEndWrite, field]
    refine congrArg _ (takeEntry_taken fun hrun => ?_)
    exact readsOpen_of_running lawful hrun
  · rw [exec_live hr (by simp) (by simp)]
    exact congrArg _ (takeEntry_taken (readsOpen_of_running lawful))

/-! ### REGISTER_WRITE -/

/-- A NEXT_ALARM write with no command leaves the alarm state (R128). -/
theorem nextAlarmWrite_none (item : BitVec 6) (s : State) :
    nextAlarmWrite false false false item s = withAlarm s.alarm s :=
  setAlarm_eq _ s

/-- R128: without ACK and PUSH the item field of a POP is not read. -/
theorem nextAlarmWrite_pop (item : BitVec 6) (s : State) :
    nextAlarmWrite false false true item s = nextAlarmWrite false false true 0 s := rfl

theorem registerWrite_nextAlarm (v : Word) (cut : CutOff) (s : State) : registerWrite .nextAlarm 15 v cut s =
    nextAlarmWrite (v.getLsbD 31) (v.getLsbD 8) (v.getLsbD 9) (v.extractLsb' 0 6) s := rfl

/-- R4: a write without all byte enables, or to a register that is only read, is ignored. -/
theorem registerWrite_ignored {r : Register} {enables : BitVec 4} (h : enables ≠ 15 ∨ r = .status ∨ r = .minute) (v : Word)
    (cut : CutOff) (s : State) : registerWrite r enables v cut s = s := by
  by_cases he : enables = 15
  · obtain rfl | rfl := h.resolve_left fun hne => hne he
    · exact ite_self s
    · exact ite_self s
  · exact if_pos he

/-- R5: a CTRL write takes its mode fields first and its command second. -/
theorem registerWrite_ctrl (v : Word) (cut : CutOff) (s : State) : registerWrite .ctrl 15 v cut s =
    ctrlCommand (v.extractLsb' 0 2) cut
      (if v.getLsbD 15 then modeWrite (v.extractLsb' 4 2) (v.extractLsb' 8 6) s else s) := rfl

/-- Settles O22: register by register, from the word's fields. -/
theorem registerWriteTaken : Obligations.RegisterWriteTaken := by
  intro enables v cut s hr
  have ran : ∀ (r : Register) (e : BitVec 4), exec (.registerWrite ⟨r, cut⟩ e v) s = .next (registerWrite r e v cut s) :=
    fun r e => exec_live hr (by simp) (by simp)
  refine ⟨fun r h => ?_, ?_, ?_, ?_, ?_, fun hp => ?_, fun hp ha => ?_, fun hp ha hq => ?_, fun hp ha hq => ?_, ?_⟩
  · rw [ran, registerWrite_ignored h]
  · rw [ran, exec_live hr (by simp) (by simp)]; rfl
  · rw [ran, exec_live hr (by simp) (by simp)]; rfl
  · rw [ran, exec_live hr (by simp) (by simp)]; rfl
  · rw [ran, exec_live hr (by simp) (by simp)]; rfl
  · rw [ran, exec_live hr (by simp) (by simp), registerWrite_nextAlarm, hp, liveEffect]
  · rw [ran, exec_live hr (by simp) (by simp), registerWrite_nextAlarm, hp, ha, liveEffect]
  · rw [ran, exec_live hr (by simp) (by simp), registerWrite_nextAlarm, hp, ha, hq, liveEffect, nextAlarmWrite_pop]
  · rw [ran, registerWrite_nextAlarm, hp, ha, hq, nextAlarmWrite_none]
  · refine ⟨modeWrite (v.extractLsb' 4 2) (v.extractLsb' 8 6) s, exec_live hr (by simp) (by simp), ?_⟩
    rw [ran, registerWrite_ctrl]
    generalize hw : (if v.getLsbD 15 = true then modeWrite (v.extractLsb' 4 2) (v.extractLsb' 8 6) s else s) = w
    have hrw : w.resetn = true := by
      rw [← hw]
      split
      · simpa using hr
      · exact hr
    rw [exec_live hrw (by simp) (by simp), exec_live hrw (by simp) (by simp), exec_live hrw (by simp) (by simp)]
    simp only [ctrlCommand, liveEffect]
    split
    · rfl
    split
    · rfl
    split
    · rfl
    · rfl

/-! ### STATUS, ORDER, CTRL, MINUTE and AREA -/

theorem boolCode_le (b : Bool) : boolCode b ≤ 1 := by cases b <;> decide

/-- A bit that shows a truth value. -/
theorem decide_boolCode (b : Bool) : decide (boolCode b = 1) = b := by cases b <;> decide

theorem runStateCode_le (x : RunState) : runStateCode x ≤ 2 := by cases x <;> decide

theorem secrefCode_eq (x : SecrefState) : secrefCode x = boolCode (x == .locked) := by cases x <;> decide

theorem framerefCode_eq (x : FramerefState) : framerefCode x = boolCode (x == .present) := by cases x <;> decide

theorem fatalCodeCode_eq (x : FatalCode) : fatalCodeCode x = if x = .bus then 1 else 0 := by cases x <;> decide

theorem startCodeCode_le (x : StartCode) : startCodeCode x ≤ 8 := by cases x <;> decide

theorem rankingModeCode_le (x : RankingMode) : rankingModeCode x ≤ 2 := by cases x <;> decide

theorem tariffStateCode_le (t : Tariffs) : tariffStateCode t ≤ 3 := by
  unfold tariffStateCode
  split <;> decide

theorem extractLsb'_eq_of_div_mod {w : Word} {low width : Nat} {x : BitVec width}
    (h : w.toNat / 2 ^ low % 2 ^ width = x.toNat) : w.extractLsb' low width = x :=
  BitVec.eq_of_toNat_eq ((extractLsb'_toNat_eq_div_mod w low width).trans h)

section
variable (s : State)

/-- R8: the fields of STATUS, one above another. -/
theorem readStatus_toNat : (readStatus s).toNat =
    runStateCode s.link.run + boolCode (s.clock.secref == .locked) * 2 ^ 2 + boolCode (s.clock.frameref == .present) * 2 ^ 3 +
      fatalCodeCode s.link.fatal * 2 ^ 4 + startCodeCode s.link.lastStart * 2 ^ 8 + tariffStateCode s.tariffs * 2 ^ 12 +
      boolCode s.tickets.blocked * 2 ^ 14 + boolCode s.link.haltWaiting * 2 ^ 15 + boolCode (startInProgress s) * 2 ^ 16 := by
  have run := runStateCode_le s.link.run
  have secref := boolCode_le (s.clock.secref == .locked)
  have frameref := boolCode_le (s.clock.frameref == .present)
  have fatal : fatalCodeCode s.link.fatal ≤ 1 := by rw [fatalCodeCode_eq]; split <;> decide
  have start := startCodeCode_le s.link.lastStart
  have tariff := tariffStateCode_le s.tariffs
  have blocked := boolCode_le s.tickets.blocked
  have halt := boolCode_le s.link.haltWaiting
  have progress := boolCode_le (startInProgress s)
  simp only [readStatus, packed, List.map_cons, List.map_nil, List.sum_cons, List.sum_nil, BitVec.toNat_ofNat,
    secrefCode_eq, framerefCode_eq]
  omega

/-- R8: the fields of STATUS read as the codes they show. -/
theorem readStatus_fields :
    (readStatus s).toNat / 2 ^ 0 % 2 ^ 2 = runStateCode s.link.run ∧
    (readStatus s).toNat / 2 ^ 2 % 2 = boolCode (s.clock.secref == .locked) ∧
    (readStatus s).toNat / 2 ^ 3 % 2 = boolCode (s.clock.frameref == .present) ∧
    (readStatus s).toNat / 2 ^ 4 % 2 ^ 4 = fatalCodeCode s.link.fatal ∧
    (readStatus s).toNat / 2 ^ 8 % 2 ^ 4 = startCodeCode s.link.lastStart ∧
    (readStatus s).toNat / 2 ^ 12 % 2 ^ 2 = tariffStateCode s.tariffs ∧
    (readStatus s).toNat / 2 ^ 14 % 2 = boolCode s.tickets.blocked ∧
    (readStatus s).toNat / 2 ^ 15 % 2 = boolCode s.link.haltWaiting ∧
    (readStatus s).toNat / 2 ^ 16 % 2 = boolCode (startInProgress s) := by
  have run := runStateCode_le s.link.run
  have secref := boolCode_le (s.clock.secref == .locked)
  have frameref := boolCode_le (s.clock.frameref == .present)
  have fatal : fatalCodeCode s.link.fatal ≤ 1 := by rw [fatalCodeCode_eq]; split <;> decide
  have start := startCodeCode_le s.link.lastStart
  have tariff := tariffStateCode_le s.tariffs
  have blocked := boolCode_le s.tickets.blocked
  have halt := boolCode_le s.link.haltWaiting
  have progress := boolCode_le (startInProgress s)
  rw [readStatus_toNat]
  omega

theorem readCtrl_toNat : (readCtrl s).toNat = rankingModeCode s.alarm.mode * 2 ^ 4 + s.alarm.spotlight.val * 2 ^ 8 := by
  have mode := rankingModeCode_le s.alarm.mode
  have spotlight := s.alarm.spotlight.isLt
  simp only [readCtrl, packed, List.map_cons, List.map_nil, List.sum_cons, List.sum_nil, BitVec.toNat_ofNat]
  omega

/-- R5: the command bits and MODE_WRITE read 0, and the two fields as they stand. -/
theorem readCtrl_fields :
    (readCtrl s).toNat / 2 ^ 0 % 2 ^ 2 = 0 ∧ (readCtrl s).toNat / 2 ^ 4 % 2 ^ 2 = rankingModeCode s.alarm.mode ∧
    (readCtrl s).toNat / 2 ^ 8 % 2 ^ 6 = s.alarm.spotlight.val ∧ (readCtrl s).toNat / 2 ^ 15 % 2 = 0 := by
  have mode := rankingModeCode_le s.alarm.mode
  have spotlight := s.alarm.spotlight.isLt
  rw [readCtrl_toNat]
  omega

theorem readOrder_toNat : (readOrder s).toNat = s.orders.next.toNat + s.orders.endIndex.toNat * 2 ^ 8 := by
  have next := s.orders.next.isLt
  have endIndex := s.orders.endIndex.isLt
  simp only [readOrder, packed, List.map_cons, List.map_nil, List.sum_cons, List.sum_nil, BitVec.toNat_ofNat]
  omega

theorem readOrder_fields : (readOrder s).extractLsb' 0 5 = s.orders.next ∧ (readOrder s).extractLsb' 8 5 = s.orders.endIndex := by
  have next := s.orders.next.isLt
  have endIndex := s.orders.endIndex.isLt
  constructor
  · apply extractLsb'_eq_of_div_mod
    rw [readOrder_toNat]
    omega
  · apply extractLsb'_eq_of_div_mod
    rw [readOrder_toNat]
    omega

/-- R6: the two halves of the area base. -/
theorem readArea_toNat : (readRegister .areaLo s).toNat = s.link.area.toNat % 2 ^ 32 ∧
    (readRegister .areaHi s).toNat = s.link.area.toNat / 2 ^ 32 := by
  have area := s.link.area.isLt
  simp only [readRegister, BitVec.extractLsb'_toNat, Nat.shiftRight_eq_div_pow]
  omega

/-- R6: with an aligned base bits 11:0 of AREA_LO read 0. -/
theorem readAreaLo_aligned (h : areaAligned s) : (readRegister .areaLo s).extractLsb' 0 12 = 0 ∧
    (readRegister .areaLo s).extractLsb' 12 20 = s.link.area.extractLsb' 12 20 := by
  rw [areaAligned, aligned_iff] at h
  constructor
  · apply extractLsb'_eq_zero
    rw [(readArea_toNat s).1]
    omega
  · apply extractLsb'_eq_of_div_mod
    rw [(readArea_toNat s).1, BitVec.extractLsb'_toNat, Nat.shiftRight_eq_div_pow]
    omega

end

/-- Settles O24, field by field. -/
theorem statusReads : Obligations.StatusReads := by
  intro s
  obtain ⟨run, secref, frameref, fatal, lastStart, tariff, blocked, halt, progress⟩ := readStatus_fields s
  obtain ⟨command, mode, spotlight, write⟩ := readCtrl_fields s
  have bit : ∀ {w : Word} {k : Nat} {b : Bool}, w.toNat / 2 ^ k % 2 = boolCode b → w.getLsbD k = b := by
    intro w k b h
    rw [getLsbD_eq_decide_div_mod, h, decide_boolCode]
  refine ⟨extractLsb'_eq_of_div_mod ?_, bit secref, bit frameref, extractLsb'_eq_of_div_mod ?_,
    extractLsb'_eq_of_div_mod ?_, extractLsb'_eq_of_div_mod ?_, bit blocked, bit halt, ?_,
    (readOrder_fields s).1, (readOrder_fields s).2, extractLsb'_eq_zero command, extractLsb'_eq_of_div_mod ?_, ?_, ?_, rfl,
    (readArea_toNat s).1, (readArea_toNat s).2, readAreaLo_aligned s⟩
  · exact run.trans (by cases s.link.run <;> rfl)
  · exact fatal.trans (by cases s.link.fatal <;> rfl)
  · exact lastStart.trans (by cases s.link.lastStart <;> rfl)
  · exact tariff.trans (by unfold tariffStateCode; cases s.tariffs.current <;> cases s.tariffs.staged <;> rfl)
  · exact (bit progress).trans (by cases h : s.link.start <;> simp [startInProgress, h])
  · exact mode.trans (by cases s.alarm.mode <;> rfl)
  · exact (extractLsb'_toNat_eq_div_mod ..).trans spotlight
  · exact bit (b := false) write

end Sys2Proof.Machine
end

section
/-! ### The resets, START in DORMANT and HALT -/

namespace Sys2Proof.Machine

/-! ### RESETN -/

/-- Settles O3: every block is at its hard reset value by definition. -/
theorem hardResetState : Obligations.HardResetState := by
  intro s
  refine ⟨hardReset s, rfl, ?_⟩
  simp [hardReset, State.hardReset, Link.hardReset, OrderUnit.hardReset, Clock.hardReset, Store.hardReset, Row.hardReset,
    Alarm.hardReset, Tariffs.hardReset, Tickets.hardReset, deliveryOutput, accessesIdle]

/-- With no flag set and no permission given ALARM stays down, and nothing is sent. -/
theorem withAlarm_of_none {a : Alarm} {s : State} (hf : s.link.flags = 0) (hp : s.link.permissions = 0) :
    withAlarm a s = { s with alarm := a } := by
  have level : alarmLevel { s with alarm := a } = false := by simp [alarmLevel, permitted, hp]
  have flags : withAlarmLevel s.link.flags false = s.link.flags := by rw [hf]; decide
  rw [withAlarm, level, flags, withFlags, messages_of_subset id, List.append_nil]

/-- R118: item 48 at severity 2, and every other item at 0. -/
theorem items_reset : Alarm.hardReset.items.set (48 : Fin 51) (itemAt Alarm.hardReset.items[(48 : Fin 51)] 2) =
    State.reset.alarm.items := by
  apply Vector.ext
  intro i hi
  by_cases h : i = 48
  · subst h
    simp [State.reset, Alarm.hardReset, itemAt]
  · have other : (⟨i, hi⟩ : Fin 51) ≠ 48 := fun he => h (congrArg Fin.val he)
    simp [State.reset, Alarm.hardReset, other, Ne.symm h]

/-- R16, R31, R118: the part as RESETN returns high. -/
theorem resetRelease_low {s : State} (h : s.resetn = false) (instant : Nat) :
    resetRelease instant s = { State.reset with
      pending := s.pending
      link := { State.reset.link with log := s.link.log, answer := s.link.answer }
      clock := { State.reset.clock with nextOwn := some (instant + 1000000000) } } := by
  rw [resetRelease, if_neg (by simp [h]), setSeverity, setAlarm_eq, withAlarm_of_none rfl rfl]
  have items := items_reset
  simp only [scheduleOwn, hardReset, State.hardReset, State.reset, Config.second] at items ⊢
  rw [items]

theorem reportedItem_reset : reportedItem State.reset.alarm = some 48 := by decide +kernel

/-- Settles O4. -/
theorem resetReleaseState : Obligations.ResetReleaseState := by
  refine ⟨fun instant s => ⟨fun h => ?_, fun h => ?_⟩, fun c s hr hh hi => exec_low hr hh hi⟩
  · exact congrArg _ (if_pos h)
  · refine ⟨_, rfl, resetRelease_low h instant, ?_, ?_⟩
    · rw [resetRelease_low h instant]
      exact congrArg (Option.map Fin.val) reportedItem_reset
    · rw [resetRelease_low h instant]
      simp [State.reset]

/-! ### The state right after reset -/

/-- State.reset is the release of RESETN at instant 0. -/
theorem reset_eq_resetRelease : State.reset = resetRelease 0 (hardReset State.hardReset) := by
  rw [resetRelease_low rfl]
  rfl

/-- Whatever a hard reset establishes and its release keeps holds right after reset. -/
theorem holds_at_reset {P : State → Prop} (hard : ∀ s, P (hardReset s)) (release : ∀ i {s}, P s → P (resetRelease i s)) :
    P State.reset := by
  rw [reset_eq_resetRelease]
  exact release 0 (hard _)

theorem onAirBookings_reset : onAirBookings State.reset = [] := by
  simp [onAirBookings, ownerOf, State.reset, State.hardReset, Store.hardReset]

theorem sourceSeverity_reset (p : Fin 48) : sourceSeverity p State.reset = 0 := by
  simp [sourceSeverity, healthOf, State.reset, State.hardReset, Monitor.hardReset]

theorem reset_sourceItems : sourceItemsFollow State.reset := by
  intro p i hi
  have other : i ≠ 48 := fun h => by have := p.isLt; simp [h] at hi; omega
  rw [sourceSeverity_reset]
  simp [State.reset, other]

theorem reset_slots (n : Fin 1024) : State.reset.store.slots[n].state = .free := by
  simp [State.reset, State.hardReset, Store.hardReset, Slot.hardReset]

theorem reset_accounts (k : Fin 128) : State.reset.accounts[k] = Account.hardReset := by
  simp [State.reset, State.hardReset]

theorem reset_outstanding : outstanding State.reset = [] := rfl

theorem reset_closings : closingSlots State.reset = [] := rfl

theorem reset_accountsLawful : accountsLawful State.reset := by
  have closed : ∀ k : Fin 128, State.reset.accounts[k].isOpen ≠ true := fun k => by simp only [reset_accounts]; decide
  refine ⟨fun j _ h _ _ => absurd h (closed j), fun k => ?_, fun n h => absurd (reset_slots n) h,
    fun k h => absurd h (closed k), ?_⟩
  · rw [reset_accounts]
    decide
  · simp [closesLawful, reset_closings, reset_outstanding]

theorem cleared_meterLawful : meterLawful Meter.cleared := by
  refine ⟨by decide, by decide, by decide, fun b => ?_⟩
  cases b <;> decide

theorem reset_meters : metersLawful State.reset := fun n => by
  simpa [State.reset, State.hardReset, Tariffs.hardReset] using cleared_meterLawful

/-- Settles O5: the laws that every command keeps hold of the hard reset values and of their release, and the rest are read
off the state. -/
theorem lawsHoldAtReset : Obligations.LawsHoldAtReset := by
  obtain ⟨legs, monitors, tariff⟩ := holds_at_reset hardReset_ports resetRelease_ports
  exact ⟨holds_at_reset hardReset_alarm resetRelease_alarm, holds_at_reset hardReset_items resetRelease_items,
    reset_sourceItems, monitors, legs, tariff, holds_at_reset hardReset_rows resetRelease_rows,
    holds_at_reset hardReset_run resetRelease_run, holds_at_reset hardReset_aligned resetRelease_aligned,
    holds_at_reset hardReset_clock resetRelease_clock, reset_accountsLawful, reset_meters,
    holds_at_reset hardReset_books resetRelease_books,
    fun _ _ k => by simp [State.reset, State.hardReset, Link.hardReset]⟩

/-! ### START in DORMANT, and HALT -/

/-- Settles O25. -/
theorem startTakenInDormant : Obligations.StartTakenInDormant := by
  intro s hr hrun
  have ran : exec .start s = .next (startDormant s) := by
    rw [exec_live hr (by simp) (by simp), liveEffect, startCommand, hrun]
  refine ⟨fun hs => ?_, fun hs big => ?_, fun hs small => ?_⟩
  · rw [ran, startDormant, if_pos (by simpa [startInProgress] using hs)]
  · rw [ran, startDormant, if_neg (by simp [startInProgress, hs]), if_pos (show Config.addressEnd < _ + Config.areaBytes from big), ← hs]
    rfl
  · rw [ran, startDormant, if_neg (by simp [startInProgress, hs]),
      if_neg (show ¬Config.addressEnd < _ + Config.areaBytes from Nat.not_lt.mpr small)]
    rfl

/-- R9: entering HELD latches RUN, if permitted. -/
theorem enterHeld_eq (s : State) :
    enterHeld s = withLatched .run { s with link := { s.link with run := .held, pageDue := true } } := latch_eq _ _

/-- Settles O27. -/
theorem haltTaken : Obligations.HaltTaken := by
  intro s hr
  rw [exec_live hr (by simp) (by simp), liveEffect, haltCommand]
  refine ⟨fun hrun => ?_, fun hrun hunit => ?_, fun hrun hunit => ?_⟩
  · cases h : s.link.run with
    | running => exact absurd h hrun
    | dormant => rfl
    | held => rfl
  · simp only [hrun, if_neg hunit]
    rw [← hrun]
    rfl
  · simp only [hrun, if_pos hunit, enterHeld_eq]

end Sys2Proof.Machine
end

section
/-! ### Orders handed to their blocks: what each is refused with, and the short ones (chapters 2, 5, 6, 9, 10) -/

namespace Sys2Proof.Machine

/-! ### An order in ACTING -/

theorem linkOpen_congr {s u : State} (h : u.link = s.link) : linkOpen u = linkOpen s := by
  simp only [linkOpen, readsOpen, writesDropped, h]

theorem readsOpen_of_linkOpen {s : State} (h : linkOpen s = true) : readsOpen s = true := by
  simp only [linkOpen, Bool.and_eq_true] at h
  exact h.1

theorem linkFree_congr {s u : State} (hr : u.resetn = s.resetn) (h : u.link = s.link) (k : linkFree s) : linkFree u :=
  ⟨hr.trans k.1, (linkOpen_congr h).trans k.2.1, (congrArg Link.gate h).trans k.2.2⟩

section
variable {code : OrderCode} {o : Order} {s : State} (h : handed code o s)
include h

/-- R21: the owning block takes the order handed to it. -/
theorem takeOrder_handed (act : Order → State → State) : takeOrder code act s = act o s := by
  obtain ⟨-, hu, hc⟩ := h
  simp [takeOrder, orderFor, hu, hc]

/-- R24: the order is answered from a state u that its block has left with the link and the order unit as they were. -/
theorem handed_answered {c : Instr} {v u : State} {outcome : OutcomeCode} {result : List Byte} (hc : exec c s = .next v)
    (e : v = finishOrder outcome result u) (hl : u.link = s.link) (hu : u.orders = s.orders) :
    ∃ t, exec c s = .next t ∧ reported o.notify outcome result u t := by
  obtain ⟨⟨-, hopen, hgate⟩, hunit, -⟩ := h
  refine ⟨v, hc, e ▸ finishOrder_reported outcome result (k := .dispatched) ?_ (by simp) ?_ ?_⟩
  · rw [hu, hunit]
  · rw [linkOpen_congr hl, hopen]
  · rw [hl, hgate]

/-- R24: the order is refused, or answered with nothing changed. -/
theorem handed_refused {c : Instr} {v : State} {outcome : OutcomeCode} {result : List Byte} (hc : exec c s = .next v)
    (e : v = finishOrder outcome result s) : ∃ t, exec c s = .next t ∧ reported o.notify outcome result s t :=
  handed_answered h hc e rfl rfl

theorem handed_setStage (stage : Stage) :
    setStage stage s = { s with orders := { s.orders with unit := .acting o stage } } := by
  simp only [setStage, h.2.1]
  rfl

theorem handed_readsOpen : readsOpen s = true := readsOpen_of_linkOpen h.1.2.1

end

section
variable {o : Order} {s : State}

theorem exec_book (h : handed .book o s) : exec .book s = .next (bookOrder o s) := by
  rw [exec_live h.1.1 (by simp) (by simp), liveEffect, takeOrder_handed h]

theorem exec_cancel (h : handed .cancel o s) : exec .cancel s = .next (cancelOrder o s) := by
  rw [exec_live h.1.1 (by simp) (by simp), liveEffect, takeOrder_handed h]

theorem exec_extend (h : handed .extend o s) : exec .extend s = .next (extendOrder o s) := by
  rw [exec_live h.1.1 (by simp) (by simp), liveEffect, takeOrder_handed h]

theorem exec_switch (h : handed .switch o s) : exec .switch s = .next (switchOrder o s) := by
  rw [exec_live h.1.1 (by simp) (by simp), liveEffect, takeOrder_handed h]

theorem exec_setLeg (h : handed .setLeg o s) : exec .setLeg s = .next (setLegOrder o s) := by
  rw [exec_live h.1.1 (by simp) (by simp), liveEffect, takeOrder_handed h]

theorem exec_setPort (h : handed .setPort o s) : exec .setPort s = .next (setPortOrder o s) := by
  rw [exec_live h.1.1 (by simp) (by simp), liveEffect, takeOrder_handed h]

theorem exec_readPort (h : handed .readPort o s) : exec .readPort s = .next (readPortOrder o s) := by
  rw [exec_live h.1.1 (by simp) (by simp), liveEffect, takeOrder_handed h]

theorem exec_loadTariff (h : handed .loadTariff o s) : exec .loadTariff s = .next (loadTariffOrder o s) := by
  rw [exec_live h.1.1 (by simp) (by simp), liveEffect, takeOrder_handed h]

theorem exec_latchAccount (h : handed .latchAccount o s) : exec .latchAccount s = .next (latchAccountOrder o s) := by
  rw [exec_live h.1.1 (by simp) (by simp), liveEffect, takeOrder_handed h]

theorem exec_closeMatch (h : handed .closeMatch o s) : exec .closeMatch s = .next (closeMatchOrder o s) := by
  rw [exec_live h.1.1 (by simp) (by simp), liveEffect, takeOrder_handed h]

theorem exec_setClock (h : handed .setClock o s) : exec .setClock s = .next (setClockOrder o s) := by
  rw [exec_live h.1.1 (by simp) (by simp), liveEffect, takeOrder_handed h]

end

/-! ### The numbers of the arguments -/

theorem ofLe_lt (bytes : List Byte) : ofLe bytes < 256 ^ bytes.length := by
  induction bytes with
  | nil => simp [ofLe]
  | cons b rest ih =>
    have := b.isLt
    simp only [ofLe, List.length_cons, Nat.pow_succ]
    omega

/-- R173: a field of `len` bytes is below 2^(8 len). -/
theorem fieldAt_lt {n : Nat} (bytes : Vector Byte n) (off len : Nat) : fieldAt bytes off len < 256 ^ len :=
  Nat.lt_of_lt_of_le (ofLe_lt _) (Nat.pow_le_pow_right (by decide) (by simp [List.length_take]))

theorem slotIndex_of_bad {n : Nat} {s : State} (h : s.store.bookCount ≤ n ∨ 1024 ≤ n) : slotIndex n s = none := by
  simp only [slotIndex]
  split
  · exact if_neg (by omega)
  · rfl

theorem slotIndex_of_val {n : Fin 1024} {k : Nat} {s : State} (h : n.val = k) (hn : n.val < s.store.bookCount) :
    slotIndex k s = some n := by
  subst h
  simp [slotIndex, hn]

theorem sourceIndex_of_bad {n : Nat} (h : 48 ≤ n) : sourceIndex n = none := dif_neg (by omega)

theorem sourceIndex_of_val {p : Fin 48} {k : Nat} (h : p.val = k) : sourceIndex k = some p := by
  subst h
  simp [sourceIndex]

theorem deliveryIndex_of_bad {n : Nat} (h : 64 ≤ n) : deliveryIndex n = none := dif_neg (by omega)

theorem deliveryIndex_of_val {d : Fin 64} {k : Nat} (h : d.val = k) : deliveryIndex k = some d := by
  subst h
  simp [deliveryIndex]

theorem sourceOf_of_bad {n : Nat} (h : 48 ≤ n) (hb : n ≠ 255) : sourceOf n = none := by
  rw [sourceOf, if_neg (by omega), if_neg hb]

/-- R174: the source that a SWITCH argument names, and its code is the argument. -/
theorem sourceOf_of_named {n : Nat} {x : Source} (h : n = 255 ∧ x = .black ∨ ∃ p : Fin 48, p.val = n ∧ x = .port p) :
    sourceOf n = some x ∧ sourceCode x = n := by
  obtain ⟨rfl, rfl⟩ | ⟨p, rfl, rfl⟩ := h
  · exact ⟨rfl, rfl⟩
  · refine ⟨?_, rfl⟩
    rw [sourceOf, if_pos p.isLt]
    simp

/-! ### The entry (R19, R20) -/

/-- R20: the codes 1 to 11 name the orders. -/
theorem orderCodeOf_eq (n : Nat) : orderCodeOf n =
    if n = 0 then none
    else [OrderCode.book, .cancel, .extend, .switch, .setLeg, .setPort, .readPort, .loadTariff, .latchAccount, .closeMatch,
      .setClock][n - 1]? := by
  by_cases small : n < 12
  · have all : ∀ k : Fin 12, orderCodeOf k.val = if k.val = 0 then none
        else [OrderCode.book, .cancel, .extend, .switch, .setLeg, .setPort, .readPort, .loadTariff, .latchAccount,
          .closeMatch, .setClock][k.val - 1]? := by decide
    exact all ⟨n, small⟩
  · rw [if_neg (by omega), List.getElem?_eq_none (by simp; omega)]
    simp only [orderCodeOf]
    repeat rw [if_neg (by omega)]

/-- The order that an entry carries under a code. -/
def entryOf (code : OrderCode) (bytes : Vector Byte 24) : Order :=
  { code := code, notify := entryNotify bytes, a := BitVec.ofNat 32 (fieldAt bytes 4 4),
    b := BitVec.ofNat 32 (fieldAt bytes 8 4), c := BitVec.ofNat 32 (fieldAt bytes 12 4),
    d := BitVec.ofNat 64 (fieldAt bytes 16 8) }

/-- Settles O45: the entry is examined once its read completes. -/
theorem entryReadTaken : Obligations.EntryReadTaken := by
  intro bytes s free
  have hr := free.1
  have hopen := readsOpen_of_linkOpen free.2.1
  refine ⟨fun h => ?_, fun h => ?_⟩
  · rw [exec_live hr (by simp) (by simp), liveEffect, entryRead, if_neg fun e => h e.1]
  · have ran : exec (.entryReadComplete bytes) s = .next (examineEntry bytes s) := by
      rw [exec_live hr (by simp) (by simp), liveEffect, entryRead, if_pos ⟨h, hopen⟩]
    have refused : ∀ code, examineEntry bytes s = report (entryNotify bytes) code [] s →
        ∃ t, exec (.entryReadComplete bytes) s = .next t ∧ reported (entryNotify bytes) code [] s t := fun code e =>
      ⟨_, ran, e ▸ report_reported _ _ _ free.2.1 free.2.2⟩
    refine ⟨fun hs => refused _ (if_pos hs), fun hs hc => refused _ ?_, fun hs h1 h11 => ?_⟩
    · have none : entryOrder bytes = none := by
        rw [entryOrder, orderCodeOf_eq]
        obtain hc | hc := hc
        · rw [if_pos hc]; rfl
        · rw [if_neg (by omega), List.getElem?_eq_none (by simp; omega)]; rfl
      rw [examineEntry, if_neg (show ¬entryState bytes ≠ 1 from not_not_intro hs), none]
    · obtain ⟨code, hcode⟩ : ∃ code, [OrderCode.book, .cancel, .extend, .switch, .setLeg, .setPort, .readPort, .loadTariff,
          .latchAccount, .closeMatch, .setClock][fieldAt bytes 1 1 - 1]? = some code :=
        ⟨_, List.getElem?_eq_getElem (by simp; omega)⟩
      refine ⟨entryOf code bytes, ?_, hcode, rfl, ?_, ?_, ?_, ?_⟩
      · have carried : entryOrder bytes = some (entryOf code bytes) :=
          congrArg (Option.map _) ((orderCodeOf_eq _).trans ((if_neg (by omega)).trans hcode))
        rw [ran, examineEntry, if_neg (show ¬entryState bytes ≠ 1 from not_not_intro hs), carried]
        rfl
      · exact BitVec.toNat_ofNat .. |>.trans (Nat.mod_eq_of_lt (fieldAt_lt bytes 4 4))
      · exact BitVec.toNat_ofNat .. |>.trans (Nat.mod_eq_of_lt (fieldAt_lt bytes 8 4))
      · exact BitVec.toNat_ofNat .. |>.trans (Nat.mod_eq_of_lt (fieldAt_lt bytes 12 4))
      · exact BitVec.toNat_ofNat .. |>.trans (Nat.mod_eq_of_lt (fieldAt_lt bytes 16 8))

/-! ### BOOK, up to the read of its record -/

/-- log 9: an access that reads, made with none in flight and none waiting, is in flight. -/
theorem pump_recordRead (n : Fin 1024) {s : State} (hopen : readsOpen s = true) (hi : s.tickets.inFlight = none) :
    pump [.recordRead n] s = { s with
      tickets := { s.tickets with inFlight := some (.recordRead n) }
      link := { s.link with log := s.link.log ++ [.read (recordAddress s n) 20] } } := by
  simp [pump, hi, beginAccess, hopen, issueRead, setInFlight, record]

/-- Settles O46. -/
theorem bookTaken : Obligations.BookTaken := by
  intro o s h
  refine ⟨fun bad => handed_refused h (exec_book h) ?_, fun n hn hcount => ?_⟩
  · rw [bookOrder, slotIndex_of_bad bad]
  have slot := slotIndex_of_val hn hcount
  refine ⟨fun hc => ?_, fun hc hs => handed_refused h (exec_book h) ?_, fun hc hs => ⟨fun idle => ?_, fun hi => ?_⟩⟩
  · simp only [exec_book h, bookOrder, slot, if_pos hc]
  · simp only [bookOrder, slot, hc, Bool.false_eq_true, if_false, if_neg hs]
  · obtain ⟨hi, hw⟩ := idle
    simp only [exec_book h, bookOrder, slot, hc, Bool.false_eq_true, if_false, if_pos hs, handed_setStage h]
    have hr := handed_readsOpen h
    rw [submit_idle _ (by exact hw)]
    exact congrArg _ (pump_recordRead n hr hi)
  · obtain ⟨a, ha⟩ := Option.ne_none_iff_exists'.mp hi
    simp only [exec_book h, bookOrder, slot, hc, Bool.false_eq_true, if_false, if_pos hs, handed_setStage h]
    rw [submit_behind _ (by exact ha)]

/-! ### SWITCH -/

/-- R82: byte 3 of the result tells whether the request was lodged. -/
theorem requestRow_byte (target : Source) (cause : Cause) (r : Row) :
    le 1 (boolCode (requestRow target cause r).pending.isSome) = [if target = r.current then 0 else 1] := by
  by_cases e : target = r.current
  · simp [requestRow, e, boolCode, le]
  · simp [requestRow, e, boolCode, le]

/-- Settles O50. -/
theorem switchTaken : Obligations.SwitchTaken := by
  intro o s h
  refine ⟨fun bad => handed_refused h (exec_switch h) ?_, fun d target hd ht => ?_⟩
  · rw [switchOrder]
    obtain bad | ⟨big, hne⟩ := bad
    · rw [deliveryIndex_of_bad bad]
    · rw [sourceOf_of_bad big hne]
      cases deliveryIndex o.a.toNat with
      | none => rfl
      | some d => rfl
  · obtain ⟨source, code⟩ := sourceOf_of_named ht
    refine ⟨fun owned => handed_refused h (exec_switch h) ?_, fun free => ?_⟩
    · simp only [switchOrder, deliveryIndex_of_val hd, source, if_pos owned]
    · have taken : switchOrder o s = lodgeSwitch d target s := by
        simp [switchOrder, deliveryIndex_of_val hd, source, free]
      refine handed_answered h (exec_switch h) (taken.trans ?_) rfl rfl
      have result : switchResult d target s.rows[d] (requestRow target .manual s.rows[d]) =
          le 1 d.val ++ le 1 o.b.toNat ++ le 1 (sourceCode s.rows[d].current) ++
            [if target = s.rows[d].current then 0 else 1] ++
            (match s.rows[d].pending with
              | none => [254, 0]
              | some x => le 1 (sourceCode x.target) ++ le 1 (causeCode x.cause)) := by
        rw [switchResult, code, requestRow_byte, List.append_assoc]
        congr 1
        cases s.rows[d].pending with
        | none => rfl
        | some x => rfl
      rw [lodgeSwitch, result]
      rfl

/-! ### READ PORT -/

/-- Settles O53. -/
theorem readPortTaken : Obligations.ReadPortTaken := by
  intro o s h
  refine ⟨fun bad => handed_refused h (exec_readPort h) ?_, fun p hp => ?_⟩
  · rw [readPortOrder, sourceIndex_of_bad bad]
  · have taken : readPortOrder o s = finishOrder .ok (readPortResult s.monitors[p])
        (if o.b = 0 then s else setMonitor p (clearCounters s.monitors[p]) s) := by
      rw [readPortOrder, sourceIndex_of_val hp]
    refine handed_answered h (exec_readPort h) taken ?_ ?_
    · split
      · rfl
      · rfl
    · split
      · rfl
      · rfl

/-! ### LOAD TARIFF -/

/-- R133: a segment is readable where one of the four windows that may be read holds it. -/
theorem segmentReadable_iff (s : State) (a : Nat) : segmentReadable s a segmentBytes = true ↔ segmentPlaced s a := by
  simp only [segmentReadable, Bool.or_eq_true, areaCovers, decide_eq_true_eq, List.any_eq_true, List.mem_finRange,
    true_and, segmentPlaced]
  refine or_congr Iff.rfl (exists_congr fun k => ?_)
  cases hw : s.link.windows[k] with
  | none => simp
  | some w =>
    rw [Bool.and_eq_true, readable, windowCovers, decide_eq_true_eq, decide_eq_true_eq]
    exact ⟨fun ⟨hr, hc⟩ => ⟨w, rfl, hr, hc⟩, fun ⟨_, e, hr, hc⟩ => Option.some.inj e ▸ ⟨hr, hc⟩⟩

/-- Settles O54. -/
theorem loadTariffTaken : Obligations.LoadTariffTaken := by
  intro o s h
  refine ⟨fun hp => handed_refused h (exec_loadTariff h) ?_, fun hp hl => handed_refused h (exec_loadTariff h) ?_,
    fun hp hl => ?_⟩
  · rw [← segmentReadable_iff, Bool.not_eq_true] at hp
    simp [loadTariffOrder, hp]
  · rw [← segmentReadable_iff] at hp
    simp only [loadTariffOrder, hp, Bool.not_true, Bool.false_eq_true, if_false]
    exact if_pos hl
  · rw [← segmentReadable_iff] at hp
    have hn : ¬o.a.toNat ≠ segmentBytes := not_not_intro hl
    have hr := handed_readsOpen h
    rw [exec_loadTariff h, loadTariffOrder, if_neg (by simp [hp]), if_neg hn, readSegment, if_pos hr, issueRead, if_pos hr]
    simp only [setStage, record, h.2.1]
    rfl

end Sys2Proof.Machine
end

section
/-! ### SET LEG, the segment of LOAD TARIFF, the orders on accounts, and SET CLOCK -/

namespace Sys2Proof.Machine

/-! ### SET LEG -/

/-- R107, R108: the rule in its later form for a booking, from the state as it stands. -/
theorem applyProtection_eq (n : Fin 1024) (s : State) :
    applyProtection n s =
      let b := s.store.slots[n]
      let r := s.rows[b.port]
      let chosen := chooseLater b (fun p => healthOf p s) (intended r)
      { s with rows := if chosen = intended r then s.rows else s.rows.set b.port (requestRow chosen .protection r) } := by
  simp only [applyProtection]
  split
  · rfl
  · rfl

theorem legModeOf_of_bad {k : Nat} (h : 4 ≤ k) : legModeOf k = none := by
  simp only [legModeOf]
  repeat rw [if_neg (by omega)]

/-- R174: the four leg modes, by their codes. -/
theorem legModeOf_of_named {k : Nat} {mode : LegMode}
    (h : [LegMode.autoRevertive, .autoHold, .lockPrimary, .lockBackup][k]? = some mode) : legModeOf k = some mode := by
  have small : k < 4 := (List.getElem?_eq_some_iff.mp h).1
  have all : ∀ j : Fin 4, legModeOf j.val = [LegMode.autoRevertive, .autoHold, .lockPrimary, .lockBackup][j.val]? := by
    decide
  rw [← h]
  exact all ⟨k, small⟩

/-- R117: the result of SET LEG shows the leg intended and the leg asked for, each where there is one. -/
theorem setLegResult_eq (n : Fin 1024) (b : Slot) (mode : LegMode) (s : State) :
    setLegResult n b mode s =
      let leg := intended s.rows[b.port]
      let chosen := chooseLater { b with legMode := mode } (fun p => healthOf p s) leg
      le 4 n.val ++ le 1 (slotStateCode b.state) ++ le 1 (legModeCode b.legMode) ++ le 1 (legModeCode mode) ++
        le 1 (if slotOnAir b then sourceCode leg else 254) ++
        le 1 (if slotOnAir b = true ∧ chosen ≠ leg then sourceCode chosen else 254) := by
  have onAir : slotOnAir { b with legMode := mode } = slotOnAir b := rfl
  simp only [setLegResult, intendedLeg, requestedLeg, onAir, Bool.and_eq_true, decide_eq_true_eq, apply_ite sourceOptCode]
  rfl

/-- Settles O51. -/
theorem setLegTaken : Obligations.SetLegTaken := by
  intro o s h
  refine ⟨fun bad => handed_refused h (exec_setLeg h) ?_, fun n hn hcount => ?_⟩
  · rw [setLegOrder, slotIndex_of_bad bad]
  have slot := slotIndex_of_val hn hcount
  refine ⟨fun bad => handed_refused h (exec_setLeg h) ?_, fun mode hm => ?_⟩
  · simp only [setLegOrder, slot, legModeOf_of_bad bad]
  have named := legModeOf_of_named hm
  refine ⟨fun hc => ?_, fun hc hs => handed_refused h (exec_setLeg h) ?_,
    fun hc hs hl => handed_refused h (exec_setLeg h) ?_, fun hc hs hl => ?_⟩
  · simp only [exec_setLeg h, setLegOrder, slot, named, if_pos hc]
  · simp only [setLegOrder, slot, named, hc, Bool.false_eq_true, if_false, if_pos hs]
  · simp only [setLegOrder, slot, named, hc, Bool.false_eq_true, if_false, if_neg hs]
    exact if_pos (not_not.mp hl)
  · have taken : setLegOrder o s = storeLegMode n mode s := by
      simp only [setLegOrder, slot, named, hc, Bool.false_eq_true, if_false, if_neg hs]
      exact if_neg hl
    refine handed_answered h (exec_setLeg h) (taken.trans ?_) rfl rfl
    rw [storeLegMode, setLegResult_eq]
    congr 1
    have stored : (setSlot n { s.store.slots[n] with legMode := mode } s).store.slots[n] =
        { s.store.slots[n] with legMode := mode } := by simp [setSlot]
    by_cases hair : slotOnAir s.store.slots[n] = true
    · simp only [hair, applyProtection_eq, stored, true_and]
      by_cases hc : chooseLater { s.store.slots[n] with legMode := mode } (fun p => healthOf p s)
          (intended s.rows[s.store.slots[n].port]) = intended s.rows[s.store.slots[n].port]
      · exact congrArg (fun r => { setSlot n _ s with rows := r }) ((if_pos hc).trans (if_neg (not_not_intro hc)).symm)
      · exact congrArg (fun r => { setSlot n _ s with rows := r }) ((if_neg hc).trans (if_pos hc).symm)
    · rw [if_neg hair, if_neg fun e => hair e.1]
      rfl

/-! ### The first check that fails -/

section
variable {α : Type} {P : α → Prop} {checks : List (Bool × α)}

/-- The first check of a list that fails is the one found. -/
theorem firstFailing_eq_some (hb : ∀ x ∈ checks, x.1 = true ↔ P x.2) {earlier later : List α} {c : α}
    (ho : checks.map (·.2) = earlier ++ c :: later) (hn : ∀ x ∈ earlier, ¬P x) (hc : P c) :
    (checks.find? (·.1)).map (·.2) = some c := by
  induction checks generalizing earlier with
  | nil => simp at ho
  | cons x rest ih =>
    have hx := hb x (List.mem_cons_self ..)
    cases earlier with
    | nil =>
      obtain ⟨rfl, -⟩ := List.cons.inj ho
      rw [List.find?_cons_of_pos (hx.mpr hc)]
      rfl
    | cons e earlier =>
      obtain ⟨rfl, tail⟩ := List.cons.inj ho
      rw [List.find?_cons_of_neg (mt hx.mp (hn _ (List.mem_cons_self ..)))]
      exact ih (fun y hy => hb y (List.mem_cons_of_mem _ hy)) tail fun y hy => hn y (List.mem_cons_of_mem _ hy)

/-- No check is found where none fails. -/
theorem firstFailing_eq_none (hb : ∀ x ∈ checks, x.1 = true ↔ P x.2) (hn : ∀ x ∈ checks.map (·.2), ¬P x) :
    (checks.find? (·.1)).map (·.2) = none := by
  rw [Option.map_eq_none_iff, List.find?_eq_none]
  exact fun x hx hf => hn _ (List.mem_map_of_mem hx) ((hb x hx).mp hf)

end

/-! ### The segment of LOAD TARIFF (R134, R135) -/

theorem segmentChecks_offsets (bytes : Vector Byte 240) : (segmentChecks bytes).map (·.2) = segmentOffsets := by
  simp only [segmentChecks, segmentOffsets, List.map_append, List.map_map, List.map_cons, List.map_nil]
  rfl

/-- R134: among the offsets of a class block only the rules of that class apply. -/
theorem segmentFails_class {c offset : Nat} (hc : c < 4) (low : 182 + 16 * c ≤ offset) (high : offset ≤ 188 + 16 * c)
    (bytes : Vector Byte 240) : segmentFails bytes offset ↔
      offset = 182 + 16 * c ∧ (fieldAt bytes offset 1 < 8 ∨ 32 < fieldAt bytes offset 1) ∨
      offset = 183 + 16 * c ∧ 8 < fieldAt bytes offset 1 ∨ offset = 184 + 16 * c ∧ 240 < fieldAt bytes offset 2 ∨
      offset = 186 + 16 * c ∧ 3600 < fieldAt bytes offset 2 ∨ offset = 188 + 16 * c ∧ 1440 < fieldAt bytes offset 2 := by
  constructor
  · rintro (h | h | h | h | ⟨d, hd, h⟩)
    · omega
    · omega
    · omega
    · omega
    · obtain rfl : d = c := by omega
      exact h
  · exact fun h => .inr (.inr (.inr (.inr ⟨c, hc, h⟩)))

theorem classChecks_fails {c : Nat} (hc : c < 4) (bytes : Vector Byte 240) :
    ∀ x ∈ classChecks bytes c, x.1 = true ↔ segmentFails bytes x.2 := by
  intro x hx
  have low : classOffset c + 6 ≤ x.2 ∧ x.2 ≤ classOffset c + 12 := by
    simp only [classChecks, List.mem_cons, List.not_mem_nil, or_false] at hx
    obtain rfl | rfl | rfl | rfl | rfl := hx <;> dsimp only <;> omega
  simp only [classOffset] at low
  rw [segmentFails_class hc (by omega) (by omega)]
  simp only [classChecks, List.mem_cons, List.not_mem_nil, or_false] at hx
  obtain rfl | rfl | rfl | rfl | rfl := hx
  · refine decide_eq_true_iff.trans ?_
    simp only [segmentClass, classOffset]
    omega
  · refine decide_eq_true_iff.trans ?_
    simp only [segmentClass, classOffset]
    omega
  · refine decide_eq_true_iff.trans ?_
    simp only [segmentClass, classOffset]
    omega
  · refine decide_eq_true_iff.trans ?_
    simp only [segmentClass, classOffset]
    omega
  · refine decide_eq_true_iff.trans ?_
    simp only [segmentClass, classOffset]
    omega

/-- R134: before the class blocks a field fails by the rule of its own offset. -/
theorem segmentFails_low {offset : Nat} (h : offset ≤ 175) (bytes : Vector Byte 240) : segmentFails bytes offset ↔
    offset = 2 ∧ fieldAt bytes 2 2 ≠ 240 ∨ offset = 0 ∧ fieldAt bytes 0 1 ≠ 1 ∨ offset = 1 ∧ fieldAt bytes 1 1 ≠ 1 ∨
      (8 ≤ offset ∧ 2 < fieldAt bytes offset 1) := by
  constructor
  · rintro (h | h | h | h | ⟨d, hd, h⟩)
    · exact .inl h
    · exact .inr (.inl h)
    · exact .inr (.inr (.inl h))
    · exact .inr (.inr (.inr ⟨h.1, h.2.2⟩))
    · omega
  · rintro (h | h | h | ⟨low, fails⟩)
    · exact .inl h
    · exact .inr (.inl h)
    · exact .inr (.inr (.inl h))
    · exact .inr (.inr (.inr (.inl ⟨low, ‹_›, fails⟩)))

/-- R134: each check looks at the field of its offset. -/
theorem segmentChecks_fails (bytes : Vector Byte 240) :
    ∀ x ∈ segmentChecks bytes, x.1 = true ↔ segmentFails bytes x.2 := by
  intro x hx
  simp only [segmentChecks, List.mem_append] at hx
  obtain (head | band) | ((class0 | class1) | class2) | class3 := hx
  · simp only [List.mem_cons, List.not_mem_nil, or_false] at head
    obtain rfl | rfl | rfl := head
    · rw [segmentFails_low (show 2 ≤ 175 by decide)]; simp
    · rw [segmentFails_low (show 0 ≤ 175 by decide)]; simp
    · rw [segmentFails_low (show 1 ≤ 175 by decide)]; simp
  · obtain ⟨h, small, rfl⟩ := List.mem_map.mp band
    rw [List.mem_range] at small
    rw [segmentFails_low (by dsimp only; omega)]
    simp only [decide_eq_true_eq]
    omega
  · exact classChecks_fails (by decide) bytes x class0
  · exact classChecks_fails (by decide) bytes x class1
  · exact classChecks_fails (by decide) bytes x class2
  · exact classChecks_fails (by decide) bytes x class3

/-- 12 section 12.6: a band entry that passes its check carries its band. -/
theorem bandOf_carried {n : Nat} (h : n ≤ 2) :
    n = match (bandOf n).getD .peak with | .peak => 0 | .standard => 1 | .night => 2 := by
  obtain rfl | rfl | rfl : n = 0 ∨ n = 1 ∨ n = 2 := by omega
  · rfl
  · rfl
  · rfl

theorem tariffOf_carried {bytes : Vector Byte 240} (h : ∀ x ∈ segmentOffsets, ¬segmentFails bytes x) :
    tableCarried bytes (tariffOf bytes) := by
  refine ⟨fun hour => ?_, fun c => ?_⟩
  · have checked : 8 + hour.val ∈ segmentOffsets :=
      List.mem_append_left _ (List.mem_append_right _ (List.mem_map.mpr ⟨hour.val, List.mem_range.mpr hour.isLt, rfl⟩))
    have small : fieldAt bytes (8 + hour.val) 1 ≤ 2 := by
      have passed := h _ checked
      have := hour.isLt
      rw [segmentFails_low (by omega)] at passed
      omega
    rw [tariffOf, build_getFin]
    exact bandOf_carried small
  · rw [tariffOf, build_getFin]
    have offset : ∀ k, 176 + 16 * c.val + k = 176 + k + 16 * c.val := fun k => by omega
    simp only [segmentClass, classOffset, offset, Nat.reduceAdd]

/-- R132, R135: the tariff state code once a table is staged. -/
theorem stagedResult_eq (t : Tariff) (s : State) :
    stagedResult s (stageTariff t s) = le 4 (effectMinute s.clock).toNat ++
      [if s.tariffs.current.isSome then 2 else 3] ++ [if s.tariffs.staged.isSome then 1 else 0] := by
  rw [stagedResult]
  congr 1
  · congr 1
    simp only [tariffStateCode, stageTariff]
    cases s.tariffs.current with
    | none => rfl
    | some c => rfl
  · cases s.tariffs.staged with
    | none => rfl
    | some c => rfl

/-- Settles O55. -/
theorem tariffSegmentTaken : Obligations.TariffSegmentTaken := by
  intro bytes s free
  refine ⟨fun h => ?_, fun o hu => ?_⟩
  · rw [exec_live free.1 (by simp) (by simp), liveEffect, tariffSegmentRead]
    split
    · exact absurd ‹_› (h _)
    all_goals rfl
  have ran : exec (.tariffSegmentRead bytes) s = .next (segmentTaken bytes s) := by
    rw [exec_live free.1 (by simp) (by simp), liveEffect, tariffSegmentRead, hu]
  refine ⟨fun earlier offset later ho hn hf => ?_, fun hn => ?_⟩
  · have failed : segmentFailure bytes = some offset :=
      firstFailing_eq_some (segmentChecks_fails bytes) ((segmentChecks_offsets bytes).trans ho) hn hf
    refine ⟨_, ran, ?_⟩
    rw [segmentTaken, failed]
    exact finishOrder_reported _ _ hu (by simp) free.2.1 free.2.2
  · have passed : segmentFailure bytes = none :=
      firstFailing_eq_none (segmentChecks_fails bytes) (by rwa [segmentChecks_offsets])
    refine ⟨tariffOf bytes, _, ran, tariffOf_carried hn, ?_⟩
    have taken : segmentTaken bytes s = finishOrder .ok (le 4 (effectMinute s.clock).toNat ++
        [if s.tariffs.current.isSome then 2 else 3] ++ [if s.tariffs.staged.isSome then 1 else 0])
        (stageTariff (tariffOf bytes) s) := by
      rw [segmentTaken, passed]
      exact congrArg (finishOrder .ok · _) (stagedResult_eq _ s)
    rw [taken]
    exact finishOrder_reported _ _ (u := stageTariff (tariffOf bytes) s) hu (by simp) free.2.1 free.2.2

/-! ### LATCH ACCOUNT and CLOSE MATCH -/

theorem matchClosing_iff (m : Nat) (s : State) :
    matchClosing m s = true ↔ ∃ n ∈ closingSlots s, s.store.slots[n].matchNumber = m := by
  simp [matchClosing]

/-- R153: without an OPEN account of the match none is found. -/
theorem accountOf_eq_none {m : Nat} {s : State}
    (h : ∀ k : Fin 128, ¬(s.accounts[k].isOpen = true ∧ s.accounts[k].matchNumber = m)) : accountOf m s = none := by
  rw [accountOf, List.find?_eq_none]
  intro k _ hk
  rw [Bool.and_eq_true, beq_iff_eq] at hk
  exact h k hk

/-- R153: the OPEN account of a match is the one found, since there is no other. -/
theorem accountOf_eq_some {m : Nat} {s : State} (lawful : accountsLawful s) {k : Fin 128} (ho : s.accounts[k].isOpen = true)
    (hm : s.accounts[k].matchNumber = m) : accountOf m s = some k := by
  cases found : accountOf m s with
  | none => exact absurd hm (accountOf_none found k ho)
  | some j =>
    obtain ⟨jo, jm⟩ := accountOf_some found
    rw [lawful.1 j k jo ho (jm.trans hm.symm)]

theorem accountSnapshot_eq (a : Account) : accountSnapshot a = accountBytes a := rfl

theorem pump_totalCheck {k : Fin 128} {minute : Nat} {ring : Ring} {s : State} (hopen : readsOpen s = true)
    (hi : s.tickets.inFlight = none) (hr : s.tickets.ring = some ring) :
    pump [.totalCheck k minute] s = { s with
      tickets := { s.tickets with inFlight := some (.totalCheck k minute) }
      link := { s.link with log := s.link.log ++
        [.read (ring.base + BitVec.ofNat 64 (32 * s.tickets.writePosition)) 1] } } := by
  simp [pump, hi, beginAccess, hopen, issueRead, setInFlight, record, ringSlotAddress, hr]

/-- Settles O56. -/
theorem accountOrdersTaken : Obligations.AccountOrdersTaken := by
  intro o s
  refine ⟨fun c code hc h => ?_, fun k ho hm lawful quiet => ?_⟩
  · obtain ⟨rfl, rfl⟩ | ⟨rfl, rfl⟩ := hc
    · refine ⟨fun waits => ?_, fun quiet none => handed_refused h (exec_latchAccount h) ?_⟩
      · rw [exec_latchAccount h, latchAccountOrder, if_pos ((matchClosing_iff _ s).mpr waits)]
      · rw [latchAccountOrder, if_neg (mt (matchClosing_iff _ s).mp quiet), accountOf_eq_none none]
    · refine ⟨fun waits => ?_, fun quiet none => handed_refused h (exec_closeMatch h) ?_⟩
      · rw [exec_closeMatch h, closeMatchOrder, if_pos ((matchClosing_iff _ s).mpr waits)]
      · rw [closeMatchOrder, if_neg (mt (matchClosing_iff _ s).mp quiet), accountOf_eq_none none]
  · have found := accountOf_eq_some lawful ho hm
    have quiet := mt (matchClosing_iff _ s).mp quiet
    refine ⟨fun h => handed_refused h (exec_latchAccount h) ?_, fun h hp => handed_refused h (exec_closeMatch h) ?_,
      fun h hz => ?_⟩
    · rw [latchAccountOrder, if_neg quiet, found, ← accountSnapshot_eq]
    · simp only [closeMatchOrder, if_neg quiet, found, if_pos hp, accountSnapshot_eq]
    · have hr := handed_readsOpen h
      have taken : exec .closeMatch s = .next (submit [.totalCheck k (nowMinute s)]
          { s with orders := { s.orders with unit := .acting o .queued } }) := by
        rw [exec_closeMatch h, ← handed_setStage h]
        simp only [closeMatchOrder, if_neg quiet, found, if_neg (show ¬0 < s.accounts[k].openCount by omega)]
      refine ⟨fun ⟨hi, hw⟩ ring hring => ?_, fun hi => ?_⟩
      · rw [taken, submit_idle _ (by exact hw)]
        exact congrArg _ (pump_totalCheck hr hi hring)
      · obtain ⟨a, ha⟩ := Option.ne_none_iff_exists'.mp hi
        rw [taken, submit_behind _ (by exact ha)]
        rfl

/-! ### SET CLOCK -/

theorem bookingsExist_iff (s : State) :
    bookingsExist s = true ↔ ∃ n : Fin 1024, n.val < s.store.bookCount ∧ s.store.slots[n].state ≠ .free := by
  simp [bookingsExist]

/-- R42: the order leaves a boundary that is outstanding after its tick. -/
theorem rolloverSet_of_not_tickFirst {r : Rollover} (h : ∀ m b, r ≠ .tickFirst m b) : rolloverSet r = r := by
  cases r with
  | tickFirst m b => exact absurd rfl (h m b)
  | none => rfl
  | boundaryFirst ended => rfl
  | handed ended => rfl

theorem timeNow_of_not_tickFirst {c : Clock} (h : ∀ m b, c.rollover ≠ .tickFirst m b) : timeNow c = (c.minute, c.second) := by
  rw [timeNow]
  split
  · exact absurd ‹_› (h _ _)
  all_goals rfl

/-- Settles O57. -/
theorem setClockTaken : Obligations.SetClockTaken := by
  intro o s h
  refine ⟨fun hc => ?_, fun hc hb => handed_refused h (exec_setClock h) ?_, fun hc hb => ?_⟩
  · rw [exec_setClock h, setClockOrder, if_pos (by simpa using hc)]
  · rw [setClockOrder, if_neg (by simp [hc]), if_pos ((bookingsExist_iff s).mpr hb)]
  have none : ¬bookingsExist s = true := fun e => by
    obtain ⟨n, hn, hs⟩ := (bookingsExist_iff s).mp e
    exact hs (hb n hn)
  have taken : setClockOrder o s = finishOrder .ok (setClockResult s.clock o.a)
      (setRollover (rolloverSet s.clock.rollover) (setTime o.a 0 s)) := by
    rw [setClockOrder, if_neg (by simp [hc]), if_neg none]
  refine ⟨fun hr => handed_answered h (exec_setClock h) (taken.trans ?_) rfl rfl,
    fun m b hr => handed_answered h (exec_setClock h) (taken.trans ?_) rfl rfl⟩
  · rw [rolloverSet_of_not_tickFirst hr, setClockResult, timeNow_of_not_tickFirst hr]
    rfl
  · rw [hr, setClockResult, timeNow, hr]
    cases b with
    | false => rfl
    | true => rfl

end Sys2Proof.Machine
end

section
/-! ### What a monitor's new state hands on: observations, hold-off and restore timer, SET PORT (chapter 6) -/

namespace Sys2Proof.Machine

/-! ### A health change -/

theorem updateMonitor_same {p : Fin 48} {m : Monitor} {s : State} (h : m.health = s.monitors[p].health) :
    updateMonitor p m s = { s with monitors := s.monitors.set p m } := if_pos h

/-- R119, R130: the source items and ALARM follow, and then the page due mark is set. -/
theorem markPage_deriveSources (s : State) :
    markPage (deriveSources s) = withAlarm { s.alarm with items := derivedItems s } (markPage s) := by
  rw [deriveSources, setAlarm_eq]
  rfl

theorem protectHealth_frame (p : Fin 48) (s : State) :
    protectHealth p s = { s with rows := (protectHealth p s).rows } :=
  protectPorts_frame (fun b => isLeg b p) (List.finRange 64) s

theorem healthChanged_eq (p : Fin 48) (s : State) :
    healthChanged p s = withAlarm (healthChanged p s).alarm
      { s with rows := (healthChanged p s).rows, link := { s.link with pageDue := true } } := by
  obtain ⟨r, told⟩ : ∃ r, protectHealth p s = { s with rows := r } := ⟨_, protectHealth_frame p s⟩
  rw [healthChanged, markPage_deriveSources, told]
  rfl

theorem healthChanged_derived (p : Fin 48) (s : State) :
    derivedFrom (healthChanged p s) s.alarm (healthChanged p s).alarm := by
  obtain ⟨r, told⟩ : ∃ r, protectHealth p s = { s with rows := r } := ⟨_, protectHealth_frame p s⟩
  rw [healthChanged, told]
  exact (deriveSources_told { s with rows := r }).1

/-- R94, R110: a monitor whose health changes hands it on. -/
theorem updateMonitor_handed {p : Fin 48} {m : Monitor} {s : State} (h : m.health ≠ s.monitors[p].health) :
    healthHanded p s (updateMonitor p m s) ∧ (updateMonitor p m s).monitors = s.monitors.set p m := by
  obtain ⟨-, -, monitors⟩ := updateMonitor_frame p m s
  have changed : updateMonitor p m s = healthChanged p (setMonitor p m s) := if_neg h
  refine ⟨⟨?_, ?_, fun lawful d => ?_⟩, monitors⟩
  · rw [monitors, changed]
    exact healthChanged_eq p (setMonitor p m s)
  · rw [changed]
    exact healthChanged_derived p (setMonitor p m s)
  · have healths : healthsOf (setMonitor p m s) = fun q => (updateMonitor p m s).monitors[q].health := by
      rw [monitors]
      rfl
    have row := updateMonitor_row p m d (ownersHome_of lawful)
    rw [if_neg h, toldRow, healths] at row
    have same : ownerOf d (setMonitor p m s) = ownerOf d s := rfl
    rw [same] at row
    rw [row]
    refine ⟨fun n ho hl => ?_, fun none => ?_⟩
    · rw [ho]
      exact if_pos hl
    · cases ho : ownerOf d s with
      | none => rfl
      | some n => exact if_neg (by rw [show (setMonitor p m s).store = s.store from rfl, none n ho]; decide)

/-! ### Observations -/

theorem exec_receiverObservation (p : Fin 48) (seen : Observation) {s : State} (hr : s.resetn = true) :
    exec (.receiverObservation p seen) s = .next (updateMonitor p (observe seen s.monitors[p]) s) :=
  exec_live hr (by simp) (by simp)

theorem exec_lossOfLightEdge (p : Fin 48) {s : State} (hr : s.resetn = true) :
    exec (.lossOfLightEdge p) s = .next (updateMonitor p (lightLostAt s.monitors[p]) s) :=
  exec_live hr (by simp) (by simp)

/-- R84: a report that changes no health changes the monitor alone. -/
theorem exec_receiverObservation_same {p : Fin 48} {seen : Observation} {s : State} {m : Monitor} (hr : s.resetn = true)
    (e : observe seen s.monitors[p] = m) (h : m.health = s.monitors[p].health) :
    exec (.receiverObservation p seen) s = .next { s with monitors := s.monitors.set p m } := by
  rw [exec_receiverObservation p _ hr, e, updateMonitor_same h]

theorem observe_erroredBlock (m : Monitor) : observe .erroredBlock m = { m with
    seen := { m.seen with blocks := if m.inService = true ∧ m.lock = true then min 65535 (m.seen.blocks + 1)
      else m.seen.blocks } } := by
  simp only [observe, Bool.and_eq_true]
  split
  · rfl
  · rfl

theorem observe_lock (held : Bool) (m : Monitor) : observe (.lock held) m = { m with
    lock := held
    seen := { m.seen with lockLost := m.seen.lockLost || (m.inService && !held) } } := by
  cases held with
  | true => simp [observe]
  | false =>
    cases h : m.inService with
    | true => simp [observe, h]
    | false => simp [observe, h]

/-- R84: light that is absent already is no edge. -/
theorem observe_dark {m : Monitor} (h : m.light = false) : observe (.light false) m = m := if_neg (by simp [h])

/-- R84: the light is gone, and the loss is recorded for a port in service. -/
def darkened (m : Monitor) : Monitor :=
  { m with light := false, seen := { m.seen with lightLost := m.seen.lightLost || m.inService } }

theorem lightLostAt_eq (m : Monitor) :
    lightLostAt m = if fastDetectActs m then enterFailed (darkened m) else darkened m := by
  have dark : ({ m with light := false, seen := if m.inService then { m.seen with lightLost := true } else m.seen } : Monitor)
      = darkened m := by
    cases h : m.inService with
    | true => simp [darkened, h]
    | false => simp [darkened, h]
  rw [lightLostAt, dark]

/-- R95: fast detect leaves a port that is FAILED or OUT_OF_SERVICE. -/
theorem fastDetectActs_of_idle {m : Monitor} (h : m.fastDetect = false ∨ m.health = .failed ∨ m.health = .outOfService) :
    ¬fastDetectActs m = true := by
  obtain h | h | h := h
  · simp [fastDetectActs, h]
  · simp [fastDetectActs, h]
  · simp [fastDetectActs, h]

/-- R95: fast detect fails a port that is OK, SUSPECT or RECOVERING. -/
theorem fastDetectActs_of_up {m : Monitor} (hf : m.fastDetect = true)
    (h : m.health = .ok ∨ m.health = .suspect ∨ m.health = .recovering) :
    fastDetectActs m = true ∧ m.health ≠ .failed := by
  obtain h | h | h := h
  · simp [fastDetectActs, hf, h]
  · simp [fastDetectActs, hf, h]
  · simp [fastDetectActs, hf, h]

/-- Settles O41: report by report, and the edge with and without fast detect. -/
theorem observationTaken : Obligations.ObservationTaken := by
  intro p s hr
  refine ⟨?_, fun held => ?_, ?_, fun hl => ?_, fun hl => ?_, fun hf => ?_, fun hf hh => ?_⟩
  · exact exec_receiverObservation_same hr (observe_erroredBlock _) rfl
  · exact exec_receiverObservation_same hr (observe_lock held _) rfl
  · exact exec_receiverObservation_same hr rfl rfl
  · rw [exec_receiverObservation_same hr (observe_dark hl) rfl]
    simp
  · rw [exec_receiverObservation p _ hr, exec_lossOfLightEdge p hr, observe, if_pos hl]
  · have stays := fastDetectActs_of_idle hf
    have same : (darkened s.monitors[p]).health = s.monitors[p].health := rfl
    rw [exec_lossOfLightEdge p hr, lightLostAt_eq, if_neg stays, updateMonitor_same same]
    rfl
  · obtain ⟨acts, up⟩ := fastDetectActs_of_up hf hh
    have differs : (enterFailed (darkened s.monitors[p])).health ≠ s.monitors[p].health := up.symm
    obtain ⟨handed, monitors⟩ := updateMonitor_handed differs
    rw [exec_lossOfLightEdge p hr, lightLostAt_eq, if_pos acts]
    exact ⟨_, rfl, handed, monitors⟩

/-! ### The hold-off and the restore timer -/

theorem badClass_classify_iff (m : Monitor) : badClass (classify m) = true ↔
    m.seen.lightLost = true ∨ m.seen.lockLost = true ∨ m.severeThreshold ≤ m.seen.blocks := by
  rw [badClass_iff, classify_eq_dark, classify_eq_severe]
  tauto

theorem mayTakeEarly_iff (m : Monitor) :
    mayTakeEarly m = true ↔ m.inService = true ∧ m.firstSecond = false ∧ m.tookTick = false := by
  simp [mayTakeEarly, and_assoc]

section
variable {m : Monitor}

theorem monitorAtTick_health (hs : m.inService = true) (hf : m.firstSecond = false) :
    (monitorAtTick m).health = (judge (classify m) m).health ∧
    (monitorAtTick m).badCount = (judge (classify m) m).badCount ∧
    (monitorAtTick m).restoreTimer = (judge (classify m) m).restoreTimer := by
  rw [monitorAtTick_classed hs hf, classSecond_eq]
  exact ⟨rfl, rfl, rfl⟩

/-- R90, R91: a bad second fails an OK or SUSPECT port where its bad count reaches the hold-off. -/
theorem badSecond_fails_iff (h : m.health = .ok ∨ m.health = .suspect) : (badSecond m).health = .failed ↔
    m.health = .ok ∧ m.holdOff ≤ 1 ∨ m.health = .suspect ∧ m.holdOff ≤ m.badCount + 1 := by
  obtain h | h := h
  · rw [badSecond_of_ok h]
    split
    · simp [enterFailed, *]
    · simp [*]
  · rw [badSecond_of_suspect h, countBad]
    split
    · simp [enterFailed, *]
    · simp [*]

/-- R93: a good second ends the restore where the timer is 1 or 0. -/
theorem goodSecond_restores_iff (h : m.health = .recovering) : (goodSecond m).health = .ok ↔ m.restoreTimer ≤ 1 := by
  rw [goodSecond_of_recovering h]
  dsimp only
  split
  · simp [*]
  · simp [*]

theorem holdOffDue_iff : holdOffDue m = true ↔
    (m.inService = true ∧ m.firstSecond = false ∧ m.tookTick = false) ∧
    (m.seen.lightLost = true ∨ m.seen.lockLost = true ∨ m.severeThreshold ≤ m.seen.blocks) ∧
    (m.health = .ok ∧ m.holdOff ≤ 1 ∨ m.health = .suspect ∧ m.holdOff ≤ m.badCount + 1) := by
  rw [holdOffDue, Bool.and_eq_true, Bool.and_eq_true, Bool.and_eq_true, mayTakeEarly_iff, ← badClass_classify_iff,
    decide_eq_true_iff, decide_eq_true_iff, and_assoc, and_assoc]
  refine and_congr_right fun ⟨hs, hf, _⟩ => and_congr_right fun hb => ?_
  rw [(monitorAtTick_health hs hf).1, judge_of_bad hb]
  constructor
  · exact fun ⟨h, failed⟩ => (badSecond_fails_iff h).mp failed
  · intro h
    have health := h.imp And.left And.left
    exact ⟨health, (badSecond_fails_iff health).mpr h⟩

theorem restoreDue_iff : restoreDue m = true ↔
    (m.inService = true ∧ m.firstSecond = false ∧ m.tookTick = false) ∧
    ¬(m.seen.lightLost = true ∨ m.seen.lockLost = true ∨ m.severeThreshold ≤ m.seen.blocks) ∧
    m.health = .recovering ∧ m.restoreTimer ≤ 1 := by
  rw [restoreDue, Bool.and_eq_true, Bool.and_eq_true, Bool.and_eq_true, mayTakeEarly_iff, ← badClass_classify_iff,
    decide_eq_true_iff, decide_eq_true_iff, and_assoc, and_assoc, Bool.not_eq_true', ← Bool.not_eq_true (badClass _)]
  refine and_congr_right fun ⟨hs, hf, _⟩ => and_congr_right fun hb => and_congr_right fun h => ?_
  rw [(monitorAtTick_health hs hf).1, judge_of_good hb, goodSecond_restores_iff h]

/-- R90, R91: the port that fails loses its bad count. -/
theorem badSecond_failed {n : Monitor} (h : n.health = .ok ∨ n.health = .suspect) (hf : (badSecond n).health = .failed) :
    (badSecond n).badCount = 0 := by
  obtain h | h := h
  · rw [badSecond_of_ok h] at hf ⊢
    split
    · rfl
    · rw [if_neg ‹_›] at hf
      exact nomatch hf
  · rw [badSecond_of_suspect h, countBad] at hf ⊢
    split
    · rfl
    · rw [if_neg ‹_›] at hf
      exact nomatch hf

end

/-- A monitor that takes the tick ahead of the others, to another health, hands that on. -/
theorem takeTickEarly_handed {p : Fin 48} {s : State} (h : (monitorAtTick s.monitors[p]).health ≠ s.monitors[p].health) :
    healthHanded p s (takeTickEarly p s) ∧
    (takeTickEarly p s).monitors = s.monitors.set p { monitorAtTick s.monitors[p] with tookTick := true } :=
  updateMonitor_handed h

/-- Settles O42: each command acts exactly where the tick would. -/
theorem holdOffAndRestoreTaken : Obligations.HoldOffAndRestoreTaken := by
  intro p s hr
  have reached : exec (.holdOffReached p) s = .next (holdOffReached p s) := exec_live hr (by simp) (by simp)
  have expired : exec (.restoreTimerExpiry p) s = .next (restoreExpired p s) := exec_live hr (by simp) (by simp)
  refine ⟨fun due => ?_, fun due => ?_, fun idle => ?_, fun idle => ?_⟩
  · obtain ⟨⟨hs, hf, -⟩, bad, cause⟩ := id due
    have bad := (badClass_classify_iff _).mpr bad
    have health := cause.imp And.left And.left
    have failed := (badSecond_fails_iff health).mpr cause
    obtain ⟨eh, ec, -⟩ := monitorAtTick_health hs hf
    rw [judge_of_bad bad] at eh ec
    have differs : (monitorAtTick s.monitors[p]).health ≠ s.monitors[p].health := by
      rw [eh, failed]
      obtain h | h := health
      · rw [h]; exact fun e => nomatch e
      · rw [h]; exact fun e => nomatch e
    obtain ⟨handed, monitors⟩ := takeTickEarly_handed differs
    refine ⟨_, reached.trans (congrArg _ (if_pos (holdOffDue_iff.mpr due))), handed, ?_, ?_, ?_, monitors⟩
    · rw [monitors]; simpa using eh.trans failed
    · rw [monitors]; simpa using ec.trans (badSecond_failed health failed)
    · rw [monitors]; simp
  · obtain ⟨⟨hs, hf, -⟩, good, health, timer⟩ := id due
    have good := mt (badClass_classify_iff _).mp good
    obtain ⟨eh, -, et⟩ := monitorAtTick_health hs hf
    rw [judge_of_good good, goodSecond_of_recovering health] at eh et
    have ok : (monitorAtTick s.monitors[p]).health = .ok := eh.trans (if_pos timer)
    have differs : (monitorAtTick s.monitors[p]).health ≠ s.monitors[p].health := by
      rw [ok, health]
      exact fun e => nomatch e
    obtain ⟨handed, monitors⟩ := takeTickEarly_handed differs
    refine ⟨_, expired.trans (congrArg _ (if_pos (restoreDue_iff.mpr due))), handed, ?_, ?_, ?_, monitors⟩
    · rw [monitors]; simpa using ok
    · rw [monitors]; simpa using et.trans (Nat.sub_eq_zero_of_le timer)
    · rw [monitors]; simp
  · exact reached.trans (congrArg _ (if_neg (mt holdOffDue_iff.mp idle)))
  · exact expired.trans (congrArg _ (if_neg (mt restoreDue_iff.mp idle)))

/-! ### SET PORT -/

theorem setPortInService_eq (o : Order) : setPortInService o = decide (o.b.toNat % 256 ≠ 0) := by
  have zero : o.b.extractLsb' 0 8 = 0 ↔ o.b.toNat % 256 = 0 := by
    rw [← BitVec.toNat_inj, extractLsb'_toNat_eq_div_mod]
    simp
  rw [setPortInService, bne, beq_eq_decide, decide_eq_decide.mpr zero, decide_not]

theorem setPortFastDetect_eq (o : Order) : setPortFastDetect o = decide (o.b.toNat / 256 % 256 ≠ 0) := by
  have zero : o.b.extractLsb' 8 8 = 0 ↔ o.b.toNat / 256 % 256 = 0 := by
    rw [← BitVec.toNat_inj, extractLsb'_toNat_eq_div_mod]
    simp
  rw [setPortFastDetect, bne, beq_eq_decide, decide_eq_decide.mpr zero, decide_not]

theorem setPortRestoreTime_eq (o : Order) : setPortRestoreTime o = o.d.toNat % 2 ^ 32 := by
  simp [setPortRestoreTime, BitVec.extractLsb'_toNat]

theorem setPortThreshold_eq (o : Order) : setPortThreshold o = o.d.toNat / 2 ^ 32 := by
  have := o.d.isLt
  rw [setPortThreshold, BitVec.extractLsb'_toNat, Nat.shiftRight_eq_div_pow]
  omega

/-- R97: the values a monitor stores, brought into range. -/
theorem configured_values (o : Order) (m : Monitor) :
    (configured o m).holdOff = min 10 o.c.toNat ∧
    (configured o m).restoreTime = max 10 (min 600 (o.d.toNat % 2 ^ 32)) ∧
    (configured o m).severeThreshold = max 1 (min 65535 (o.d.toNat / 2 ^ 32)) ∧
    (configured o m).fastDetect = decide (o.b.toNat / 256 % 256 ≠ 0) := by
  refine ⟨?_, ?_, ?_, setPortFastDetect_eq o⟩
  · exact Nat.zero_max _
  · rw [← setPortRestoreTime_eq]; rfl
  · rw [← setPortThreshold_eq]; rfl

/-- R97, R98, R99: SET PORT stores its values, and has the port enter service or leave it. -/
theorem monitorSet_portSet (o : Order) (m : Monitor) : portSet o m (monitorSet o m) := by
  obtain ⟨holdOff, restore, threshold, fast⟩ := configured_values o m
  have service := setPortInService_eq o
  cases hm : m.inService with
  | false =>
    cases ho : setPortInService o with
    | false =>
      rw [show monitorSet o m = configured o m by rw [monitorSet, hm, ho]]
      exact ⟨holdOff, restore, threshold, fast, (hm.trans ho.symm).trans service, rfl, rfl, rfl,
        fun _ h => absurd (h.symm.trans hm) (by decide), fun h => absurd (h.symm.trans hm) (by decide), fun _ => rfl⟩
    | true =>
      rw [show monitorSet o m = enterService (configured o m) by rw [monitorSet, hm, ho]]
      exact ⟨holdOff, restore, threshold, fast, ho.symm.trans service, rfl, rfl, rfl,
        fun _ _ => ⟨rfl, rfl, rfl, rfl, rfl, rfl, rfl, rfl, rfl, rfl⟩, fun h => absurd (h.symm.trans hm) (by decide),
        fun h => nomatch hm.symm.trans h⟩
  | true =>
    cases ho : setPortInService o with
    | false =>
      rw [show monitorSet o m = leaveService (configured o m) by rw [monitorSet, hm, ho]]
      exact ⟨holdOff, restore, threshold, fast, ho.symm.trans service, rfl, rfl, rfl,
        fun h => absurd (h.symm.trans hm) (by decide), fun _ _ => ⟨rfl, rfl, rfl, rfl, rfl, rfl, rfl, rfl, rfl, rfl⟩,
        fun h => nomatch hm.symm.trans h⟩
    | true =>
      rw [show monitorSet o m = configured o m by rw [monitorSet, hm, ho]]
      exact ⟨holdOff, restore, threshold, fast, (hm.trans ho.symm).trans service, rfl, rfl, rfl,
        fun h => absurd (h.symm.trans hm) (by decide), fun _ h => absurd (h.symm.trans hm) (by decide), fun _ => rfl⟩

/-- R97: the values that the monitor holds once SET PORT is done are those taken. -/
theorem monitorSet_taken (o : Order) (m : Monitor) : (monitorSet o m).holdOff = takenHoldOff o ∧
    (monitorSet o m).restoreTime = takenRestore o ∧ (monitorSet o m).severeThreshold = takenThreshold o := by
  rw [monitorSet]
  split
  all_goals exact ⟨rfl, rfl, rfl⟩

theorem wasClamped_eq (o : Order) (m : Monitor) : (if wasClamped o then OutcomeCode.clamped else .ok) =
    if (monitorSet o m).holdOff = o.c.toNat ∧ (monitorSet o m).restoreTime = o.d.toNat % 2 ^ 32 ∧
      (monitorSet o m).severeThreshold = o.d.toNat / 2 ^ 32 then .ok else .clamped := by
  obtain ⟨holdOff, restore, threshold⟩ := monitorSet_taken o m
  rw [holdOff, restore, threshold, wasClamped, setPortRestoreTime_eq, setPortThreshold_eq]
  by_cases h : takenHoldOff o = o.c.toNat ∧ takenRestore o = o.d.toNat % 2 ^ 32 ∧ takenThreshold o = o.d.toNat / 2 ^ 32
  · rw [if_pos h, if_neg (by simp [h])]
  · rw [if_neg h, if_pos (by rw [decide_eq_true_iff]; tauto)]

/-- R97: the lowest booking that uses a port. -/
theorem slotUsing_eq_some {p : Fin 48} {n : Fin 1024} {s : State}
    (h : s.store.slots[n].state ≠ .free ∧ isLeg s.store.slots[n] p = true)
    (least : ∀ k, k < n → ¬(s.store.slots[k].state ≠ .free ∧ isLeg s.store.slots[k] p = true)) :
    slotUsing p s = some n := by
  have uses : ∀ k : Fin 1024, (decide (s.store.slots[k].state ≠ .free) && isLeg s.store.slots[k] p) = true ↔
      s.store.slots[k].state ≠ .free ∧ isLeg s.store.slots[k] p = true := fun k => by
    rw [Bool.and_eq_true, decide_eq_true_iff]
  rw [slotUsing, List.find?_eq_some_iff_getElem]
  refine ⟨(uses n).mpr h, n.val, by simp, by simp, fun j hj => ?_⟩
  have below := least ⟨j, by omega⟩ hj
  rw [← uses, Bool.not_eq_true] at below
  simpa only [List.getElem_finRange, Fin.cast_mk, Bool.not_eq_true', Fin.getElem_fin] using below

theorem slotUsing_eq_none {p : Fin 48} {s : State}
    (h : ∀ n : Fin 1024, ¬(s.store.slots[n].state ≠ .free ∧ isLeg s.store.slots[n] p = true)) : slotUsing p s = none := by
  rw [slotUsing, List.find?_eq_none]
  intro n _
  rw [Bool.and_eq_true, decide_eq_true_iff]
  exact h n

/-- R94: an order is reported from the state that a health change leaves. -/
theorem healthHanded_free {p : Fin 48} {s u : State} (h : healthHanded p s u) (k : linkFree s) :
    linkFree u ∧ u.orders = s.orders := by
  rw [h.1]
  exact ⟨k, rfl⟩

/-- Settles O52. -/
theorem setPortTaken : Obligations.SetPortTaken := by
  intro o s h
  refine ⟨fun bad => handed_refused h (exec_setPort h) ?_, fun p hp => ⟨fun n off used least => ?_, fun granted => ?_⟩⟩
  · rw [setPortOrder, sourceIndex_of_bad bad]
  · refine handed_refused h (exec_setPort h) ?_
    simp only [setPortOrder, sourceIndex_of_val hp, slotUsing_eq_some used least, setPortInService_eq, off]
    rfl
  · have taken : setPortOrder o s = applySetPort p o s := by
      simp only [setPortOrder, sourceIndex_of_val hp]
      cases found : slotUsing p s with
      | none => rfl
      | some n =>
        have user : s.store.slots[n].state ≠ .free ∧ isLeg s.store.slots[n] p = true := by
          simpa using List.find?_some found
        have on : setPortInService o = true := by
          rw [setPortInService_eq, decide_eq_true_iff]
          exact granted.resolve_right fun none => none n user
        exact if_pos on
    have changes : (monitorSet o s.monitors[p]).health ≠ s.monitors[p].health →
        healthHanded p s (updateMonitor p (monitorSet o s.monitors[p]) s) ∧
        (updateMonitor p (monitorSet o s.monitors[p]) s).monitors = s.monitors.set p (monitorSet o s.monitors[p]) :=
      updateMonitor_handed
    obtain ⟨free, orders⟩ : linkFree (updateMonitor p (monitorSet o s.monitors[p]) s) ∧
        (updateMonitor p (monitorSet o s.monitors[p]) s).orders = s.orders := by
      by_cases hh : (monitorSet o s.monitors[p]).health = s.monitors[p].health
      · rw [updateMonitor_same hh]
        exact ⟨h.1, rfl⟩
      · exact healthHanded_free (changes hh).1 h.1
    refine ⟨monitorSet o s.monitors[p], updateMonitor p (monitorSet o s.monitors[p]) s, _, exec_setPort h,
      monitorSet_portSet o _, updateMonitor_same, changes, ?_⟩
    rw [taken, applySetPort, wasClamped_eq o s.monitors[p]]
    exact finishOrder_reported _ _ (k := .dispatched) (by rw [orders, h.2.1]) (by simp) free.2.1 free.2.2

end Sys2Proof.Machine
end

section
/-! ### START: the header, and entry into RUNNING (01 sections 1.4.1 to 1.4.3) -/

namespace Sys2Proof.Machine

/-! ### Entry into RUNNING -/

/-- R66, R67: with nothing to do at a timeline the catch-up leaves it. -/
theorem catchUpTimeline_of_caughtUp {d : Fin 64} {s : State} (h : caughtUpAt d s) : catchUpTimeline d s = s := by
  rw [catchUpTimeline]
  cases e : s.store.timelines[d] with
  | nil => simp only [catchUpCloses, catchUpStart, catchUpPhase, headOf_nil e]
  | cons n rest =>
    have due := h n (by rw [e]; rfl)
    simp only [bookedEnd, finalEnd] at due
    have open_ : ¬finalEnd s.store.slots[n] ≤ nowMinute s := by
      simp only [finalEnd, nowMinute]
      omega
    have waits : ¬(s.store.slots[n].state = .accepted ∧ s.store.slots[n].start ≤ nowMinute s) := by
      rintro ⟨accepted, started⟩
      simp only [accepted, nowMinute, reduceCtorEq, false_and, or_false, true_and] at due started
      omega
    have runs : ¬(s.store.slots[n].state = .active ∧ bookedEnd s.store.slots[n] ≤ nowMinute s) := by
      rintro ⟨active, ended⟩
      simp only [active, bookedEnd, nowMinute, reduceCtorEq, false_and, or_false, false_or, true_and] at due ended
      omega
    rw [catchUpCloses, if_neg open_]
    simp only [catchUpStart, headOf_cons e, if_neg waits, catchUpPhase, if_neg runs]

theorem catchUp_of_caughtUp {s : State} (h : caughtUp s) : catchUp s = s := by
  have all : ∀ l : List (Fin 64), l.foldl (fun t d => catchUpTimeline d t) s = s := fun l => by
    induction l with
    | nil => rfl
    | cons d rest ih => rw [List.foldl_cons, catchUpTimeline_of_caughtUp (h d), ih]
  exact all _

/-- R18: taking an entry changes the order unit and the link's record alone. -/
theorem entryTaken_frame (s : State) : entryTaken s =
    { s with orders := (entryTaken s).orders, link := { s.link with log := (entryTaken s).link.log } } := by
  simp only [entryTaken]
  split
  · rfl
  · rfl

theorem flagSet_latched {f : Flag} {s : State} (h : permitted f s = true) : flagSet f (withLatched f s) = true := by
  have all : ∀ (g : Flag) (x : BitVec 7), (x ||| flagBit g) &&& flagBit g ≠ 0 := by
    intro g
    cases g <;> decide
  simpa [flagSet, withLatched, withFlags, h] using all f s.link.flags

/-- The part as it stands when the catch-up begins (R9, R165). -/
def resuming (s : State) : State :=
  withLatched .run { s with link := { s.link with run := .running, pageDue := true } }

theorem enterRunning_eq (s : State) : enterRunning s = takeEntry (catchUp (resuming s)) := by
  rw [resuming, ← latch_eq]
  rfl

section
variable {s : State} (hf : s.link.fatal = .none) (hg : s.link.gate = .open) (hu : s.orders.unit = .idle)
include hf hg

theorem resuming_open : linkOpen (resuming s) = true := by
  simp [linkOpen, readsOpen, writesDropped, resuming, withLatched, withFlags, hf, hg]

include hu

theorem resuming_calm : calm (resuming s) (catchUp (resuming s)) :=
  catchUp_calm ⟨resuming_open hf hg, hg, hu⟩

/-- R18: the next entry is taken as the manual says once the catch-up is done. -/
theorem enterRunning_taken : enterRunning s = entryTaken (catchUp (resuming s)) := by
  obtain ⟨⟨f, l, link⟩, -, -⟩ := resuming_calm hf hg hu
  rw [enterRunning_eq]
  refine takeEntry_taken fun _ => ?_
  have open_ := resuming_open hf hg
  simp only [linkOpen, readsOpen, Bool.and_eq_true] at open_
  simp only [readsOpen, link]
  exact open_.1

/-- R9, R65, R165: what entry into RUNNING leaves of the link, the clock and the monitors. -/
theorem enterRunning_leaves :
    (enterRunning s).link.run = .running ∧ (enterRunning s).link.start = s.link.start ∧
    (enterRunning s).link.lastStart = s.link.lastStart ∧ (enterRunning s).link.pageDue = true ∧
    (enterRunning s).link.haltWaiting = s.link.haltWaiting ∧ (enterRunning s).clock = s.clock ∧
    (enterRunning s).monitors = s.monitors ∧ (permitted .run s = true → flagSet .run (enterRunning s) = true) := by
  obtain ⟨⟨f, l, link⟩, -, flags⟩ := resuming_calm hf hg hu
  have clock : (catchUp (resuming s)).clock = s.clock := by simp [resuming, withLatched, withFlags]
  have monitors : (catchUp (resuming s)).monitors = s.monitors := by simp [resuming, withLatched, withFlags]
  rw [enterRunning_taken hf hg hu, entryTaken_frame]
  simp only [link, clock, monitors]
  refine ⟨rfl, rfl, rfl, rfl, rfl, trivial, trivial, fun hp => ?_⟩
  have latched := flags .run (by decide) (flagSet_latched (f := .run) (by simpa [permitted] using hp))
  simpa only [flagSet, link] using latched

/-- R66, R67: with nothing to catch up only the entry is taken. -/
theorem enterRunning_caughtUp (h : caughtUp s) : enterRunning s = entryTaken (resuming s) := by
  rw [enterRunning_taken hf hg hu, catchUp_of_caughtUp (s := resuming s) h]

/-- R65, R66: the catch-up takes the timelines in order of delivery port. -/
theorem enterRunning_catchesUp (hr : s.resetn = true) (h : bookingsLawful s) :
    ∃ u, portsCaughtUp (List.finRange 64) (resuming s) u ∧ enterRunning s = entryTaken u :=
  ⟨catchUp (resuming s), catchUp_at ⟨⟨hr, resuming_open hf hg, hg⟩, h⟩, enterRunning_taken hf hg hu⟩

end

/-! ### START in HELD and in RUNNING, and the end of the identity write -/

theorem fatal_of_linkOpen {s : State} (h : linkOpen s = true) : s.link.fatal = .none := by
  simp only [linkOpen, readsOpen, Bool.and_eq_true, decide_eq_true_eq] at h
  exact h.1.1

/-- Settles O26. -/
theorem startTakenInHeldOrRunning : Obligations.StartTakenInHeldOrRunning := by
  intro s hr
  have ran : exec .start s = .next (startCommand s) := exec_live hr (by simp) (by simp)
  have running (h : s.link.run = .running) : startCommand s = startRunning s := by rw [startCommand, h]
  have held (h : s.link.run = .held) : startCommand s = startHeld s := by rw [startCommand, h]
  refine ⟨fun hrun hw => ?_, fun hrun hw hf => ?_, fun hrun hf => ?_, fun hrun free hu => ?_⟩
  · rw [ran, running hrun, startRunning, if_neg (by simp [hw])]
  · have opened : readsOpen (setHaltWaiting false s) = true := by simp [readsOpen, setHaltWaiting, hf, hrun]
    rw [ran, running hrun, startRunning, if_pos hw, takeEntry_taken fun _ => opened]
    rfl
  · rw [ran, held hrun, startHeld, hf]
    rfl
  · have hf := fatal_of_linkOpen free.2.1
    have taken : startCommand s = enterRunning (setStart s.link.start .ok s) := by
      rw [held hrun, startHeld, hf]
    have hg : (setStart s.link.start .ok s).link.gate = .open := free.2.2
    obtain ⟨run, -, lastStart, pageDue, halt, clock, monitors, flag⟩ :=
      enterRunning_leaves (s := setStart s.link.start .ok s) hf hg hu
    rw [← taken] at run lastStart pageDue halt clock monitors flag
    exact ⟨_, ran, run, lastStart, pageDue, halt, clock, monitors, flag,
      fun h => taken.trans (enterRunning_caughtUp (s := setStart s.link.start .ok s) hf hg hu h),
      fun h => taken ▸ enterRunning_catchesUp (s := setStart s.link.start .ok s) hf hg hu hr h⟩

/-- Settles O29. -/
theorem identityWriteResumes : Obligations.IdentityWriteResumes := by
  intro s hr
  have ran : exec .identityWriteComplete s = .next (identityWriteComplete s) := exec_live hr (by simp) (by simp)
  refine ⟨fun hs => ?_, fun hs hf hg hu => ?_⟩
  · rw [ran, identityWriteComplete, if_neg fun e => hs e.1]
  · have open_ : startOpen s = true := by simp [startOpen, startInProgress, writesDropped, hs, hf, hg]
    have taken : identityWriteComplete s = enterRunning (setStart .idle s.link.lastStart s) := if_pos ⟨hs, open_⟩
    obtain ⟨run, start, lastStart, pageDue, -, clock, monitors, flag⟩ :=
      enterRunning_leaves (s := setStart .idle s.link.lastStart s) hf hg hu
    rw [← taken] at run start lastStart pageDue clock monitors flag
    exact ⟨_, ran, run, start, lastStart, pageDue, clock, monitors, flag,
      fun h => taken.trans (enterRunning_caughtUp (s := setStart .idle s.link.lastStart s) hf hg hu h),
      fun h => taken ▸ enterRunning_catchesUp (s := setStart .idle s.link.lastStart s) hf hg hu hr h⟩

/-! ### The checks of START (R10) -/

section
variable {bytes : Vector Byte 80} {s : State}

theorem headerWindows_eq (bytes : Vector Byte 80) : (headerOf bytes).windows =
    [windowDescriptor bytes 1, windowDescriptor bytes 2, windowDescriptor bytes 3] := rfl

/-- R10: something holds of one of the three descriptors. -/
theorem any_window {p : WindowDescriptor → Bool} : (headerOf bytes).windows.any p = true ↔
    ∃ k, 1 ≤ k ∧ k ≤ 3 ∧ p (windowDescriptor bytes k) = true := by
  rw [headerWindows_eq]
  simp only [List.any_cons, List.any_nil, Bool.or_false, Bool.or_eq_true]
  constructor
  · rintro (h | h | h)
    · exact ⟨1, by decide, by decide, h⟩
    · exact ⟨2, by decide, by decide, h⟩
    · exact ⟨3, by decide, by decide, h⟩
  · rintro ⟨k, low, high, h⟩
    obtain rfl | rfl | rfl : k = 1 ∨ k = 2 ∨ k = 3 := by omega
    · exact .inl h
    · exact .inr (.inl h)
    · exact .inr (.inr h)

theorem descriptorBad_iff (d : WindowDescriptor) : descriptorBad d = true ↔
    3 < d.permission ∨ d.permission ≠ 0 ∧
      (d.pages = 0 ∨ 262144 < d.pages ∨ d.base % 4096 ≠ 0 ∨ 2 ^ 64 < d.base + d.pages * 4096) := by
  rw [descriptorBad, Bool.or_eq_true, Bool.and_eq_true, decide_eq_true_iff, decide_eq_true_iff, decide_eq_true_iff]
  rfl

theorem windowBad_iff : (headerOf bytes).windows.any descriptorBad = true ↔ startFails bytes s .windowBad := by
  rw [any_window]
  simp only [descriptorBad_iff, startFails, headerWindow, Prod.mk.injEq]
  constructor
  · rintro ⟨k, low, high, bad⟩
    exact ⟨k, _, _, _, low, high, ⟨rfl, rfl, rfl⟩, bad⟩
  · rintro ⟨k, _, _, _, low, high, ⟨rfl, rfl, rfl⟩, bad⟩
    exact ⟨k, low, high, bad⟩

theorem slotOutside_iff (count : Nat) :
    slotOutside count s = true ↔ ∃ n : Fin 1024, count ≤ n.val ∧ s.store.slots[n].state ≠ .free := by
  simp [slotOutside]

/-- R2, R10: a window places a range where it gives READ+WRITE and covers it. -/
def windowPlaces (base length : Nat) (w : Option Window) : Bool :=
  match w with
  | some w => decide (w.permission = .readWrite) && windowCovers w base length
  | none => false

theorem placed_eq (h : Header) (base length : Nat) :
    placed h base length = h.windows.any fun d => windowPlaces base length (windowOf d) := rfl

theorem windowOf_places (k base length : Nat) : windowPlaces base length (windowOf (windowDescriptor bytes k)) = true ↔
    (headerWindow bytes k).2.2 = 3 ∧ (headerWindow bytes k).1 ≤ base ∧
      base + length ≤ (headerWindow bytes k).1 + (headerWindow bytes k).2.1 * 4096 := by
  have wbase : fieldAt bytes (16 + 16 * k) 8 % 18446744073709551616 = fieldAt bytes (16 + 16 * k) 8 :=
    Nat.mod_eq_of_lt (fieldAt_lt bytes _ 8)
  have pages : fieldAt bytes (24 + 16 * k) 4 % 4294967296 = fieldAt bytes (24 + 16 * k) 4 :=
    Nat.mod_eq_of_lt (fieldAt_lt bytes _ 4)
  simp only [windowPlaces, windowOf, windowDescriptor, headerWindow, windowPermission]
  by_cases h1 : fieldAt bytes (28 + 16 * k) 1 = 1
  · simp [h1]
  by_cases h2 : fieldAt bytes (28 + 16 * k) 1 = 2
  · simp [h2]
  by_cases h3 : fieldAt bytes (28 + 16 * k) 1 = 3
  · simp [h3, windowCovers, wbase, pages, Config.pageBytes]
  · simp [h1, h2, h3]

theorem placed_iff (base length : Nat) : (!placed (headerOf bytes) base length) = true ↔ unplaced bytes base length := by
  rw [Bool.not_eq_true', ← Bool.not_eq_true, placed_eq, any_window]
  simp only [windowOf_places, unplaced]
  constructor
  · intro none k low high wbase pages e covers
    exact none ⟨k, low, high, by rw [e]; exact ⟨rfl, covers⟩⟩
  · rintro none ⟨k, low, high, permission, covers⟩
    exact none k low high _ _ (Prod.ext rfl (Prod.ext rfl permission)) covers

theorem rangesOverlap_iff (a aLength b bLength : Nat) :
    rangesOverlap a aLength b bLength = true ↔ crosses a aLength b bLength := decide_eq_true_iff

/-- R10: each check of START fails as the manual says. -/
theorem startChecks_fails : ∀ x ∈ startChecks (headerOf bytes) s, x.1 = true ↔ startFails bytes s x.2 := by
  intro x hx
  simp only [startChecks, List.mem_cons, List.not_mem_nil, or_false] at hx
  obtain rfl | rfl | rfl | rfl | rfl | rfl := hx
  · exact decide_eq_true_iff
  · exact windowBad_iff
  · rw [Bool.or_eq_true, decide_eq_true_iff, slotOutside_iff, or_assoc]
    rfl
  · rw [Bool.or_eq_true, Bool.or_eq_true, decide_eq_true_iff, placed_iff, overlapsArea, rangesOverlap_iff, or_assoc]
    rfl
  · exact decide_eq_true_iff
  · rw [Bool.or_eq_true, Bool.or_eq_true, Bool.or_eq_true, decide_eq_true_iff, placed_iff, overlapsArea,
      rangesOverlap_iff, rangesOverlap_iff, or_assoc, or_assoc]
    rfl

/-- 01 section 1.2: the window a descriptor brings into force. -/
theorem windowOf_inForce (k : Nat) : windowOf (windowDescriptor bytes k) = windowInForce bytes k := by
  simp only [windowOf, windowDescriptor, windowInForce, headerWindow]
  match fieldAt bytes (28 + 16 * k) 1 with
  | 0 => rfl
  | 1 => rfl
  | 2 => rfl
  | 3 => rfl
  | n + 4 => simp [windowPermission]

theorem headerWindows_inForce (k : Fin 3) :
    ((headerOf bytes).windows[k.val]?).bind windowOf = windowInForce bytes (k.val + 1) := by
  rw [← windowOf_inForce]
  match k with
  | 0 => rfl
  | 1 => rfl
  | 2 => rfl

end

/-- A byte holds the number modulo 256. -/
theorem byte_eq_of_mod {n m : Nat} (same : n % 256 = m % 256) : (BitVec.ofNat 8 n : Byte) = BitVec.ofNat 8 m :=
  BitVec.eq_of_toNat_eq (by simpa only [BitVec.toNat_ofNat] using same)

/-- R175: the identity word of a revision. The revision of the silicon is opaque, and the kernel evaluates sums of
it by counting; over a variable it does not. -/
def identityOf (revision : Nat) : Nat := 0x4864 + 1 * 2 ^ 16 + revision * 2 ^ 24

theorem identityWord_eq : identityWord = identityOf Config.siliconRevision := rfl

/-- R175: the identity word, byte by byte. -/
theorem identityOf_bytes (revision : Nat) :
    le 4 (identityOf revision) =
      [BitVec.ofNat 8 100, BitVec.ofNat 8 72, BitVec.ofNat 8 1, BitVec.ofNat 8 revision] := by
  have word : identityOf revision = 84068 + revision * 16777216 := by unfold identityOf; omega
  have first : identityOf revision % 256 = 100 := by omega
  have second : identityOf revision / 256 % 256 = 72 := by omega
  have third : identityOf revision / 256 / 256 % 256 = 1 := by omega
  have last : identityOf revision / 256 / 256 / 256 % 256 = revision % 256 := by omega
  simp only [le]
  rw [byte_eq_of_mod (m := 100) first, byte_eq_of_mod (m := 72) second, byte_eq_of_mod (m := 1) third,
    byte_eq_of_mod last]

theorem identityWord_bytes :
    le 4 identityWord = [0x64, 0x48, 0x01, BitVec.ofNat 8 Config.siliconRevision] :=
  identityWord_eq ▸ identityOf_bytes _

/-- Settles O28. -/
theorem headerReadTaken : Obligations.HeaderReadTaken := by
  intro bytes s hr
  have ran : exec (.headerReadComplete bytes) s = .next (headerReadComplete bytes s) := exec_live hr (by simp) (by simp)
  refine ⟨fun hs => ?_, fun hs hf hg => ?_⟩
  · rw [ran, headerReadComplete, if_neg fun e => hs e.1]
  have open_ : startOpen s = true := by simp [startOpen, startInProgress, writesDropped, hs, hf, hg]
  have taken : headerReadComplete bytes s = headerTaken (headerOf bytes) s := if_pos ⟨hs, open_⟩
  refine ⟨fun earlier code later ho hn hc => ?_, fun hn => ?_⟩
  · have failed : startFailure (headerOf bytes) s = some code := firstFailing_eq_some startChecks_fails ho hn hc
    rw [ran, taken, headerTaken, failed]
    rfl
  · have passed : startFailure (headerOf bytes) s = none := firstFailing_eq_none startChecks_fails hn
    have gate : (takeHeader (headerOf bytes) s).link.gate = .open := hg
    have sent : headerReadComplete bytes s = record (.write (identityWrite s)) (takeHeader (headerOf bytes) s) := by
      rw [taken, headerTaken, passed]
      simp only [sendWrite, gate]
    refine ⟨_, ran, fun k => ?_, ?_⟩
    · rw [sent, ← headerWindows_inForce]
      exact build_getFin _ k
    · rw [sent, identityWrite, identityWord_bytes]
      rfl

end Sys2Proof.Machine
end

section
/-! ### EXTEND, CANCEL, and what the accesses behind a read do (04 sections 4.6, 4.7) -/

namespace Sys2Proof.Machine

/-- R24: a report does not look at the stage of its order. -/
theorem reported_stage {notify : Bool} {code : OutcomeCode} {result : List Byte} {x : UnitState} {u t : State}
    (h : reported notify code result { u with orders := { u.orders with unit := x } } t) :
    reported notify code result u t := h

/-- log 9: writes on a free link go out one after another, and what is behind them goes on. -/
theorem pump_writesThen (ws : List HostWrite) (l : List Access) {s : State} (k : linkFree s)
    (h : s.tickets.inFlight = none) :
    pump (ws.map Access.write ++ l) s = pump l (logged (ws.map .write) s) := by
  induction ws generalizing s with
  | nil => simp
  | cons w ws ih =>
    have e : beginAccess (.write w) s = logged [.write w] s := issue_open w k.2.1 k.2.2
    have hn : s.tickets.inFlight.isSome = false := by rw [h]; rfl
    simp only [List.map_cons, List.cons_append, pump, hn, Bool.false_eq_true, if_false, e]
    rw [ih (s := logged [.write w] s) k h]
    simp

/-- log 9: with no access in flight a report is made at once. -/
theorem pump_report {code : OutcomeCode} {result : List Byte} {s : State} (h : s.tickets.inFlight = none) :
    pump [.report code result] s = finishOrder code result s := by
  simp [pump, beginAccess, h]

/-! ### EXTEND (R59) -/

/-- R59: the grant is the smallest of the three. -/
theorem grantOf_split {n : Fin 1024} {k : Nat} {before after : List (Fin 1024)} {s : State}
    (h : s.store.timelines[s.store.slots[n].port] = before ++ n :: after) (hn : n ∉ before) :
    grantOf n k s = extensionGrant n k after s := by
  simp only [grantOf, extensionGrant, gapAfter, h, nextMember_split n before after hn]
  cases after with
  | nil => rfl
  | cons j rest => rfl

/-- R59: what a granted EXTEND makes of its booking, and the accesses it makes then. -/
theorem extendOrder_granted {o : Order} {n : Fin 1024} {before after : List (Fin 1024)} {s : State}
    (unit : s.orders.unit = .acting o .dispatched) (slot : slotIndex o.a.toNat s = some n)
    (h1 : 1 ≤ o.b.toNat) (h60 : o.b.toNat ≤ 60) (hc : closing n s = false) (hs : s.store.slots[n].state ≠ .free)
    (ht : s.store.timelines[s.store.slots[n].port] = before ++ n :: after) (hb : n ∉ before) :
    let grant := extensionGrant n o.b.toNat after s
    extendOrder o s =
      if grant = 0 then finishOrder (if s.store.slots[n].extension = 240 then .extendLimit else .conflict) [] s
      else submit [.write (recordWrite s n 28 (le 2 (s.store.slots[n].extension + grant))),
          .report (if grant < o.b.toNat then .clamped else .ok)
            (le 2 grant ++ le 2 (s.store.slots[n].extension + grant) ++ le 4 (finalEnd s.store.slots[n] + grant))]
        { extended n grant s with orders := { s.orders with unit := .acting o .queued } } := by
  intro grant
  have good : ¬(o.b = 0 ∨ 60 < o.b.toNat) := by
    rintro (z | big)
    · rw [z] at h1; exact absurd h1 (by decide)
    · omega
  have taken : extendOrder o s = grantExtension n o.b.toNat s := by
    simp only [extendOrder, slot, if_neg good, hc, Bool.false_eq_true, if_false, if_neg hs]
  have queued : setStage .queued s = { s with orders := { s.orders with unit := .acting o .queued } } := by
    simp only [setStage, unit]
    rfl
  have result : extendResult (extendedSlot s.store.slots[n] grant) grant =
      le 2 grant ++ le 2 (s.store.slots[n].extension + grant) ++ le 4 (finalEnd s.store.slots[n] + grant) := by
    simp only [extendResult, extendedSlot, finalEnd, ← Nat.add_assoc]
  rw [taken, grantExtension, grantOf_split ht hb, queued, result]
  rfl

/-- Settles O49. -/
theorem extendTaken : Obligations.ExtendTaken := by
  intro o s h
  refine ⟨fun bad => handed_refused h (exec_extend h) ?_, fun n hn hcount => ?_⟩
  · rw [extendOrder, slotIndex_of_bad bad]
  have slot := slotIndex_of_val hn hcount
  refine ⟨fun bad => handed_refused h (exec_extend h) ?_, fun h1 h60 hc => ?_,
    fun h1 h60 hc hs => handed_refused h (exec_extend h) ?_, fun h1 h60 hc hs before after ht hb => ?_⟩
  · have bad' : o.b = 0 ∨ 60 < o.b.toNat := bad.imp_left fun z => BitVec.eq_of_toNat_eq z
    simp only [extendOrder, slot, if_pos bad']
  all_goals
    have good : ¬(o.b = 0 ∨ 60 < o.b.toNat) := by
      rintro (z | big)
      · rw [z] at h1; exact absurd h1 (by decide)
      · omega
  · simp only [exec_extend h, extendOrder, slot, if_neg good, if_pos hc]
  · simp only [extendOrder, slot, if_neg good, hc, Bool.false_eq_true, if_false, if_pos hs]
  have granted := extendOrder_granted h.2.1 slot h1 h60 hc hs ht hb
  refine ⟨fun zero => handed_refused h (exec_extend h) (granted.trans (if_pos zero)), fun pos => ?_⟩
  have waits := granted.trans (if_neg (by omega))
  refine ⟨fun idle => ?_, fun hi => ?_⟩
  · obtain ⟨hi, hw⟩ := idle
    refine ⟨_, exec_extend h, ?_⟩
    rw [waits, submit_idle _ (by exact hw)]
    refine reported_stage (x := .acting o .queued) ?_
    have free : linkFree { extended n (extensionGrant n o.b.toNat after s) s with
        orders := { s.orders with unit := .acting o .queued } } := h.1
    have writes := fun w l => pump_writesThen [w] l free hi
    simp only [List.map_cons, List.map_nil, List.cons_append, List.nil_append] at writes
    rw [writes, pump_report (by exact hi)]
    exact finishOrder_reported _ _ rfl (by simp) h.1.2.1 h.1.2.2
  · obtain ⟨a, ha⟩ := Option.ne_none_iff_exists'.mp hi
    rw [exec_extend h, waits, submit_behind _ (by exact ha)]
    rfl

/-! ### CANCEL (R61, R62) -/

/-- R57: a port whose next member activates at the minute of the close is asked for nothing. -/
theorem successorActivates_iff (d : Fin 64) (minute : Nat) (s : State) : successorActivates d minute s = true ↔
    ∃ k, s.store.timelines[d].head? = some k ∧ s.store.slots[k].state = .accepted ∧ s.store.slots[k].start = minute := by
  rw [successorActivates]
  cases s.store.timelines[d] with
  | nil => simp
  | cons k rest => simp

/-- R56, R57: the first part of the close of an on-air booking, wherever it stands in its timeline. -/
theorem beginClose_member (n : Fin 1024) (minute : Nat) (s : State) :
    let b := s.store.slots[n]
    let u := beginClose n minute s
    storeWorked s u ∧
    u.store = { s.store with
      timelines := s.store.timelines.set b.port (s.store.timelines[b.port].filter fun k => decide (k ≠ n)) } ∧
    ((∀ k ∈ s.store.timelines[b.port], k ≠ n → s.store.slots[k].start ≠ minute) → u.rows = blackAsked b.port s) ∧
    u.tariffs = s.tariffs ∧ sourcesTold s u ∧ u.tickets = s.tickets ∧ hostWrites u = hostWrites s ∧
    (∃ l, u.link.log = s.link.log ++ l) ∧ u.accounts = s.accounts := by
  intro b u
  obtain ⟨w, hw, begun⟩ : ∃ w : State, (w = leaveTimeline n s ∨ w = request b.port .black .close (leaveTimeline n s)) ∧
      u = deriveSources w := by
    refine ⟨_, ?_, rfl⟩
    split
    · exact .inl rfl
    · exact .inr rfl
  obtain ⟨worked, store, tariffs, alarm, flags, tickets, writes, log, accounts⟩ : storeWorked s w ∧
      w.store = (leaveTimeline n s).store ∧ w.tariffs = s.tariffs ∧ w.alarm = s.alarm ∧
      w.link.flags = s.link.flags ∧ w.tickets = s.tickets ∧ hostWrites w = hostWrites s ∧
      w.link.log = s.link.log ∧ w.accounts = s.accounts := by
    obtain rfl | rfl := hw
    · exact ⟨⟨rfl, fun _ _ => rfl⟩, rfl, rfl, rfl, rfl, rfl, rfl, rfl, rfl⟩
    · exact ⟨⟨rfl, fun _ _ => rfl⟩, rfl, rfl, rfl, rfl, rfl, rfl, rfl, rfl⟩
  refine ⟨?_, ?_, fun alone => ?_, ?_, ?_, ?_, ?_, ?_, ?_⟩
  · rw [begun]
    exact storeWorked_trans worked (deriveSources_worked w)
  · rw [begun]
    simp only [deriveSources_keeps, store]
    rfl
  · have none : successorActivates b.port minute (leaveTimeline n s) = false := by
      rw [← Bool.not_eq_true, successorActivates_iff]
      rintro ⟨k, hk, -, hs⟩
      have left : (leaveTimeline n s).store.timelines[b.port] =
          s.store.timelines[b.port].filter fun k => decide (k ≠ n) := Vector.getElem_set_self ..
      obtain ⟨member, other⟩ := List.mem_filter.mp (left ▸ List.mem_of_mem_head? hk)
      exact alone k member (by simpa using other) hs
    have asked : u = deriveSources (request b.port .black .close (leaveTimeline n s)) :=
      congrArg deriveSources (if_neg (by rw [Bool.not_eq_true]; exact none))
    rw [asked]
    simp only [deriveSources_keeps, request, setRow, requestRow, blackAsked, eq_comm (a := Source.black)]
    rfl
  · rw [begun]; simp [tariffs]
  · rw [begun]
    exact sourcesTold_around (deriveSources_told w) alarm flags rfl rfl rfl rfl rfl rfl rfl
  · rw [begun]; simp [tickets]
  · rw [begun, deriveSources_writes, writes]
  · rw [begun]
    obtain ⟨l, e⟩ := deriveSources_log w
    exact ⟨l, e.trans (by rw [log])⟩
  · rw [begun]; simp [accounts]

/-- R56, R57, R149: an on-air booking closes, and its close is handed over. -/
theorem closeOnAir_member (n : Fin 1024) (minute : Nat) (forOrder : Bool) {s : State} (free : linkFree s)
    (tidy : s.tickets.inFlight = none → s.tickets.waiting = []) :
    let b := s.store.slots[n]
    let t := closeOnAir n minute true forOrder s
    ∃ r, r.slot = n ∧ r.closeMinute = minute ∧ r.forOrder = forOrder ∧ meterFields n s r ∧ raisingFrom r s t ∧
      storeWorked s t ∧
      t.store = { s.store with
        timelines := s.store.timelines.set b.port (s.store.timelines[b.port].filter fun k => decide (k ≠ n)) } ∧
      onAirTicket n s r.ticket ∧ t.tariffs = s.tariffs ∧ sourcesTold s t ∧
      ((∀ k ∈ s.store.timelines[b.port], k ≠ n → s.store.slots[k].start ≠ minute) → t.rows = blackAsked b.port s) := by
  obtain ⟨b1, b2, b3, b4, b5, b6, b7, b8, b9⟩ := beginClose_member n minute s
  simp only [closeOnAir, if_true, settleClose]
  generalize beginClose n minute s = v at *
  obtain ⟨r1, r2, r3, r4, r5, r6⟩ := raise_handed (closeRaise .booking n minute forOrder v) (storeWorked_free b1 free)
    (by rw [b6]; exact tidy)
  refine ⟨closeRaise .booking n minute forOrder v, rfl, rfl, rfl, ?_, raisingFrom_after r1 b6 b7 b8 b9,
    storeWorked_trans b1 r2, r3.trans b2, closeTicket_onAir n (by rw [b2]) b4, r5.trans b4, ?_, fun alone => r4.trans (b3 alone)⟩
  · simp only [meterFields, closeRaise, b4, and_self]
  · exact sourcesTold_around b5 rfl rfl r6.1 r6.2 (storeWorked_permissions r2) (by rw [r3]) (by rw [r3]) r4
      (storeWorked_monitors r2)

/-- R61: the part once an ACCEPTED booking has left its timeline, its meter being `m`. -/
def acceptedLeft (n : Fin 1024) (m : Meter) (s : State) : State := setMeter n m (leaveTimeline n s)

/-- R61, R149: the close of an ACCEPTED booking that has left its timeline is handed over. -/
theorem settleClose_accepted (kind : TicketKind) (n : Fin 1024) (minute : Nat) {m : Meter} {s : State}
    (free : linkFree s) (tidy : s.tickets.inFlight = none → s.tickets.waiting = [])
    (hm : { m with startBand := s.tariffs.meters[n].startBand } = s.tariffs.meters[n]) :
    let b := s.store.slots[n]
    let t := settleClose kind n minute true (acceptedLeft n m s)
    let r := closeRaise kind n minute true (acceptedLeft n m s)
    meterFields n s r ∧ raisingFrom r s t ∧ storeWorked s t ∧
    t.store = { s.store with
      timelines := s.store.timelines.set b.port (s.store.timelines[b.port].filter fun k => decide (k ≠ n)) } ∧
    t.rows = s.rows ∧ t.tariffs = { s.tariffs with meters := s.tariffs.meters.set n m } ∧ alarmStands s t := by
  intro b t r
  obtain ⟨r1, r2, r3, r4, r5, r6⟩ := raise_handed r (s := acceptedLeft n m s) free tidy
  have meter : (acceptedLeft n m s).tariffs.meters[n] = m := by simp [acceptedLeft, setMeter]
  refine ⟨?_, raisingFrom_after r1 rfl rfl ⟨[], (List.append_nil _).symm⟩ rfl, storeWorked_trans ⟨rfl, fun _ _ => rfl⟩ r2,
    r3, r4, r5, r6⟩
  unfold meterFields
  rw [← hm]
  simp only [r, closeRaise, meter, and_self]

/-- R61: the cancel of an ACCEPTED booking is late below the cutoff of its class. -/
theorem lateCancel_iff {b : Slot} {table : Tariff} {s : State} (h : s.tariffs.current = some table) :
    lateCancel b s = true ↔ b.start - s.clock.minute.toNat < table.classes[b.cls].cutoff := by
  simp [lateCancel, cutoffOf, h, nowMinute]

/-- R61, R152: the charge of a late cancel, its meter holding the start band. -/
theorem chargeOf_late {n : Fin 1024} {band : Band} {table : Tariff} {m : Meter} {s : State}
    (h : s.tariffs.current = some table) (hm : m.startBand = some band) :
    chargeOf .lateCancel n (acceptedLeft n m s) =
      table.classes[s.store.slots[n].cls].minimum * bandValue band table.classes[s.store.slots[n].cls].rate := by
  have current : (acceptedLeft n m s).tariffs.current = some table := h
  have banded : (bandedMeter n (acceptedLeft n m s)).startBand = some band := by
    simp [bandedMeter, acceptedLeft, setMeter, hm]
  simp only [chargeOf, current, startRate, banded]
  rfl

/-- R61, R149, R152: the cancel of an ACCEPTED booking. -/
theorem cancelAccepted_closed (n : Fin 1024) {s : State} (free : linkFree s)
    (tidy : s.tickets.inFlight = none → s.tickets.waiting = []) :
    let b := s.store.slots[n]
    let now := s.clock.minute.toNat
    let t := cancelAccepted n s
    ∃ r, r.slot = n ∧ r.closeMinute = now ∧ r.forOrder = true ∧ ticketOf b n r.ticket ∧ meterFields n s r ∧
      raisingFrom r s t ∧ storeWorked s t ∧
      t.store = { s.store with
        timelines := s.store.timelines.set b.port (s.store.timelines[b.port].filter fun k => decide (k ≠ n)) } ∧
      ∀ table, s.tariffs.current = some table →
        let late := b.start - now < table.classes[b.cls].cutoff
        let band := table.bands[Fin.ofNat 168 (b.start / 60 % 168)]
        t.rows = s.rows ∧ alarmStands s t ∧ r.ticket.minute = b.start ∧ r.ticket.charged = 0 ∧ r.ticket.outage = 0 ∧
        (late → r.ticket.kind = .lateCancel ∧
          r.ticket.charge = table.classes[b.cls].minimum * bandValue band table.classes[b.cls].rate ∧
          t.tariffs = { s.tariffs with meters := s.tariffs.meters.set n { s.tariffs.meters[n] with startBand := some band } }) ∧
        (¬late → r.ticket.kind = .cancel ∧ r.ticket.charge = 0 ∧ t.tariffs = s.tariffs) := by
  intro b now t
  by_cases late : lateCancel b s = true
  · obtain ⟨c1, c2, c3, c4, c5, c6, c7⟩ := settleClose_accepted .lateCancel n now (s := s) (m :=
      { s.tariffs.meters[n] with startBand := currentBand b.start s }) free tidy rfl
    have taken : t = settleClose .lateCancel n now true (acceptedLeft n
        { s.tariffs.meters[n] with startBand := currentBand b.start s } s) := if_pos late
    rw [← taken] at c2 c3 c4 c5 c6 c7
    refine ⟨_, rfl, rfl, rfl, ⟨rfl, rfl, rfl, rfl, rfl⟩, c1, c2, c3, c4, fun table ht =>
      ⟨c5, c7, rfl, rfl, rfl, fun _ => ⟨rfl, ?_, ?_⟩, fun e => absurd ((lateCancel_iff ht).mp late) e⟩⟩
    · exact chargeOf_late ht (by rw [currentBand, ht]; rfl)
    · rw [c6, currentBand, ht]
      rfl
  · have stays : acceptedLeft n s.tariffs.meters[n] s = leaveTimeline n s := by
      have same : s.tariffs.meters.set n s.tariffs.meters[n] = s.tariffs.meters := Vector.set_getElem_self ..
      simp only [acceptedLeft, setMeter, leaveTimeline, setTimeline, same]
    obtain ⟨c1, c2, c3, c4, c5, c6, c7⟩ := settleClose_accepted .cancel n now (s := s) free tidy
      (rfl : { s.tariffs.meters[n] with startBand := s.tariffs.meters[n].startBand } = s.tariffs.meters[n])
    have taken : t = settleClose .cancel n now true (acceptedLeft n s.tariffs.meters[n] s) := by
      rw [stays]
      exact if_neg late
    rw [← taken] at c2 c3 c4 c5 c6 c7
    refine ⟨_, rfl, rfl, rfl, ⟨rfl, rfl, rfl, rfl, rfl⟩, c1, c2, c3, c4, fun table ht =>
      ⟨c5, c7, rfl, rfl, rfl, fun e => absurd ((lateCancel_iff ht).mpr e) late, fun _ => ⟨rfl, rfl, ?_⟩⟩⟩
    rw [c6]
    have same : s.tariffs.meters.set n s.tariffs.meters[n] = s.tariffs.meters := Vector.set_getElem_self ..
    rw [same]

/-- Settles O48. -/
theorem cancelTaken : Obligations.CancelTaken := by
  intro o s h
  refine ⟨fun bad => handed_refused h (exec_cancel h) ?_, fun n hn hcount => ?_⟩
  · rw [cancelOrder, slotIndex_of_bad bad]
  have slot := slotIndex_of_val hn hcount
  refine ⟨fun hc => ?_, fun hc hs => handed_refused h (exec_cancel h) ?_, fun hc hs tidy => ?_⟩
  · simp only [exec_cancel h, cancelOrder, slot, if_pos hc]
  · simp only [cancelOrder, slot, hc, Bool.false_eq_true, if_false, hs]
  · by_cases accepted : s.store.slots[n].state = .accepted
    · have taken : cancelOrder o s = cancelAccepted n { s with orders := { s.orders with unit := .acting o .queued } } := by
        rw [← handed_setStage h]
        simp only [cancelOrder, slot, hc, Bool.false_eq_true, if_false, accepted]
      obtain ⟨r, r1, r2, r3, r4, r5, r6, r7, r8, r9⟩ := cancelAccepted_closed n
        (s := { s with orders := { s.orders with unit := .acting o .queued } }) h.1 tidy
      exact ⟨r, _, (exec_cancel h).trans (congrArg _ taken), r1, r2, r3, r4, r5, r6, r7, r8, fun _ => r9,
        fun e => absurd accepted e⟩
    · have taken : cancelOrder o s = closeOnAir n s.clock.minute.toNat true true
          { s with orders := { s.orders with unit := .acting o .queued } } := by
        rw [← handed_setStage h]
        simp only [cancelOrder, slot, hc, Bool.false_eq_true, if_false]
        cases state : s.store.slots[n].state with
        | free => exact absurd state hs
        | accepted => exact absurd state accepted
        | active => rfl
        | overrun => rfl
      obtain ⟨r, r1, r2, r3, r4, r5, r6, r7, r8, r9, r10, r11⟩ := closeOnAir_member n s.clock.minute.toNat true
        (s := { s with orders := { s.orders with unit := .acting o .queued } }) h.1 tidy
      exact ⟨r, _, (exec_cancel h).trans (congrArg _ taken), r1, r2, r3, r8.1, r4, r5, r6, r7,
        fun e => absurd e accepted, fun _ => ⟨r8, r9, r10, r11⟩⟩

end Sys2Proof.Machine
end

section
/-! ### The closes handed over, and the reads their tickets wait for (04 section 4.5, 10 section 10.3) -/

namespace Sys2Proof.Machine

/-- R166: with no tick of a boundary outstanding the page logic does nothing more. -/
theorem settlePage_none {s : State} (h : s.link.pageTicks = []) : settlePage s = s := by
  have e : ({ s with link := { s.link with pageTicks := [] } } : State) = s := by rw [← h]
  simp only [settlePage, h, List.takeWhile_nil, List.dropWhile_nil, takeOwed, List.foldl_nil]
  exact e

/-! ### RATING_RELEASE (R58, R141) -/

/-- R163: how many closes of the boundary the re-check still waits for once one more has been handed over. -/
def recheckLeft (holds : List Hold) (waits : Option Nat) : Option Nat :=
  match waits with
  | some (k + 2) => if holds = [] then none else some (k + 1)
  | _ => none

/-- R163: the re-check made behind a close, the last it waited for. -/
def recheckBehind (holds : List Hold) (waits : Option Nat) : List Access :=
  if waits.isSome = true ∧ recheckLeft holds waits = none then [.recheck] else []

/-- R163, log 9: once a close of the boundary has been handed over, the re-check is made behind it or waits on. -/
theorem recheck_behind {s : State} {a : Access} (h : s.tickets.inFlight = some a) :
    lastRecheck (countRecheck s) = { s with tickets := { s.tickets with
      recheckIn := recheckLeft s.store.holds s.tickets.recheckIn
      waiting := s.tickets.waiting ++ recheckBehind s.store.holds s.tickets.recheckIn } } := by
  have made : ∀ v : State, v.tickets.inFlight = some a → makeRecheck v = { v with
      tickets := { v.tickets with
        recheckIn := none
        waiting := v.tickets.waiting ++ [.recheck] } } := fun v hv => submit_behind _ (by exact hv)
  have stays : ∀ v : State, v.tickets.recheckIn = none → lastRecheck v = v := fun v hv => by simp [lastRecheck, hv]
  match e : s.tickets.recheckIn with
  | none =>
    have count : countRecheck s = s := by simp only [countRecheck, e]
    have nothing : recheckBehind s.store.holds none = [] := rfl
    rw [count, stays s e, nothing, List.append_nil]
    show s = { s with tickets := { s.tickets with recheckIn := none } }
    rw [← e]
  | some 0 =>
    have count : countRecheck s = makeRecheck s := by simp only [countRecheck, e]
    rw [count, made s h, stays _ rfl]
    rfl
  | some 1 =>
    have count : countRecheck s = makeRecheck s := by simp only [countRecheck, e]
    rw [count, made s h, stays _ rfl]
    rfl
  | some (k + 2) =>
    have count : countRecheck s = { s with tickets := { s.tickets with recheckIn := some (k + 1) } } := by
      simp only [countRecheck, e]
    rw [count]
    by_cases last : s.store.holds = []
    · have now : lastRecheck { s with tickets := { s.tickets with recheckIn := some (k + 1) } } =
          makeRecheck { s with tickets := { s.tickets with recheckIn := some (k + 1) } } :=
        if_pos (by simp [last])
      rw [now, made _ (by exact h)]
      simp [recheckLeft, recheckBehind, last]
    · simp [lastRecheck, recheckLeft, recheckBehind, last]

/-- Settles O58. -/
theorem ratingReleased : Obligations.RatingReleased := by
  intro s free noTicks tidy
  have ran : exec .ratingRelease s = .next (settlePage (releaseFirst s)) := exec_live free.1 (by simp) (by simp)
  refine ⟨fun none => ?_, fun h rest holds => ⟨fun waits => ?_, fun counted => ?_⟩⟩
  · rw [ran, releaseFirst, none, settlePage_none noTicks]
  · simp only [ran, releaseFirst, holds, waits, Bool.false_eq_true, if_false, settlePage_none noTicks]
  · have released : releaseFirst s = lastRecheck (countRecheck
        (settleClose .booking h.slot h.closeMinute false { s with store := { s.store with holds := rest } })) := by
      simp only [releaseFirst, holds, counted, if_true]
    obtain ⟨v, hv, handed, worked, store, rows, tariffs, alarm⟩ : ∃ v,
        settleClose .booking h.slot h.closeMinute false { s with store := { s.store with holds := rest } } = v ∧
        raisingFrom (closeRaise .booking h.slot h.closeMinute false { s with store := { s.store with holds := rest } })
          { s with store := { s.store with holds := rest } } v ∧
        storeWorked { s with store := { s.store with holds := rest } } v ∧
        v.store = { s.store with holds := rest } ∧ v.rows = s.rows ∧ v.tariffs = s.tariffs ∧ alarmStands s v :=
      ⟨_, rfl, raise_handed _ (by exact free) (by exact tidy)⟩
    rw [hv] at released
    have waits : v.tickets.recheckIn = s.tickets.recheckIn := raisingFrom_recheck handed
    obtain ⟨writes, added, begun, behind⟩ := handed
    obtain ⟨a, inFlight⟩ : ∃ a, v.tickets.inFlight = some a := by
      by_cases hi : s.tickets.inFlight = none
      · exact ⟨_, by rw [(begun hi).1]⟩
      · rw [behind hi]
        exact Option.ne_none_iff_exists'.mp hi
    have holds' : v.store.holds = rest := by rw [store]
    rw [recheck_behind inFlight, waits, holds'] at released
    have noTicks' : (releaseFirst s).link.pageTicks = [] := by
      rw [released, worked.1]
      exact noTicks
    refine ⟨closeRaise .booking h.slot h.closeMinute false { s with store := { s.store with holds := rest } }, _,
      ran.trans (congrArg _ (settlePage_none noTicks')), rfl, rfl, rfl,
      closeTicket_onAir h.slot rfl rfl, ⟨rfl, rfl, rfl, rfl⟩, ?_⟩
    rw [released]
    refine ⟨writes, added, fun hi => ⟨(begun hi).2, ?_⟩, fun hi => ?_, store, ?_, rows, tariffs, alarm⟩
    · rw [(begun hi).1]
      simp only [tidy hi, List.nil_append]
      rfl
    · rw [behind hi]
      simp only [List.append_assoc]
      rfl
    · exact storeWorked_trans (storeWorked_trans (t := { s with store := { s.store with holds := rest } })
        ⟨rfl, fun _ _ => rfl⟩ worked) ⟨rfl, fun _ _ => rfl⟩

end Sys2Proof.Machine
end

section
/-! ### The read of a ticket slot: the end of a close, CLOSE MATCH and the re-check (10 sections 10.2, 10.3) -/

namespace Sys2Proof.Machine

/-! ### Tickets at the flags, the ring and the accounts -/

/-- From s to u only the ticket state `k`, the accounts, the alarm items, the flags and the traffic have changed, and no
write has gone out. -/
def ticketFrame (k : Tickets) (s u : State) : Prop :=
  hostWrites u = hostWrites s ∧
  u = { s with
    accounts := u.accounts
    alarm := { s.alarm with items := u.alarm.items }
    tickets := k
    link := { s.link with
      flags := u.link.flags
      log := u.link.log } }

/-- R161, R163: a blocked ring is unblocked, with item 49. -/
theorem unblockRing_eq (s : State) :
    (s.tickets.blocked = false → unblockRing s = s) ∧
    (s.tickets.blocked = true → unblockRing s = withAlarm
      { s.alarm with items := s.alarm.items.set 49 (itemAt s.alarm.items[49] 0) }
      { s with tickets := { s.tickets with blocked := false } }) := by
  refine ⟨fun h => if_neg (by simp [h]), fun h => ?_⟩
  rw [unblockRing, if_pos h, setSeverity, setAlarm_eq]
  rfl

/-- R162: a ring that was not blocked becomes blocked, with item 49. -/
theorem blockRing_eq (s : State) :
    (s.tickets.blocked = true → blockRing s = s) ∧
    (s.tickets.blocked = false → blockRing s = withAlarm
      { s.alarm with items := s.alarm.items.set 49 (itemAt s.alarm.items[49] 2) }
      { s with tickets := { s.tickets with blocked := true } }) := by
  refine ⟨fun h => if_pos h, fun h => ?_⟩
  rw [blockRing, if_neg (by simp [h]), setSeverity, setAlarm_eq]
  rfl

/-- R161, R163: a ticket has been written. -/
theorem ticketWritten_told {ring : Ring} {s : State} (h : s.tickets.ring = some ring) :
    ticketFrame { s.tickets with
      writePosition := positionAfter ring s
      blocked := false } s (ticketWritten s) ∧ ticketTold false s (ticketWritten s) ∧
    (ticketWritten s).accounts = s.accounts := by
  have position : nextPosition s.tickets = positionAfter ring s := by simp only [nextPosition, h, positionAfter]
  rw [ticketWritten, latch_eq, position]
  obtain ⟨stands, falls⟩ := unblockRing_eq (withLatched .ticket
    { s with tickets := { s.tickets with writePosition := positionAfter ring s } })
  by_cases blocked : s.tickets.blocked = true
  · rw [falls blocked]
    exact ⟨⟨(hostWrites_withAlarm _ _).trans (hostWrites_withLatched _ _), rfl⟩,
      ⟨fun e => absurd (blocked.symm.trans e) (by simp), fun _ => ⟨rfl, rfl⟩⟩, rfl⟩
  · rw [Bool.not_eq_true] at blocked
    rw [stands blocked]
    refine ⟨⟨hostWrites_withLatched _ _, ?_⟩, ⟨fun _ => ⟨rfl, rfl⟩, fun e => absurd blocked e⟩, rfl⟩
    simp only [withLatched, withFlags, ← blocked]

/-- R155: what a change of the account of a match makes of the accounts, in any state that has them. -/
theorem changeAccount_eq (m : Nat) (f : Account → Account) (s : State) : ∃ accounts,
    (∀ t : State, t.accounts = s.accounts → changeAccount m f t = { t with accounts := accounts }) ∧
    (∀ k, accountOf m s = some k → accounts = s.accounts.set k (f s.accounts[k])) ∧
    (accountOf m s = none → accounts = s.accounts) := by
  have same : ∀ t : State, t.accounts = s.accounts → accountOf m t = accountOf m s := fun t ht => by
    simp only [accountOf, ht]
  cases found : accountOf m s with
  | none =>
    refine ⟨s.accounts, fun t ht => ?_, fun k h => absurd h (by simp), fun _ => rfl⟩
    simp only [changeAccount, same t ht, found, ← ht]
  | some k =>
    refine ⟨s.accounts.set k (f s.accounts[k]), fun t ht => ?_, fun j h => ?_, fun h => absurd h (by simp)⟩
    · simp only [changeAccount, same t ht, found, setAccount, ht]
    · obtain rfl := Option.some.inj h
      rfl

/-- R162, R164: the ticket of a close is lost, and the ring becomes blocked. -/
theorem ticketLost_told (r : Raise) (s : State) :
    ticketFrame { s.tickets with
      lost := s.tickets.lost + 1
      blocked := true } s (blockRing (loseRaise r s)) ∧ ticketTold true s (blockRing (loseRaise r s)) ∧
    (∀ k, accountOf r.ticket.matchNumber s = some k → (blockRing (loseRaise r s)).accounts =
      s.accounts.set k { s.accounts[k] with unwritten := satAdd 65535 s.accounts[k].unwritten 1 }) ∧
    (accountOf r.ticket.matchNumber s = none → (blockRing (loseRaise r s)).accounts = s.accounts) := by
  obtain ⟨accounts, changed, found, missing⟩ :=
    changeAccount_eq r.ticket.matchNumber (fun a => { a with unwritten := satAdd 65535 a.unwritten 1 }) s
  have lost : loseRaise r s = withLatched .ticketLost { s with
      accounts := accounts
      tickets := { s.tickets with lost := s.tickets.lost + 1 } } :=
    (latch_eq _ _).trans (congrArg (withLatched .ticketLost)
      (changed { s with tickets := { s.tickets with lost := s.tickets.lost + 1 } } rfl))
  obtain ⟨stands, rises⟩ := blockRing_eq (loseRaise r s)
  rw [lost] at stands rises ⊢
  by_cases blocked : s.tickets.blocked = true
  · rw [stands blocked]
    refine ⟨⟨hostWrites_withLatched _ _, ?_⟩, ⟨fun _ => ⟨rfl, rfl⟩, fun e => absurd blocked e⟩, found, missing⟩
    simp only [withLatched, withFlags, ← blocked]
  · rw [Bool.not_eq_true] at blocked
    rw [rises blocked]
    exact ⟨⟨(hostWrites_withAlarm _ _).trans (hostWrites_withLatched _ _), rfl⟩,
      ⟨fun e => absurd (blocked.symm.trans e) (by simp), fun _ => ⟨rfl, rfl⟩⟩, found, missing⟩

/-! ### The end of a close (R48, R149, R155) -/

/-- The account of a match is found again once it has changed, if it is still OPEN with its match number. -/
theorem accountOf_set {m : Nat} {k : Fin 128} {a : Account} {s t : State} (h : accountOf m s = some k)
    (ht : t.accounts = s.accounts.set k a) (ho : a.isOpen = true) (hm : a.matchNumber = m) : accountOf m t = some k := by
  obtain ⟨openK, matchK⟩ := accountOf_some h
  rw [← h]
  refine congrArg (List.find? · (List.finRange 128)) (funext fun j => ?_)
  rw [ht]
  by_cases e : j = k
  · subst e
    simp only [Fin.getElem_fin, Vector.getElem_set_self, ho, hm] at openK matchK ⊢
    simp only [openK, matchK]
  · have : k.val ≠ j.val := fun x => e (Fin.ext x.symm)
    simp only [Fin.getElem_fin, Vector.getElem_set_ne _ _ this]

/-- R56, R155: what the end of a close leaves. -/
theorem endClose_eq (r : Raise) (s : State) : ∃ accounts,
    endClose r s = { s with
      store := { s.store with slots := s.store.slots.set r.slot { s.store.slots[r.slot] with state := .free } }
      accounts := accounts } ∧
    (∀ k, accountOf r.ticket.matchNumber s = some k → accounts = s.accounts.set k
      { s.accounts[k] with openCount := s.accounts[k].openCount - 1 }) ∧
    (accountOf r.ticket.matchNumber s = none → accounts = s.accounts) := by
  obtain ⟨accounts, changed, found, missing⟩ := changeAccount_eq r.ticket.matchNumber lowerOpen s
  exact ⟨accounts, by rw [endClose, changed s rfl]; rfl, found, missing⟩

/-- What the ticket of a close, written or lost, makes of its account (R162). -/
def unwrittenTold (lost : Bool) (r : Raise) (s p : State) : Prop :=
  (∀ k, accountOf r.ticket.matchNumber s = some k → p.accounts = s.accounts.set k { s.accounts[k] with
    unwritten := if lost then min 65535 (s.accounts[k].unwritten + 1) else s.accounts[k].unwritten }) ∧
  (accountOf r.ticket.matchNumber s = none → p.accounts = s.accounts)

/-- From s to p the ticket of a close has been written, its writes `ws` with it, or lost; an access may still be in
flight. -/
def ticketSettled (lost : Bool) (ring : Ring) (a : Option Access) (ws : List HostWrite) (s p : State) : Prop :=
  hostWrites p = hostWrites s ++ ws ∧ ticketTold lost s p ∧
  p = { s with
    accounts := p.accounts
    alarm := { s.alarm with items := p.alarm.items }
    tickets := { s.tickets with
      inFlight := a
      writePosition := if lost then s.tickets.writePosition else positionAfter ring s
      lost := if lost then s.tickets.lost + 1 else s.tickets.lost
      blocked := lost }
    link := { s.link with
      flags := p.link.flags
      log := p.link.log } }

/-- R48, R56, R155: behind its ticket the record of a close is written, its open count falls and its slot is FREE. -/
theorem closeTaken_of {lost : Bool} {r : Raise} {ring : Ring} {a : Option Access} {s p : State}
    (settled : ticketSettled lost ring a (if lost then [] else ticketWrites r.ticket s) s p)
    (told : unwrittenTold lost r s p) :
    closeTaken lost r ring s (endClose r (setInFlight none (logged ((closeWrites r s).map .write) p))) := by
  obtain ⟨writes, flags, frame⟩ := settled
  obtain ⟨accounts, ended, found, missing⟩ :=
    endClose_eq r (setInFlight none (logged ((closeWrites r s).map .write) p))
  rw [ended]
  refine ⟨?_, ⟨fun k h => ?_, fun h => ?_⟩, ?_, flags⟩
  · simp only [closeTraffic, hostWrites, setInFlight, logged, writesOf_append, writesOf_writes] at writes ⊢
    rw [writes, List.append_assoc]
  · have set := told.1 k h
    have again : accountOf r.ticket.matchNumber (setInFlight none (logged ((closeWrites r s).map .write) p)) = some k :=
      accountOf_set h set (accountOf_some h).1 (accountOf_some h).2
    refine (found k again).trans ?_
    simp only [setInFlight, logged, set, Fin.getElem_fin, Vector.getElem_set_self, Vector.set_set]
  · have same := told.2 h
    refine (missing ?_).trans same
    simpa only [accountOf, setInFlight, logged, same] using h
  · rw [frame]
    rfl

/-- The read of a ticket slot leaves the link free. -/
theorem ticketSettled_free {lost : Bool} {ring : Ring} {a : Option Access} {ws : List HostWrite} {s p : State}
    (settled : ticketSettled lost ring a ws s p) (k : linkFree s) : linkFree p := by
  obtain ⟨-, -, frame⟩ := settled
  rw [frame]
  exact k

/-- R161: on a free link a ticket is written into its slot, an access `a` in flight meanwhile. -/
theorem ticketWritten_settled (x : Ticket) (a : Access) {ring : Ring} {s : State} (k : linkFree s)
    (hr : s.tickets.ring = some ring) :
    let q := issueAll (ticketWrites x s) (setInFlight (some a) s)
    q.tickets.inFlight = some a ∧ ticketSettled false ring (some a) (ticketWrites x s) s (ticketWritten q) ∧
    (ticketWritten q).accounts = s.accounts := by
  have out : issueAll (ticketWrites x s) (setInFlight (some a) s) =
      logged ((ticketWrites x s).map .write) (setInFlight (some a) s) := issueAll_open _ (by exact k.2.1) (by exact k.2.2)
  obtain ⟨⟨writes, frame⟩, flags, accounts⟩ :=
    ticketWritten_told (s := logged ((ticketWrites x s).map .write) (setInFlight (some a) s)) hr
  simp only [out]
  refine ⟨rfl, ⟨?_, flags, ?_⟩, accounts⟩
  · rw [writes]
    simp [hostWrites, logged, setInFlight]
  · rw [frame]
    rfl

/-- R162, R164: a ticket is lost. -/
theorem ticketLost_settled (r : Raise) (ring : Ring) (s : State) :
    ticketSettled true ring none [] s (blockRing (loseRaise r (setInFlight none s))) ∧
    unwrittenTold true r s (blockRing (loseRaise r (setInFlight none s))) := by
  obtain ⟨⟨writes, frame⟩, flags, found, missing⟩ := ticketLost_told r (setInFlight none s)
  refine ⟨⟨writes.trans (List.append_nil _).symm, flags, ?_⟩, found, missing⟩
  rw [frame]
  rfl

/-- R48: the record of a close goes out on a free link. -/
theorem recordClose_open {lost : Bool} {ring : Ring} {a : Option Access} {ws : List HostWrite} {s p : State}
    (settled : ticketSettled lost ring a ws s p) (r : Raise) (k : linkFree s) :
    recordClose r p = logged ((closeWrites r s).map .write) p := by
  have free := ticketSettled_free settled k
  obtain ⟨-, -, frame⟩ := settled
  have same : closeWrites r p = closeWrites r s := by
    rw [frame]
    rfl
  rw [recordClose, same]
  exact issueAll_open _ free.2.1 free.2.2

/-- R161, R162: the read of the slot for a close: the close has come to its end, and a CANCEL is reported. -/
theorem raiseRead_taken (r : Raise) (empty : Bool) {ring : Ring} {s : State} (k : linkFree s)
    (hr : s.tickets.ring = some ring) : ∃ u, closeTaken (!empty) r ring s u ∧
      raiseRead r empty s =
        if r.forOrder then finishOrder .ok (cancelResult r s.tickets.number) u else u := by
  cases empty with
  | true =>
    obtain ⟨inFlight, settled, accounts⟩ := ticketWritten_settled r.ticket (.closeWrite r) (s := s) k hr
    have told : unwrittenTold false r s
        (ticketWritten (issueAll (ticketWrites r.ticket s) (setInFlight (some (.closeWrite r)) s))) := by
      refine ⟨fun j _ => ?_, fun _ => accounts⟩
      exact accounts.trans (Vector.set_getElem_self ..).symm
    have begun : ∀ p : State, p.tickets.inFlight = some (.closeWrite r) → p.tickets.inFlight.isSome = true :=
      fun p e => by rw [e]; rfl
    have recorded : (recordClose r (ticketWritten (issueAll (ticketWrites r.ticket s)
        (setInFlight (some (.closeWrite r)) s)))).tickets.inFlight = some (.closeWrite r) := by
      rw [recordClose_open settled r k]
      exact congrArg (fun p : State => p.tickets.inFlight) settled.2.2
    refine ⟨_, closeTaken_of settled told, ?_⟩
    rw [← recordClose_open settled r k]
    exact (if_pos (begun _ inFlight)).trans (if_pos (begun _ recorded))
  | false =>
    obtain ⟨settled, told⟩ := ticketLost_settled r ring s
    have out := recordClose_open settled r k
    have kept : setInFlight none (recordClose r (blockRing (loseRaise r (setInFlight none s)))) =
        recordClose r (blockRing (loseRaise r (setInFlight none s))) := by
      rw [out]
      obtain ⟨-, -, frame⟩ := settled
      rw [frame]
      rfl
    have number : (blockRing (loseRaise r (setInFlight none s))).tickets.number = s.tickets.number :=
      (congrArg (fun p : State => p.tickets.number) settled.2.2).trans rfl
    refine ⟨_, closeTaken_of settled told, ?_⟩
    rw [← out, kept, ← number]
    rfl

/-! ### CLOSE MATCH and the re-check (R157, R163) -/

/-- R157, R161: the MATCH_TOTAL ticket is written into an EMPTY slot, and the account is FREE. -/
theorem totalRead_taken (k : Fin 128) (minute : Nat) {ring : Ring} {s : State} (free : linkFree s)
    (hr : s.tickets.ring = some ring) : ∃ u, totalTaken k minute ring s u ∧
      totalRead k minute true s =
        finishOrder .ok (accountBytes s.accounts[k] ++ le 4 (s.tickets.number + 1).toNat) u := by
  let x := totalTicket s.accounts[k] minute
  have out : issueAll (ticketWrites x (numbered s)) (setInFlight (some (.totalWrite k)) (raiseNumber s)) =
      logged ((ticketWrites x (numbered s)).map .write) (setInFlight (some (.totalWrite k)) (raiseNumber s)) :=
    issueAll_open _ (by exact free.2.1) (by exact free.2.2)
  obtain ⟨⟨writes, frame⟩, flags, accounts⟩ := ticketWritten_told (ring := ring)
    (s := setInFlight none (logged ((ticketWrites x (numbered s)).map .write) (raiseNumber s))) hr
  refine ⟨freeAccountSlot k (ticketWritten
    (setInFlight none (logged ((ticketWrites x (numbered s)).map .write) (raiseNumber s)))), ⟨?_, flags, ?_⟩, ?_⟩
  · refine Eq.trans ?_ (writes.trans ?_)
    · rfl
    · simp [hostWrites, logged, setInFlight, raiseNumber, x]
  · rw [freeAccountSlot, setAccount, accounts, frame]
    rfl
  · have begun : (issueAll (ticketWrites x (numbered s))
        (setInFlight (some (.totalWrite k)) (raiseNumber s))).tickets.inFlight.isSome = true := by
      rw [out]
      rfl
    refine (if_pos begun).trans ?_
    exact (congrArg (fun q => finishOrder .ok (accountBytes s.accounts[k] ++ le 4 (s.tickets.number + 1).toNat)
      (freeAccountSlot k (ticketWritten (setInFlight none q)))) out).trans rfl

/-! ### The accesses behind the read -/

/-- The link stays free, and the accesses, the ring and the ticks that the page logic owes stand. -/
def stillFree (s t : State) : Prop := linkFree t ∧ t.tickets = s.tickets ∧ t.link.pageTicks = s.link.pageTicks

/-- R24: an order that is reported leaves the link free. -/
theorem finishOrder_free (code : OutcomeCode) (result : List Byte) {s : State} (k : linkFree s) :
    stillFree s (finishOrder code result s) := by
  have done : ∀ o stage, s.orders.unit = .acting o stage → stage ≠ .stopped → stillFree s (finishOrder code result s) :=
    fun o stage hu hs => by
      have told := finishOrder_reported code result hu hs k.2.1 k.2.2
      obtain ⟨free, tickets⟩ := reported_free told k
      refine ⟨free, tickets, ?_⟩
      rw [told.2]
  cases unit : s.orders.unit with
  | idle => simp only [finishOrder, unit]; exact ⟨k, rfl, rfl⟩
  | reading => simp only [finishOrder, unit]; exact ⟨k, rfl, rfl⟩
  | reporting => simp only [finishOrder, unit]; exact ⟨k, rfl, rfl⟩
  | acting o stage =>
    cases stage with
    | stopped => simp only [finishOrder, unit]; exact ⟨k, rfl, rfl⟩
    | dispatched => exact done o _ unit (by simp)
    | queued => exact done o _ unit (by simp)
    | segmentRead => exact done o _ unit (by simp)

/-- log 9: what waited goes on without a tick being owed to the page logic. -/
theorem beginAccess_free (a : Access) {s : State} (k : linkFree s) :
    linkFree (beginAccess a s) ∧ (beginAccess a s).link.pageTicks = s.link.pageTicks := by
  have reads : ∀ (n : Nat) (at_ : Address) (v : State), v.link = s.link → v.resetn = s.resetn →
      linkFree (issueRead at_ n v) ∧ (issueRead at_ n v).link.pageTicks = s.link.pageTicks := by
    intro n at_ v hl hr
    have free : linkFree v := linkFree_congr hr hl k
    have out : issueRead at_ n v = record (.read at_ n) v := if_pos (readsOpen_of_linkOpen free.2.1)
    rw [out]
    exact ⟨free, show v.link.pageTicks = s.link.pageTicks by rw [hl]⟩
  cases a with
  | write w =>
    have out : beginAccess (.write w) s = logged [.write w] s := issue_open w k.2.1 k.2.2
    rw [out]
    exact ⟨k, rfl⟩
  | report code result =>
    obtain ⟨free, -, ticks⟩ := finishOrder_free code result k
    exact ⟨free, ticks⟩
  | raise r =>
    simp only [beginAccess, k.2.1, if_true]
    exact reads 1 _ (raiseNumber s) rfl rfl
  | totalCheck j minute =>
    simp only [beginAccess, readsOpen_of_linkOpen k.2.1, if_true]
    exact reads 1 _ s rfl rfl
  | recordRead n =>
    simp only [beginAccess, readsOpen_of_linkOpen k.2.1, if_true]
    exact reads 20 _ s rfl rfl
  | recheck =>
    simp only [beginAccess]
    split
    · exact reads 1 _ s rfl rfl
    · exact ⟨k, rfl⟩
  | closeWrite r => exact ⟨k, rfl⟩
  | totalWrite j => exact ⟨k, rfl⟩

theorem pump_free (l : List Access) {s : State} (k : linkFree s) :
    linkFree (pump l s) ∧ (pump l s).link.pageTicks = s.link.pageTicks := by
  induction l generalizing s with
  | nil => exact ⟨k, rfl⟩
  | cons a rest ih =>
    simp only [pump]
    split
    · exact ⟨k, rfl⟩
    · obtain ⟨free, ticks⟩ := beginAccess_free a k
      obtain ⟨free', ticks'⟩ := ih free
      exact ⟨free', ticks'.trans ticks⟩

/-- log 9, R166: once a read has been taken in v, what waited goes on, and no tick of a boundary is outstanding. -/
theorem goesOn_of {state : Byte} {ring : Ring} {s v : State} (hr : s.resetn = true)
    (taken : ticketSlotRead state s = pumpWaiting v) (free : linkFree v) (inFlight : v.tickets.inFlight = none)
    (placed : v.tickets.ring = some ring) (waiting : v.tickets.waiting = s.tickets.waiting)
    (noTicks : v.link.pageTicks = []) :
    ∃ t, exec (.ticketSlotReadComplete state) s = .next t ∧
      waitingTaken ring s.tickets.waiting { v with tickets := { v.tickets with waiting := [] } } t := by
  refine ⟨ticketSlotRead state s, ?_, ?_⟩
  · have ran : exec (.ticketSlotReadComplete state) s = .next (settlePage (ticketSlotRead state s)) :=
      exec_live hr (by simp) (by simp)
    rw [ran, settlePage_none]
    rw [taken]
    exact (pump_free v.tickets.waiting (s := { v with tickets := { v.tickets with waiting := [] } }) free).2.trans noTicks
  · rw [taken, ← waiting]
    exact pump_taken ring v.tickets.waiting (v := { v with tickets := { v.tickets with waiting := [] } }) free inFlight rfl
      placed

/-- Settles O59. -/
theorem ticketSlotReadTaken : Obligations.TicketSlotReadTaken := by
  intro state s ring free placed noTicks idle goesOn
  refine ⟨fun none => ?_, fun r inFlight => ?_, fun k minute o inFlight unit => ⟨fun full => ?_, fun empty => ?_⟩,
    fun inFlight => ⟨fun stays => ?_, fun empty blocked => ?_⟩⟩
  · have ran : exec (.ticketSlotReadComplete state) s = .next (settlePage (ticketSlotRead state s)) :=
      exec_live free.1 (by simp) (by simp)
    have stands : ticketSlotRead state s = s := by simp only [ticketSlotRead, none]
    rw [ran, stands, settlePage_none noTicks]
  · obtain ⟨u, closed, taken⟩ := raiseRead_taken r (state == 0) free placed
    have lost : (!(state == 0)) = (state != 0) := rfl
    rw [lost] at closed
    have frame := closed.2.2.1
    have freeU : linkFree u := by
      rw [frame]
      exact free
    obtain ⟨freeV, ticketsV, ticksV⟩ : stillFree u (raiseRead r (state == 0) s) := by
      rw [taken]
      split
      · exact finishOrder_free _ _ freeU
      · exact ⟨freeU, rfl, rfl⟩
    obtain ⟨t, on⟩ := goesOn_of (state := state) (ring := ring) (v := raiseRead r (state == 0) s) free.1
      (by simp only [ticketSlotRead, inFlight]) freeV (by rw [ticketsV, frame]) (by rw [ticketsV, frame]; exact placed)
      (by rw [ticketsV, frame]) (by rw [ticksV, frame]; exact noTicks)
    refine ⟨u, _, t, on, closed, fun h => ?_, fun o h unit => ?_⟩
    · rw [taken, if_neg (by simp [h])]
    · rw [taken, if_pos h]
      exact finishOrder_reported _ _ (by rw [frame]; exact unit) (by simp) freeU.2.1 freeU.2.2
  · have taken : ticketSlotRead state s = pumpWaiting (finishOrder .ringFull (accountBytes s.accounts[k]) idle) := by
      simp only [ticketSlotRead, inFlight, beq_eq_false_iff_ne.mpr full, totalRead, Bool.false_eq_true, if_false]
      rfl
    obtain ⟨freeV, ticketsV, ticksV⟩ := finishOrder_free .ringFull (accountBytes s.accounts[k]) (s := idle) free
    obtain ⟨t, on⟩ := goesOn_of (ring := ring) free.1 taken freeV (by rw [ticketsV]) (by rw [ticketsV]; exact placed)
      (by rw [ticketsV]) (ticksV.trans noTicks)
    exact ⟨_, t, on, finishOrder_reported (u := idle) _ _ unit (by simp) free.2.1 free.2.2⟩
  · obtain ⟨u, total, read⟩ := totalRead_taken k minute free placed
    have frame := total.2.2
    have freeU : linkFree u := by
      rw [frame]
      exact free
    have taken : ticketSlotRead state s =
        pumpWaiting (finishOrder .ok (accountBytes s.accounts[k] ++ le 4 (s.tickets.number + 1).toNat) u) := by
      simp only [ticketSlotRead, inFlight, empty, beq_self_eq_true, read]
    obtain ⟨freeV, ticketsV, ticksV⟩ :=
      finishOrder_free .ok (accountBytes s.accounts[k] ++ le 4 (s.tickets.number + 1).toNat) freeU
    obtain ⟨t, on⟩ := goesOn_of (ring := ring) free.1 taken freeV (by rw [ticketsV, frame])
      (by rw [ticketsV, frame]; exact placed) (by rw [ticketsV, frame]) (by rw [ticksV, frame]; exact noTicks)
    exact ⟨u, _, t, on, total, finishOrder_reported _ _ (by rw [frame]; exact unit) (by simp) freeU.2.1 freeU.2.2⟩
  · have taken : ticketSlotRead state s = pumpWaiting idle := by
      simp only [ticketSlotRead, inFlight]
      obtain full | unblocked := stays
      · rw [beq_eq_false_iff_ne.mpr full]
        rfl
      · rw [(unblockRing_eq (setInFlight none s)).1 unblocked, ite_self]
        rfl
    exact goesOn_of free.1 taken free rfl placed rfl noTicks
  · have taken : ticketSlotRead state s = pumpWaiting (withAlarm
        { s.alarm with items := s.alarm.items.set 49 { severity := 0, acked := 0 } }
        { idle with tickets := { idle.tickets with blocked := false } }) := by
      simp only [ticketSlotRead, inFlight, empty, beq_self_eq_true, if_true]
      rw [(unblockRing_eq (setInFlight none s)).2 blocked]
      have zero : itemAt s.alarm.items[49] 0 = { severity := 0, acked := 0 } := by
        simp [itemAt]
      simp only [setInFlight, zero]
      rfl
    exact goesOn_of free.1 taken free rfl placed rfl noTicks

end Sys2Proof.Machine
end

section
/-! ### BOOK with its record read (04 section 4.4) -/

namespace Sys2Proof.Machine

/-! ### Checks that suppose the ones before them -/

section
variable {α : Type} (P : α → Prop)

/-- Each check of a list fails where P says so, supposing that those before it have passed. -/
def checksAgree (checks : List (Bool × α)) : Prop :=
  match checks with
  | [] => True
  | x :: rest => (x.1 = true ↔ P x.2) ∧ (¬P x.2 → checksAgree rest)

variable {P}

theorem firstFailing_of_agree {checks : List (Bool × α)} (hb : checksAgree P checks) {earlier later : List α} {c : α}
    (ho : checks.map (·.2) = earlier ++ c :: later) (hn : ∀ x ∈ earlier, ¬P x) (hc : P c) :
    (checks.find? (·.1)).map (·.2) = some c := by
  induction checks generalizing earlier with
  | nil => simp at ho
  | cons x rest ih =>
    obtain ⟨hx, hrest⟩ := hb
    cases earlier with
    | nil =>
      obtain ⟨rfl, -⟩ := List.cons.inj ho
      rw [List.find?_cons_of_pos (hx.mpr hc)]
      rfl
    | cons e earlier =>
      obtain ⟨rfl, tail⟩ := List.cons.inj ho
      have passed := hn _ (List.mem_cons_self ..)
      rw [List.find?_cons_of_neg (mt hx.mp passed)]
      exact ih (hrest passed) tail fun y hy => hn y (List.mem_cons_of_mem _ hy)

theorem noneFailing_of_agree {checks : List (Bool × α)} (hb : checksAgree P checks)
    (hn : ∀ x ∈ checks.map (·.2), ¬P x) : (checks.find? (·.1)).map (·.2) = none := by
  induction checks with
  | nil => rfl
  | cons x rest ih =>
    obtain ⟨hx, hrest⟩ := hb
    have passed := hn _ (List.mem_cons_self ..)
    rw [List.find?_cons_of_neg (mt hx.mp passed)]
    exact ih (hrest passed) fun y hy => hn y (List.mem_cons_of_mem _ hy)

end

/-! ### The checks of BOOK (R50) -/

section
variable {bytes : Vector Byte 20} {s : State}

theorem hasBackup_eq (bytes : Vector Byte 20) : (bookRecordOf bytes).hasBackup = recordHasBackup bytes := by
  simp only [bookRecordOf, recordHasBackup, Nat.testBit_eq_decide_div_mod_eq, Nat.pow_zero, Nat.div_one]
  rfl

theorem revertive_eq (bytes : Vector Byte 20) : (bookRecordOf bytes).revertive = recordRevertive bytes := by
  simp only [bookRecordOf, recordRevertive, Nat.testBit_eq_decide_div_mod_eq, Nat.pow_one]
  rfl

theorem badPort_iff : ((decide (63 < (bookRecordOf bytes).port ∨ 47 < (bookRecordOf bytes).primary) ||
    ((bookRecordOf bytes).hasBackup && decide (47 < (bookRecordOf bytes).backup))) = true) ↔ bookFails bytes s .badPort := by
  rw [hasBackup_eq]
  simp only [Bool.or_eq_true, decide_eq_true_eq, Bool.and_eq_true, or_assoc]
  rfl

/-- R50: the ports of a record that passes check 3 are those it names. -/
theorem ports_of_passed (h : ¬bookFails bytes s .badPort) :
    (slotOfRecord (bookRecordOf bytes)).port.val = recordPort bytes ∧
    (slotOfRecord (bookRecordOf bytes)).primary.val = recordPrimary bytes ∧
    (slotOfRecord (bookRecordOf bytes)).backup.map (·.val) =
      (if recordHasBackup bytes then some (recordBackup bytes) else none) := by
  simp only [bookFails, not_or, not_and, Nat.not_lt] at h
  obtain ⟨port, primary, backup⟩ := h
  refine ⟨Nat.mod_eq_of_lt (Nat.lt_succ_of_le port), Nat.mod_eq_of_lt (Nat.lt_succ_of_le primary), ?_⟩
  simp only [slotOfRecord, hasBackup_eq]
  by_cases has : recordHasBackup bytes = true
  · rw [if_pos has, if_pos has]
    exact congrArg some (Nat.mod_eq_of_lt (Nat.lt_succ_of_le (backup has)))
  · rw [if_neg has, if_neg has]
    rfl

theorem outOfService_iff (p : Fin 48) (s : State) : outOfService p s = true ↔ s.monitors[p].health = .outOfService :=
  decide_eq_true_iff

/-- R50, check 5: a leg is OUT_OF_SERVICE. -/
theorem legOut_iff (b : Slot) (s : State) : legOut b s = true ↔
    ∃ p, (b.primary = p ∨ b.backup = some p) ∧ s.monitors[p].health = .outOfService := by
  rw [legOut, Bool.or_eq_true, outOfService_iff]
  cases backup : b.backup with
  | none => simp
  | some q =>
    simp only [outOfService_iff]
    constructor
    · rintro (out | out)
      · exact ⟨_, .inl rfl, out⟩
      · exact ⟨_, .inr rfl, out⟩
    · rintro ⟨p, rfl | same, out⟩
      · exact .inl out
      · exact .inr (Option.some.inj same ▸ out)

theorem portOut_iff (h : ¬bookFails bytes s .badPort) :
    legOut (slotOfRecord (bookRecordOf bytes)) s = true ↔ bookFails bytes s .portOut := by
  obtain ⟨-, primary, backup⟩ := ports_of_passed h
  have first : ∀ p : Fin 48, (slotOfRecord (bookRecordOf bytes)).primary = p ↔ p.val = recordPrimary bytes :=
    fun p => ⟨fun e => e ▸ primary, fun e => Fin.ext (primary.trans e.symm)⟩
  have second : ∀ p : Fin 48, (slotOfRecord (bookRecordOf bytes)).backup = some p ↔
      recordHasBackup bytes = true ∧ p.val = recordBackup bytes := fun p => by
    cases leg : (slotOfRecord (bookRecordOf bytes)).backup with
    | none =>
      rw [leg] at backup
      by_cases has : recordHasBackup bytes = true
      · rw [if_pos has] at backup
        exact absurd backup (by simp)
      · exact ⟨fun e => absurd e (by simp), fun e => absurd e.1 has⟩
    | some q =>
      rw [leg] at backup
      by_cases has : recordHasBackup bytes = true
      · rw [if_pos has] at backup
        have named : q.val = recordBackup bytes := Option.some.inj backup
        exact ⟨fun e => ⟨has, Option.some.inj e ▸ named⟩, fun e => congrArg some (Fin.ext (named.trans e.2.symm))⟩
      · rw [if_neg has] at backup
        exact absurd backup (by simp)
  simp only [legOut_iff, first, second]
  rfl

theorem conflict_find (h : ¬bookFails bytes s .badPort) {d : Fin 64} (hd : d.val = recordPort bytes) :
    conflictOf (slotOfRecord (bookRecordOf bytes)) s =
      s.store.timelines[d].find? fun k => overlaps (slotOfRecord (bookRecordOf bytes)) s.store.slots[k] := by
  obtain ⟨port, -, -⟩ := ports_of_passed h
  obtain rfl : (slotOfRecord (bookRecordOf bytes)).port = d := Fin.ext (port.trans hd.symm)
  rfl

theorem overlaps_iff (b : Slot) : overlaps (slotOfRecord (bookRecordOf bytes)) b = true ↔ recordCrosses bytes b := by
  simp only [overlaps, decide_eq_true_eq, recordCrosses]
  rfl

theorem conflict_iff (h : ¬bookFails bytes s .badPort) :
    (conflictOf (slotOfRecord (bookRecordOf bytes)) s).isSome = true ↔ bookFails bytes s .conflict := by
  obtain ⟨port, -, -⟩ := ports_of_passed h
  rw [conflict_find h port, List.find?_isSome]
  simp only [overlaps_iff]
  exact ⟨fun x => ⟨_, port, x⟩, fun ⟨d, hd, x⟩ => Fin.ext (port.trans hd.symm) ▸ x⟩

/-- R50: the ten checks, in their order. -/
theorem bookChecks_agree (bytes : Vector Byte 20) (s : State) :
    checksAgree (bookFails bytes s) (bookChecks (bookRecordOf bytes) s) := by
  refine ⟨Option.isNone_iff_eq_none, fun _ => ⟨decide_eq_true_iff, fun _ => ⟨badPort_iff, fun inRange => ⟨?_, fun _ =>
    ⟨portOut_iff inRange, fun _ => ⟨decide_eq_true_iff, fun _ => ⟨decide_eq_true_iff, fun _ => ⟨decide_eq_true_iff, fun _ =>
      ⟨conflict_iff inRange, fun _ => ⟨?_, fun _ => trivial⟩⟩⟩⟩⟩⟩⟩⟩⟩⟩
  · simp only [hasBackup_eq, Bool.and_eq_true, decide_eq_true_eq]
    rfl
  · simp only [Bool.or_eq_true, decide_eq_true_eq, Bool.and_eq_true, Option.isNone_iff_eq_none]
    rfl

/-- R50: the code that refuses a record is that of the first check that fails. -/
theorem bookRefusal_first {earlier later : List OutcomeCode} {c : OutcomeCode}
    (ho : bookOrderOfChecks = earlier ++ c :: later) (hn : ∀ x ∈ earlier, ¬bookFails bytes s x) (hc : bookFails bytes s c) :
    bookRefusal (bookRecordOf bytes) s = some c :=
  firstFailing_of_agree (bookChecks_agree bytes s) ho hn hc

theorem bookRefusal_passed (h : ∀ x ∈ bookOrderOfChecks, ¬bookFails bytes s x) :
    bookRefusal (bookRecordOf bytes) s = none :=
  noneFailing_of_agree (bookChecks_agree bytes s) h

/-- R50, check 9: the earliest member that the interval overlaps, and the result that gives it. -/
theorem conflict_result (h : ¬bookFails bytes s .badPort) (hc : bookFails bytes s .conflict) :
    ∃ (d : Fin 64) (before : List (Fin 1024)) (k : Fin 1024) (after : List (Fin 1024)),
      d.val = recordPort bytes ∧ s.store.timelines[d] = before ++ k :: after ∧ recordCrosses bytes s.store.slots[k] ∧
      (∀ j ∈ before, ¬recordCrosses bytes s.store.slots[j]) ∧
      refusalResult .conflict (bookRecordOf bytes) s = zeros 16 ++ le 4 k.val := by
  obtain ⟨port, -, -⟩ := ports_of_passed h
  obtain ⟨k, found⟩ := Option.isSome_iff_exists.mp ((conflict_iff h).mpr hc)
  have search := found
  rw [conflict_find h port, List.find?_eq_some_iff_append] at search
  obtain ⟨crosses, before, after, split, clear⟩ := search
  refine ⟨_, before, k, after, port, split, (overlaps_iff _).mp crosses, fun j hj x => ?_, ?_⟩
  · have quiet := clear j hj
    rw [(overlaps_iff _).mpr x] at quiet
    exact absurd quiet (by simp)
  · rw [refusalResult, if_pos rfl, found]
    rfl

/-- R51: what BOOK fills a slot with from a record that has passed its checks. -/
theorem slotFilled_of_passed (h : ∀ x ∈ bookOrderOfChecks, ¬bookFails bytes s x) :
    slotFilled bytes (slotOfRecord (bookRecordOf bytes)) := by
  have badClass : ¬bookFails bytes s .badClass := h _ (by simp [bookOrderOfChecks])
  obtain ⟨port, primary, backup⟩ := ports_of_passed (h .badPort (by simp [bookOrderOfChecks]))
  refine ⟨rfl, port, primary, backup, ?_, rfl, ?_, ?_, rfl, rfl, rfl, rfl, ?_⟩
  · exact Nat.mod_eq_of_lt (Nat.lt_succ_of_le (Nat.not_lt.mp badClass))
  · exact BitVec.toNat_ofNat .. |>.trans (Nat.mod_eq_of_lt (fieldAt_lt bytes 6 1))
  · exact BitVec.toNat_ofNat .. |>.trans (Nat.mod_eq_of_lt (fieldAt_lt bytes 16 4))
  · simp only [slotOfRecord, revertive_eq]

/-- R154: a booking that is accepted counts in the account of its match, which opens where there is none. -/
theorem openBooking_eq (m : Nat) (s : State) : ∃ accounts, (∀ t : State, t.accounts = s.accounts →
      openBooking m t = { t with accounts := accounts }) ∧
    (∀ k, accountOf m s = some k →
      accounts = s.accounts.set k { s.accounts[k] with openCount := s.accounts[k].openCount + 1 }) ∧
    (accountOf m s = none → ∀ k, freeAccount s = some k → accounts = s.accounts.set k (openedAccount m)) := by
  have same : ∀ t : State, t.accounts = s.accounts → accountOf m t = accountOf m s ∧ freeAccount t = freeAccount s :=
    fun t ht => by simp only [accountOf, freeAccount, ht, and_self]
  cases found : accountOf m s with
  | some k =>
    refine ⟨s.accounts.set k { s.accounts[k] with openCount := s.accounts[k].openCount + 1 }, fun t ht => ?_,
      fun j h => ?_, fun h => absurd h (by simp)⟩
    · simp only [openBooking, (same t ht).1, found, setAccount, ht]
    · obtain rfl := Option.some.inj h
      rfl
  | none =>
    cases free : freeAccount s with
    | some k =>
      refine ⟨s.accounts.set k (openedAccount m), fun t ht => ?_, fun j h => absurd h (by simp), fun _ j h => ?_⟩
      · simp only [openBooking, (same t ht).1, (same t ht).2, found, free, setAccount, ht]
      · obtain rfl := Option.some.inj h
        rfl
    | none =>
      refine ⟨s.accounts, fun t ht => ?_, fun j h => absurd h (by simp), fun _ j h => absurd h (by simp)⟩
      simp only [openBooking, (same t ht).1, (same t ht).2, found, free, ← ht]

/-- R45, R51, R154: what an accepted booking leaves inside the part. -/
theorem acceptBooking_eq (n : Fin 1024) (b : Slot) (s : State) :
    ∃ before after u, acceptBooking n b s = u ∧ s.store.timelines[b.port] = before ++ after ∧
      (∀ k ∈ before, u.store.slots[k].start ≤ b.start) ∧ (∀ k, after.head? = some k → b.start < u.store.slots[k].start) ∧
      (∀ k, accountOf b.matchNumber s = some k →
        u.accounts = s.accounts.set k { s.accounts[k] with openCount := s.accounts[k].openCount + 1 }) ∧
      (accountOf b.matchNumber s = none → ∀ k, freeAccount s = some k →
        u.accounts = s.accounts.set k (openedAccount b.matchNumber)) ∧
      u = { s with
        store := { s.store with
          slots := s.store.slots.set n b
          timelines := s.store.timelines.set b.port (before ++ n :: after) }
        accounts := u.accounts
        tariffs := { s.tariffs with meters := s.tariffs.meters.set n Meter.cleared } } := by
  obtain ⟨before, after, split, joined, low, high⟩ :=
    insertByStart_split (s.store.slots.set n b) n s.store.timelines[b.port]
  obtain ⟨accounts, opened, counted, fresh⟩ := openBooking_eq b.matchNumber s
  have filled : (s.store.slots.set n b)[n] = b := by rw [getFin_set, if_pos rfl]
  rw [filled] at low high
  have taken : acceptBooking n b s = { s with
      store := { s.store with
        slots := s.store.slots.set n b
        timelines := s.store.timelines.set b.port (before ++ n :: after) }
      accounts := accounts
      tariffs := { s.tariffs with meters := s.tariffs.meters.set n Meter.cleared } } := by
    have placed : joinTimeline n (setSlot n b s) = { s with
        store := { s.store with
          slots := s.store.slots.set n b
          timelines := s.store.timelines.set b.port (before ++ n :: after) } } := by
      simp only [joinTimeline, setTimeline, setSlot, filled, joined]
    rw [acceptBooking, placed, opened _ (by rfl)]
    rfl
  exact ⟨before, after, _, taken, split, low, high, counted, fresh, rfl⟩

/-- R50: check 3 comes before check 9. -/
theorem badPort_beforeConflict {earlier later : List OutcomeCode}
    (h : bookOrderOfChecks = earlier ++ .conflict :: later) : OutcomeCode.badPort ∈ earlier := by
  have found : bookOrderOfChecks[earlier.length]? = some .conflict := by
    rw [h]
    simp
  have place : earlier.length = 8 := by
    have short : earlier.length < 10 := (List.getElem?_eq_some_iff.mp found).choose
    have only : ∀ i : Fin 10, bookOrderOfChecks[i.val]? = some .conflict → i.val = 8 := by decide
    exact only ⟨_, short⟩ found
  have prefixed : earlier = bookOrderOfChecks.take 8 := by
    rw [h, ← place, List.take_left]
  rw [prefixed]
  decide

/-- R47 to R51: what BOOK makes of its record, and the accesses it makes then. -/
theorem bookRecordRead_worked {n : Fin 1024} (inFlight : s.tickets.inFlight = some (.recordRead n)) :
    ∃ code result ws u, bookWorked bytes n s code result ws u ∧
      bookRecordRead bytes s = submit (ws.map Access.write ++ [.report code result]) u ∧
      u.tickets = { s.tickets with inFlight := none } ∧ u.link = s.link ∧ u.resetn = s.resetn ∧ u.orders = s.orders := by
  have read : bookRecordRead bytes s = bookFromRecord n (bookRecordOf bytes) (setInFlight none s) := by
    simp only [bookRecordRead, inFlight]
  by_cases new : fieldAt bytes 0 1 = 1
  · have valid : ¬(bookRecordOf bytes).state ≠ 1 := not_not_intro new
    cases refusal : bookRefusal (bookRecordOf bytes) (setInFlight none s) with
    | some code =>
      refine ⟨code, refusalResult code (bookRecordOf bytes) s, refusedRecord s n code, setInFlight none s,
        ⟨fun e => absurd new e, fun _ earlier c later ho hn hc => ?_, fun _ passed => ?_⟩, ?_, rfl, rfl, rfl, rfl⟩
      · obtain rfl : code = c :=
          Option.some.inj (refusal.symm.trans (bookRefusal_first (s := setInFlight none s) ho hn hc))
        refine ⟨rfl, rfl, rfl, fun e => if_neg e, fun e => ?_⟩
        subst e
        exact conflict_result (hn _ (badPort_beforeConflict ho)) hc
      · exact absurd (refusal.symm.trans (bookRefusal_passed (s := setInFlight none s) passed)) (by simp)
      · rw [read, bookFromRecord, if_neg valid, refusal]
        rfl
    | none =>
      obtain ⟨before, after, u, accepted, h1, h2, h3, h4, h5, h6⟩ :=
        acceptBooking_eq n (slotOfRecord (bookRecordOf bytes)) (setInFlight none s)
      refine ⟨.ok, acceptResult n (slotOfRecord (bookRecordOf bytes)), acceptedRecord s n, u,
        ⟨fun e => absurd new e, fun _ earlier c later ho hn hc => ?_, fun _ passed => ?_⟩, ?_, ?_⟩
      · exact absurd (refusal.symm.trans (bookRefusal_first (s := setInFlight none s) ho hn hc)) (by simp)
      · exact ⟨_, before, after, slotFilled_of_passed passed, h1, h2, h3, h4, h5, h6, rfl, rfl, rfl⟩
      · rw [read, bookFromRecord, if_neg valid, refusal, ← accepted]
        rfl
      · rw [h6]
        exact ⟨rfl, rfl, rfl, rfl⟩
  · refine ⟨.badState, [], [], setInFlight none s, ⟨fun _ => ⟨rfl, rfl, rfl, rfl⟩, fun e => absurd e new,
      fun e => absurd e new⟩, ?_, rfl, rfl, rfl, rfl⟩
    rw [read, bookFromRecord, if_pos (show (bookRecordOf bytes).state ≠ 1 from new)]
    rfl

end

/-- log 9: new accesses go on behind those that wait. -/
theorem submit_eq (l : List Access) (s : State) :
    submit l s = pump (s.tickets.waiting ++ l) { s with tickets := { s.tickets with waiting := [] } } := rfl

/-- R161, R163, log 9: an access that reads the state byte of the slot at the write position waits for it, the rest behind. -/
theorem pump_slotRead {ring : Ring} {a : Access} (rest : List Access) {s : State} (k : linkFree s)
    (hi : s.tickets.inFlight = none) (hw : s.tickets.waiting = []) (hr : s.tickets.ring = some ring)
    (ha : (∃ r, a = .raise r) ∨ a = .recheck ∧ s.tickets.blocked = true) :
    pump (a :: rest) s = { s with
      tickets := { s.tickets with
        number := if a = .recheck then s.tickets.number else s.tickets.number + 1
        inFlight := some a
        waiting := rest }
      link := { s.link with log := s.link.log ++
        [.read (ring.base + BitVec.ofNat 64 (32 * s.tickets.writePosition)) 1] } } := by
  have taken := pump_taken ring (a :: rest) k hi hw hr
  obtain ⟨r, rfl⟩ | ⟨rfl, blocked⟩ := ha
  · exact taken
  · rw [waitingTaken, if_pos blocked] at taken
    exact taken

/-- Settles O47. -/
theorem bookRecordTaken : Obligations.BookRecordTaken := by
  intro bytes n o s free unit inFlight noTicks
  obtain ⟨code, result, ws, u, worked, read, tickets, link, resetn, orders⟩ := bookRecordRead_worked (bytes := bytes) inFlight
  have ran : exec (.bookRecordRead bytes) s = .next (settlePage (bookRecordRead bytes s)) := exec_live free.1 (by simp) (by simp)
  have waits : u.tickets.waiting = s.tickets.waiting := by rw [tickets]
  obtain ⟨v, hv⟩ : ∃ v : State, { u with tickets := { u.tickets with waiting := [] } } = v := ⟨_, rfl⟩
  have freeV : linkFree v := by
    rw [← hv]
    exact linkFree_congr resetn link free
  have idleV : v.tickets.inFlight = none := by rw [← hv, tickets]
  rw [submit_eq, waits, hv] at read
  have state : ∀ out : List HostWrite, logged (out.map .write) v = { u with
      tickets := { s.tickets with
        inFlight := none
        waiting := [] }
      link := { s.link with log := s.link.log ++ out.map LinkOp.write } } := fun out => by
    rw [← hv, logged, tickets, link]
  refine ⟨code, result, ws, u, worked, fun earlier plain => ?_, fun ring earlier a later reads placed ha => ?_⟩
  · have out : bookRecordRead bytes s = finishOrder code result (logged ((earlier ++ ws).map .write) v) := by
      rw [read, plain, ← List.append_assoc, ← List.map_append, pump_writesThen _ _ freeV idleV]
      exact pump_report idleV
    have stands := finishOrder_free code result (s := logged ((earlier ++ ws).map .write) v) freeV
    have noTicks' : (bookRecordRead bytes s).link.pageTicks = [] := by
      rw [out, stands.2.2, state]
      exact noTicks
    refine ⟨_, ran.trans (congrArg _ ((settlePage_none noTicks').trans out)), ?_⟩
    rw [← state]
    exact finishOrder_reported (k := .queued) _ _ (by rw [state]; exact orders ▸ unit) (by simp) freeV.2.1 freeV.2.2
  · have out : bookRecordRead bytes s = pump (a :: (later ++ ws.map Access.write ++ [.report code result]))
        (logged (earlier.map .write) v) := by
      rw [read, reads, List.append_assoc, pump_writesThen _ _ freeV idleV]
      simp only [List.cons_append, List.append_assoc]
    have freeW : linkFree (logged (earlier.map .write) v) := freeV
    rw [state] at out freeW
    rw [pump_slotRead _ (ring := ring) freeW rfl rfl placed ha] at out
    rw [ran, settlePage_none (by rw [out]; exact noTicks), out]

end Sys2Proof.Machine
end

section
/-! ### The bus fault (01 section 1.4.5, 02 section 2.6, 04 section 4.9) -/

namespace Sys2Proof.Machine

/-! ### One access dropped -/

/-- A close that has no ticket number yet takes one as it is dropped (R161). -/
def takesNumber (a : Access) : Bool :=
  match a with
  | .raise _ => true
  | .closeWrite _ | .totalWrite _ | .write _ | .totalCheck _ _ | .recheck | .recordRead _ | .report _ _ => false

/-- The access loses its ticket as it is dropped (R68, R164). -/
def losesTicket (a : Access) : Bool :=
  match a with
  | .raise _ | .closeWrite _ | .totalWrite _ => true
  | .write _ | .totalCheck _ _ | .recheck | .recordRead _ | .report _ _ => false

/-- The match whose account an access counts in as its close is dropped. -/
def closingMatch (a : Access) : Option Nat :=
  match a with
  | .raise r | .closeWrite r => some r.ticket.matchNumber
  | .totalWrite _ | .write _ | .totalCheck _ _ | .recheck | .recordRead _ | .report _ _ => none

/-- The slots once some of them have been set FREE. -/
def slotsFreed (freed : List (Fin 1024)) (before after : Vector Slot 1024) : Prop :=
  ∀ n : Fin 1024, after[n] = if n ∈ freed then { before[n] with state := .free } else before[n]

/-- From s to t accesses have been dropped: so many tickets have taken numbers, so many are lost, the slots of their closes
are FREE, and nothing has been written. -/
def accessesDropped (numbers losses : Nat) (freed : List (Fin 1024)) (s t : State) : Prop :=
  t = { s with
    store := { s.store with slots := t.store.slots }
    accounts := t.accounts
    tickets := { s.tickets with
      number := s.tickets.number + BitVec.ofNat 32 numbers
      lost := s.tickets.lost + BitVec.ofNat 32 losses }
    link := { s.link with
      flags := s.link.flags ||| (if losses ≠ 0 ∧ permitted .ticketLost s = true then flagBit .ticketLost else 0)
      log := t.link.log } } ∧
  hostWrites t = hostWrites s ∧ slotsFreed freed s.store.slots t.store.slots

theorem accessesDropped_trans {n m k l : Nat} {f g : List (Fin 1024)} {s t u : State}
    (h : accessesDropped n k f s t) (h' : accessesDropped m l g t u) : accessesDropped (n + m) (k + l) (f ++ g) s u := by
  obtain ⟨frame, writes, freed⟩ := h
  obtain ⟨frame', writes', freed'⟩ := h'
  refine ⟨?_, writes'.trans writes, fun j => ?_⟩
  · have flags : ∀ x : BitVec 7, s.link.flags ||| (if k ≠ 0 ∧ permitted .ticketLost s = true then x else 0) |||
        (if l ≠ 0 ∧ permitted .ticketLost s = true then x else 0) =
          s.link.flags ||| (if k + l ≠ 0 ∧ permitted .ticketLost s = true then x else 0) := fun x => by
      by_cases may : permitted .ticketLost s = true
      · simp only [may, and_true]
        by_cases hk : k = 0
        · simp [hk]
        · by_cases hl : l = 0
          · simp [hl]
          · simp [hk, hl, BitVec.or_assoc]
      · simp [may]
    have permissions : permitted .ticketLost t = permitted .ticketLost s := by rw [frame]; rfl
    have numbers : t.tickets.number = s.tickets.number + BitVec.ofNat 32 n := by rw [frame]
    have losses : t.tickets.lost = s.tickets.lost + BitVec.ofNat 32 k := by rw [frame]
    have raised : t.link.flags = _ := congrArg (fun v : State => v.link.flags) frame
    rw [permissions, raised, flags, numbers, losses, BitVec.add_assoc, BitVec.add_assoc, ← BitVec.ofNat_add,
      ← BitVec.ofNat_add] at frame'
    rw [frame', frame]
  · rw [freed' j, freed j]
    by_cases first : j ∈ f
    · simp only [first, if_true, List.mem_append, true_or]
      split <;> rfl
    · simp only [first, if_false, List.mem_append, false_or]

/-- R164: a ticket is lost, of a match or of none. -/
theorem loseTicket_eq (m : Option Nat) (s : State) : ∃ accounts,
    loseTicket m s = withLatched .ticketLost { s with
      accounts := accounts
      tickets := { s.tickets with lost := s.tickets.lost + 1 } } ∧
    (m = none → accounts = s.accounts) ∧
    ∀ j, m = some j → (∀ k, accountOf j s = some k → accounts = s.accounts.set k
        { s.accounts[k] with unwritten := satAdd 65535 s.accounts[k].unwritten 1 }) ∧
      (accountOf j s = none → accounts = s.accounts) := by
  cases m with
  | none =>
    exact ⟨s.accounts, latch_eq _ _, fun _ => rfl, fun j h => absurd h (by simp)⟩
  | some j =>
    obtain ⟨accounts, changed, found, missing⟩ :=
      changeAccount_eq j (fun a => { a with unwritten := satAdd 65535 a.unwritten 1 }) s
    refine ⟨accounts, ?_, fun h => absurd h (by simp), fun i h => ?_⟩
    · exact (latch_eq _ _).trans (congrArg (withLatched .ticketLost)
        (changed { s with tickets := { s.tickets with lost := s.tickets.lost + 1 } } rfl))
    · obtain rfl := Option.some.inj h
      exact ⟨found, missing⟩

theorem loseTicket_dropped (m : Option Nat) (s : State) : accessesDropped 0 1 [] s (loseTicket m s) := by
  obtain ⟨accounts, lost, -⟩ := loseTicket_eq m s
  rw [lost]
  refine ⟨?_, hostWrites_withLatched _ _, fun n => by simp [withLatched, withFlags]⟩
  simp only [withLatched, withFlags, BitVec.ofNat_eq_ofNat, BitVec.add_zero, ne_eq, one_ne_zero, not_false_eq_true, true_and]
  rfl

theorem endClose_dropped (r : Raise) (s : State) : accessesDropped 0 0 [r.slot] s (endClose r s) := by
  obtain ⟨accounts, ended, -⟩ := endClose_eq r s
  rw [ended]
  refine ⟨by simp, rfl, fun n => ?_⟩
  by_cases e : n = r.slot
  · subst e
    simp
  · have : r.slot.val ≠ n.val := fun x => e (Fin.ext x.symm)
    simp [this, e]

theorem raiseNumber_dropped (s : State) : accessesDropped 1 0 [] s (raiseNumber s) := by
  refine ⟨?_, rfl, fun n => by simp [raiseNumber]⟩
  simp only [raiseNumber, ne_eq, not_true_eq_false, false_and, if_false, BitVec.or_zero, BitVec.ofNat_eq_ofNat,
    BitVec.add_zero]

theorem nothing_dropped (s : State) : accessesDropped 0 0 [] s s := by
  refine ⟨?_, rfl, fun n => by simp⟩
  simp

theorem freeAccountSlot_dropped (k : Fin 128) (s : State) : accessesDropped 0 0 [] s (freeAccountSlot k s) := by
  refine ⟨?_, rfl, fun n => by simp [freeAccountSlot, setAccount]⟩
  simp [freeAccountSlot, setAccount]

theorem dropAccess_dropped (a : Access) (s : State) :
    accessesDropped (if takesNumber a then 1 else 0) (if losesTicket a then 1 else 0) (closingSlot a).toList s
      (dropAccess a s) := by
  cases a with
  | raise r =>
    exact accessesDropped_trans (raiseNumber_dropped s)
      (accessesDropped_trans (loseTicket_dropped _ (raiseNumber s)) (endClose_dropped r _))
  | closeWrite r => exact accessesDropped_trans (loseTicket_dropped _ s) (endClose_dropped r _)
  | totalWrite k => exact accessesDropped_trans (loseTicket_dropped none s) (freeAccountSlot_dropped k _)
  | write w => exact nothing_dropped s
  | totalCheck k minute => exact nothing_dropped s
  | recheck => exact nothing_dropped s
  | recordRead n => exact nothing_dropped s
  | report code result => exact nothing_dropped s

/-- R68: the accesses are dropped one after another. -/
theorem dropAll_dropped (l : List Access) (s : State) :
    accessesDropped (l.countP takesNumber) (l.countP losesTicket) (l.filterMap closingSlot) s
      (l.foldl (fun t a => dropAccess a t) s) := by
  induction l generalizing s with
  | nil => exact nothing_dropped s
  | cons a rest ih =>
    have both := accessesDropped_trans (dropAccess_dropped a s) (ih (dropAccess a s))
    simp only [List.countP_cons, List.foldl_cons]
    rw [Nat.add_comm (List.countP takesNumber rest), Nat.add_comm (List.countP losesTicket rest)]
    have slots : (a :: rest).filterMap closingSlot = (closingSlot a).toList ++ rest.filterMap closingSlot := by
      cases e : closingSlot a <;> simp [e]
    rw [slots]
    exact both

/-! ### The accounts of the closes dropped (R155, R164) -/

/-- An account once so many closes of its match have been dropped. -/
def closesDropped (count : Nat) (a : Account) : Account :=
  if count = 0 then a
  else { a with
    openCount := a.openCount - count
    unwritten := min 65535 (a.unwritten + count) }

theorem closesDropped_zero {count : Nat} (h : count = 0) (a : Account) : closesDropped count a = a := if_pos h

theorem closesDropped_isOpen (count : Nat) (a : Account) : (closesDropped count a).isOpen = a.isOpen := by
  unfold closesDropped
  split <;> rfl

theorem closesDropped_match (count : Nat) (a : Account) : (closesDropped count a).matchNumber = a.matchNumber := by
  unfold closesDropped
  split <;> rfl

theorem closesDropped_add (m n : Nat) (a : Account) : closesDropped n (closesDropped m a) = closesDropped (m + n) a := by
  unfold closesDropped
  by_cases hm : m = 0
  · simp [hm]
  · by_cases hn : n = 0
    · simp [hn]
    · have total : m + n ≠ 0 := by omega
      simp only [hm, hn, total, if_false, Nat.sub_sub]
      congr 1
      omega

/-- No two OPEN accounts have one match number. -/
def openApart (s : State) : Prop :=
  ∀ j k : Fin 128, s.accounts[j].isOpen = true → s.accounts[k].isOpen = true →
    s.accounts[j].matchNumber = s.accounts[k].matchNumber → j = k

/-- From s to t closes have been dropped, `counts m` of the match m. -/
def accountsDropped (counts : Nat → Nat) (s t : State) : Prop :=
  ∀ k : Fin 128, t.accounts[k] =
    if s.accounts[k].isOpen then closesDropped (counts s.accounts[k].matchNumber) s.accounts[k] else s.accounts[k]

theorem accountsDropped_apart {counts : Nat → Nat} {s t : State} (h : accountsDropped counts s t) (apart : openApart s) :
    openApart t := by
  have kept : ∀ k : Fin 128, t.accounts[k].isOpen = s.accounts[k].isOpen ∧
      t.accounts[k].matchNumber = s.accounts[k].matchNumber := fun k => by
    rw [h k]
    split
    · exact ⟨closesDropped_isOpen .., closesDropped_match ..⟩
    · exact ⟨rfl, rfl⟩
  intro j k hj hk hm
  rw [(kept j).1] at hj
  rw [(kept k).1] at hk
  rw [(kept j).2, (kept k).2] at hm
  exact apart j k hj hk hm

theorem accountsDropped_trans {c d : Nat → Nat} {s t u : State} (h : accountsDropped c s t) (h' : accountsDropped d t u) :
    accountsDropped (fun m => c m + d m) s u := by
  intro k
  rw [h' k, h k]
  by_cases isOpen : s.accounts[k].isOpen = true
  · simp only [isOpen, if_true, closesDropped_isOpen, closesDropped_match, closesDropped_add]
  · simp only [isOpen, Bool.false_eq_true, if_false]

theorem nothing_accounts {s t : State} (h : t.accounts = s.accounts) : accountsDropped (fun _ => 0) s t := by
  intro k
  rw [h, closesDropped_zero rfl, ite_self]

/-- R162, R164: a close whose ticket is lost falls out of the account of its match. -/
theorem lostClose_counted (r : Raise) {s : State} (apart : openApart s) :
    accountsDropped (fun m => if r.ticket.matchNumber = m then 1 else 0) s (endClose r (loseRaise r s)) := by
  obtain ⟨lostAccounts, lost, -, told⟩ := loseTicket_eq (some r.ticket.matchNumber) s
  obtain ⟨lostFound, lostMissing⟩ := told _ rfl
  obtain ⟨accounts, ended, found, missing⟩ := endClose_eq r (loseRaise r s)
  have before : (loseRaise r s).accounts = lostAccounts := by
    rw [loseRaise, lost]
    rfl
  intro k
  rw [ended]
  show accounts[k] = _
  cases home : accountOf r.ticket.matchNumber s with
  | none =>
    have same : accounts = s.accounts := by
      have still : accountOf r.ticket.matchNumber (loseRaise r s) = none := by
        simpa only [accountOf, before, lostMissing home] using home
      rw [missing still, before, lostMissing home]
    rw [same]
    by_cases isOpen : s.accounts[k].isOpen = true
    · have other := accountOf_none home k isOpen
      rw [if_pos isOpen]
      exact (closesDropped_zero (if_neg other.symm) _).symm
    · rw [if_neg isOpen]
  | some j =>
    obtain ⟨openJ, matchJ⟩ := accountOf_some home
    have again : accountOf r.ticket.matchNumber (loseRaise r s) = some j :=
      accountOf_set home (before.trans (lostFound j home)) openJ matchJ
    rw [found j again, before, lostFound j home]
    by_cases e : k = j
    · subst e
      simp only [Fin.getElem_fin, Vector.getElem_set_self, Vector.set_set] at openJ matchJ ⊢
      simp [openJ, matchJ, closesDropped, satAdd]
    · have ne : j.val ≠ k.val := fun x => e (Fin.ext x.symm)
      simp only [Fin.getElem_fin, Vector.getElem_set_ne _ _ ne, Vector.set_set]
      by_cases isOpen : s.accounts[k.val].isOpen = true
      · have other : r.ticket.matchNumber ≠ s.accounts[k.val].matchNumber := fun x =>
          e (apart k j isOpen openJ (x.symm.trans matchJ.symm))
        simp [isOpen, closesDropped, other]
      · simp [isOpen]

/-- The closes of match `m` among accesses. -/
def closesOf (m : Nat) (l : List Access) : Nat := l.countP fun a => decide (closingMatch a = some m)

theorem dropAccess_counted {a : Access} {s : State} (h : ∀ k, a ≠ .totalWrite k) (apart : openApart s) :
    accountsDropped (fun m => if closingMatch a = some m then 1 else 0) s (dropAccess a s) := by
  have stands : closingMatch a = none → dropAccess a s = s →
      accountsDropped (fun m => if closingMatch a = some m then 1 else 0) s (dropAccess a s) := fun none same => by
    rw [same, none]
    exact nothing_accounts rfl
  cases a with
  | raise r =>
    have taken := lostClose_counted r (s := raiseNumber s) apart
    simp only [closingMatch, Option.some.injEq]
    exact taken
  | closeWrite r =>
    simp only [closingMatch, Option.some.injEq]
    exact lostClose_counted r apart
  | totalWrite k => exact absurd rfl (h k)
  | write w => exact stands rfl rfl
  | totalCheck k minute => exact stands rfl rfl
  | recheck => exact stands rfl rfl
  | recordRead n => exact stands rfl rfl
  | report code result => exact stands rfl rfl

theorem dropAll_counted {l : List Access} {s : State} (h : ∀ k, .totalWrite k ∉ l) (apart : openApart s) :
    accountsDropped (fun m => closesOf m l) s (l.foldl (fun t a => dropAccess a t) s) := by
  induction l generalizing s with
  | nil => exact nothing_accounts rfl
  | cons a rest ih =>
    have first := dropAccess_counted (fun k e => h k (e ▸ List.mem_cons_self ..)) apart
    have both := accountsDropped_trans first
      (ih (fun k e => h k (List.mem_cons_of_mem _ e)) (accountsDropped_apart first apart))
    have counts : (fun m => closesOf m (a :: rest)) =
        fun m => (if closingMatch a = some m then 1 else 0) + closesOf m rest := funext fun m => by
      simp only [closesOf, List.countP_cons, decide_eq_true_eq]
      exact Nat.add_comm _ _
    rw [counts]
    exact both

/-! ### The fault taken (R15, R29) -/

/-- R15: the part once the first bus fault is recorded and HELD is entered, before its accesses are dropped. -/
def faultEntered (s : State) : State :=
  let raised := withAlarm { s.alarm with items := s.alarm.items.set 50 (itemAt s.alarm.items[50] 3) }
    { s with
      link := faultedLink s.link
      orders := { s.orders with unit := stoppedUnit s.orders.unit } }
  if s.link.run = .held then raised
  else withLatched .run { raised with link := { raised.link with
    run := .held
    pageDue := true } }

/-- R15, R68: the first bus fault enters HELD and drops every access. -/
theorem takeBusFault_eq {s : State} (h : s.link.fatal = .none) :
    takeBusFault s = (droppedAccesses s).foldl (fun t a => dropAccess a t) (clearAccesses (faultEntered s)) := by
  have first : ¬s.link.fatal = .bus := by rw [h]; simp
  have entered : (if s.link.run = .held then setSeverity 50 3 { s with
        link := faultedLink s.link
        orders := { s.orders with unit := stoppedUnit s.orders.unit } }
      else enterHeld (setSeverity 50 3 { s with
        link := faultedLink s.link
        orders := { s.orders with unit := stoppedUnit s.orders.unit } })) = faultEntered s := by
    rw [faultEntered]
    by_cases held : s.link.run = .held
    · rw [if_pos held, if_pos held, setSeverity, setAlarm_eq]
      rfl
    · rw [if_neg held, if_neg held, enterHeld, latch_eq, setSeverity, setAlarm_eq]
      rfl
  have accesses : droppedAccesses (faultEntered s) = droppedAccesses s := by
    rw [faultEntered]
    split <;> rfl
  rw [takeBusFault, if_neg first]
  refine (congrArg dropAccesses entered).trans ?_
  rw [dropAccesses, accesses]

theorem faultEntered_frame (s : State) : hostWrites (faultEntered s) = hostWrites s ∧
    faultEntered s = { s with
      alarm := { s.alarm with items := s.alarm.items.set 50 (itemAt s.alarm.items[50] 3) }
      orders := { s.orders with unit := stoppedUnit s.orders.unit }
      link := { faultedLink s.link with
        run := .held
        pageDue := (faultEntered s).link.pageDue
        flags := (faultEntered s).link.flags
        log := (faultEntered s).link.log } } := by
  rw [faultEntered]
  by_cases held : s.link.run = .held
  · rw [if_pos held]
    refine ⟨hostWrites_withAlarm _ _, ?_⟩
    have run : (faultedLink s.link).run = .held := held
    rw [← run]
    rfl
  · rw [if_neg held]
    exact ⟨(hostWrites_withLatched _ _).trans (hostWrites_withAlarm _ _), rfl⟩

/-- R9, R15: RUN is latched where HELD is entered. -/
theorem faultEntered_latched {s : State} (held : s.link.run ≠ .held) (may : permitted .run s = true) :
    flagSet .run (faultEntered s) = true := by
  rw [faultEntered, if_neg held]
  exact flagSet_latched may

/-- R15, R29, R68: what the first bus fault leaves. -/
theorem takeBusFault_dropped {s : State} (h : s.link.fatal = .none) :
    accessesDropped ((droppedAccesses s).countP takesNumber) ((droppedAccesses s).countP losesTicket) (ratedSlots s)
      (clearAccesses (faultEntered s)) (takeBusFault s) := by
  have slots : (droppedAccesses s).filterMap closingSlot = ratedSlots s := by
    simp only [droppedAccesses, ratedSlots, outstanding, List.filterMap_append]
    congr 1
    cases s.tickets.inFlight with
    | none => rfl
    | some a => cases a <;> rfl
  rw [takeBusFault_eq h, ← slots]
  exact dropAll_dropped _ _

/-! ### The closes among the accesses that are dropped -/

/-- A close and a MATCH_TOTAL are written whole in one step. -/
def writtenWhole (l : List Access) : Prop := ∀ a ∈ l, (∀ r, a ≠ .closeWrite r) ∧ ∀ k, a ≠ .totalWrite k

/-- The close that an access raises. -/
def raiseOf (a : Access) : Option Raise :=
  match a with
  | .raise r => some r
  | .write _ | .closeWrite _ | .totalCheck _ _ | .totalWrite _ | .recheck | .recordRead _ | .report _ _ => none

theorem raisesIn_eq (l : List Access) : raisesIn l = l.filterMap raiseOf := rfl

theorem numbersTaken_eq (l : List Access) : l.countP takesNumber = (raisesIn l).length := by
  rw [raisesIn_eq, List.length_filterMap_eq_countP]
  refine List.countP_congr fun a _ => ?_
  cases a <;> simp [takesNumber, raiseOf]

theorem ticketsLost_eq {l : List Access} (h : writtenWhole l) : l.countP losesTicket = (raisesIn l).length := by
  rw [← numbersTaken_eq]
  refine List.countP_congr fun a ha => ?_
  obtain ⟨close, total⟩ := h a ha
  cases a with
  | closeWrite r => exact absurd rfl (close r)
  | totalWrite k => exact absurd rfl (total k)
  | raise r => exact Iff.rfl
  | write w => exact Iff.rfl
  | totalCheck k minute => exact Iff.rfl
  | recheck => exact Iff.rfl
  | recordRead n => exact Iff.rfl
  | report code result => exact Iff.rfl

theorem closesOf_eq {l : List Access} (h : writtenWhole l) (m : Nat) :
    closesOf m l = (raisesIn l).countP fun r => decide (r.ticket.matchNumber = m) := by
  rw [raisesIn_eq, List.countP_filterMap, closesOf]
  refine List.countP_congr fun a ha => ?_
  obtain ⟨close, total⟩ := h a ha
  cases a with
  | closeWrite r => exact absurd rfl (close r)
  | totalWrite k => exact absurd rfl (total k)
  | raise r => simp [closingMatch, raiseOf]
  | write w => simp [closingMatch, raiseOf]
  | totalCheck k minute => simp [closingMatch, raiseOf]
  | recheck => simp [closingMatch, raiseOf]
  | recordRead n => simp [closingMatch, raiseOf]
  | report code result => simp [closingMatch, raiseOf]

/-- The access in flight counts as it is dropped as it did before it had begun. -/
theorem dropped_countP (f : Access → Bool) (h : ∀ a, f (begunAccess a) = f a) (s : State) :
    (droppedAccesses s).countP f = (outstanding s).countP f := by
  simp only [droppedAccesses, outstanding, List.countP_append]
  congr 1
  cases s.tickets.inFlight with
  | none => rfl
  | some a => simp [h]

theorem numbersTaken_dropped (s : State) : (droppedAccesses s).countP takesNumber = (raisesIn s.tickets.waiting).length := by
  rw [droppedAccesses, List.countP_append, numbersTaken_eq s.tickets.waiting]
  have begun : ((s.tickets.inFlight.map begunAccess).toList).countP takesNumber = 0 := by
    cases s.tickets.inFlight with
    | none => rfl
    | some a => cases a <;> rfl
  rw [begun, Nat.zero_add]

theorem ticketsLost_dropped {s : State} (h : writtenWhole (outstanding s)) :
    (droppedAccesses s).countP losesTicket = (raisesOf s).length := by
  rw [dropped_countP losesTicket (fun a => by cases a <;> rfl), ticketsLost_eq h]
  rfl

theorem closesOf_dropped {s : State} (h : writtenWhole (outstanding s)) (m : Nat) :
    closesOf m (droppedAccesses s) = raisedCount m s := by
  rw [closesOf, dropped_countP (fun a => decide (closingMatch a = some m)) (fun a => by cases a <;> rfl)]
  exact closesOf_eq h m

theorem writtenWhole_of {s : State} (h : accessesLawful s) : writtenWhole (outstanding s) := by
  obtain ⟨-, -, -, whole, -⟩ := h
  intro a ha
  refine ⟨fun r e => ?_, fun k e => ?_⟩
  · exact (whole r 0).1 (e ▸ ha)
  · exact (whole (closeRaise .cancel 0 0 false s) k).2 (e ▸ ha)

theorem totalWrite_dropped {s : State} (h : writtenWhole (outstanding s)) (k : Fin 128) :
    .totalWrite k ∉ droppedAccesses s := by
  intro mem
  rcases List.mem_append.mp mem with first | waits
  · obtain ⟨a, inFlight, begun⟩ := Option.map_eq_some_iff.mp (Option.mem_toList.mp first)
    have member : a ∈ outstanding s := List.mem_append_left _ (Option.mem_toList.mpr inFlight)
    cases a with
    | totalWrite j => exact (h _ member).2 j rfl
    | raise r => cases begun
    | write w => cases begun
    | closeWrite r => cases begun
    | totalCheck j minute => cases begun
    | recheck => cases begun
    | recordRead n => cases begun
    | report code result => cases begun
  · exact (h _ (List.mem_append_right _ waits)).2 k rfl

/-- R15, R29, R68, R164: the first bus fault. -/
theorem takeBusFault_taken {s : State} (h : s.link.fatal = .none) :
    let t := takeBusFault s
    t.link.fatal = .bus ∧ t.link.run = .held ∧ t.link.haltWaiting = false ∧ t.link.start = .idle ∧
    t.link.page = none ∧ t.link.gate = .open ∧
    t.link.lastStart = (if s.link.start = .headerRead then .fatal else s.link.lastStart) ∧
    t.link.pageCount = s.link.pageCount ∧ hostWrites t = hostWrites s ∧
    (s.link.run ≠ .held → permitted .run s = true → flagSet .run t = true) ∧
    (t.alarm.items[50].severity).val = 3 ∧ (∀ i : Fin 51, i ≠ 50 → t.alarm.items[i] = s.alarm.items[i]) ∧
    accessesIdle t ∧ t.tickets.ring = s.tickets.ring ∧ t.tickets.writePosition = s.tickets.writePosition ∧
    t.tickets.blocked = s.tickets.blocked ∧
    t.orders.next = s.orders.next ∧ t.orders.endIndex = s.orders.endIndex ∧
    (∀ o stage, s.orders.unit = .acting o stage → t.orders.unit = .acting o .stopped) ∧
    t.clock = s.clock ∧ t.rows = s.rows ∧ t.monitors = s.monitors ∧ t.tariffs = s.tariffs ∧
    t.store = { s.store with slots := t.store.slots } ∧
    (∀ n : Fin 1024, t.store.slots[n] =
      if n ∈ ratedSlots s then { s.store.slots[n] with state := .free } else s.store.slots[n]) := by
  obtain ⟨frame, writes, freed⟩ := takeBusFault_dropped h
  obtain ⟨writes', frame'⟩ := faultEntered_frame s
  have latched := faultEntered_latched (s := s)
  generalize takeBusFault s = t at frame writes freed ⊢
  generalize faultEntered s = f at frame writes freed writes' frame' latched
  have start : startCodeAfterFault s.link = if s.link.start = .headerRead then .fatal else s.link.lastStart := by
    unfold startCodeAfterFault
    cases s.link.start <;> rfl
  have kept : s.link.run ≠ .held → permitted .run s = true → flagSet .run t = true := fun held may => by
    have ored := congrArg (fun v : State => v.link.flags) frame
    have before := latched held may
    simp only [flagSet, bne_iff_ne] at before ⊢
    rw [ored]
    exact keep_or _ _ _ before
  have left : t = { s with
      link := { faultedLink s.link with
        run := .held
        pageDue := t.link.pageDue
        flags := t.link.flags
        log := t.link.log }
      orders := { s.orders with unit := stoppedUnit s.orders.unit }
      alarm := { s.alarm with items := s.alarm.items.set 50 (itemAt s.alarm.items[50] 3) }
      store := { s.store with slots := t.store.slots }
      accounts := t.accounts
      tickets := { s.tickets with
        number := t.tickets.number
        lost := t.tickets.lost
        recheckIn := none
        inFlight := none
        waiting := [] } } := by
    rw [frame, frame']
    rfl
  have slots : ∀ n : Fin 1024, t.store.slots[n] =
      if n ∈ ratedSlots s then { s.store.slots[n] with state := .free } else s.store.slots[n] := fun n => by
    have same : (clearAccesses f).store.slots = s.store.slots := by
      rw [frame']
      rfl
    rw [freed n, same]
  have written : hostWrites t = hostWrites s := writes.trans writes'
  refine ⟨by rw [left]; rfl, by rw [left], by rw [left]; rfl, by rw [left]; rfl, by rw [left]; rfl, by rw [left]; rfl,
    by rw [← start, left]; rfl, by rw [left]; rfl, written, kept, ?_, fun i hi => ?_, by rw [left]; exact ⟨rfl, rfl⟩, by rw [left],
    by rw [left], by rw [left], by rw [left], by rw [left], fun o stage unit => ?_, by rw [left], by rw [left],
    by rw [left], by rw [left], by rw [left], slots⟩
  · rw [left]
    simp [itemAt]
  · rw [left]
    have ne : (50 : Nat) ≠ i.val := fun e => hi (Fin.ext e.symm)
    simp only [Fin.getElem_fin]
    exact Vector.getElem_set_ne _ _ ne
  · rw [left]
    simp only [unit, stoppedUnit]

/-- R155, R162, R164: the tickets and the accounts once the first bus fault has been taken. -/
theorem takeBusFault_tickets {s : State} (h : s.link.fatal = .none) (whole : writtenWhole (outstanding s))
    (apart : openApart s) :
    let t := takeBusFault s
    t.tickets.number.toNat = (s.tickets.number.toNat + (raisesIn s.tickets.waiting).length) % 2 ^ 32 ∧
    t.tickets.lost.toNat = (s.tickets.lost.toNat + (raisesOf s).length) % 2 ^ 32 ∧
    (raisesOf s ≠ [] → permitted .ticketLost s = true → flagSet .ticketLost t = true) ∧
    ∀ k : Fin 128,
      let a := s.accounts[k]
      let m := a.matchNumber
      (a.isOpen = false ∨ raisedCount m s = 0 → t.accounts[k] = a) ∧
      (a.isOpen = true → raisedCount m s ≠ 0 → t.accounts[k] = { a with
        openCount := a.openCount - raisedCount m s
        unwritten := min 65535 (a.unwritten + raisedCount m s) }) := by
  obtain ⟨-, before⟩ := faultEntered_frame s
  have frame := (takeBusFault_dropped h).1
  have counted := dropAll_counted (s := clearAccesses (faultEntered s)) (totalWrite_dropped whole)
    (by rw [before]; exact apart)
  rw [← takeBusFault_eq h] at counted
  rw [numbersTaken_dropped, ticketsLost_dropped whole] at frame
  generalize takeBusFault s = t at frame counted ⊢
  generalize faultEntered s = f at before frame counted
  have number : t.tickets.number = s.tickets.number + BitVec.ofNat 32 (raisesIn s.tickets.waiting).length := by
    rw [frame, before]
    rfl
  have lost : t.tickets.lost = s.tickets.lost + BitVec.ofNat 32 (raisesOf s).length := by
    rw [frame, before]
    rfl
  have accounts : (clearAccesses f).accounts = s.accounts := by
    rw [before]
    rfl
  simp only [accountsDropped, accounts, closesOf_dropped whole] at counted
  refine ⟨?_, ?_, fun some may => ?_, fun k => ⟨fun none => ?_, fun isOpen count => ?_⟩⟩
  · rw [number, BitVec.toNat_add, BitVec.toNat_ofNat, Nat.add_mod_mod]
  · rw [lost, BitVec.toNat_add, BitVec.toNat_ofNat, Nat.add_mod_mod]
  · have may' : permitted .ticketLost (clearAccesses f) = true := by
      rw [before]
      exact may
    have ored : t.link.flags = (clearAccesses f).link.flags ||| flagBit .ticketLost := by
      refine (congrArg (fun v : State => v.link.flags) frame).trans ?_
      rw [if_pos ⟨by simpa using some, may'⟩]
    have all : ∀ x : BitVec 7, (x ||| flagBit .ticketLost) &&& flagBit .ticketLost ≠ 0 := by decide
    simp only [flagSet, ored, bne_iff_ne]
    exact all _
  · rw [counted k]
    obtain closed | zero := none
    · rw [closed]
      rfl
    · rw [closesDropped_zero zero, ite_self]
  · rw [counted k, if_pos isOpen, closesDropped, if_neg count]

/-! ### A fault announced for a write to come (log 11) -/

/-- R15: a fault finds a close in its writes as it finds one whose slot is being read. -/
theorem takeBusFault_begun (r : Raise) {s : State} (h : s.link.fatal = .none) :
    takeBusFault (setInFlight (some (.closeWrite r)) s) = takeBusFault (setInFlight (some (.raise r)) s) := by
  have entered : clearAccesses (faultEntered (setInFlight (some (.closeWrite r)) s)) =
      clearAccesses (faultEntered (setInFlight (some (.raise r)) s)) := by
    have same : (setInFlight (some (.closeWrite r)) s).link.run = (setInFlight (some (.raise r)) s).link.run := rfl
    unfold faultEntered
    rw [same]
    split <;> rfl
  rw [takeBusFault_eq (by exact h), takeBusFault_eq (by exact h), entered]
  rfl

/-- R29: a fault finds an order in ACTING at any stage. -/
theorem takeBusFault_stage (o : Order) (stage : Stage) {s : State} (h : s.link.fatal = .none) :
    takeBusFault { s with orders := { s.orders with unit := .acting o stage } } =
      takeBusFault { s with orders := { s.orders with unit := .acting o .stopped } } := by
  have entered : faultEntered { s with orders := { s.orders with unit := .acting o stage } } =
      faultEntered { s with orders := { s.orders with unit := .acting o .stopped } } := by
    unfold faultEntered
    rfl
  rw [takeBusFault_eq (by exact h), takeBusFault_eq (by exact h), entered]
  rfl

/-- BUS_FAULT and COMPLETION_TIMEOUT are one command (R15). -/
theorem exec_fault {c : Nat → Instr} {s : State} (hc : c = .busFault ∨ c = .completionTimeout) (hr : s.resetn = true)
    (after : Nat) : exec (c after) s = .next (busFaultAt after s) := by
  obtain rfl | rfl := hc
  · exact exec_live hr (by simp) (by simp)
  · exact exec_live hr (by simp) (by simp)

/-- R167, R169: a page meets the fault announced for one of its writes, or goes out whole ahead of it. -/
theorem pageComplete_cut {n : Nat} {ws : List HostWrite} {s : State} (hopen : linkOpen s = true)
    (gate : s.link.gate = .faultAfter n) (page : s.link.page = some ws) :
    (n < ws.length → pageComplete s = takeBusFault (cutAt n ws s)) ∧
    (ws.length ≤ n → pageComplete s = withLatched .page { s with link := { s.link with
      page := none
      gate := .faultAfter (n - ws.length)
      log := s.link.log ++ ws.map .write } }) := by
  have fatal : s.link.fatal = .none := by simp [linkOpen, readsOpen] at hopen; exact hopen.1.1
  obtain ⟨cut, whole⟩ := issueAll_cut ws hopen gate
  refine ⟨fun short => ?_, fun long => ?_⟩
  · have ended : (takeBusFault (cutAt n ws s)).link.page = none := (takeBusFault_closed (by exact fatal)).2.2.2
    simp only [pageComplete, page, cut short, ended, Option.isSome_none, Bool.false_eq_true, if_false]
  · simp only [pageComplete, page, whole long, latch_eq]
    simp only [Option.isSome_some, if_true]
    rfl

/-- R166: a fault leaves the ticks that the page logic owes. -/
theorem takeBusFault_ticks {s : State} (h : s.link.fatal = .none) : (takeBusFault s).link.pageTicks = s.link.pageTicks := by
  rw [(takeBusFault_dropped h).1, (faultEntered_frame s).2]
  rfl

/-- With nothing that waits the queue of accesses has nothing to do. -/
theorem pumpWaiting_none {s : State} (h : s.tickets.waiting = []) : pumpWaiting s = s := by
  have e : ({ s with tickets := { s.tickets with waiting := [] } } : State) = s := by rw [← h]
  rw [pumpWaiting, h]
  exact e

/-- R161, R164, log 33: the fault announced for a write of a close whose slot has been read. -/
theorem raiseRead_cut {n : Nat} {r : Raise} {s : State} (hopen : linkOpen s = true) (gate : s.link.gate = .faultAfter n)
    (inFlight : s.tickets.inFlight = some (.raise r)) (short : n < (ticketWrites r.ticket s).length) :
    raiseRead r true s = takeBusFault (cutAt n (closeTraffic false r s) s) := by
  have fatal : s.link.fatal = .none := by simp [linkOpen, readsOpen] at hopen; exact hopen.1.1
  have cut : issueAll (ticketWrites r.ticket s) (setInFlight (some (.closeWrite r)) s) =
      takeBusFault (setInFlight (some (.closeWrite r)) (cutAt n (closeTraffic false r s) s)) := by
    rw [(issueAll_cut _ (by exact hopen) (by exact gate)).1 short]
    have ahead : (closeTraffic false r s).take n = (ticketWrites r.ticket s).take n :=
      List.take_append_of_le_length (Nat.le_of_lt short)
    rw [cutAt, cutAt, ahead]
    rfl
  have ended : (issueAll (ticketWrites r.ticket s) (setInFlight (some (.closeWrite r)) s)).tickets.inFlight.isSome = false := by
    rw [cut, (takeBusFault_closed (by exact fatal)).2.1]
    rfl
  have stood : setInFlight (some (.raise r)) (cutAt n (closeTraffic false r s) s) = cutAt n (closeTraffic false r s) s := by
    rw [← inFlight]
    rfl
  have whole : raiseRead r true s = issueAll (ticketWrites r.ticket s) (setInFlight (some (.closeWrite r)) s) :=
    if_neg (by rw [Bool.not_eq_true]; exact ended)
  rw [whole, cut, takeBusFault_begun r (by exact fatal), stood]

/-- R161, R164, log 33: the fault announced for a write of the record of a close, behind its ticket. -/
theorem raiseRead_recordCut {n : Nat} {r : Raise} {ring : Ring} {s : State} (hopen : linkOpen s = true)
    (gate : s.link.gate = .faultAfter n) (placed : s.tickets.ring = some ring)
    (inFlight : s.tickets.inFlight = some (.raise r)) (long : (ticketWrites r.ticket s).length ≤ n)
    (short : n < (closeTraffic false r s).length) :
    ∃ v, raiseRead r true s = takeBusFault v ∧ hostWrites v = hostWrites s ++ (closeTraffic false r s).take n ∧
      ticketTold false s v ∧
      v = { s with
        alarm := v.alarm
        tickets := { s.tickets with
          writePosition := positionAfter ring s
          blocked := false }
        link := { s.link with
          flags := v.link.flags
          log := v.link.log
          gate := .open } } := by
  have fatal : s.link.fatal = .none := by simp [linkOpen, readsOpen] at hopen; exact hopen.1.1
  obtain ⟨q, hq⟩ : ∃ q, q = issueAll (ticketWrites r.ticket s) (setInFlight (some (.closeWrite r)) s) := ⟨_, rfl⟩
  have out : q = { setInFlight (some (.closeWrite r)) s with link := { s.link with
      gate := .faultAfter (n - (ticketWrites r.ticket s).length)
      log := s.link.log ++ (ticketWrites r.ticket s).map .write } } :=
    hq.trans ((issueAll_cut _ (by exact hopen) (by exact gate)).2 long)
  obtain ⟨⟨writes, frame⟩, flags, accounts⟩ := ticketWritten_told (s := q) (ring := ring) (by rw [out]; exact placed)
  have whole : raiseRead r true s = (if q.tickets.inFlight.isSome then
      (if (recordClose r (ticketWritten q)).tickets.inFlight.isSome then
        finishClose r s.tickets.number (setInFlight none (recordClose r (ticketWritten q)))
      else recordClose r (ticketWritten q)) else q) := by
    rw [hq]
    rfl
  generalize ticketWritten q = p at writes frame flags accounts whole
  have record : closeWrites r p = closeWrites r s := by
    rw [frame, out]
    rfl
  have left : n - (ticketWrites r.ticket s).length < (closeWrites r s).length := by
    simp only [closeTraffic, List.length_append, Bool.false_eq_true, if_false] at short
    omega
  have openP : linkOpen p = true := by
    rw [frame, out]
    simpa [linkOpen, readsOpen, writesDropped, gate] using hopen
  have gateP : p.link.gate = .faultAfter (n - (ticketWrites r.ticket s).length) := by
    rw [frame, out]
  have fatalP : p.link.fatal = .none := by
    rw [frame, out]
    exact fatal
  have cut : recordClose r p = takeBusFault (cutAt (n - (ticketWrites r.ticket s).length) (closeWrites r s) p) := by
    rw [recordClose, record]
    exact (issueAll_cut _ openP gateP).1 left
  have begun : q.tickets.inFlight.isSome = true := by
    rw [out]
    rfl
  have ended : (recordClose r p).tickets.inFlight.isSome = false := by
    rw [cut, (takeBusFault_closed (by exact fatalP)).2.1]
    rfl
  rw [if_pos begun, if_neg (by rw [Bool.not_eq_true]; exact ended), cut] at whole
  have stood : setInFlight (some (.closeWrite r)) (cutAt (n - (ticketWrites r.ticket s).length) (closeWrites r s) p) =
      cutAt (n - (ticketWrites r.ticket s).length) (closeWrites r s) p := by
    rw [frame, out]
    rfl
  rw [← stood, takeBusFault_begun r (by exact fatalP)] at whole
  refine ⟨_, whole, ?_, ?_, ?_⟩
  · have log : hostWrites p = hostWrites s ++ ticketWrites r.ticket s := by
      rw [writes, out]
      simp [hostWrites]
    have all : (closeTraffic false r s).take n = ticketWrites r.ticket s ++
        (closeWrites r s).take (n - (ticketWrites r.ticket s).length) := by
      simp only [closeTraffic, Bool.false_eq_true, if_false, List.take_append, List.take_of_length_le long]
    rw [all, ← List.append_assoc, ← log]
    simp only [hostWrites, setInFlight, cutAt, writesOf_append, writesOf_writes]
  · rw [out] at flags
    exact flags
  · have accounts' : p.accounts = s.accounts := by
      rw [accounts, out]
      rfl
    rw [frame, out, accounts', ← inFlight]
    rfl

/-- R29: the fault announced for the record write of an EXTEND finds the extension inside the part and stops the order. -/
theorem extendOrder_cut {o : Order} {k : Fin 1024} {grant : Nat} {w : HostWrite} {code : OutcomeCode} {result : List Byte}
    {s : State} (hopen : linkOpen s = true) (gate : s.link.gate = .faultAfter 0) (idle : accessesIdle s) :
    submit [.write w, .report code result]
        { extended k grant s with orders := { s.orders with unit := .acting o .queued } } =
      takeBusFault { extended k grant s with
        orders := { s.orders with unit := .acting o .stopped }
        link := { s.link with gate := .open } } := by
  obtain ⟨inFlight, waiting⟩ := idle
  have fatal : s.link.fatal = .none := by simp [linkOpen, readsOpen] at hopen; exact hopen.1.1
  obtain ⟨q, hq⟩ : ∃ q, q = takeBusFault { extended k grant s with
      orders := { s.orders with unit := .acting o .queued } } := ⟨_, rfl⟩
  have struck : beginAccess (.write w) { extended k grant s with orders := { s.orders with unit := .acting o .queued } } = q := by
    have opened : linkOpen { extended k grant s with orders := { s.orders with unit := .acting o .queued } } = true := hopen
    have faulted : (extended k grant s).link.gate = .faultAfter 0 := gate
    simp only [beginAccess, issue, opened, if_true, sendWrite, faulted, hq]
  have ended : q.tickets.inFlight = none := by
    rw [hq]
    exact (takeBusFault_closed (by exact fatal)).2.1
  have stopped : q.orders.unit = .acting o .stopped := by
    obtain ⟨-, -, -, -, -, -, -, -, -, -, -, -, -, -, -, -, -, -, stops, -⟩ := takeBusFault_taken (s :=
      { extended k grant s with orders := { s.orders with unit := .acting o .queued } }) fatal
    rw [hq]
    exact stops o _ rfl
  have pumped : pump [.write w, .report code result]
      { extended k grant s with orders := { s.orders with unit := .acting o .queued } } = q := by
    have begun : ({ extended k grant s with orders := { s.orders with unit := .acting o .queued } } :
      State).tickets.inFlight.isSome = false := by
      show s.tickets.inFlight.isSome = false
      rw [inFlight]
      rfl
    rw [pump, if_neg (by rw [Bool.not_eq_true]; exact begun), struck, pump_report ended]
    simp only [finishOrder, stopped]
  rw [submit_idle _ (by exact waiting), pumped, hq]
  exact (takeBusFault_stage o .queued (s := extended k grant s) fatal).trans (takeBusFault_open (by exact fatal)).symm

/-- Settles O30. -/
theorem busFaultTaken : Obligations.BusFaultTaken := by
  intro c s hc hr
  have ran := fun after => exec_fault hc hr after
  have struck : ∀ v : State, v.resetn = true → exec (c 0) v = .next (takeBusFault v) := fun v hv => exec_fault hc hv 0
  refine ⟨fun after fatal => ?_, fun n fatal => ?_, fun fatal => ?_, fun n hopen gate => ?_⟩
  · rw [ran]
    cases after with
    | zero => rw [busFaultAt, takeBusFault, if_pos fatal]
    | succ n => rw [busFaultAt, if_neg (by rw [fatal]; simp)]
  · rw [ran, busFaultAt, if_pos fatal]
  · obtain ⟨t1, t2, t3, t4, t5, t6, t7, t8, t9, t10, t11, t12, t13, t14, t15, t16, t17, t18, t19, t20, t21, t22, t23, t24, t25⟩ :=
      takeBusFault_taken fatal
    exact ⟨_, ran 0, t1, t2, t3, t4, t5, t6, t7, t8, t9, t10, t11, t12, t13, t14, t15, t16, t17, t18, t19, t20, t21, t22, t23,
      t24, t25, fun books accounts => takeBusFault_tickets fatal (writtenWhole_of books.2) accounts.1⟩
  have fatal : s.link.fatal = .none := by simp [linkOpen, readsOpen] at hopen; exact hopen.1.1
  refine ⟨fun ws page => ?_, fun r ring inFlight placed noTicks => ?_, ?_⟩
  · have completed : exec .pageComplete s = .next (pageComplete s) := exec_live hr (by simp) (by simp)
    obtain ⟨cut, whole⟩ := pageComplete_cut hopen gate page
    refine ⟨fun short => ?_, fun long => ?_⟩
    · rw [completed, cut short, struck _ (by exact hr)]
    · rw [completed, whole long]
  · have completed : exec (.ticketSlotReadComplete 0) s = .next (settlePage (ticketSlotRead 0 s)) :=
      exec_live hr (by simp) (by simp)
    have read : ticketSlotRead 0 s = pumpWaiting (raiseRead r true s) := by
      simp only [ticketSlotRead, inFlight, beq_self_eq_true]
    have ends : ∀ v : State, v.link.fatal = .none → v.link.pageTicks = [] → v.resetn = true →
        raiseRead r true s = takeBusFault v → exec (.ticketSlotReadComplete 0) s = exec (c 0) v := fun v hf ht hv e => by
      have settled : pumpWaiting (takeBusFault v) = takeBusFault v :=
        pumpWaiting_none (takeBusFault_closed hf).2.2.1
      rw [completed, read, e, settled, settlePage_none ((takeBusFault_ticks hf).trans ht), struck v hv]
    refine ⟨fun short => ?_, fun long short => ?_⟩
    · exact ends _ fatal noTicks hr (raiseRead_cut hopen gate inFlight short)
    · obtain ⟨v, faulted, writes, flags, frame⟩ := raiseRead_recordCut hopen gate placed inFlight long short
      have resetn : v.resetn = true := by rw [frame]; exact hr
      have fatalV : v.link.fatal = .none := by rw [frame]; exact fatal
      have ticks : v.link.pageTicks = [] := by rw [frame]; exact noTicks
      exact ⟨v, ends v fatalV ticks resetn faulted, writes, flags, frame⟩
  · intro o k before after zero unit code idle hk hcount h1 h60 hcl hs ht hb pos
    subst zero
    have taken : exec .extend s = .next (extendOrder o s) := by
      rw [exec_live hr (by simp) (by simp), liveEffect, takeOrder]
      simp only [orderFor, unit, code, if_true]
    have granted := extendOrder_granted unit (slotIndex_of_val hk hcount) h1 h60 hcl hs ht hb
    rw [taken, granted, if_neg (Nat.ne_of_gt pos), extendOrder_cut hopen gate idle]
    refine (struck _ ?_).symm
    exact hr

end Sys2Proof.Machine
end

section
/-! ### The references of the network clock, and the page in flight (03 sections 3.2, 3.4; 11 section 11.1) -/

namespace Sys2Proof.Machine

/-! ### The relock run (R33) -/

/-- R33: a pulse that does not follow the last at the gap of a run begins one. -/
theorem relockCount_first {r : Relock} {instant : Nat} (h : r.count = 0 ∨ ¬relockGap r instant) :
    relockCount r instant = 1 := by
  rw [relockCount]
  by_cases zero : r.count = 0
  · rw [if_pos zero]
  · rw [if_neg zero]
    exact if_neg (h.resolve_left zero)

/-- R33: a pulse at the gap of a run counts in it. -/
theorem relockCount_next {r : Relock} {instant : Nat} (h : r.count ≠ 0) (gap : relockGap r instant) :
    relockCount r instant = r.count + 1 := by
  rw [relockCount, if_neg h]
  exact if_pos gap

/-- Settles O35. -/
theorem relockRunTaken : Obligations.RelockRunTaken := by
  intro instant order s hr
  have pulse : s.clock.secref = .freeRun →
      exec (.secrefPulse instant order) s = .next (pulseFreeRun instant order s) := fun h => by
    rw [exec_live hr (by simp) (by simp), liveEffect, secrefPulse, h]
  have timeout : exec .relockTimeout s = .next (relockTimeout s) := exec_live hr (by simp) (by simp)
  have own : exec (.ownTick order) s = .next (ownTick order s) := exec_live hr (by simp) (by simp)
  have expiry : exec (.secrefTimeout order) s = .next (secrefTimeout order s) := exec_live hr (by simp) (by simp)
  refine ⟨fun free first => ?_, fun free one gap => ?_, fun free => ?_, fun locked => ⟨?_, ?_⟩, fun free => ?_⟩
  · rw [pulse free, pulseFreeRun, relockCount_first first]
    rfl
  · rw [pulse free, pulseFreeRun, relockCount_next (by omega) gap, one]
    rfl
  · rw [timeout, relockTimeout, free]
  · rw [own, ownTick, locked]
  · rw [timeout, relockTimeout, locked]
  · rw [expiry, secrefTimeout, free]

/-! ### Switch points (R76, R77) -/

/-- R108: protection makes one request at a port, or none. -/
theorem protectPort_cases (cond : Slot → Bool) (d : Fin 64) (s : State) :
    protectPort cond d s = s ∨ ∃ k x, protectPort cond d s = request k x .protection s := by
  cases owner : ownerOf d s with
  | none => exact .inl (by simp only [protectPort, owner])
  | some n =>
    simp only [protectPort, owner, applyProtection]
    by_cases looks : cond s.store.slots[n] = true
    · rw [if_pos looks]
      by_cases stays : chooseLater s.store.slots[n] (fun p => healthOf p s) (intended s.rows[s.store.slots[n].port]) =
          intended s.rows[s.store.slots[n].port]
      · exact .inl (if_pos stays)
      · exact .inr ⟨_, _, if_neg stays⟩
    · exact .inl (if_neg looks)

/-- Protection over ports moves pending selections alone. -/
theorem protectPort_pending (cond : Slot → Bool) (d e : Fin 64) (s : State) :
    (protectPort cond d s).rows[e] = { s.rows[e] with pending := (protectPort cond d s).rows[e].pending } := by
  have asked : ∀ (k : Fin 64) (x : Source), (request k x .protection s).rows[e] =
      { s.rows[e] with pending := (request k x .protection s).rows[e].pending } := fun k x => by
    by_cases same : k = e
    · subst same
      simp [request, setRow, requestRow]
    · have other : k.val ≠ e.val := fun x => same (Fin.ext x)
      simp [request, setRow, other]
  obtain same | ⟨k, x, same⟩ := protectPort_cases cond d s
  · rw [same]
  · rw [same]
    exact asked k x

theorem protectPorts_pending (cond : Slot → Bool) (l : List (Fin 64)) (e : Fin 64) (s : State) :
    (l.foldl (fun t d => protectPort cond d t) s).rows[e] =
      { s.rows[e] with pending := (l.foldl (fun t d => protectPort cond d t) s).rows[e].pending } := by
  induction l generalizing s with
  | nil => rfl
  | cons d l ih =>
    rw [List.foldl_cons, ih, protectPort_pending]

/-- R108: protection looks at the book, the selection table and the monitors. -/
theorem protectPort_congr (cond : Slot → Bool) (d : Fin 64) {s t : State} (sameStore : t.store = s.store)
    (sameRows : t.rows = s.rows) (sameMonitors : t.monitors = s.monitors) :
    (protectPort cond d t).rows = (protectPort cond d s).rows := by
  obtain ⟨_, _, _, _, _, _, _, _, _, _, _, _, _⟩ := s
  obtain ⟨_, _, _, _, _, store, rows, _, monitors, _, _, _, _⟩ := t
  simp only at sameStore sameRows sameMonitors
  subst sameStore sameRows sameMonitors
  simp only [protectPort, applyProtection, ownerOf, healthOf]
  cases List.find? _ _ with
  | none => rfl
  | some n =>
    by_cases looks : cond store.slots[n] = true
    · simp only [if_pos looks]
      by_cases stays : chooseLater store.slots[n] (fun p => monitors[p].health) (intended rows[store.slots[n].port]) =
          intended rows[store.slots[n].port]
      · refine (congrArg State.rows (if_pos stays)).trans (Eq.symm ?_)
        exact (congrArg State.rows (if_pos stays)).trans rfl
      · refine (congrArg State.rows (if_neg stays)).trans (Eq.symm ?_)
        exact (congrArg State.rows (if_neg stays)).trans rfl
    · simp only [if_neg looks]

theorem protectPorts_congr (cond : Slot → Bool) (l : List (Fin 64)) {s t : State} (store : t.store = s.store)
    (rows : t.rows = s.rows) (monitors : t.monitors = s.monitors) :
    (l.foldl (fun t d => protectPort cond d t) t).rows = (l.foldl (fun t d => protectPort cond d t) s).rows := by
  induction l generalizing s t with
  | nil => exact rows
  | cons d l ih =>
    refine ih ?_ (protectPort_congr cond d store rows monitors) ?_
    · dsimp only
      rw [protectPort_frame cond d t, protectPort_frame cond d s]
      exact store
    · dsimp only
      rw [protectPort_frame cond d t, protectPort_frame cond d s]
      exact monitors

theorem mem_pendingPorts (d : Fin 64) (s : State) : d ∈ pendingPorts s ↔ s.rows[d].pending.isSome = true := by
  simp only [pendingPorts, List.mem_filter, List.mem_finRange, true_and]

theorem pendingPorts_empty (s : State) : (pendingPorts s).isEmpty = true ↔ ∀ d : Fin 64, s.rows[d].pending = none := by
  rw [List.isEmpty_iff, List.eq_nil_iff_forall_not_mem]
  simp only [mem_pendingPorts, Bool.not_eq_true, Option.isSome_eq_false_iff, Option.isNone_iff_eq_none]

/-- R76: the row of a port at a switch point. -/
theorem switchRow_eq (inside : Bool) (r : Row) : switchRow inside r = { r with
    current := (r.pending.map (·.target)).getD r.current
    pending := none
    changed := r.changed || (r.pending.isSome && inside) } := by
  obtain ⟨current, pending, unbooked, changed, owned, last⟩ := r
  cases pending with
  | none => simp [switchRow]
  | some x => simp [switchRow]

/-- R76: with nothing pending a switch point does nothing. -/
theorem switchPoint_idle (inside : Bool) {s : State} (h : ∀ d : Fin 64, s.rows[d].pending = none) :
    switchPoint inside s = s := by
  have rows : build (fun d => switchRow inside s.rows[d]) = s.rows := by
    refine Vector.ext fun i hi => ?_
    refine (build_getFin (fun d : Fin 64 => switchRow inside s.rows[d]) ⟨i, hi⟩).trans ?_
    rw [switchRow, h ⟨i, hi⟩]
    rfl
  rw [switchPoint, handExecutions, if_pos ((pendingPorts_empty s).mpr h), rows]

/-- The part once the selections of its ports have been carried out, and protection has looked at the ports. -/
def switched (inside : Bool) (s : State) : State :=
  (pendingPorts s).foldl (fun t d => protectPort (fun _ => true) d t)
    { s with rows := build fun d => switchRow inside s.rows[d] }

/-- R77: a switch point that carries out a selection hands it on. -/
theorem switchPoint_executed (inside : Bool) {s : State} (h : ∃ d : Fin 64, s.rows[d].pending.isSome = true) :
    switchPoint inside s = markPage (deriveSources (switched inside s)) := by
  obtain ⟨d, some⟩ := h
  refine if_neg fun empty => ?_
  have none := (pendingPorts_empty s).mp empty d
  rw [none] at some
  exact absurd some (by simp)

theorem switched_frame (inside : Bool) (s : State) : switched inside s = { s with rows := (switched inside s).rows } := by
  have frame := protectPorts_frame (fun _ => true) (pendingPorts s)
    { s with rows := build fun d => switchRow inside s.rows[d] }
  exact frame

theorem switched_congr {inside : Bool} {s t : State} (store : t.store = s.store) (rows : t.rows = s.rows)
    (monitors : t.monitors = s.monitors) : (switched inside t).rows = (switched inside s).rows := by
  rw [switched, switched, pendingPorts, pendingPorts, rows]
  exact protectPorts_congr _ _ (by exact store) rfl (by exact monitors)

/-- R76: a switch point carries out pending selections and marks the changes inside the second; only protection asks anew. -/
theorem switched_row (inside : Bool) (s : State) (d : Fin 64) : (switched inside s).rows[d] = { s.rows[d] with
    current := (s.rows[d].pending.map (·.target)).getD s.rows[d].current
    pending := (switched inside s).rows[d].pending
    changed := s.rows[d].changed || (s.rows[d].pending.isSome && inside) } := by
  refine (protectPorts_pending _ _ d _).trans ?_
  have base : ({ s with rows := build fun d => switchRow inside s.rows[d] } : State).rows[d] = switchRow inside s.rows[d] :=
    build_getFin _ d
  rw [base, switchRow_eq]
  rfl

/-- R76, R111: what becomes of the selection of a port at a switch point. -/
theorem switched_selection (inside : Bool) {s : State} (h : ownersHome s) (d : Fin 64) :
    (switched inside s).rows[d] = if s.rows[d].pending.isSome then
      toldRow (fun _ => true) d s (switchRow inside s.rows[d]) else s.rows[d] := by
  have told := protectPorts_row (fun _ => true) (pendingPorts s) d (List.Nodup.filter _ (List.nodup_finRange 64))
    (s := { s with rows := build fun d => switchRow inside s.rows[d] }) h
  simp only [mem_pendingPorts, build_getFin] at told
  refine told.trans ?_
  by_cases some : s.rows[d].pending.isSome = true
  · rw [if_pos some, if_pos some]
    rfl
  · rw [if_neg some, if_neg some, switchRow, Option.not_isSome_iff_eq_none.mp some]

/-! ### FRAMEREF (R38) -/

theorem clockSeverity_eq (c : Clock) :
    clockSeverity c = (if c.secref = .freeRun then 1 else 0) + (if c.frameref = .lost then 1 else 0) := by
  unfold clockSeverity
  cases c.secref <;> cases c.frameref <;> rfl

/-- R39, R40: a reference state changes. -/
theorem changeReference_eq (c : Clock) (s : State) : changeReference c s = withReference c s := by
  rw [changeReference, referenceChanged, latch_eq, setSeverity, setAlarm_eq, clockSeverity_eq]
  rfl

/-- R107: what the rule lodges it lodges with cause PROTECTION. -/
theorem protectedRow_cause {b : Slot} {health : Fin 48 → Health} {r : Row} {x : Selection}
    (h : (protectedRow b health r).pending = some x) (idle : r.pending = none) : x.cause = .protection := by
  simp only [protectedRow] at h
  by_cases stays : chooseLater b health (intended r) = intended r
  · rw [if_pos stays, idle] at h
    cases h
  · rw [if_neg stays] at h
    by_cases current : chooseLater b health (intended r) = r.current
    · rw [if_pos current] at h
      cases h
    · rw [if_neg current] at h
      cases h
      rfl

/-- What becomes of a selection at a switch point that comes with no tick. -/
theorem switched_moved {s t : State} (h : timelinesLawful s) (rows : ∀ d : Fin 64, t.rows[d] = (switched true s).rows[d])
    (monitors : t.monitors = s.monitors) (d : Fin 64) : selectionMoved true d s t ∧
      ∀ x, t.rows[d].pending = some x →
        x.cause = .protection ∧ s.rows[d].pending.isSome = true ∧ (ownerOf d s).isSome = true := by
  have row := (rows d).trans (switched_selection true (ownersHome_of h) d)
  have took : sameSelection (switchRow true s.rows[d]) (selectionTaken s.rows[d]) := switchRow_same true ⟨rfl, rfl⟩
  have healths : (fun p : Fin 48 => t.monitors[p].health) = healthsOf s := by rw [monitors]; rfl
  by_cases some : s.rows[d].pending.isSome = true
  · rw [if_pos some] at row
    refine ⟨⟨fun none => ?_, fun n owner => ⟨[], [], List.nodup_nil, fun p => by simp [monitors], ?_⟩⟩, fun x hx => ?_⟩
    · rw [toldRow, none] at row
      rw [row]
      exact took
    · simp only [toldRow, owner, if_true] at row
      simp only [healthsTold, some, and_self, if_true, row, List.not_mem_nil, if_false]
      exact protectedRow_same _ _ took
    · rw [row] at hx
      cases owner : ownerOf d s with
      | none =>
        simp only [toldRow, owner] at hx
        rw [took.2] at hx
        exact absurd hx (by simp [selectionTaken])
      | some n =>
        refine ⟨?_, some, rfl⟩
        simp only [toldRow, owner, if_true] at hx
        rw [(protectedRow_same _ _ took).2] at hx
        exact protectedRow_cause hx (by rfl)
  · rw [if_neg some] at row
    have none : s.rows[d].pending = none := Option.not_isSome_iff_eq_none.mp some
    refine ⟨⟨fun _ => ?_, fun n owner => ⟨[], [], List.nodup_nil, fun p => by simp [monitors], ?_⟩⟩, fun x hx => ?_⟩
    · rw [row]
      exact ⟨(selectionTaken_none some).1.symm, (selectionTaken_none some).2.symm⟩
    · simp only [healthsTold, row, some]
      exact ⟨rfl, rfl⟩
    · rw [row, none] at hx
      cases hx

theorem deriveSources_eq (s : State) :
    deriveSources s = withAlarm { s.alarm with items := derivedItems s } s := setAlarm_eq _ s

/-- R38, R166: the part when a FRAMEREF pulse has carried out its selections, before the alarm ranking unit follows. -/
def pulsed (s : State) : State :=
  { s with
    rows := (switched true s).rows
    link := { s.link with
      pageDue := if crosspointTicked s then s.link.pageDue else true
      pageNext := if crosspointTicked s then true else s.link.pageNext } }

theorem pulseSwitch_executed {s : State} (h : ∃ d : Fin 64, s.rows[d].pending.isSome = true) :
    pulseSwitch s = deriveSources (pulsed s) := by
  have waiting : (pendingPorts s).isEmpty = false := by
    obtain ⟨d, some⟩ := h
    refine Bool.eq_false_iff.mpr fun empty => ?_
    rw [(pendingPorts_empty s).mp empty d] at some
    exact absurd some (by simp)
  have point := switchPoint_executed true h
  have frame := switched_frame true s
  rw [markPage_deriveSources] at point
  simp only [pulseSwitch, waiting, Bool.not_false, Bool.and_true, point, deriveSources_eq, pulsed]
  generalize (switched true s).rows = rows at frame
  rw [frame]
  by_cases ticked : crosspointTicked s = true
  · rw [if_pos ticked, if_pos ticked, if_pos ticked]
    rfl
  · rw [if_neg ticked, if_neg ticked, if_neg ticked]
    rfl

theorem pulseSwitch_idle {s : State} (h : ∀ d : Fin 64, s.rows[d].pending = none) : pulseSwitch s = s := by
  simp only [pulseSwitch, (pendingPorts_empty s).mpr h, switchPoint_idle true h, Bool.not_true, Bool.and_false,
    Bool.false_eq_true, if_false]

/-- R76, R77: a FRAMEREF pulse, at the part with its references as the pulse leaves them. -/
theorem pulseSwitch_told (u : State) : ∃ t, pulseSwitch u = t ∧ t.clock = u.clock ∧ hostWrites t = hostWrites u ∧
    t.monitors = u.monitors ∧ (∀ d : Fin 64, t.rows[d] = (switched true u).rows[d]) ∧
    ((∀ d : Fin 64, u.rows[d].pending = none) → t = u) ∧
    ((∃ d : Fin 64, u.rows[d].pending.isSome = true) → derivedFrom t u.alarm t.alarm ∧
      t = withAlarm t.alarm { u with
        rows := t.rows
        link := { u.link with
          pageDue := if crosspointTicked u then u.link.pageDue else true
          pageNext := if crosspointTicked u then true else u.link.pageNext } }) := by
  refine ⟨_, rfl, ?_⟩
  by_cases h : ∃ d : Fin 64, u.rows[d].pending.isSome = true
  · have told := deriveSources_told (pulsed u)
    have rows : (deriveSources (pulsed u)).rows = (switched true u).rows := by simp [pulsed]
    rw [pulseSwitch_executed h]
    refine ⟨by simp [pulsed], deriveSources_writes _, by simp [pulsed], fun d => by rw [rows], fun none => ?_, fun _ => ⟨told.1, ?_⟩⟩
    · obtain ⟨d, some⟩ := h
      rw [none d] at some
      exact absurd some (by simp)
    · rw [rows, deriveSources_eq]
      rfl
  · have none : ∀ d : Fin 64, u.rows[d].pending = none := fun d =>
      Option.not_isSome_iff_eq_none.mp fun some => h ⟨d, some⟩
    rw [pulseSwitch_idle none]
    refine ⟨rfl, rfl, rfl, fun d => ?_, fun _ => rfl, fun some => absurd some h⟩
    have base : (pendingPorts u) = [] := List.isEmpty_iff.mp ((pendingPorts_empty u).mpr none)
    rw [switched, base]
    exact ((build_getFin _ d).trans (by rw [switchRow, none d])).symm

theorem hostWrites_withReference (c : Clock) (s : State) : hostWrites (withReference c s) = hostWrites s := by
  simp [withReference]
  rfl

/-- What a FRAMEREF pulse does, where the references it leaves change nothing that a switch point looks at. -/
theorem framerefPulse_told {s u : State} {instant : Nat}
    (command : framerefPulse instant s = pulseSwitch u)
    (writes : hostWrites u = hostWrites s) (store : u.store = s.store) (rows : u.rows = s.rows)
    (monitors : u.monitors = s.monitors) (ticked : crosspointTicked u = crosspointTicked s)
    (due : u.link.pageDue = s.link.pageDue) (next : u.link.pageNext = s.link.pageNext) :
    ∃ t, framerefPulse instant s = t ∧ t.clock = u.clock ∧ hostWrites t = hostWrites s ∧
      ((∀ d : Fin 64, s.rows[d].pending = none) → t = u) ∧
      ((∃ d : Fin 64, s.rows[d].pending.isSome = true) → derivedFrom t u.alarm t.alarm ∧
        t = withAlarm t.alarm { u with
          rows := t.rows
          link := { u.link with
            pageDue := if crosspointTicked s then s.link.pageDue else true
            pageNext := if crosspointTicked s then true else s.link.pageNext } }) ∧
      ∀ d : Fin 64,
        t.rows[d] = { s.rows[d] with
          current := ((s.rows[d].pending.map (·.target)).getD s.rows[d].current)
          pending := t.rows[d].pending
          changed := s.rows[d].changed || s.rows[d].pending.isSome } ∧
        (timelinesLawful s → selectionMoved true d s t ∧ ∀ x, t.rows[d].pending = some x →
          x.cause = .protection ∧ s.rows[d].pending.isSome = true ∧ (ownerOf d s).isSome = true) := by
  obtain ⟨t, pulse, clock, traffic, mons, row, none, some⟩ := pulseSwitch_told u
  have same : (switched true u).rows = (switched true s).rows := switched_congr store rows monitors
  rw [rows] at none some
  rw [ticked, due, next] at some
  refine ⟨t, command.trans pulse, clock, traffic.trans writes, none, some, fun d => ⟨?_, fun lawful => ?_⟩⟩
  · have told := switched_row true s d
    rw [Bool.and_true] at told
    rw [row, show (switched true u).rows[d] = (switched true s).rows[d] by rw [same]]
    exact told
  · exact switched_moved lawful (fun e => (row e).trans (congrArg (·[e]) same)) (mons.trans monitors) d

/-- Settles O36. -/
theorem framerefTaken : Obligations.FramerefTaken := by
  intro s hr
  have expiry : exec .framerefTimeout s = .next (framerefTimeout s) := exec_live hr (by simp) (by simp)
  refine ⟨fun instant => ?_, fun present => ?_, fun lost => ?_⟩
  · have pulse : exec (.framerefPulse instant) s = .next (framerefPulse instant s) := exec_live hr (by simp) (by simp)
    by_cases present : s.clock.frameref = .present
    · have command : framerefPulse instant s =
          pulseSwitch { s with clock := { s.clock with frameref := .present, lastFrame := some instant } } := by
        rw [framerefPulse, present]
      obtain ⟨t, same, told⟩ := framerefPulse_told command rfl rfl rfl rfl rfl rfl rfl
      refine ⟨t, pulse.trans (congrArg _ same), ?_⟩
      simp only [if_pos present]
      exact told
    · have command : framerefPulse instant s =
          pulseSwitch (withReference { s.clock with frameref := .present, lastFrame := some instant } s) := by
        rw [framerefPulse, changeReference_eq]
        cases ref : s.clock.frameref with
        | present => exact absurd ref present
        | lost => rfl
      obtain ⟨t, same, told⟩ := framerefPulse_told command (hostWrites_withReference _ s) rfl rfl rfl rfl rfl rfl
      refine ⟨t, pulse.trans (congrArg _ same), ?_⟩
      simp only [if_neg present]
      exact told
  · rw [expiry, framerefTimeout, present]
    exact congrArg _ (changeReference_eq _ s)
  · rw [expiry, framerefTimeout, lost]

end Sys2Proof.Machine
end

section
/-! ### The windows in DORMANT (R3, R10, R14) -/

namespace Sys2Proof.Machine

/-- From u on, a part found DORMANT has stayed so, with START as far as it was. -/
def sleptSince (u s : State) : Prop := s.link.run = .dormant → u.link.run = .dormant ∧ s.link.start = u.link.start

/-- A change that leaves the run state and START, or leaves DORMANT. -/
theorem slept_step {u s t : State} (h : sleptSince u s)
    (step : t.link.run = s.link.run ∧ t.link.start = s.link.start ∨ t.link.run ≠ .dormant) : sleptSince u t := by
  intro dormant
  obtain ⟨run, start⟩ | awake := step
  · obtain ⟨before, same⟩ := h (run.symm.trans dormant)
    exact ⟨before, start.trans same⟩
  · exact absurd dormant awake

theorem slept_link {u s t : State} (h : sleptSince u s) (link : t.link = s.link) : sleptSince u t :=
  slept_step h (.inl (by rw [link]; exact ⟨rfl, rfl⟩))

theorem slept_view {u s t : State} (h : sleptSince u s) (view : runView t = runView s) : sleptSince u t := by
  simp only [runView, Prod.mk.injEq] at view
  obtain ⟨run, -, start, -⟩ := view
  exact slept_step h (.inl ⟨run, start⟩)

/-! ### Writes, faults and reports -/

theorem takeBusFault_slept {u s : State} (h : sleptSince u s) : sleptSince u (takeBusFault s) := by
  obtain fatal | fatal := fatal_cases s
  · rw [takeBusFault, if_pos fatal]
    exact h
  · have view := takeBusFault_view fatal
    simp only [runView, Prod.mk.injEq] at view
    obtain ⟨run, -⟩ := view
    exact slept_step h (.inr (by rw [run]; simp))

theorem sendWrite_slept (w : HostWrite) {u s : State} (h : sleptSince u s) : sleptSince u (sendWrite w s) := by
  unfold sendWrite
  split
  · exact slept_step h (.inl ⟨rfl, rfl⟩)
  · exact takeBusFault_slept h
  · exact slept_step h (.inl ⟨rfl, rfl⟩)
  · exact slept_step h (.inl ⟨rfl, rfl⟩)

theorem issue_slept (w : HostWrite) {u s : State} (h : sleptSince u s) : sleptSince u (issue w s) := by
  unfold issue
  split
  · exact sendWrite_slept w h
  · exact h

theorem issueAll_slept (ws : List HostWrite) {u s : State} (h : sleptSince u s) : sleptSince u (issueAll ws s) :=
  foldl_closed (fun _ w ht => issue_slept w ht) ws h

theorem issueRead_slept (a : Address) (n : Nat) {u s : State} (h : sleptSince u s) : sleptSince u (issueRead a n s) := by
  unfold issueRead
  split
  · exact slept_step h (.inl ⟨rfl, rfl⟩)
  · exact h

theorem takeEntry_slept {u s : State} (h : sleptSince u s) : sleptSince u (takeEntry s) := by
  unfold takeEntry
  split
  · exact slept_link (issueRead_slept _ _ h) rfl
  · exact h

theorem enterHeld_slept {u s : State} (h : sleptSince u s) : sleptSince u (enterHeld s) := by
  have view := enterHeld_view s
  simp only [runView, Prod.mk.injEq] at view
  obtain ⟨run, -⟩ := view
  exact slept_step h (.inr (by rw [run]; simp))

theorem afterOrder_slept {u s : State} (h : sleptSince u s) : sleptSince u (afterOrder s) := by
  unfold afterOrder
  split
  · exact enterHeld_slept (slept_step h (.inl ⟨rfl, rfl⟩))
  · exact takeEntry_slept h

theorem orderDone_slept (notify : Bool) {u s : State} (h : sleptSince u s) : sleptSince u (orderDone notify s) := by
  have passed : sleptSince u { s with orders := passEntry s.orders } := slept_link h rfl
  refine afterOrder_slept ?_
  cases notify with
  | true => exact slept_view passed (latch_view _ _)
  | false => exact passed

theorem report_slept (notify : Bool) (outcome : OutcomeCode) (result : List Byte) {u s : State} (h : sleptSince u s) :
    sleptSince u (report notify outcome result s) := by
  have written := issueAll_slept (reportWrites s outcome result) (slept_link (t := setUnit .reporting s) h rfl)
  unfold report
  dsimp only
  split
  · exact written
  · split
    · exact orderDone_slept notify (issue_slept _ written)
    · exact issue_slept _ written

theorem finishOrder_slept (outcome : OutcomeCode) (result : List Byte) {u s : State} (h : sleptSince u s) :
    sleptSince u (finishOrder outcome result s) := by
  unfold finishOrder
  split
  · exact h
  all_goals first
    | exact report_slept _ _ _ h
    | exact h

theorem setStage_slept (stage : Stage) {u s : State} (h : sleptSince u s) : sleptSince u (setStage stage s) :=
  slept_link h (by simp)

/-! ### The accesses to the book and the ring -/

theorem recordClose_slept (r : Raise) {u s : State} (h : sleptSince u s) : sleptSince u (recordClose r s) :=
  issueAll_slept _ h

theorem finishClose_slept (r : Raise) (number : BitVec 32) {u s : State} (h : sleptSince u s) :
    sleptSince u (finishClose r number s) := by
  have ended : sleptSince u (endClose r s) := slept_view h (endClose_view r s)
  unfold finishClose
  split
  · exact finishOrder_slept _ _ ended
  · exact ended

theorem lostClose_slept (r : Raise) {u s : State} (h : sleptSince u s) : sleptSince u (lostClose r s) :=
  finishClose_slept r _ (recordClose_slept r h)

theorem setInFlight_slept (a : Option Access) {u s : State} (h : sleptSince u s) : sleptSince u (setInFlight a s) :=
  slept_link h rfl

theorem beginAccess_slept (a : Access) {u s : State} (h : sleptSince u s) : sleptSince u (beginAccess a s) := by
  have raised : sleptSince u (raiseNumber s) := slept_link h rfl
  cases a with
  | write w => exact issue_slept w h
  | report outcome result => exact finishOrder_slept outcome result h
  | raise r =>
    simp only [beginAccess]
    split
    · exact setInFlight_slept _ (issueRead_slept _ _ raised)
    · exact lostClose_slept r (slept_view raised (loseRaise_view r _))
  | totalCheck k minute =>
    simp only [beginAccess]
    split
    · exact setInFlight_slept _ (issueRead_slept _ _ h)
    · exact setStage_slept _ h
  | closeWrite r => exact h
  | totalWrite k => exact h
  | recheck =>
    simp only [beginAccess]
    split
    · exact setInFlight_slept _ (issueRead_slept _ _ h)
    · exact h
  | recordRead n =>
    simp only [beginAccess]
    split
    · exact setInFlight_slept _ (issueRead_slept _ _ h)
    · exact setStage_slept _ h

theorem pump_slept (accesses : List Access) {u s : State} (h : sleptSince u s) : sleptSince u (pump accesses s) := by
  induction accesses generalizing s with
  | nil => exact h
  | cons a rest ih =>
    rw [pump]
    split
    · exact slept_link h rfl
    · exact ih (beginAccess_slept a h)

theorem pumpWaiting_slept {u s : State} (h : sleptSince u s) : sleptSince u (pumpWaiting s) :=
  pump_slept _ (slept_link h rfl)

theorem submit_slept (accesses : List Access) {u s : State} (h : sleptSince u s) : sleptSince u (submit accesses s) :=
  pumpWaiting_slept (slept_link h rfl)

theorem unblockRing_slept {u s : State} (h : sleptSince u s) : sleptSince u (unblockRing s) := by
  unfold unblockRing
  split
  · exact slept_view (slept_link h rfl) (setSeverity_view _ _ { s with tickets := { s.tickets with blocked := false } })
  · exact h

theorem blockRing_slept {u s : State} (h : sleptSince u s) : sleptSince u (blockRing s) := by
  unfold blockRing
  split
  · exact h
  · exact slept_view (slept_link h rfl) (setSeverity_view _ _ { s with tickets := { s.tickets with blocked := true } })

theorem ticketWritten_slept {u s : State} (h : sleptSince u s) : sleptSince u (ticketWritten s) :=
  unblockRing_slept (slept_view (slept_link h rfl)
    (latch_view .ticket { s with tickets := { s.tickets with writePosition := nextPosition s.tickets } }))

theorem writeClose_slept (r : Raise) {u s : State} (h : sleptSince u s) : sleptSince u (writeClose r s) := by
  have ticket := issueAll_slept (ticketWrites r.ticket s) (setInFlight_slept (some (.closeWrite r)) h)
  have recorded := recordClose_slept r (ticketWritten_slept ticket)
  unfold writeClose
  dsimp only
  split
  · split
    · exact finishClose_slept r _ (setInFlight_slept none recorded)
    · exact recorded
  · exact ticket

theorem raiseRead_slept (r : Raise) (empty : Bool) {u s : State} (h : sleptSince u s) :
    sleptSince u (raiseRead r empty s) := by
  have answered := setInFlight_slept none h
  unfold raiseRead
  dsimp only
  split
  · exact writeClose_slept r answered
  · exact lostClose_slept r (blockRing_slept (slept_view answered (loseRaise_view r _)))

theorem totalRead_slept (k : Fin 128) (minute : Nat) (empty : Bool) {u s : State} (h : sleptSince u s) :
    sleptSince u (totalRead k minute empty s) := by
  unfold totalRead
  dsimp only
  split
  · have written := issueAll_slept (ticketWrites (totalTicket s.accounts[k] minute)
      (setInFlight (some (.totalWrite k)) (raiseNumber s)))
      (setInFlight_slept (some (.totalWrite k)) (slept_link (t := raiseNumber s) h rfl))
    split
    · exact finishOrder_slept _ _ (slept_link (ticketWritten_slept (setInFlight_slept none written)) rfl)
    · exact written
  · exact finishOrder_slept _ _ (setInFlight_slept none h)

theorem ticketSlotRead_slept (state : Byte) {u s : State} (h : sleptSince u s) : sleptSince u (ticketSlotRead state s) := by
  have answered := setInFlight_slept none h
  unfold ticketSlotRead
  split
  · exact pumpWaiting_slept (raiseRead_slept _ _ h)
  · exact pumpWaiting_slept (totalRead_slept _ _ _ h)
  · refine pumpWaiting_slept ?_
    split
    · exact unblockRing_slept answered
    · exact answered
  all_goals exact h

/-! ### The booking store -/

theorem deriveSources_slept {u s : State} (h : sleptSince u s) : sleptSince u (deriveSources s) :=
  slept_view h (setAlarm_view _ s)

theorem makeRecheck_slept {u s : State} (h : sleptSince u s) : sleptSince u (makeRecheck s) :=
  submit_slept _ (slept_link h rfl)

theorem countRecheck_slept {u s : State} (h : sleptSince u s) : sleptSince u (countRecheck s) := by
  unfold countRecheck
  split
  · exact slept_link h rfl
  · exact makeRecheck_slept h
  · exact h

theorem lastRecheck_slept {u s : State} (h : sleptSince u s) : sleptSince u (lastRecheck s) := by
  unfold lastRecheck
  split
  · exact makeRecheck_slept h
  · exact h

theorem settleClose_slept (kind : TicketKind) (n : Fin 1024) (minute : Nat) (forOrder : Bool) {u s : State}
    (h : sleptSince u s) : sleptSince u (settleClose kind n minute forOrder s) :=
  submit_slept _ (slept_view h (takeClose_view _ s))

theorem beginClose_slept (n : Fin 1024) (minute : Nat) {u s : State} (h : sleptSince u s) :
    sleptSince u (beginClose n minute s) := by
  refine deriveSources_slept (slept_link h ?_)
  split <;> rfl

theorem closeOnAir_slept (n : Fin 1024) (minute : Nat) (counted forOrder : Bool) {u s : State} (h : sleptSince u s) :
    sleptSince u (closeOnAir n minute counted forOrder s) := by
  have begun := beginClose_slept n minute h
  unfold closeOnAir
  dsimp only
  split
  · exact settleClose_slept _ _ _ _ begun
  · exact slept_link begun rfl

theorem closeMissed_slept (n : Fin 1024) (minute : Nat) {u s : State} (h : sleptSince u s) :
    sleptSince u (closeMissed n minute s) :=
  settleClose_slept _ _ _ _ (slept_link (t := leaveTimeline n s) h rfl)

theorem activate_slept (n : Fin 1024) (minute : Nat) (first : Stamp) (band : Option Band) {u s : State}
    (h : sleptSince u s) : sleptSince u (activate n minute first band s) :=
  submit_slept _ (deriveSources_slept (slept_link h (by simp)))

theorem enterOverrun_slept (n : Fin 1024) {u s : State} (h : sleptSince u s) : sleptSince u (enterOverrun n s) :=
  submit_slept _ (slept_link h rfl)

theorem boundaryHead_slept (minute : Nat) (counted : Bool) (d : Fin 64) {u s : State} (h : sleptSince u s) :
    sleptSince u (boundaryHead minute counted d s) := by
  unfold boundaryHead
  split
  · exact h
  · next n _ =>
    have closed := closeOnAir_slept n minute counted false h
    dsimp only
    split
    · unfold boundaryClose
      dsimp only
      split
      · exact countRecheck_slept closed
      · exact closed
    · split
      · exact enterOverrun_slept n h
      · exact h

theorem boundaryStart_slept (minute : Nat) (swapped : Bool) (d : Fin 64) {u s : State} (h : sleptSince u s) :
    sleptSince u (boundaryStart minute swapped d s) := by
  unfold boundaryStart
  split
  · exact h
  · split
    · exact activate_slept _ _ _ _ h
    · exact h

theorem storeTimelines_slept (taken : Bool) (minute : Nat) (counted swapped : Bool) (ports : List (Fin 64)) {u s : State}
    (h : sleptSince u s) : sleptSince u (storeTimelines taken minute counted swapped ports s) := by
  unfold storeTimelines
  split
  · exact foldl_closed (fun _ d ht => boundaryStart_slept minute swapped d (boundaryHead_slept minute counted d ht)) ports h
  · exact h

theorem openRecheck_slept (recheckAfter : Nat) {u s : State} (h : sleptSince u s) :
    sleptSince u (openRecheck recheckAfter s) := by
  unfold openRecheck
  split
  · split
    · exact makeRecheck_slept h
    · exact slept_link h rfl
  · exact h

theorem takeTariffBoundary_slept {u s : State} (h : sleptSince u s) : sleptSince u (takeTariffBoundary s) :=
  slept_link h (by simp)

theorem boundaryCounted_slept (minute swapAfter recheckAfter : Nat) {u s : State} (h : sleptSince u s) :
    sleptSince u (boundaryCounted minute swapAfter recheckAfter s) :=
  lastRecheck_slept (storeTimelines_slept _ _ _ _ _ (takeTariffBoundary_slept
    (storeTimelines_slept _ _ _ _ _ (openRecheck_slept recheckAfter h))))

theorem boundaryUncounted_slept (minute recheckAfter : Nat) {u s : State} (h : sleptSince u s) :
    sleptSince u (boundaryUncounted minute recheckAfter s) :=
  lastRecheck_slept (storeTimelines_slept _ _ _ _ _ (openRecheck_slept recheckAfter h))

theorem catchUpCloses_slept (members : List (Fin 1024)) {u s : State} (h : sleptSince u s) :
    sleptSince u (catchUpCloses members s) := by
  induction members generalizing s with
  | nil => exact h
  | cons n rest ih =>
    rw [catchUpCloses]
    split
    · refine ih ?_
      split
      · exact closeOnAir_slept _ _ _ _ h
      · exact closeMissed_slept _ _ h
    · exact h

theorem catchUpStart_slept (d : Fin 64) {u s : State} (h : sleptSince u s) : sleptSince u (catchUpStart d s) := by
  unfold catchUpStart
  split
  · exact h
  · split
    · exact activate_slept _ _ _ _ h
    · exact h

theorem catchUpPhase_slept (d : Fin 64) {u s : State} (h : sleptSince u s) : sleptSince u (catchUpPhase d s) := by
  unfold catchUpPhase
  split
  · exact h
  · split
    · exact enterOverrun_slept _ h
    · exact h

theorem catchUp_slept {u s : State} (h : sleptSince u s) : sleptSince u (catchUp s) :=
  foldl_closed (fun _ d ht => catchUpPhase_slept d (catchUpStart_slept d (catchUpCloses_slept _ ht))) _ h

theorem releaseFirst_slept {u s : State} (h : sleptSince u s) : sleptSince u (releaseFirst s) := by
  unfold releaseFirst
  split
  · split
    · exact lastRecheck_slept (countRecheck_slept (settleClose_slept _ _ _ _ (slept_link h rfl)))
    · exact h
  · exact h

theorem slept_refl (s : State) : sleptSince s s := fun dormant => ⟨dormant, rfl⟩

/-- R9: RUNNING is no DORMANT, and what resumes in it stays so. -/
theorem enterRunning_awake (s : State) : (enterRunning s).link.run ≠ .dormant := by
  have view := latch_view .run { s with link := { s.link with run := .running, pageDue := true } }
  simp only [runView, Prod.mk.injEq] at view
  obtain ⟨running, -⟩ := view
  rw [enterRunning]
  generalize latch .run { s with link := { s.link with run := .running, pageDue := true } } = t at running
  intro dormant
  rw [(takeEntry_slept (catchUp_slept (slept_refl t)) dormant).1] at running
  cases running

/-! ### The status page, ticks and boundaries -/

theorem settlePage_slept {u s : State} (h : sleptSince u s) : sleptSince u (settlePage s) := by
  have frame := (settlePage_taken s).1
  exact slept_step h (.inl (by rw [frame]; exact ⟨rfl, rfl⟩))

theorem pageTick_slept (boundary : Bool) (time : Stamp) {u s : State} (h : sleptSince u s) :
    sleptSince u (pageTick boundary time s) := by
  refine slept_step h (.inl ?_)
  unfold pageTick nextMark
  split
  · split <;> exact ⟨rfl, rfl⟩
  · exact ⟨rfl, rfl⟩

theorem secondPage_slept (ahead : Bool) {u s : State} (h : sleptSince u s) : sleptSince u (secondPage ahead s) := by
  refine pageTick_slept _ _ ?_
  split
  · exact h
  · exact slept_step h (.inl ⟨rfl, rfl⟩)

theorem boundaryPage_slept (minute : BitVec 32) {u s : State} (h : sleptSince u s) :
    sleptSince u (boundaryPage minute s) :=
  settlePage_slept (slept_step h (.inl ⟨rfl, rfl⟩))

theorem markPage_slept {u s : State} (h : sleptSince u s) : sleptSince u (markPage s) := slept_step h (.inl ⟨rfl, rfl⟩)

theorem switchPoint_slept (inside : Bool) {u s : State} (h : sleptSince u s) : sleptSince u (switchPoint inside s) := by
  by_cases executes : ∃ d : Fin 64, s.rows[d].pending.isSome = true
  · rw [switchPoint_executed inside executes]
    exact markPage_slept (deriveSources_slept (slept_link h (by rw [switched_frame])))
  · have idle : ∀ d : Fin 64, s.rows[d].pending = none := fun d =>
      Option.not_isSome_iff_eq_none.mp fun some => executes ⟨d, some⟩
    rw [switchPoint_idle inside idle]
    exact h

theorem updateMonitor_slept (p : Fin 48) (m : Monitor) {u s : State} (h : sleptSince u s) :
    sleptSince u (updateMonitor p m s) := by
  unfold updateMonitor
  split
  · exact slept_link h rfl
  · exact markPage_slept (deriveSources_slept (slept_link h (by simp)))

theorem crosspointTick_slept {u s : State} (h : sleptSince u s) : sleptSince u (crosspointTick s) := by
  have ticked : sleptSince u (tickRows s) := slept_link h rfl
  unfold crosspointTick
  split
  · exact switchPoint_slept false ticked
  · exact ticked

theorem blockTick_slept (k : Fin 49) {u s : State} (h : sleptSince u s) : sleptSince u (blockTick k s) := by
  unfold blockTick monitorTick crosspointBlock
  split
  · split
    · exact slept_link h rfl
    · exact updateMonitor_slept _ _ h
  · split
    · exact slept_link h rfl
    · exact crosspointTick_slept h

theorem blockAhead_slept (k : Fin 49) {u s : State} (h : sleptSince u s) : sleptSince u (blockAhead k s) := by
  unfold blockAhead takeTickEarly
  split
  · split
    · exact h
    · exact updateMonitor_slept _ _ h
  · split
    · exact h
    · exact slept_link (crosspointTick_slept h) rfl

theorem blocksTick_slept (order done : List (Fin 49)) {u s : State} (h : sleptSince u s) :
    sleptSince u (blocksTick order done s) := by
  induction order generalizing done s with
  | nil => exact h
  | cons k rest ih =>
    rw [blocksTick]
    split
    · exact ih _ h
    · exact ih _ (blockTick_slept k h)

theorem handTick_slept (order : TickOrder) (e : EndedSecond) {u s : State} (h : sleptSince u s) :
    sleptSince u (handTick order e s) :=
  slept_link (blocksTick_slept _ _ h) rfl

theorem setRollover_slept (r : Rollover) {u s : State} (h : sleptSince u s) : sleptSince u (setRollover r s) :=
  slept_link h rfl

theorem boundaryAfterTick_slept (minute : BitVec 32) (clockSet : Bool) (swapAfter recheckAfter : Nat) {u s : State}
    (h : sleptSince u s) : sleptSince u (boundaryAfterTick minute clockSet swapAfter recheckAfter s) :=
  boundaryPage_slept minute (boundaryCounted_slept _ _ _ (slept_link h (by simp)))

theorem settleBoundary_slept {u s : State} (h : sleptSince u s) : sleptSince u (settleBoundary s) := by
  unfold settleBoundary
  split
  · exact boundaryAfterTick_slept _ _ _ _ h
  all_goals exact h

theorem completeSecond_slept (ahead : Bool) {u s : State} (h : sleptSince u s) : sleptSince u (completeSecond ahead s) := by
  unfold completeSecond
  split
  · exact secondPage_slept ahead (slept_link h rfl)
  · exact slept_link h rfl

theorem secondTick_slept (order : TickOrder) {u s : State} (h : sleptSince u s) : sleptSince u (secondTick order s) := by
  have settled := settleBoundary_slept h
  unfold secondTick
  dsimp only
  split
  · exact boundaryPage_slept _ (setRollover_slept _ (takeTariffBoundary_slept (handTick_slept _ _ settled)))
  · exact boundaryPage_slept _ (setRollover_slept _ settled)
  · exact completeSecond_slept _ (handTick_slept _ _ settled)
  · exact completeSecond_slept _ (handTick_slept _ _ settled)

theorem takeBoundary_slept (swapAfter recheckAfter : Nat) {u s : State} (h : sleptSince u s) :
    sleptSince u (takeBoundary swapAfter recheckAfter s) := by
  unfold takeBoundary
  split
  · exact boundaryAfterTick_slept _ _ _ _ h
  · split
    · exact boundaryUncounted_slept _ _ (slept_link h rfl)
    · exact h
  all_goals exact h

theorem minuteBoundary_slept (early : TickOrder) (boundary : Bool) (swapAfter recheckAfter : Nat) {u s : State}
    (h : sleptSince u s) : sleptSince u (minuteBoundary early boundary swapAfter recheckAfter s) := by
  have ahead : sleptSince u (if tickAwaited s.clock then ticksAhead early s else s) := by
    split
    · exact foldl_closed (fun _ k ht => blockAhead_slept k ht) early h
    · exact h
  unfold minuteBoundary
  dsimp only
  split
  · exact takeBoundary_slept _ _ ahead
  · exact ahead

theorem changeReference_slept (c : Clock) {u s : State} (h : sleptSince u s) : sleptSince u (changeReference c s) :=
  slept_view h (by rw [changeReference, referenceChanged, setSeverity_view, latch_view]; rfl)

theorem secrefPulse_slept (instant : Nat) (order : TickOrder) {u s : State} (h : sleptSince u s) :
    sleptSince u (secrefPulse instant order s) := by
  unfold secrefPulse
  split
  · exact secondTick_slept order (slept_link h rfl)
  · unfold pulseFreeRun
    dsimp only
    split
    · exact slept_link h rfl
    · exact secondTick_slept order (changeReference_slept _ h)

theorem secrefTimeout_slept (order : TickOrder) {u s : State} (h : sleptSince u s) :
    sleptSince u (secrefTimeout order s) := by
  unfold secrefTimeout
  split
  · exact secondTick_slept order (changeReference_slept _ h)
  · exact h

theorem ownTick_slept (order : TickOrder) {u s : State} (h : sleptSince u s) : sleptSince u (ownTick order s) := by
  unfold ownTick
  split
  · exact secondTick_slept order (slept_link h rfl)
  all_goals exact h

theorem relockTimeout_slept {u s : State} (h : sleptSince u s) : sleptSince u (relockTimeout s) := by
  unfold relockTimeout
  split
  · exact slept_link h rfl
  · exact h

theorem pulseSwitch_slept {u s : State} (h : sleptSince u s) : sleptSince u (pulseSwitch s) := by
  have executed := switchPoint_slept true h
  unfold pulseSwitch
  dsimp only
  split
  · exact slept_step executed (.inl ⟨rfl, rfl⟩)
  · exact executed

theorem framerefPulse_slept (instant : Nat) {u s : State} (h : sleptSince u s) :
    sleptSince u (framerefPulse instant s) := by
  unfold framerefPulse
  split
  · exact pulseSwitch_slept (slept_link h rfl)
  · exact pulseSwitch_slept (changeReference_slept _ h)

theorem framerefTimeout_slept {u s : State} (h : sleptSince u s) : sleptSince u (framerefTimeout s) := by
  unfold framerefTimeout
  split
  · exact changeReference_slept _ h
  · exact h

theorem holdOffReached_slept (p : Fin 48) {u s : State} (h : sleptSince u s) : sleptSince u (holdOffReached p s) := by
  unfold holdOffReached
  split
  · exact updateMonitor_slept _ _ h
  · exact h

theorem restoreExpired_slept (p : Fin 48) {u s : State} (h : sleptSince u s) : sleptSince u (restoreExpired p s) := by
  unfold restoreExpired
  split
  · exact updateMonitor_slept _ _ h
  · exact h

theorem pageComplete_slept {u s : State} (h : sleptSince u s) : sleptSince u (pageComplete s) := by
  unfold pageComplete
  split
  · next ws _ =>
    have written := issueAll_slept ws h
    dsimp only
    split
    · exact slept_view (slept_step (t := endPage (issueAll ws s)) written (.inl ⟨rfl, rfl⟩)) (latch_view .page _)
    · exact written
  · exact h

/-! ### The orders -/

theorem entryRead_slept (bytes : Vector Byte 24) {u s : State} (h : sleptSince u s) : sleptSince u (entryRead bytes s) := by
  unfold entryRead examineEntry
  split
  · split
    · exact report_slept _ _ _ h
    · split
      · exact report_slept _ _ _ h
      · exact slept_link h rfl
  · exact h

theorem orderEndWrite_slept (value : Word) {u s : State} (h : sleptSince u s) : sleptSince u (orderEndWrite value s) :=
  takeEntry_slept (slept_link h rfl)

theorem bookOrder_slept (o : Order) {u s : State} (h : sleptSince u s) : sleptSince u (bookOrder o s) := by
  unfold bookOrder
  split
  · exact finishOrder_slept _ _ h
  · split
    · exact h
    · split
      · exact submit_slept _ (setStage_slept _ h)
      · exact finishOrder_slept _ _ h

theorem bookRecordRead_slept (bytes : Vector Byte 20) {u s : State} (h : sleptSince u s) :
    sleptSince u (bookRecordRead bytes s) := by
  have answered := setInFlight_slept none h
  unfold bookRecordRead
  split
  · unfold bookFromRecord
    split
    · exact submit_slept _ answered
    · split
      · exact submit_slept _ answered
      · exact submit_slept _ (slept_link answered (by simp))
  all_goals exact h

theorem cancelOrder_slept (o : Order) {u s : State} (h : sleptSince u s) : sleptSince u (cancelOrder o s) := by
  unfold cancelOrder
  split
  · exact finishOrder_slept _ _ h
  · next n _ =>
    have queued := setStage_slept .queued h
    split
    · exact h
    · split
      · exact finishOrder_slept _ _ h
      · unfold cancelAccepted
        dsimp only
        split
        · exact settleClose_slept _ _ _ _ (slept_link queued rfl)
        · exact settleClose_slept _ _ _ _ (slept_link queued rfl)
      · exact closeOnAir_slept _ _ _ _ queued
      · exact closeOnAir_slept _ _ _ _ queued

theorem extendOrder_slept (o : Order) {u s : State} (h : sleptSince u s) : sleptSince u (extendOrder o s) := by
  unfold extendOrder
  split
  · exact finishOrder_slept _ _ h
  · split
    · exact finishOrder_slept _ _ h
    · split
      · exact h
      · split
        · exact finishOrder_slept _ _ h
        · unfold grantExtension
          dsimp only
          split
          · exact finishOrder_slept _ _ h
          · exact submit_slept _ (slept_link (setStage_slept .queued h) rfl)

theorem switchOrder_slept (o : Order) {u s : State} (h : sleptSince u s) : sleptSince u (switchOrder o s) := by
  unfold switchOrder lodgeSwitch
  split
  · split
    · exact finishOrder_slept _ _ h
    · exact finishOrder_slept _ _ (slept_link h rfl)
  all_goals exact finishOrder_slept _ _ h

theorem setLegOrder_slept (o : Order) {u s : State} (h : sleptSince u s) : sleptSince u (setLegOrder o s) := by
  unfold setLegOrder
  split
  · exact finishOrder_slept _ _ h
  · split
    · exact finishOrder_slept _ _ h
    · split
      · exact h
      · split
        · exact finishOrder_slept _ _ h
        · split
          · exact finishOrder_slept _ _ h
          · refine finishOrder_slept _ _ (slept_link h ?_)
            split <;> simp

theorem applySetPort_slept (p : Fin 48) (o : Order) {u s : State} (h : sleptSince u s) : sleptSince u (applySetPort p o s) :=
  finishOrder_slept _ _ (updateMonitor_slept _ _ h)

theorem setPortOrder_slept (o : Order) {u s : State} (h : sleptSince u s) : sleptSince u (setPortOrder o s) := by
  unfold setPortOrder
  split
  · exact finishOrder_slept _ _ h
  · split
    · split
      · exact applySetPort_slept _ _ h
      · exact finishOrder_slept _ _ h
    · exact applySetPort_slept _ _ h

theorem readPortOrder_slept (o : Order) {u s : State} (h : sleptSince u s) : sleptSince u (readPortOrder o s) := by
  unfold readPortOrder
  split
  · exact finishOrder_slept _ _ h
  · refine finishOrder_slept _ _ (slept_link h ?_)
    split <;> rfl

theorem loadTariffOrder_slept (o : Order) {u s : State} (h : sleptSince u s) : sleptSince u (loadTariffOrder o s) := by
  unfold loadTariffOrder readSegment
  split
  · exact finishOrder_slept _ _ h
  · split
    · exact finishOrder_slept _ _ h
    · split
      · exact setStage_slept _ (issueRead_slept _ _ h)
      · exact setStage_slept _ h

theorem tariffSegmentRead_slept (bytes : Vector Byte 240) {u s : State} (h : sleptSince u s) :
    sleptSince u (tariffSegmentRead bytes s) := by
  unfold tariffSegmentRead segmentTaken
  split
  · split
    · exact finishOrder_slept _ _ h
    · exact finishOrder_slept _ _ (slept_link h rfl)
  all_goals exact h

theorem latchAccountOrder_slept (o : Order) {u s : State} (h : sleptSince u s) : sleptSince u (latchAccountOrder o s) := by
  unfold latchAccountOrder
  split
  · exact h
  · split
    · exact finishOrder_slept _ _ h
    · exact finishOrder_slept _ _ h

theorem closeMatchOrder_slept (o : Order) {u s : State} (h : sleptSince u s) : sleptSince u (closeMatchOrder o s) := by
  unfold closeMatchOrder
  split
  · exact h
  · split
    · exact finishOrder_slept _ _ h
    · split
      · exact finishOrder_slept _ _ h
      · exact submit_slept _ (setStage_slept _ h)

theorem setClockOrder_slept (o : Order) {u s : State} (h : sleptSince u s) : sleptSince u (setClockOrder o s) := by
  unfold setClockOrder
  split
  · exact h
  · split
    · exact finishOrder_slept _ _ h
    · exact finishOrder_slept _ _ (slept_link h rfl)

/-! ### The law of the windows -/

/-- A part that has slept on keeps the law where its windows stand. -/
theorem windows_slept {s t : State} (h : windowsLawful s) (slept : sleptSince s t)
    (windows : t.link.windows = s.link.windows) : windowsLawful t := by
  intro dormant writing k
  obtain ⟨before, start⟩ := slept dormant
  rw [windows]
  exact h before (fun same => writing (start.trans same)) k

theorem windows_awake {s : State} (h : s.link.run ≠ .dormant) : windowsLawful s := fun dormant => absurd dormant h

theorem windows_congr {s t : State} (h : windowsLawful s) (run : t.link.run = s.link.run)
    (start : t.link.start = s.link.start) (windows : t.link.windows = s.link.windows) : windowsLawful t :=
  windows_slept h (slept_step (slept_refl s) (.inl ⟨run, start⟩)) windows

/-- A START that is not writing the identity word found the windows as the law has them. -/
theorem setStart_windows {p : StartPhase} {c : StartCode} {s : State} (h : windowsLawful s)
    (reading : s.link.start ≠ .identityWrite) : windowsLawful (setStart p c s) :=
  fun dormant _ k => h dormant reading k

theorem startCommand_windows {s : State} (h : windowsLawful s) : windowsLawful (startCommand s) := by
  unfold startCommand
  split
  · unfold startDormant
    split
    · exact h
    · next idle =>
      have reading : s.link.start ≠ .identityWrite := fun writing => idle (by simp [startInProgress, writing])
      split
      · exact setStart_windows h reading
      · exact windows_congr (setStart_windows (p := .headerRead) (c := s.link.lastStart) h reading) rfl rfl rfl
  · next held =>
    unfold startHeld
    split
    · exact windows_awake (enterRunning_awake _)
    · exact windows_awake (by simp [setStart, held])
  · unfold startRunning
    split
    · have withdrawn : sleptSince s (setHaltWaiting false s) := slept_step (slept_refl s) (.inl ⟨rfl, rfl⟩)
      exact windows_slept h (takeEntry_slept withdrawn) (by simp [setHaltWaiting])
    · exact h

theorem haltCommand_windows {s : State} (h : windowsLawful s) : windowsLawful (haltCommand s) := by
  unfold haltCommand
  split
  · split
    · exact windows_slept h (enterHeld_slept (slept_refl s)) (by simp)
    · exact windows_congr h rfl rfl rfl
  all_goals exact h

/-- R10, R11: the header's windows come into force while the identity word is written, and a bus fault there enters HELD. -/
theorem headerReadComplete_windows (bytes : Vector Byte 80) {s : State} (h : windowsLawful s) :
    windowsLawful (headerReadComplete bytes s) := by
  unfold headerReadComplete
  split
  · next taken =>
    obtain ⟨reading, -⟩ := taken
    unfold headerTaken
    split
    · exact setStart_windows h (by simp [reading])
    · intro dormant writing
      obtain ⟨-, same⟩ := sendWrite_slept (identityWrite s) (slept_refl (takeHeader (headerOf bytes) s)) dormant
      exact absurd same writing
  · exact h

theorem identityWriteComplete_windows {s : State} (h : windowsLawful s) : windowsLawful (identityWriteComplete s) := by
  unfold identityWriteComplete
  split
  · exact windows_awake (enterRunning_awake _)
  · exact h

theorem busFaultAt_windows (after : Nat) {s : State} (h : windowsLawful s) : windowsLawful (busFaultAt after s) := by
  unfold busFaultAt
  split
  · exact windows_slept h (takeBusFault_slept (slept_refl s)) (by simp)
  · split
    · exact windows_congr h rfl rfl rfl
    · exact h

theorem softClear_windows (s : State) : (softClear s).link.windows = build fun _ => none := by
  simp [softClear, clearFloor, softState, softLink]

theorem latchLeave_windows (from_ : RunState) (s : State) : (latchLeave from_ s).link.windows = s.link.windows := by
  unfold latchLeave
  split
  · rfl
  · simp

/-- R14: a soft reset leaves no window in force. -/
theorem softReset_windows (cut : CutOff) (s : State) : windowsLawful (softReset cut s) := by
  intro _ _ k
  have none : (softReset cut s).link.windows = build fun _ => none := by
    rw [softReset, (settlePage_place _).2.2.1, latchLeave_windows, softClear_windows]
  rw [none]
  exact build_getFin _ k

theorem ctrlWrite_windows (value : Word) (cut : CutOff) {s : State} (h : windowsLawful s) :
    windowsLawful (ctrlWrite value cut s) := by
  have modes : windowsLawful
      (if value.getLsbD 15 then modeWrite (value.extractLsb' 4 2) (value.extractLsb' 8 6) s else s) := by
    split
    · exact windows_slept h (slept_view (slept_refl s) (setAlarm_view _ s)) (by simp)
    · exact h
  unfold ctrlWrite ctrlCommand
  split
  · exact startCommand_windows modes
  · split
    · exact haltCommand_windows modes
    · split
      · exact softReset_windows _ _
      · exact modes

/-- A change of anything but the link. -/
theorem windows_link {s t : State} (h : windowsLawful s) (link : t.link = s.link) : windowsLawful t :=
  windows_congr h (by rw [link]) (by rw [link]) (by rw [link])

theorem nextAlarmWrite_windows (ack push pop : Bool) (item : BitVec 6) {s : State} (h : windowsLawful s) :
    windowsLawful (nextAlarmWrite ack push pop item s) :=
  windows_slept h (slept_view (slept_refl s) (setAlarm_view _ s)) (by simp)

theorem flagsWrite_windows (value : Word) {s : State} (h : windowsLawful s) : windowsLawful (flagsWrite value s) :=
  windows_slept h (slept_view (slept_step (t := { s with link := { s.link with permissions := value.extractLsb' 16 7 } })
    (slept_refl s) (.inl ⟨rfl, rfl⟩)) (setFlags_view _ _)) (by simp)

theorem flagsRead_windows (enables : BitVec 4) {s : State} (h : windowsLawful s) : windowsLawful (flagsRead enables s) := by
  have answered : sleptSince s { s with link := { s.link with answer := addressedBytes enables (readFlags s) } } :=
    slept_step (slept_refl s) (.inl ⟨rfl, rfl⟩)
  unfold flagsRead
  dsimp only
  split
  · exact windows_slept h (slept_view answered (setFlags_view _ _)) (by simp)
  · exact windows_slept h answered rfl

theorem areaWrite_windows (high : Bool) (value : Word) {s : State} (h : windowsLawful s) :
    windowsLawful (areaWrite high value s) := by
  unfold areaWrite
  split
  · exact windows_congr h rfl rfl rfl
  · exact h

theorem registerWrite_windows (r : Register) (enables : BitVec 4) (value : Word) (cut : CutOff) {s : State}
    (h : windowsLawful s) : windowsLawful (registerWrite r enables value cut s) := by
  unfold registerWrite
  split
  · exact h
  · cases r with
    | ctrl => exact ctrlWrite_windows value cut h
    | areaLo => exact areaWrite_windows false value h
    | areaHi => exact areaWrite_windows true value h
    | order => exact windows_slept h (orderEndWrite_slept value (slept_refl s)) (by simp)
    | flags => exact flagsWrite_windows value h
    | nextAlarm => exact nextAlarmWrite_windows _ _ _ _ h
    | status => exact h
    | minute => exact h

/-- An order command keeps the law where its owning block does. -/
theorem takeOrder_windows (code : OrderCode) {act : Order → State → State}
    (slept : ∀ (o : Order) {u s : State}, sleptSince u s → sleptSince u (act o s))
    (windows : ∀ (o : Order) (s : State), (act o s).link.windows = s.link.windows) {s : State} (h : windowsLawful s) :
    windowsLawful (takeOrder code act s) :=
  takeOrder_holds code h fun o _ => windows_slept h (slept o (slept_refl s)) (windows o s)

/-- R3, R10, R14: every command keeps the law while RESETN is high. -/
theorem liveEffect_windows {s : State} (h : windowsLawful s) (c : Instr) : windowsLawful (liveEffect c s) :=
  match c with
  | .start => startCommand_windows h
  | .halt => haltCommand_windows h
  | .softReset _ _ _ => softReset_windows _ _
  | .modeWrite _ _ => windows_slept h (slept_view (slept_refl s) (setAlarm_view _ s)) (by simp [liveEffect])
  | .areaWrite high value => areaWrite_windows high value h
  | .orderEndWrite value => windows_slept h (orderEndWrite_slept value (slept_refl s)) (by simp [liveEffect])
  | .flagsRead enables => flagsRead_windows enables h
  | .flagsWrite value => flagsWrite_windows value h
  | .ack item pop => nextAlarmWrite_windows true false pop item h
  | .push item ack pop => nextAlarmWrite_windows ack true pop item h
  | .pop => nextAlarmWrite_windows false false true 0 h
  | .registerWrite register enables value => registerWrite_windows register.register enables value register.cut h
  | .hardReset => h
  | .resetRelease _ => h
  | .secrefPulse instant order => windows_slept h (secrefPulse_slept instant order (slept_refl s)) (by simp [liveEffect])
  | .secrefTimeout order => windows_slept h (secrefTimeout_slept order (slept_refl s)) (by simp [liveEffect])
  | .ownTick order => windows_slept h (ownTick_slept order (slept_refl s)) (by simp [liveEffect])
  | .relockTimeout => windows_slept h (relockTimeout_slept (slept_refl s)) (by simp [liveEffect])
  | .framerefPulse instant => windows_slept h (framerefPulse_slept instant (slept_refl s)) (by simp [liveEffect])
  | .framerefTimeout => windows_slept h (framerefTimeout_slept (slept_refl s)) (by simp [liveEffect])
  | .minuteBoundary _ => windows_slept h (minuteBoundary_slept _ _ _ _ (slept_refl s)) (by simp [liveEffect])
  | .receiverObservation _ _ => windows_slept h (updateMonitor_slept _ _ (slept_refl s)) (by simp [liveEffect])
  | .lossOfLightEdge _ => windows_slept h (updateMonitor_slept _ _ (slept_refl s)) (by simp [liveEffect])
  | .holdOffReached port => windows_slept h (holdOffReached_slept port (slept_refl s)) (by simp [liveEffect])
  | .restoreTimerExpiry port => windows_slept h (restoreExpired_slept port (slept_refl s)) (by simp [liveEffect])
  | .busFault after => busFaultAt_windows after h
  | .completionTimeout after => busFaultAt_windows after h
  | .headerReadComplete bytes => headerReadComplete_windows bytes h
  | .identityWriteComplete => identityWriteComplete_windows h
  | .orderTaken => windows_slept h (takeEntry_slept (slept_refl s)) (by simp [liveEffect])
  | .entryReadComplete bytes => windows_slept h (entryRead_slept bytes (slept_refl s)) (by simp [liveEffect])
  | .book => takeOrder_windows _ (fun o _ _ => bookOrder_slept o) (fun o s => by simp) h
  | .bookRecordRead bytes =>
    windows_slept h (settlePage_slept (bookRecordRead_slept bytes (slept_refl s))) (by simp [liveEffect])
  | .cancel => takeOrder_windows _ (fun o _ _ => cancelOrder_slept o) (fun o s => by simp) h
  | .extend => takeOrder_windows _ (fun o _ _ => extendOrder_slept o) (fun o s => by simp) h
  | .switch => takeOrder_windows _ (fun o _ _ => switchOrder_slept o) (fun o s => by simp) h
  | .setLeg => takeOrder_windows _ (fun o _ _ => setLegOrder_slept o) (fun o s => by simp) h
  | .setPort => takeOrder_windows _ (fun o _ _ => setPortOrder_slept o) (fun o s => by simp) h
  | .readPort => takeOrder_windows _ (fun o _ _ => readPortOrder_slept o) (fun o s => by simp) h
  | .loadTariff => takeOrder_windows _ (fun o _ _ => loadTariffOrder_slept o) (fun o s => by simp) h
  | .tariffSegmentRead bytes => windows_slept h (tariffSegmentRead_slept bytes (slept_refl s)) (by simp [liveEffect])
  | .latchAccount => takeOrder_windows _ (fun o _ _ => latchAccountOrder_slept o) (fun o s => by simp) h
  | .closeMatch => takeOrder_windows _ (fun o _ _ => closeMatchOrder_slept o) (fun o s => by simp) h
  | .setClock => takeOrder_windows _ (fun o _ _ => setClockOrder_slept o) (fun o s => by simp) h
  | .ratingRelease => windows_slept h (settlePage_slept (releaseFirst_slept (slept_refl s))) (by simp [liveEffect])
  | .pageComplete => windows_slept h (pageComplete_slept (slept_refl s)) (by simp [liveEffect])
  | .ticketSlotReadComplete state =>
    windows_slept h (settlePage_slept (ticketSlotRead_slept state (slept_refl s))) (by simp [liveEffect])

theorem hardReset_windows (s : State) : windowsLawful (hardReset s) := fun _ _ k => build_getFin _ k

theorem resetRelease_windows (instant : Nat) {s : State} (h : windowsLawful s) : windowsLawful (resetRelease instant s) := by
  unfold resetRelease
  split
  · exact h
  · have reset : windowsLawful (scheduleOwn instant { hardReset s with resetn := true }) :=
      windows_link (hardReset_windows s) rfl
    exact windows_slept reset (slept_view (slept_refl _) (setSeverity_view _ _ _)) (by simp)

theorem effect_windows (c : Instr) (s : State) (h : windowsLawful s) : windowsLawful (effect c s) :=
  effect_keeps h (hardReset_windows s) (fun _ => resetRelease_windows _ h) (fun _ => liveEffect_windows h) c

/-- Settles O13, from the two laws of every command. -/
theorem runLawKept : Obligations.RunLawKept :=
  ⟨fun _ _ => step_keeps (fun _ _ h => h) effect_run, fun _ _ => step_keeps (fun _ _ h => h) effect_windows⟩

end Sys2Proof.Machine
end

section
/-! ### The meters (R139 to R145) -/

namespace Sys2Proof.Machine

theorem bandValue_bandAdd (b c : Band) (x : PerBand) :
    bandValue b (bandAdd c x) = bandValue b x + if b = c then 1 else 0 := by
  cases b <;> cases c <;> rfl

theorem bandSum_bandAdd (c : Band) (x : PerBand) : bandSum (bandAdd c x) = bandSum x + 1 := by
  cases c <;> simp only [bandAdd, bandSum] <;> omega

theorem meterLawful_cleared : meterLawful Meter.cleared := by
  refine ⟨by decide, by decide, by decide, fun b => ?_⟩
  cases b <;> decide

/-- The start band and the first counted second are no part of the law. -/
theorem meterLawful_marks {m : Meter} (h : meterLawful m) (band : Option Band) (first : Option Stamp) :
    meterLawful { m with startBand := band, firstCounted := first } := h

/-- R142: a second is charged in its phase before an outage is counted in it. -/
theorem countPhase_law (phase : Phase) (band : Band) {m : Meter} (h : meterLawful m) :
    meterLawful (countPhase phase band m) ∧ (countPhase phase band m).excess = m.excess ∧
    (phase ≠ .held → bandValue band (countPhase phase band m).booked + bandValue band (countPhase phase band m).overrun =
      bandValue band m.booked + bandValue band m.overrun + 1) := by
  obtain ⟨used, outage, held, excess⟩ := h
  cases phase with
  | booked =>
    refine ⟨⟨used, outage, held, fun b => ?_⟩, rfl, fun _ => ?_⟩
    · have before := excess b
      simp only [countPhase, bandValue_bandAdd]
      omega
    · simp only [countPhase, bandValue_bandAdd, if_true]
      omega
  | overrun =>
    refine ⟨⟨used, outage, held, fun b => ?_⟩, rfl, fun _ => ?_⟩
    · have before := excess b
      simp only [countPhase, bandValue_bandAdd]
      omega
    · simp only [countPhase, bandValue_bandAdd, if_true]
      omega
  | held => exact ⟨⟨used, outage, Nat.min_le_left _ _, excess⟩, rfl, fun none => absurd rfl none⟩

/-- R143, R144: an outage second raises the outage seconds, and the allowance used or the excess seconds, never both. -/
theorem countOutage_law (phase : Phase) (band : Band) (allowance : Nat) {m : Meter} (h : meterLawful m)
    (charged : phase ≠ .held → bandValue band m.excess + 1 ≤ bandValue band m.booked + bandValue band m.overrun) :
    meterLawful (countOutage phase band allowance m) := by
  obtain ⟨used, outage, held, excess⟩ := h
  have raised : ∀ a : Nat, min max32 a ≤ m.outage → min max32 (a + 1) ≤ satAdd max32 m.outage 1 := fun a le => by
    unfold satAdd
    omega
  have excessCounted : phase ≠ .held → meterLawful { m with
      outage := satAdd max32 m.outage 1, excess := bandAdd band m.excess } := fun on => by
    refine ⟨?_, Nat.min_le_left _ _, held, fun b => ?_⟩
    · rw [bandSum_bandAdd, ← Nat.add_assoc]
      exact raised _ used
    · have before := excess b
      have room := charged on
      simp only [bandValue_bandAdd]
      by_cases same : b = band
      · subst same
        rw [if_pos rfl]
        exact room
      · rw [if_neg same]
        exact before
  unfold countOutage
  dsimp only
  by_cases free : m.allowanceUsed < allowance
  · rw [if_pos free]
    refine ⟨?_, Nat.min_le_left _ _, held, excess⟩
    dsimp only
    rw [Nat.add_right_comm]
    exact raised _ used
  · rw [if_neg free]
    cases phase with
    | booked => exact excessCounted (by simp)
    | overrun => exact excessCounted (by simp)
    | held => exact ⟨Nat.le_trans (min_le_min_left _ (Nat.le_succ _)) (raised _ used), Nat.min_le_left _ _, held, excess⟩

theorem countWith_law (b : Slot) (t : Tariff) (e : EndedSecond) (outage : Bool) {m : Meter} (h : meterLawful m) :
    meterLawful (countWith b t e outage m) := by
  obtain ⟨lawful, same, charged⟩ := countPhase_law (phaseOf b e.minute) (bandAt t e.minute) h
  unfold countWith
  dsimp only
  cases outage with
  | false => exact lawful
  | true =>
    refine countOutage_law (m := { countPhase (phaseOf b e.minute) (bandAt t e.minute) m with lastTable := some e.number })
      _ _ _ lawful fun on => ?_
    obtain ⟨-, -, -, excess⟩ := h
    have before := excess (bandAt t e.minute)
    have after := charged on
    dsimp only
    rw [same]
    omega

/-! ### The operations that touch a meter -/

theorem meters_congr {s t : State} (h : metersLawful s) (e : t.tariffs.meters = s.tariffs.meters) : metersLawful t := by
  simpa only [metersLawful, e] using h

theorem meters_tariffs {s t : State} (h : metersLawful s) (e : t.tariffs = s.tariffs) : metersLawful t :=
  meters_congr h (by rw [e])

theorem setMeter_meters (n : Fin 1024) {m : Meter} {s : State} (h : metersLawful s) (lawful : meterLawful m) :
    metersLawful (setMeter n m s) := by
  intro k
  have get : (setMeter n m s).tariffs.meters[k] = if n = k then m else s.tariffs.meters[k] := getFin_set _ _ _ _
  rw [get]
  split
  · exact lawful
  · exact h k

theorem meterAfter_law (n : Fin 1024) (e : EndedSecond) {s : State} (h : metersLawful s) : meterLawful (meterAfter n e s) := by
  unfold meterAfter
  split
  · split
    · exact countWith_law _ _ _ _ (h n)
    · exact h n
  · exact h n

theorem countMeters_meters (e : EndedSecond) {s : State} (h : metersLawful s) : metersLawful (countMeters e s) := by
  intro k
  have get : (countMeters e s).tariffs.meters[k] = meterAfter k e s := build_getFin _ k
  rw [get]
  exact meterAfter_law k e h

theorem takeTariffBoundary_meters {s : State} (h : metersLawful s) : metersLawful (takeTariffBoundary s) := by
  have swapped : metersLawful (swapTariff s) := by
    unfold swapTariff
    split
    · exact h
    · exact h
  intro k
  have get : (takeTariffBoundary s).tariffs.meters[k] =
      if slotOnAir (swapTariff s).store.slots[k] then bandedMeter k (swapTariff s) else (swapTariff s).tariffs.meters[k] :=
    build_getFin _ k
  rw [get]
  split
  · exact meterLawful_marks (swapped k) _ _
  · exact swapped k

theorem activate_meters (n : Fin 1024) (minute : Nat) (first : Stamp) (band : Option Band) {s : State}
    (h : metersLawful s) : metersLawful (activate n minute first band s) := by
  have marked : metersLawful (setMeter n { s.tariffs.meters[n] with firstCounted := some first, startBand := band }
      (setSlot n { s.store.slots[n] with state := .active, activation := some minute } s)) :=
    setMeter_meters n h (meterLawful_marks (h n) band (some first))
  exact meters_tariffs marked (by simp [activate, handToAlarms, markOwned])

theorem boundaryStart_meters (minute : Nat) (swapped : Bool) (d : Fin 64) {s : State} (h : metersLawful s) :
    metersLawful (boundaryStart minute swapped d s) := by
  unfold boundaryStart
  split
  · exact h
  · split
    · exact activate_meters _ _ _ _ h
    · exact h

theorem storeTimelines_meters (taken : Bool) (minute : Nat) (counted swapped : Bool) (ports : List (Fin 64)) {s : State}
    (h : metersLawful s) : metersLawful (storeTimelines taken minute counted swapped ports s) := by
  unfold storeTimelines
  split
  · exact foldl_closed (fun _ d ht => boundaryStart_meters minute swapped d (meters_tariffs ht (by simp))) ports h
  · exact h

theorem lastRecheck_meters {s : State} (h : metersLawful s) : metersLawful (lastRecheck s) := meters_tariffs h (by simp)

theorem boundaryCounted_meters (minute swapAfter recheckAfter : Nat) {s : State} (h : metersLawful s) :
    metersLawful (boundaryCounted minute swapAfter recheckAfter s) := by
  have opened : metersLawful (openRecheck recheckAfter s) := meters_tariffs h (by simp)
  exact lastRecheck_meters (storeTimelines_meters _ _ _ _ _ (takeTariffBoundary_meters (storeTimelines_meters _ _ _ _ _ opened)))

theorem boundaryUncounted_meters (minute recheckAfter : Nat) {s : State} (h : metersLawful s) :
    metersLawful (boundaryUncounted minute recheckAfter s) := by
  have opened : metersLawful (openRecheck recheckAfter s) := meters_tariffs h (by simp)
  exact lastRecheck_meters (storeTimelines_meters _ _ _ _ _ opened)

theorem catchUpStart_meters (d : Fin 64) {s : State} (h : metersLawful s) : metersLawful (catchUpStart d s) := by
  unfold catchUpStart
  split
  · exact h
  · split
    · exact activate_meters _ _ _ _ h
    · exact h

theorem catchUpTimeline_meters (d : Fin 64) {s : State} (h : metersLawful s) : metersLawful (catchUpTimeline d s) := by
  have closed : metersLawful (catchUpCloses s.store.timelines[d] s) := meters_tariffs h (by simp)
  exact meters_tariffs (catchUpStart_meters d closed) (by simp [catchUpTimeline])

theorem enterRunning_meters {s : State} (h : metersLawful s) : metersLawful (enterRunning s) := by
  have running : metersLawful (latch .run { s with link := { s.link with run := .running, pageDue := true } }) :=
    meters_tariffs h (by simp)
  have caughtUp : metersLawful (catchUp (latch .run { s with link := { s.link with run := .running, pageDue := true } })) :=
    foldl_closed (fun _ d ht => catchUpTimeline_meters d ht) _ running
  exact meters_tariffs caughtUp (by simp [enterRunning])

theorem handTick_meters (order : TickOrder) (e : EndedSecond) {s : State} (h : metersLawful s) :
    metersLawful (handTick order e s) :=
  countMeters_meters e (meters_tariffs h (by simp))

theorem owedTick_meters (order : TickOrder) (ended : BitVec 32) {s : State} (h : metersLawful s) :
    metersLawful (owedTick order ended s) :=
  takeTariffBoundary_meters (handTick_meters order _ h)

theorem boundaryPage_meters (minute : BitVec 32) {s : State} (h : metersLawful s) : metersLawful (boundaryPage minute s) :=
  meters_tariffs h (by simp)

theorem setRollover_meters (r : Rollover) {s : State} (h : metersLawful s) : metersLawful (setRollover r s) := h

theorem boundaryAfterTick_meters (minute : BitVec 32) (clockSet : Bool) (swapAfter recheckAfter : Nat) {s : State}
    (h : metersLawful s) : metersLawful (boundaryAfterTick minute clockSet swapAfter recheckAfter s) :=
  boundaryPage_meters minute (boundaryCounted_meters _ _ _ (meters_tariffs h (by simp)))

theorem completeSecond_meters (ahead : Bool) {s : State} (h : metersLawful s) : metersLawful (completeSecond ahead s) :=
  meters_tariffs h (by simp)

theorem secondTick_meters (order : TickOrder) {s : State} (h : metersLawful s) : metersLawful (secondTick order s) := by
  have settled : metersLawful (settleBoundary s) := by
    unfold settleBoundary
    split
    · exact boundaryAfterTick_meters _ _ _ _ h
    all_goals exact h
  unfold secondTick
  dsimp only
  split
  · exact boundaryPage_meters _ (setRollover_meters _ (owedTick_meters _ _ settled))
  · exact boundaryPage_meters _ (setRollover_meters _ settled)
  · exact completeSecond_meters _ (handTick_meters _ _ settled)
  · exact completeSecond_meters _ (handTick_meters _ _ settled)

theorem takeBoundary_meters (swapAfter recheckAfter : Nat) {s : State} (h : metersLawful s) :
    metersLawful (takeBoundary swapAfter recheckAfter s) := by
  unfold takeBoundary
  split
  · exact boundaryAfterTick_meters _ _ _ _ h
  · split
    · exact boundaryUncounted_meters _ _ (meters_tariffs h (by simp))
    · exact h
  all_goals exact h

theorem minuteBoundary_meters (early : TickOrder) (boundary : Bool) (swapAfter recheckAfter : Nat) {s : State}
    (h : metersLawful s) : metersLawful (minuteBoundary early boundary swapAfter recheckAfter s) := by
  have ahead : metersLawful (if tickAwaited s.clock then ticksAhead early s else s) := by
    split
    · exact meters_tariffs h (by simp)
    · exact h
  unfold minuteBoundary
  dsimp only
  split
  · exact takeBoundary_meters _ _ ahead
  · exact ahead

theorem changeReference_meters (c : Clock) {s : State} (h : metersLawful s) : metersLawful (changeReference c s) :=
  meters_tariffs h (by simp)

theorem secrefPulse_meters (instant : Nat) (order : TickOrder) {s : State} (h : metersLawful s) :
    metersLawful (secrefPulse instant order s) := by
  unfold secrefPulse
  split
  · exact secondTick_meters order (meters_tariffs h rfl)
  · unfold pulseFreeRun
    dsimp only
    split
    · exact h
    · exact secondTick_meters order (changeReference_meters _ h)

theorem secrefTimeout_meters (order : TickOrder) {s : State} (h : metersLawful s) : metersLawful (secrefTimeout order s) := by
  unfold secrefTimeout
  split
  · exact secondTick_meters order (changeReference_meters _ h)
  · exact h

theorem ownTick_meters (order : TickOrder) {s : State} (h : metersLawful s) : metersLawful (ownTick order s) := by
  unfold ownTick
  split
  · exact secondTick_meters order (meters_tariffs h rfl)
  all_goals exact h

/-! ### The orders and the resets -/

theorem bookFromRecord_meters (n : Fin 1024) (r : BookRecord) {s : State} (h : metersLawful s) :
    metersLawful (bookFromRecord n r s) := by
  unfold bookFromRecord
  split
  · exact meters_tariffs h (by simp)
  · split
    · exact meters_tariffs h (by simp)
    · have accepted : metersLawful (acceptBooking n (slotOfRecord r) s) :=
        setMeter_meters n (meters_tariffs h (by simp)) meterLawful_cleared
      exact meters_tariffs accepted (by simp)

theorem bookRecordRead_meters (bytes : Vector Byte 20) {s : State} (h : metersLawful s) :
    metersLawful (bookRecordRead bytes s) := by
  unfold bookRecordRead
  split
  · exact bookFromRecord_meters _ _ h
  all_goals exact h

theorem cancelOrder_meters (o : Order) {s : State} (h : metersLawful s) : metersLawful (cancelOrder o s) := by
  have queued : metersLawful (setStage .queued s) := meters_tariffs h (by simp)
  unfold cancelOrder
  split
  · exact meters_tariffs h (by simp)
  · next n _ =>
    split
    · exact h
    · split
      · exact meters_tariffs h (by simp)
      · unfold cancelAccepted
        dsimp only
        split
        · have priced : metersLawful (setMeter n { (setStage .queued s).tariffs.meters[n] with
              startBand := currentBand (setStage .queued s).store.slots[n].start (setStage .queued s) }
              (leaveTimeline n (setStage .queued s))) := setMeter_meters n queued (meterLawful_marks (queued n) _ _)
          exact meters_tariffs priced (by simp)
        · exact meters_tariffs queued (by simp)
      · exact meters_tariffs queued (by simp)
      · exact meters_tariffs queued (by simp)

theorem tariffSegmentRead_meters (bytes : Vector Byte 240) {s : State} (h : metersLawful s) :
    metersLawful (tariffSegmentRead bytes s) := by
  unfold tariffSegmentRead segmentTaken
  split
  · split
    · exact meters_tariffs h (by simp)
    · have staged : metersLawful (stageTariff (tariffOf bytes) s) := h
      exact meters_tariffs staged (by simp)
  all_goals exact h

theorem startCommand_meters {s : State} (h : metersLawful s) : metersLawful (startCommand s) := by
  unfold startCommand
  split
  · exact meters_tariffs h (by simp)
  · unfold startHeld
    split
    · exact enterRunning_meters h
    · exact h
  · exact meters_tariffs h (by simp)

theorem identityWriteComplete_meters {s : State} (h : metersLawful s) : metersLawful (identityWriteComplete s) := by
  unfold identityWriteComplete
  split
  · exact enterRunning_meters h
  · exact h

theorem completeInFlight_meters (cut : CutOff) {s : State} (h : metersLawful s) : metersLawful (completeInFlight cut s) := by
  unfold completeInFlight
  split
  · split
    · exact meters_tariffs h (by simp)
    · exact meters_tariffs h (by simp)
  · exact bookFromRecord_meters _ _ h
  · split
    · exact meters_tariffs h (by simp)
    · exact meters_tariffs h (by simp)
  · exact meters_tariffs h (by simp)
  · exact meters_tariffs h (by simp)
  · split
    · exact meters_tariffs h (by simp)
    · exact h
  all_goals exact h

theorem completeAccesses_meters (cut : CutOff) {s : State} (h : metersLawful s) : metersLawful (completeAccesses cut s) := by
  have begun := completeInFlight_meters cut (s := setGate
    (.muteAfter (wholeTicket cut cut.accessIssued (s.tickets.inFlight.any ticketAccess))) (setWaiting [] s)) h
  exact foldl_closed (fun _ a ht => completeInFlight_meters cut (meters_tariffs ht (by simp))) s.tickets.waiting begun

theorem completeTick_meters (cut : CutOff) {s : State} (h : metersLawful s) : metersLawful (completeTick cut s) := by
  unfold completeTick
  split
  · split
    · exact h
    · exact setRollover_meters _ (owedTick_meters _ _ h)
  all_goals exact h

theorem ownerTakes_meters (o : Order) {s : State} (h : metersLawful s) : metersLawful (ownerTakes o s) := by
  cases code : o.code with
  | cancel =>
    rw [ownerTakes, code]
    exact cancelOrder_meters o h
  | _ => exact meters_tariffs h (by simp [ownerTakes, code])

theorem completeDispatched_meters (cut : CutOff) {s : State} (h : metersLawful s) :
    metersLawful (completeDispatched cut s) := by
  unfold completeDispatched
  split
  · next o _ =>
    have opened : metersLawful (setGate (.muteAfter (wholeTicket cut cut.orderIssued (ticketOrder o))) s) := h
    exact completeInFlight_meters cut (ownerTakes_meters o opened)
  all_goals exact h

theorem completeSegment_meters (cut : CutOff) {s : State} (h : metersLawful s) : metersLawful (completeSegment cut s) := by
  unfold completeSegment
  split
  · exact tariffSegmentRead_meters _ h
  · exact h

theorem completeInside_meters (cut : CutOff) {s : State} (h : metersLawful s) : metersLawful (completeInside cut s) := by
  have ticked := completeTick_meters cut (completeAccesses_meters cut h)
  have entered : metersLawful (completeEntry cut (setGate (.muteAfter cut.orderIssued)
      (completeHolds (completeTick cut (completeAccesses cut s))))) := meters_tariffs ticked (by simp)
  exact completeSegment_meters cut (completeDispatched_meters cut entered)

theorem softReset_meters (cut : CutOff) {s : State} (h : metersLawful s) : metersLawful (softReset cut s) := by
  have abandoned : metersLawful (abandonPage cut.pageIssued s) := meters_tariffs h (by simp)
  have done := completeInside_meters cut abandoned
  unfold softReset
  generalize completeInside cut (abandonPage cut.pageIssued s) = t at done
  exact meters_congr done (by simp [softClear, clearFloor, softState])

theorem ctrlWrite_meters (value : Word) (cut : CutOff) {s : State} (h : metersLawful s) :
    metersLawful (ctrlWrite value cut s) := by
  have modes : metersLawful
      (if value.getLsbD 15 then modeWrite (value.extractLsb' 4 2) (value.extractLsb' 8 6) s else s) := by
    split
    · exact meters_tariffs h (by simp)
    · exact h
  unfold ctrlWrite ctrlCommand
  split
  · exact startCommand_meters modes
  · split
    · exact meters_tariffs modes (by simp)
    · split
      · exact softReset_meters cut modes
      · exact modes

theorem registerWrite_meters (r : Register) (enables : BitVec 4) (value : Word) (cut : CutOff) {s : State}
    (h : metersLawful s) : metersLawful (registerWrite r enables value cut s) := by
  unfold registerWrite
  split
  · exact h
  · cases r with
    | ctrl => exact ctrlWrite_meters value cut h
    | areaLo => exact meters_tariffs h (by simp)
    | areaHi => exact meters_tariffs h (by simp)
    | order => exact meters_tariffs h (by simp)
    | flags => exact meters_tariffs h (by simp)
    | nextAlarm => exact meters_tariffs h (by simp)
    | status => exact h
    | minute => exact h

theorem takeOrder_meters (code : OrderCode) {act : Order → State → State}
    (tariffs : ∀ (o : Order) (s : State), (act o s).tariffs = s.tariffs) {s : State} (h : metersLawful s) :
    metersLawful (takeOrder code act s) :=
  takeOrder_holds code h fun o _ => meters_tariffs h (tariffs o s)

/-- R144: every command keeps the law while RESETN is high. -/
theorem liveEffect_meters {s : State} (h : metersLawful s) (c : Instr) : metersLawful (liveEffect c s) :=
  match c with
  | .start => startCommand_meters h
  | .halt => meters_tariffs h (by simp [liveEffect])
  | .softReset _ _ _ => softReset_meters _ h
  | .modeWrite _ _ => meters_tariffs h (by simp [liveEffect])
  | .areaWrite _ _ => meters_tariffs h (by simp [liveEffect])
  | .orderEndWrite _ => meters_tariffs h (by simp [liveEffect])
  | .flagsRead _ => meters_tariffs h (by simp [liveEffect])
  | .flagsWrite _ => meters_tariffs h (by simp [liveEffect])
  | .ack _ _ => meters_tariffs h (by simp [liveEffect])
  | .push _ _ _ => meters_tariffs h (by simp [liveEffect])
  | .pop => meters_tariffs h (by simp [liveEffect])
  | .registerWrite register enables value => registerWrite_meters register.register enables value register.cut h
  | .hardReset => h
  | .resetRelease _ => h
  | .secrefPulse instant order => secrefPulse_meters instant order h
  | .secrefTimeout order => secrefTimeout_meters order h
  | .ownTick order => ownTick_meters order h
  | .relockTimeout => meters_tariffs h (by simp [liveEffect])
  | .framerefPulse _ => meters_tariffs h (by simp [liveEffect])
  | .framerefTimeout => meters_tariffs h (by simp [liveEffect])
  | .minuteBoundary _ => minuteBoundary_meters _ _ _ _ h
  | .receiverObservation _ _ => meters_tariffs h (by simp [liveEffect])
  | .lossOfLightEdge _ => meters_tariffs h (by simp [liveEffect])
  | .holdOffReached _ => meters_tariffs h (by simp [liveEffect])
  | .restoreTimerExpiry _ => meters_tariffs h (by simp [liveEffect])
  | .busFault _ => meters_tariffs h (by simp [liveEffect])
  | .completionTimeout _ => meters_tariffs h (by simp [liveEffect])
  | .headerReadComplete _ => meters_tariffs h (by simp [liveEffect])
  | .identityWriteComplete => identityWriteComplete_meters h
  | .orderTaken => meters_tariffs h (by simp [liveEffect])
  | .entryReadComplete _ => meters_tariffs h (by simp [liveEffect])
  | .book => takeOrder_meters _ (fun o s => by simp) h
  | .bookRecordRead bytes => meters_tariffs (bookRecordRead_meters bytes h) (by simp [liveEffect])
  | .cancel => takeOrder_holds _ h fun o _ => cancelOrder_meters o h
  | .extend => takeOrder_meters _ (fun o s => by simp) h
  | .switch => takeOrder_meters _ (fun o s => by simp) h
  | .setLeg => takeOrder_meters _ (fun o s => by simp) h
  | .setPort => takeOrder_meters _ (fun o s => by simp) h
  | .readPort => takeOrder_meters _ (fun o s => by simp) h
  | .loadTariff => takeOrder_meters _ (fun o s => by simp) h
  | .tariffSegmentRead bytes => tariffSegmentRead_meters bytes h
  | .latchAccount => takeOrder_meters _ (fun o s => by simp) h
  | .closeMatch => takeOrder_meters _ (fun o s => by simp) h
  | .setClock => takeOrder_meters _ (fun o s => by simp) h
  | .ratingRelease => meters_tariffs h (by simp [liveEffect])
  | .pageComplete => meters_tariffs h (by simp [liveEffect])
  | .ticketSlotReadComplete _ => meters_tariffs h (by simp [liveEffect])

theorem hardReset_meters (s : State) : metersLawful (hardReset s) := fun k => by
  have cleared : (hardReset s).tariffs.meters[k] = Meter.cleared := build_getFin _ k
  rw [cleared]
  exact meterLawful_cleared

theorem resetRelease_meters (instant : Nat) {s : State} (h : metersLawful s) : metersLawful (resetRelease instant s) := by
  unfold resetRelease
  split
  · exact h
  · exact meters_tariffs (hardReset_meters s) (by simp)

theorem effect_meters (c : Instr) (s : State) (h : metersLawful s) : metersLawful (effect c s) :=
  effect_keeps h (hardReset_meters s) (fun _ => resetRelease_meters _ h) (fun _ => liveEffect_meters h) c

end Sys2Proof.Machine
end

section
/-! ### What keeps the books: a law of the slots, the accounts and the accesses, through every access (R149, R155, R161)

A law `Q` that speaks of the booking slots, the accounts, the current sources, the healths and the accesses under way is kept
by every operation once it is kept by the few that touch those. -/

namespace Sys2Proof.Machine

/-- From s to t nothing changes that the books or the severities of the source items look at. -/
structure alike (s t : State) : Prop where
  slots : t.store.slots = s.store.slots
  timelines : t.store.timelines = s.store.timelines
  held : heldSlots t.store = heldSlots s.store
  accounts : t.accounts = s.accounts
  current : ∀ d : Fin 64, t.rows[d].current = s.rows[d].current
  health : ∀ p : Fin 48, t.monitors[p].health = s.monitors[p].health
  items : ∀ i : Fin 51, i.val < 48 → t.alarm.items[i].severity = s.alarm.items[i].severity

theorem alike_of {s t : State} (h : t.store = s.store ∧ t.accounts = s.accounts ∧ t.rows = s.rows ∧
    t.monitors = s.monitors ∧ t.alarm = s.alarm) : alike s t := by
  obtain ⟨store, accounts, rows, monitors, alarm⟩ := h
  exact ⟨by rw [store], by rw [store], by rw [store], accounts, fun d => by rw [rows], fun p => by rw [monitors],
    fun i _ => by rw [alarm]⟩

theorem alike_trans {s t u : State} (h : alike s t) (k : alike t u) : alike s u :=
  ⟨k.slots.trans h.slots, k.timelines.trans h.timelines, k.held.trans h.held, k.accounts.trans h.accounts,
    fun d => (k.current d).trans (h.current d), fun p => (k.health p).trans (h.health p),
    fun i hi => (k.items i hi).trans (h.items i hi)⟩

/-- A system item moves no source item. -/
theorem setSeverity_alike {i : Fin 51} (system : 48 ≤ i.val) (v : Fin 4) (s : State) : alike s (setSeverity i v s) := by
  refine ⟨by simp, by simp, by simp, by simp, by simp, by simp, fun j hj => ?_⟩
  have items : (setSeverity i v s).alarm.items = s.alarm.items.set i (itemAt s.alarm.items[i] v) := by
    simp [setSeverity, setAlarm_eq, withAlarm, withFlags]
  rw [items, getFin_set, if_neg]
  intro same
  rw [same] at system
  omega

/-- An access that closes no booking and works for no account. -/
def neutralAccess (a : Access) : Bool :=
  match a with
  | .write _ | .recheck | .recordRead _ | .report _ _ => true
  | .raise _ | .closeWrite _ | .totalCheck _ _ | .totalWrite _ => false

/-- An access whose close r is: the access is r's own, or closes its slot and r is for the account of its match. -/
def closesFor (a : Access) (r : Raise) (s : State) : Prop :=
  a = .raise r ∨ a = .closeWrite r ∨
    closingSlot a = some r.slot ∧ r.ticket.matchNumber = s.store.slots[r.slot].matchNumber

/-- A change of an account that leaves what the books say of it. -/
def accountKept (f : Account → Account) : Prop :=
  ∀ a, (f a).isOpen = a.isOpen ∧ (f a).matchNumber = a.matchNumber ∧ (f a).openCount = a.openCount ∧
    (a.chargeTotal < 2 ^ 40 → (f a).chargeTotal < 2 ^ 40)

/-- The slots of t are those of s, as far as the books look. -/
structure slotsAlike (s t : State) : Prop where
  free : ∀ n : Fin 1024, t.store.slots[n].state = .free ↔ s.store.slots[n].state = .free
  matched : ∀ n : Fin 1024, t.store.slots[n].matchNumber = s.store.slots[n].matchNumber
  held : heldSlots t.store = heldSlots s.store
  accounts : t.accounts = s.accounts
  members : ∀ (d : Fin 64) (n : Fin 1024), n ∈ t.store.timelines[d] → n ∈ s.store.timelines[d]

theorem slotsAlike_of {s t : State} (h : alike s t) : slotsAlike s t :=
  ⟨fun n => by rw [h.slots], fun n => by rw [h.slots], h.held, h.accounts, fun d n hn => by rwa [h.timelines] at hn⟩

/-- A law of the accesses L and the state that the operations on slots and accounts keep. -/
structure BookLaw (Q : List Access → State → Prop) : Prop where
  sub : ∀ {L M : List Access} {s : State}, M.Subperm L → Q L s → Q M s
  same : ∀ {L : List Access} {s t : State}, alike s t → Q L s → Q L t
  begun : ∀ {L : List Access} {s : State} (a : Access), Q (a :: L) s → Q (begunAccess a :: L) s
  totalBegun : ∀ {L : List Access} {s : State} (k : Fin 128) (minute : Nat),
    Q (.totalCheck k minute :: L) s → Q (.totalWrite k :: L) s
  neutral : ∀ {L : List Access} {s : State} (a : Access), neutralAccess a = true → Q L s → Q (a :: L) s
  account : ∀ {L : List Access} {s : State} (m : Nat) {f : Account → Account}, accountKept f → Q L s →
    Q L (changeAccount m f s)
  endClose : ∀ {L : List Access} {s : State} {a : Access} {r : Raise}, closesFor a r s → Q (a :: L) s →
    Q L (endClose r s)
  freeTotal : ∀ {L : List Access} {s : State} (k : Fin 128), Q (.totalWrite k :: L) s → Q L (freeAccountSlot k s)

/-- The law with the accesses g taken off the queue and not begun. -/
def lawOf (Q : List Access → State → Prop) (g : List Access) (s : State) : Prop := Q (outstanding s ++ g) s

variable {Q : List Access → State → Prop} (law : BookLaw Q) {g : List Access} {s t : State}
include law

theorem lawOf_same (h : lawOf Q g s) (k : alike s t) (flight : t.tickets.inFlight = s.tickets.inFlight)
    (waiting : t.tickets.waiting = s.tickets.waiting) : lawOf Q g t := by
  have out : outstanding t = outstanding s := by rw [outstanding, outstanding, flight, waiting]
  rw [lawOf, out]
  exact law.same k h

theorem lawOf_tickets (h : lawOf Q g s) (k : alike s t) (tickets : t.tickets = s.tickets) : lawOf Q g t :=
  lawOf_same law h k (by rw [tickets]) (by rw [tickets])

theorem lawOf_sub {m : List Access} (h : lawOf Q g s) (k : alike s t)
    (fewer : (outstanding t ++ m).Subperm (outstanding s ++ g)) : lawOf Q m t :=
  law.sub fewer (law.same k h)

theorem lawOf_tail {a : Access} (h : lawOf Q (a :: g) s) : lawOf Q g s :=
  law.sub ((List.Sublist.append_left (List.sublist_cons_self a g) _).subperm) h

/-- The access taken off the queue first stands ahead of all. -/
theorem lawOf_head {a : Access} (h : lawOf Q (a :: g) s) : Q (a :: (outstanding s ++ g)) s :=
  law.sub List.perm_middle.symm.subperm h

theorem lawOf_cons {a : Access} (h : Q (a :: (outstanding s ++ g)) s) : lawOf Q (a :: g) s :=
  law.sub List.perm_middle.subperm h

/-! ### Faults and writes -/

theorem latch_lawOf (f : Flag) (h : lawOf Q g s) : lawOf Q g (latch f s) :=
  lawOf_tickets law h (alike_of (by simp)) (by simp)

theorem latch_lawQ (f : Flag) {L : List Access} (h : Q L s) : Q L (latch f s) := law.same (alike_of (by simp)) h

theorem loseTicket_law (m : Option Nat) {L : List Access} (h : Q L s) : Q L (loseTicket m s) := by
  have counted : Q L { s with tickets := { s.tickets with lost := s.tickets.lost + 1 } } :=
    law.same (s := s) (alike_of ⟨rfl, rfl, rfl, rfl, rfl⟩) h
  cases m with
  | none => exact latch_lawQ law .ticketLost counted
  | some m => exact latch_lawQ law .ticketLost (law.account m (fun a => ⟨rfl, rfl, rfl, id⟩) counted)

theorem raiseNumber_law {L : List Access} (h : Q L s) : Q L (raiseNumber s) :=
  law.same (s := s) (alike_of ⟨rfl, rfl, rfl, rfl, rfl⟩) h

omit law in
theorem closesFor_store {a : Access} {r : Raise} (h : closesFor a r s) (store : t.store = s.store) : closesFor a r t := by
  rwa [closesFor, store]

theorem dropAccess_lawQ (a : Access) {L : List Access} (h : Q (a :: L) s) : Q L (dropAccess a s) := by
  have dropped : Q L s := law.sub (List.sublist_cons_self a L).subperm h
  cases a with
  | raise r =>
    exact law.endClose (.inl rfl) (loseTicket_law law (some r.ticket.matchNumber) (raiseNumber_law law h))
  | closeWrite r => exact law.endClose (.inr (.inl rfl)) (loseTicket_law law (some r.ticket.matchNumber) h)
  | totalWrite k => exact law.freeTotal k (loseTicket_law law none h)
  | write w => exact dropped
  | totalCheck k minute => exact dropped
  | recheck => exact dropped
  | recordRead n => exact dropped
  | report outcome result => exact dropped

theorem dropAll_lawQ (l : List Access) {L : List Access} (h : Q (l ++ L) s) :
    Q L (l.foldl (fun t a => dropAccess a t) s) := by
  induction l generalizing s with
  | nil => exact h
  | cons a l ih => exact ih (dropAccess_lawQ law a h)

/-- R15, R68: with the accesses dropped the law holds of those not begun. -/
theorem dropAccesses_lawOf (h : lawOf Q g s) : lawOf Q g (dropAccesses s) := by
  have view := dropAccesses_view s
  simp only [runView, Prod.mk.injEq] at view
  obtain ⟨-, -, -, -, -, -, flight, waiting, -⟩ := view
  have none : outstanding (dropAccesses s) = [] := by rw [outstanding, flight, waiting]; rfl
  rw [lawOf, none, List.nil_append]
  have begun : Q (droppedAccesses s ++ g) (clearAccesses s) := by
    refine law.same (s := s) (alike_of ⟨rfl, rfl, rfl, rfl, rfl⟩) ?_
    unfold lawOf outstanding at h
    unfold droppedAccesses
    cases flight : s.tickets.inFlight with
    | none =>
      rw [flight] at h
      exact h
    | some a =>
      rw [flight] at h
      exact law.begun a h
  exact dropAll_lawQ law _ begun

theorem takeBusFault_lawOf (h : lawOf Q g s) : lawOf Q g (takeBusFault s) := by
  obtain fatal | fatal := fatal_cases s
  · rw [takeBusFault, if_pos fatal]
    exact h
  · rw [takeBusFault, if_neg (by simp [fatal])]
    dsimp only
    have faulted : lawOf Q g { s with
        link := faultedLink s.link, orders := { s.orders with unit := stoppedUnit s.orders.unit } } :=
      lawOf_tickets law h (alike_of ⟨rfl, rfl, rfl, rfl, rfl⟩) rfl
    have raised := lawOf_tickets law faulted (setSeverity_alike (i := 50) (by decide) 3 _) (by simp)
    split
    · exact dropAccesses_lawOf law raised
    · exact dropAccesses_lawOf law (lawOf_tickets law raised (alike_of (by simp)) (by simp))

theorem sendWrite_lawOf (w : HostWrite) (h : lawOf Q g s) : lawOf Q g (sendWrite w s) := by
  unfold sendWrite
  split
  · exact lawOf_tickets law h (alike_of ⟨rfl, rfl, rfl, rfl, rfl⟩) rfl
  · exact takeBusFault_lawOf law h
  · exact lawOf_tickets law h (alike_of ⟨rfl, rfl, rfl, rfl, rfl⟩) rfl
  · exact lawOf_tickets law h (alike_of ⟨rfl, rfl, rfl, rfl, rfl⟩) rfl

theorem issue_lawOf (w : HostWrite) (h : lawOf Q g s) : lawOf Q g (issue w s) := by
  unfold issue
  split
  · exact sendWrite_lawOf law w h
  · exact h

theorem issueAll_lawOf (ws : List HostWrite) (h : lawOf Q g s) : lawOf Q g (issueAll ws s) :=
  foldl_closed (fun _ w ht => issue_lawOf law w ht) ws h

theorem issueRead_lawOf (a : Address) (n : Nat) (h : lawOf Q g s) : lawOf Q g (issueRead a n s) :=
  lawOf_tickets law h (alike_of (by simp)) (by simp)

/-! ### The order unit -/

theorem takeEntry_lawOf (h : lawOf Q g s) : lawOf Q g (takeEntry s) :=
  lawOf_tickets law h (alike_of (by simp)) (by simp)

theorem afterOrder_lawOf (h : lawOf Q g s) : lawOf Q g (afterOrder s) :=
  lawOf_tickets law h (alike_of (by simp)) (by simp)

theorem orderDone_lawOf (notify : Bool) (h : lawOf Q g s) : lawOf Q g (orderDone notify s) :=
  lawOf_tickets law h (alike_of (by simp)) (by simp)

theorem report_lawOf (notify : Bool) (outcome : OutcomeCode) (result : List Byte) (h : lawOf Q g s) :
    lawOf Q g (report notify outcome result s) := by
  have reporting : lawOf Q g (setUnit .reporting s) := lawOf_tickets law h (alike_of ⟨rfl, rfl, rfl, rfl, rfl⟩) rfl
  have written := issueAll_lawOf law (reportWrites s outcome result) reporting
  unfold report
  dsimp only
  split
  · exact written
  · split
    · exact orderDone_lawOf law notify (issue_lawOf law _ written)
    · exact issue_lawOf law _ written

theorem finishOrder_lawOf (outcome : OutcomeCode) (result : List Byte) (h : lawOf Q g s) :
    lawOf Q g (finishOrder outcome result s) := by
  unfold finishOrder
  split
  · exact h
  all_goals first
    | exact report_lawOf law _ _ _ h
    | exact h

theorem setStage_lawOf (stage : Stage) (h : lawOf Q g s) : lawOf Q g (setStage stage s) :=
  lawOf_tickets law h (alike_of (by simp)) (by simp)

/-! ### The end of a close -/

theorem recordClose_lawOf (r : Raise) (h : lawOf Q g s) : lawOf Q g (recordClose r s) := issueAll_lawOf law _ h

theorem endClose_lawOf {a : Access} {r : Raise} (own : closesFor a r s) (h : lawOf Q (a :: g) s) :
    lawOf Q g (endClose r s) := by
  have out : outstanding (endClose r s) = outstanding s := by simp [outstanding]
  rw [lawOf, out]
  exact law.endClose own (lawOf_head law h)

theorem finishClose_lawOf {a : Access} {r : Raise} (number : BitVec 32) (own : closesFor a r s) (h : lawOf Q (a :: g) s) :
    lawOf Q g (finishClose r number s) := by
  unfold finishClose
  split
  · exact finishOrder_lawOf law _ _ (endClose_lawOf law own h)
  · exact endClose_lawOf law own h

theorem lostClose_lawOf {r : Raise} (h : lawOf Q (.raise r :: g) s) : lawOf Q g (lostClose r s) :=
  finishClose_lawOf law _ (.inl rfl) (recordClose_lawOf law r h)

theorem loseRaise_lawOf (r : Raise) (h : lawOf Q g s) : lawOf Q g (loseRaise r s) := by
  have view := loseTicket_view (some r.ticket.matchNumber) s
  simp only [runView, Prod.mk.injEq] at view
  obtain ⟨-, -, -, -, -, -, flight, waiting, -⟩ := view
  have out : outstanding (loseRaise r s) = outstanding s := by rw [outstanding, outstanding, loseRaise, flight, waiting]
  rw [lawOf, out]
  exact loseTicket_law law _ h

theorem raiseNumber_lawOf (h : lawOf Q g s) : lawOf Q g (raiseNumber s) := raiseNumber_law law h

/-! ### The queue of accesses -/

/-- The access whose read goes out stands in flight, and nothing behind it. -/
theorem await_lawOf {a : Access} (address : Address) (n : Nat) (h : lawOf Q (a :: g) s) (idle : quiet s) :
    lawOf Q g (setInFlight (some a) (issueRead address n s)) := by
  refine lawOf_sub law h (alike_trans (alike_of (t := issueRead address n s) (by simp)) (alike_of ⟨rfl, rfl, rfl, rfl, rfl⟩)) ?_
  have waiting : (issueRead address n s).tickets.waiting = [] := by simpa using idle.2
  have before : outstanding s = [] := by rw [outstanding, idle.1, idle.2]; rfl
  have after : outstanding (setInFlight (some a) (issueRead address n s)) = [a] := by
    rw [outstanding]
    exact congrArg ([a] ++ ·) waiting
  rw [before, after]
  exact List.Subperm.refl _

theorem beginAccess_lawOf (a : Access) (h : lawOf Q (a :: g) s) (idle : quiet s) : lawOf Q g (beginAccess a s) := by
  cases a with
  | write w => exact issue_lawOf law w (lawOf_tail law h)
  | report outcome result => exact finishOrder_lawOf law outcome result (lawOf_tail law h)
  | raise r =>
    simp only [beginAccess]
    split
    · exact await_lawOf law _ 1 (raiseNumber_lawOf law h) idle
    · exact lostClose_lawOf law (loseRaise_lawOf law r (raiseNumber_lawOf law h))
  | closeWrite r => exact lawOf_tail law h
  | totalWrite k => exact lawOf_tail law h
  | totalCheck k minute =>
    simp only [beginAccess]
    split
    · exact await_lawOf law _ 1 h idle
    · exact setStage_lawOf law _ (lawOf_tail law h)
  | recheck =>
    simp only [beginAccess]
    split
    · exact await_lawOf law _ 1 h idle
    · exact lawOf_tail law h
  | recordRead n =>
    simp only [beginAccess]
    split
    · exact await_lawOf law _ 20 h idle
    · exact setStage_lawOf law _ (lawOf_tail law h)

theorem pump_lawOf (accesses : List Access) (h : lawOf Q (accesses ++ g) s) (waiting : s.tickets.waiting = []) :
    lawOf Q g (pump accesses s) := by
  induction accesses generalizing s with
  | nil => exact h
  | cons a rest ih =>
    rw [pump]
    split
    · refine lawOf_sub law h (alike_of ⟨rfl, rfl, rfl, rfl, rfl⟩) ?_
      rw [outstanding, outstanding, waiting]
      simp [List.Subperm.refl]
    · next flight =>
      have idle : quiet s := ⟨by simpa using flight, waiting⟩
      exact ih (beginAccess_lawOf law a h idle) (beginAccess_waiting a idle)

/-- The accesses that wait go back among those to begin. -/
theorem setWaiting_lawOf (h : lawOf Q g s) : lawOf Q (s.tickets.waiting ++ g) (setWaiting [] s) := by
  refine lawOf_sub law h (alike_of ⟨rfl, rfl, rfl, rfl, rfl⟩) ?_
  simp [outstanding, setWaiting, List.Subperm.refl]

theorem pumpWaiting_lawOf (h : lawOf Q g s) : lawOf Q g (pumpWaiting s) :=
  pump_lawOf law _ (setWaiting_lawOf law h) rfl

theorem submit_lawOf (accesses : List Access) (h : lawOf Q (accesses ++ g) s) : lawOf Q g (submit accesses s) := by
  refine pumpWaiting_lawOf law (lawOf_sub law h (alike_of ⟨rfl, rfl, rfl, rfl, rfl⟩) ?_)
  simp [outstanding, List.Subperm.refl]

/-- Accesses that close no booking may be added. -/
theorem neutral_lawOf (accesses : List Access) (neutral : ∀ a ∈ accesses, neutralAccess a = true) (h : lawOf Q g s) :
    lawOf Q (accesses ++ g) s := by
  induction accesses with
  | nil => exact h
  | cons a rest ih =>
    exact lawOf_cons law (law.neutral a (neutral a (by simp)) (ih fun b hb => neutral b (List.mem_cons_of_mem _ hb)))

theorem submitNeutral_lawOf (accesses : List Access) (neutral : ∀ a ∈ accesses, neutralAccess a = true)
    (h : lawOf Q g s) : lawOf Q g (submit accesses s) :=
  submit_lawOf law accesses (neutral_lawOf law accesses neutral h)

/-! ### The read of the state byte -/

theorem unblockRing_lawOf (h : lawOf Q g s) : lawOf Q g (unblockRing s) := by
  unfold unblockRing
  split
  · exact lawOf_same law h (alike_trans (alike_of (t := { s with tickets := { s.tickets with blocked := false } }) ⟨rfl, rfl, rfl, rfl, rfl⟩)
      (setSeverity_alike (i := 49) (by decide) _ _)) (by simp) (by simp)
  · exact h

theorem blockRing_lawOf (h : lawOf Q g s) : lawOf Q g (blockRing s) := by
  unfold blockRing
  split
  · exact h
  · exact lawOf_same law h (alike_trans (alike_of (t := { s with tickets := { s.tickets with blocked := true } }) ⟨rfl, rfl, rfl, rfl, rfl⟩)
      (setSeverity_alike (i := 49) (by decide) _ _)) (by simp) (by simp)

theorem ticketWritten_lawOf (h : lawOf Q g s) : lawOf Q g (ticketWritten s) :=
  unblockRing_lawOf law (lawOf_same law h (alike_of (by simp)) (by simp) (by simp))

/-- The access in flight, answered, stands with those not begun. -/
theorem answered_lawOf {a : Access} (h : lawOf Q g s) (flight : s.tickets.inFlight = some a) :
    lawOf Q (a :: g) (setInFlight none s) := by
  refine lawOf_sub law h (alike_of ⟨rfl, rfl, rfl, rfl, rfl⟩) ?_
  have before : outstanding s = a :: s.tickets.waiting := by rw [outstanding, flight]; rfl
  rw [before]
  exact List.perm_middle.subperm

/-- An access stands in flight while it writes. -/
theorem writing_lawOf {a : Access} (h : lawOf Q (a :: g) s) (flight : s.tickets.inFlight = none) :
    lawOf Q g (setInFlight (some a) s) := by
  refine lawOf_sub law h (alike_of ⟨rfl, rfl, rfl, rfl, rfl⟩) ?_
  have before : outstanding s = s.tickets.waiting := by rw [outstanding, flight]; rfl
  rw [before]
  exact List.perm_middle.symm.subperm

omit law in
/-- Writes leave the access in flight, or a bus fault ends it. -/
theorem flight_of_stays {a : Access} (k : stays (setInFlight (some a) s) t) (flight : t.tickets.inFlight.isSome = true) :
    t.tickets.inFlight = some a := by
  obtain ⟨⟨-, same, -⟩, -⟩ | ⟨⟨-, none, -⟩, -⟩ := k
  · exact same
  · rw [none] at flight
    cases flight

theorem writeClose_lawOf {r : Raise} (h : lawOf Q (.raise r :: g) s) (flight : s.tickets.inFlight = none) :
    lawOf Q g (writeClose r s) := by
  have begun : lawOf Q (.closeWrite r :: g) s := lawOf_cons law (law.begun (.raise r) (lawOf_head law h))
  have ticket := issueAll_lawOf law (ticketWrites r.ticket s) (writing_lawOf law begun flight)
  have stands := issueAll_stays (ticketWrites r.ticket s) (setInFlight (some (.closeWrite r)) s)
  have recorded := recordClose_lawOf law r (ticketWritten_lawOf law ticket)
  have stood := stays_trans stands (stays_trans (ticketWritten_stays _) (recordClose_stays r _))
  unfold writeClose
  dsimp only
  split
  · split
    · next alive =>
      exact finishClose_lawOf law _ (.inr (.inl rfl)) (answered_lawOf law recorded (flight_of_stays stood alive))
    · exact recorded
  · exact ticket

theorem raiseRead_lawOf {r : Raise} (empty : Bool) (h : lawOf Q g s) (flight : s.tickets.inFlight = some (.raise r)) :
    lawOf Q g (raiseRead r empty s) := by
  have answered := answered_lawOf law h flight
  unfold raiseRead
  dsimp only
  split
  · exact writeClose_lawOf law answered rfl
  · exact lostClose_lawOf law (blockRing_lawOf law (loseRaise_lawOf law r answered))

theorem freeTotal_lawOf (k : Fin 128) (h : lawOf Q (.totalWrite k :: g) s) : lawOf Q g (freeAccountSlot k s) :=
  law.freeTotal k (lawOf_head law h)

theorem totalRead_lawOf {k : Fin 128} {minute : Nat} (empty : Bool) (h : lawOf Q g s)
    (flight : s.tickets.inFlight = some (.totalCheck k minute)) : lawOf Q g (totalRead k minute empty s) := by
  have answered := answered_lawOf law h flight
  unfold totalRead
  dsimp only
  split
  · have begun : lawOf Q (.totalWrite k :: g) (setInFlight none s) :=
      lawOf_cons law (law.totalBegun k minute (lawOf_head law answered))
    have writing : lawOf Q g (setInFlight (some (.totalWrite k)) (raiseNumber s)) :=
      writing_lawOf law (s := raiseNumber (setInFlight none s)) (raiseNumber_lawOf law begun) rfl
    have stands := issueAll_stays (ticketWrites (totalTicket s.accounts[k] minute)
      (setInFlight (some (.totalWrite k)) (raiseNumber s))) (setInFlight (some (.totalWrite k)) (raiseNumber s))
    have written := issueAll_lawOf law (ticketWrites (totalTicket s.accounts[k] minute)
      (setInFlight (some (.totalWrite k)) (raiseNumber s))) writing
    split
    · next alive =>
      exact finishOrder_lawOf law _ _ (freeTotal_lawOf law k
        (ticketWritten_lawOf law (answered_lawOf law written (flight_of_stays stands alive))))
    · exact written
  · exact finishOrder_lawOf law _ _ (lawOf_tail law answered)

theorem ticketSlotRead_lawOf (state : Byte) (h : lawOf Q g s) : lawOf Q g (ticketSlotRead state s) := by
  unfold ticketSlotRead
  split
  · next r flight => exact pumpWaiting_lawOf law (raiseRead_lawOf law _ h flight)
  · next k minute flight => exact pumpWaiting_lawOf law (totalRead_lawOf law _ h flight)
  · next flight =>
    have answered := lawOf_tail law (answered_lawOf law h flight)
    refine pumpWaiting_lawOf law ?_
    split
    · exact unblockRing_lawOf law answered
    · exact answered
  all_goals exact h

end Sys2Proof.Machine
end

section
/-! ### The booking store, the orders and the ticks under a law of the books -/

namespace Sys2Proof.Machine

/-- The close of n may begin: n is taken, stands in no timeline, and its close has not begun. -/
structure closable (n : Fin 1024) (L : List Access) (s : State) : Prop where
  taken : s.store.slots[n].state ≠ .free
  fresh : n ∉ heldSlots s.store ++ closings L
  left : ∀ d : Fin 64, n ∉ s.store.timelines[d]

/-- A new value of a slot that the books and the source items see no change in. -/
structure shownAs (b c : Slot) : Prop where
  free : c.state = .free ↔ b.state = .free
  air : slotOnAir c = slotOnAir b
  matched : c.matchNumber = b.matchNumber
  primary : c.primary = b.primary
  backup : c.backup = b.backup

/-- No access works for the last ticket of an account. -/
def noTotals (L : List Access) : Prop := ∀ a ∈ L, ∀ k minute, a ≠ .totalCheck k minute ∧ a ≠ .totalWrite k

/-- The access of an order alone closes a match, so with none of an order there is none. -/
theorem noTotals_of_count {L : List Access} (h : L.countP orderAccess = 0) : noTotals L := by
  rw [List.countP_eq_zero] at h
  exact fun a ha k minute => ⟨fun e => h a ha (by simp [e, orderAccess]), fun e => h a ha (by simp [e, orderAccess])⟩

/-- A law of the books that the work of the booking store and of the orders keeps. -/
structure StoreLaw (Q : List Access → State → Prop) : Prop extends BookLaw Q where
  moved : ∀ {L : List Access} {s t : State}, slotsAlike s t → Q L s → Q L (deriveSources t)
  shown : ∀ {L : List Access} {s : State} (n : Fin 1024) {b : Slot}, shownAs s.store.slots[n] b → Q L s →
    Q L (setSlot n b s)
  leave : ∀ {L : List Access} {s : State} (n : Fin 1024), slotOnAir s.store.slots[n] = false → Q L s →
    Q L (leaveTimeline n s)
  begin : ∀ {L : List Access} {s : State} {n : Fin 1024} (kind : TicketKind) (minute : Nat) (forOrder : Bool),
    closable n L s → Q L s → Q (.raise (closeRaise kind n minute forOrder s) :: L) s
  hold : ∀ {L : List Access} {s : State} {n : Fin 1024} (minute : Nat), closable n L s → Q L s → Q L (holdClose n minute s)
  release : ∀ {L : List Access} {s : State} {h : Hold} {rest : List Hold}, s.store.holds = h :: rest → Q L s →
    Q (.raise (closeRaise .booking h.slot h.closeMinute false s) :: L) { s with store := { s.store with holds := rest } }
  accept : ∀ {L : List Access} {s : State} {n : Fin 1024} {r : BookRecord}, s.store.slots[n].state = .free →
    n ∉ heldSlots s.store ++ closings L → (∀ d : Fin 64, n ∉ s.store.timelines[d]) → noTotals L →
    bookRefusal r s = none → Q L s → Q L (acceptBooking n (slotOfRecord r) s)
  total : ∀ {L : List Access} {s : State} {k : Fin 128} (minute : Nat), s.accounts[k].isOpen = true →
    s.accounts[k].openCount = 0 → noTotals L → Q L s → Q (.totalCheck k minute :: L) s

section
variable {Q : List Access → State → Prop} (law : StoreLaw Q) {g : List Access} {s t : State}
include law

theorem same_lawOf (h : lawOf Q g s) (k : alike s t) (tickets : t.tickets = s.tickets) : lawOf Q g t :=
  lawOf_tickets law.toBookLaw h k tickets

/-- What only the clock, the meters, the link or the order unit see. -/
theorem unseen_lawOf (h : lawOf Q g s) (same : t.store = s.store ∧ t.accounts = s.accounts ∧ t.rows = s.rows ∧
    t.monitors = s.monitors ∧ t.alarm = s.alarm) (tickets : t.tickets = s.tickets) : lawOf Q g t :=
  same_lawOf law h (alike_of same) tickets

theorem moved_lawOf (h : lawOf Q g s) (k : slotsAlike s t) (tickets : t.tickets = s.tickets) :
    lawOf Q g (deriveSources t) := by
  have out : outstanding (deriveSources t) = outstanding s := by simp [outstanding, tickets]
  rw [lawOf, out]
  exact law.moved k h

theorem shown_lawOf (n : Fin 1024) {b : Slot} (k : shownAs s.store.slots[n] b) (h : lawOf Q g s) :
    lawOf Q g (setSlot n b s) := law.shown n k h

/-! ### Closes -/

omit law in
theorem addClose_kept (charge outage : Nat) : accountKept (addClose charge outage) :=
  fun _ => ⟨rfl, rfl, rfl, fun _ => Nat.mod_lt _ (by decide)⟩

omit law in
theorem takeClose_outstanding (r : Raise) (s : State) : outstanding (takeClose r s) = outstanding s := by
  have view := takeClose_view r s
  simp only [runView, Prod.mk.injEq] at view
  obtain ⟨-, -, -, -, -, -, flight, waiting, -⟩ := view
  rw [outstanding, outstanding, flight, waiting]

theorem settleClose_lawOf {n : Fin 1024} (kind : TicketKind) (minute : Nat) (forOrder : Bool)
    (k : closable n (outstanding s ++ g) s) (h : lawOf Q g s) : lawOf Q g (settleClose kind n minute forOrder s) := by
  unfold settleClose
  refine submit_lawOf law.toBookLaw _ (lawOf_cons law.toBookLaw ?_)
  rw [takeClose_outstanding]
  exact law.account _ (addClose_kept _ _) (law.begin kind minute forOrder k h)

omit law in
/-- A member of a timeline has not begun its close. -/
theorem member_fresh (good : bookingsLawful s) {d : Fin 64} {n : Fin 1024} (h : n ∈ s.store.timelines[d]) :
    n ∉ heldSlots s.store ++ closings (outstanding s) :=
  (closing_iff n s).1 ((good.1.1 d n).1 h).2.2

omit law in
/-- A booking whose close has not begun may close once it has left its timeline. -/
theorem closable_left (good : bookingsLawful s) {n : Fin 1024} (taken : s.store.slots[n].state ≠ .free)
    (fresh : n ∉ heldSlots s.store ++ closings (outstanding s)) (store : t.store = leftStore n s.store)
    (tickets : t.tickets = s.tickets) : closable n (outstanding t ++ []) t := by
  have out : outstanding t = outstanding s := by rw [outstanding, outstanding, tickets]
  refine ⟨by rw [store]; exact taken, by rw [store, out, List.append_nil]; exact fresh, fun d => ?_⟩
  rw [store]
  exact leave_outside ((timelinesLawful_iff s).1 good.1) n d

omit law in
theorem leftStore_alike (n : Fin 1024) (store : t.store = leftStore n s.store) (accounts : t.accounts = s.accounts) :
    slotsAlike s t := by
  refine ⟨fun k => by rw [store]; rfl, fun k => by rw [store]; rfl, by rw [store]; rfl, accounts, fun d k hk => ?_⟩
  rw [store, leftStore_get] at hk
  split at hk
  · next same =>
    subst same
    exact (List.mem_filter.1 hk).1
  · exact hk

theorem beginClose_lawOf (n : Fin 1024) (minute : Nat) (h : lawOf Q g s) : lawOf Q g (beginClose n minute s) := by
  unfold beginClose handToAlarms
  dsimp only
  split
  · exact moved_lawOf law h (leftStore_alike n (leaveTimeline_store n s) (by simp)) (by simp)
  · exact moved_lawOf law h (leftStore_alike n (by simp [leaveTimeline_store]) (by simp)) (by simp)

theorem holdClose_lawOf {n : Fin 1024} (minute : Nat) (k : closable n (outstanding s ++ g) s) (h : lawOf Q g s) :
    lawOf Q g (holdClose n minute s) := law.hold minute k h

theorem closeOnAir_lawOf (good : bookingsLawful s) {n : Fin 1024} (minute : Nat) (counted forOrder : Bool)
    (taken : s.store.slots[n].state ≠ .free) (fresh : n ∉ heldSlots s.store ++ closings (outstanding s))
    (h : lawOf Q [] s) : lawOf Q [] (closeOnAir n minute counted forOrder s) := by
  have begun := beginClose_lawOf law n minute h
  have ready := closable_left (t := beginClose n minute s) good taken fresh (beginClose_store n minute s) (by simp)
  unfold closeOnAir
  dsimp only
  split
  · exact settleClose_lawOf law .booking minute forOrder ready begun
  · exact holdClose_lawOf law minute ready begun

theorem leaveTimeline_lawOf {n : Fin 1024} (off : slotOnAir s.store.slots[n] = false) (h : lawOf Q g s) :
    lawOf Q g (leaveTimeline n s) := law.leave n off h

theorem closeMissed_lawOf (good : bookingsLawful s) {n : Fin 1024} (minute : Nat)
    (taken : s.store.slots[n].state ≠ .free) (fresh : n ∉ heldSlots s.store ++ closings (outstanding s))
    (off : slotOnAir s.store.slots[n] = false) (h : lawOf Q [] s) : lawOf Q [] (closeMissed n minute s) :=
  settleClose_lawOf law .missed minute false
    (closable_left (t := leaveTimeline n s) good taken fresh (leaveTimeline_store n s) (by simp))
    (leaveTimeline_lawOf law off h)

/-! ### The re-check of the ring -/

theorem makeRecheck_lawOf (h : lawOf Q g s) : lawOf Q g (makeRecheck s) :=
  submitNeutral_lawOf law.toBookLaw [.recheck] (by simp [neutralAccess])
    (lawOf_same law.toBookLaw h (alike_of ⟨rfl, rfl, rfl, rfl, rfl⟩) rfl rfl)

theorem countRecheck_lawOf (h : lawOf Q g s) : lawOf Q g (countRecheck s) := by
  unfold countRecheck
  split
  · exact lawOf_same law.toBookLaw h (alike_of ⟨rfl, rfl, rfl, rfl, rfl⟩) rfl rfl
  · exact makeRecheck_lawOf law h
  · exact h

theorem lastRecheck_lawOf (h : lawOf Q g s) : lawOf Q g (lastRecheck s) := by
  unfold lastRecheck
  split
  · exact makeRecheck_lawOf law h
  · exact h

theorem openRecheck_lawOf (after : Nat) (h : lawOf Q g s) : lawOf Q g (openRecheck after s) := by
  unfold openRecheck
  split
  · split
    · exact makeRecheck_lawOf law h
    · exact lawOf_same law.toBookLaw h (alike_of ⟨rfl, rfl, rfl, rfl, rfl⟩) rfl rfl
  · exact h

theorem releaseFirst_lawOf (h : lawOf Q [] s) : lawOf Q [] (releaseFirst s) := by
  unfold releaseFirst
  split
  · next first rest holds =>
    split
    · refine lastRecheck_lawOf law (countRecheck_lawOf law ?_)
      refine submit_lawOf law.toBookLaw _ (lawOf_cons law.toBookLaw ?_)
      rw [takeClose_outstanding]
      exact law.account _ (addClose_kept _ _) (law.release (s := s) holds h)
    · exact h
  · exact h

/-! ### Boundaries and the catch-up -/

theorem writes_lawOf (ws : List HostWrite) (h : lawOf Q g s) : lawOf Q g (submit (ws.map .write) s) :=
  submitNeutral_lawOf law.toBookLaw _ (fun a ha => by
    obtain ⟨w, -, rfl⟩ := List.mem_map.1 ha
    rfl) h

omit law in
/-- A slot that stays taken for its match. -/
theorem slotsAlike_slot (n : Fin 1024) {b : Slot} (free : b.state = .free ↔ s.store.slots[n].state = .free)
    (matched : b.matchNumber = s.store.slots[n].matchNumber) (store : t.store = (setSlot n b s).store)
    (accounts : t.accounts = s.accounts) : slotsAlike s t := by
  have slots : ∀ k : Fin 1024, t.store.slots[k] = if n = k then b else s.store.slots[k] := fun k => by
    rw [store]
    exact getFin_set s.store.slots n k b
  refine ⟨fun k => ?_, fun k => ?_, by rw [store]; rfl, accounts, fun d k hk => by rw [store] at hk; exact hk⟩
  · rw [slots]
    split
    · next same => rw [free, same]
    · exact Iff.rfl
  · rw [slots]
    split
    · next same => rw [matched, same]
    · rfl

theorem activate_lawOf (n : Fin 1024) (minute : Nat) (first : Stamp) (band : Option Band)
    (taken : s.store.slots[n].state ≠ .free) (h : lawOf Q g s) : lawOf Q g (activate n minute first band s) := by
  unfold activate handToAlarms
  refine writes_lawOf law [_, _] (moved_lawOf law h (slotsAlike_slot n
    (b := { s.store.slots[n] with state := .active, activation := some minute })
    ⟨fun e => absurd e (by simp), fun e => absurd e taken⟩ rfl ?_ ?_) ?_)
  · simp
  · simp
  · simp

theorem enterOverrun_lawOf {n : Fin 1024} (active : s.store.slots[n].state = .active) (h : lawOf Q g s) :
    lawOf Q g (enterOverrun n s) := by
  unfold enterOverrun
  refine writes_lawOf law [_] (shown_lawOf law n ⟨?_, ?_, rfl, rfl, rfl⟩ h)
  · rw [active]
    exact ⟨fun e => (by simp at e), fun e => (by simp at e)⟩
  · rw [slotOnAir, slotOnAir, active]

theorem boundaryHead_lawOf (good : bookingsLawful s) (minute : Nat) (counted : Bool) (d : Fin 64) (h : lawOf Q [] s) :
    lawOf Q [] (boundaryHead minute counted d s) := by
  unfold boundaryHead
  split
  · exact h
  · next n head =>
    have member := List.mem_of_head? head
    have closed := closeOnAir_lawOf law good minute counted false (member_taken good member) (member_fresh good member) h
    dsimp only
    split
    · unfold boundaryClose
      dsimp only
      split
      · exact countRecheck_lawOf law closed
      · exact closed
    · split
      · next phase => exact enterOverrun_lawOf law phase.1 h
      · exact h

theorem boundaryStart_lawOf (good : bookingsLawful s) (minute : Nat) (swapped : Bool) (d : Fin 64) (h : lawOf Q [] s) :
    lawOf Q [] (boundaryStart minute swapped d s) := by
  unfold boundaryStart
  split
  · exact h
  · next n head =>
    split
    · exact activate_lawOf law n minute _ _ (head_taken good head) h
    · exact h

theorem boundaryTimeline_lawOf (good : bookingsLawful s) (minute : Nat) (counted swapped : Bool) (d : Fin 64)
    (h : lawOf Q [] s) : lawOf Q [] (boundaryTimeline minute counted swapped d s) :=
  boundaryStart_lawOf law (boundaryHead_books minute counted d good) minute swapped d
    (boundaryHead_lawOf law good minute counted d h)

theorem storeTimelines_lawOf (good : bookingsLawful s) (taken : Bool) (minute : Nat) (counted swapped : Bool)
    (ports : List (Fin 64)) (h : lawOf Q [] s) : lawOf Q [] (storeTimelines taken minute counted swapped ports s) := by
  unfold storeTimelines
  split
  · exact (foldl_closed (P := fun t => bookingsLawful t ∧ lawOf Q [] t) (fun t d ht =>
      ⟨boundaryStart_books minute swapped d (boundaryHead_books minute counted d ht.1),
        boundaryTimeline_lawOf law ht.1 minute counted swapped d ht.2⟩) ports ⟨good, h⟩).2
  · exact h

theorem boundaryCounted_lawOf (good : bookingsLawful s) (minute swapAfter recheckAfter : Nat) (h : lawOf Q [] s) :
    lawOf Q [] (boundaryCounted minute swapAfter recheckAfter s) := by
  have opened := openRecheck_books recheckAfter good
  have first := storeTimelines_lawOf law opened (decide (s.link.run = .running)) minute true false
    ((List.finRange 64).take swapAfter) (openRecheck_lawOf law recheckAfter h)
  have firstGood := storeTimelines_books (decide (s.link.run = .running)) minute true false
    ((List.finRange 64).take swapAfter) opened
  exact lastRecheck_lawOf law (storeTimelines_lawOf law (books_same firstGood (by simp)) _ _ _ _ _
    (unseen_lawOf law first (by simp) (by simp)))

theorem boundaryUncounted_lawOf (good : bookingsLawful s) (minute recheckAfter : Nat) (h : lawOf Q [] s) :
    lawOf Q [] (boundaryUncounted minute recheckAfter s) :=
  lastRecheck_lawOf law (storeTimelines_lawOf law (openRecheck_books recheckAfter good) _ _ _ _ _
    (openRecheck_lawOf law recheckAfter h))

theorem catchUpCloses_lawOf (members : List (Fin 1024)) (good : bookingsLawful s) (d : Fin 64)
    (standing : ∀ n ∈ members, n ∈ s.store.timelines[d]) (once : members.Nodup) (h : lawOf Q [] s) :
    lawOf Q [] (catchUpCloses members s) := by
  induction members generalizing s with
  | nil => exact h
  | cons n rest ih =>
    obtain ⟨apart, rest_once⟩ := List.nodup_cons.1 once
    have member := standing n (by simp)
    have taken := member_taken good member
    have fresh := member_fresh good member
    have others : ∀ k ∈ rest, k ∈ (leftStore n s.store).timelines[d] := fun k hk =>
      left_member (standing k (List.mem_cons_of_mem _ hk)) fun e => apart (e ▸ hk)
    unfold catchUpCloses
    dsimp only
    split
    · split
      · refine ih (closeOnAir_books n _ true false good taken (by simp)) (fun k hk => ?_) rest_once
          (closeOnAir_lawOf law good _ true false taken fresh h)
        have timelines : (closeOnAir n (nowMinute s) true false s).store.timelines = (leftStore n s.store).timelines := by
          rw [closeOnAir, if_pos rfl, settleClose_timelines, beginClose_store]
        rw [timelines]
        exact others k hk
      · next off =>
        refine ih (closeMissed_books n _ good taken) (fun k hk => ?_) rest_once
          (closeMissed_lawOf law good _ taken fresh (by simpa using off) h)
        have timelines : (closeMissed n (nowMinute s) s).store.timelines = (leftStore n s.store).timelines := by
          rw [closeMissed, settleClose_timelines, leaveTimeline_store]
        rw [timelines]
        exact others k hk
    · exact h

theorem catchUpStart_lawOf (good : bookingsLawful s) (d : Fin 64) (h : lawOf Q [] s) : lawOf Q [] (catchUpStart d s) := by
  unfold catchUpStart
  split
  · exact h
  · next n head =>
    split
    · exact activate_lawOf law n _ _ _ (head_taken good head) h
    · exact h

theorem catchUpPhase_lawOf (d : Fin 64) (h : lawOf Q [] s) : lawOf Q [] (catchUpPhase d s) := by
  unfold catchUpPhase
  split
  · exact h
  · split
    · next phase => exact enterOverrun_lawOf law phase.1 h
    · exact h

theorem catchUp_lawOf (good : bookingsLawful s) (h : lawOf Q [] s) : lawOf Q [] (catchUp s) := by
  refine (foldl_closed (P := fun t => bookingsLawful t ∧ lawOf Q [] t) (fun t d ht => ?_) (List.finRange 64) ⟨good, h⟩).2
  have closed := catchUpCloses_books t.store.timelines[d] ht.1 d (fun _ hn => hn) (once ht.1.1 d)
  have closedLaw := catchUpCloses_lawOf law t.store.timelines[d] ht.1 d (fun _ hn => hn) (once ht.1.1 d) ht.2
  exact ⟨catchUpPhase_books d (catchUpStart_books d closed),
    catchUpPhase_lawOf law d (catchUpStart_lawOf law closed d closedLaw)⟩

theorem enterRunning_lawOf (good : bookingsLawful s) (h : lawOf Q [] s) : lawOf Q [] (enterRunning s) := by
  unfold enterRunning
  exact takeEntry_lawOf law.toBookLaw (catchUp_lawOf law (books_same good (by simp))
    (unseen_lawOf law h (by simp) (by simp)))

end

end Sys2Proof.Machine
end

section
/-! ### Ticks and the page under a law of the books -/

namespace Sys2Proof.Machine

section
variable {Q : List Access → State → Prop} (law : StoreLaw Q) {g : List Access} {s t : State}

theorem slotsAlike_store (store : t.store = s.store) (accounts : t.accounts = s.accounts) : slotsAlike s t :=
  ⟨fun n => by rw [store], fun n => by rw [store], by rw [store], accounts, fun d n hn => by rwa [store] at hn⟩

include law

/-- What moves rows or healths and then derives the source items anew. -/
theorem derived_lawOf (h : lawOf Q g s) (store : t.store = s.store) (accounts : t.accounts = s.accounts)
    (tickets : t.tickets = s.tickets) : lawOf Q g (deriveSources t) :=
  moved_lawOf law h (slotsAlike_store store accounts) tickets

theorem markPage_lawOf (h : lawOf Q g s) : lawOf Q g (markPage s) := unseen_lawOf law h (by simp) (by simp)

theorem healthChanged_lawOf (p : Fin 48) (m : Monitor) (h : lawOf Q g s) :
    lawOf Q g (healthChanged p (setMonitor p m s)) :=
  markPage_lawOf law (derived_lawOf law h (by simp) (by simp) (by simp))

omit law in
/-- A monitor that keeps its health. -/
theorem setMonitor_alike (p : Fin 48) {m : Monitor} (same : m.health = s.monitors[p].health) :
    alike s (setMonitor p m s) := by
  refine ⟨rfl, rfl, rfl, rfl, fun _ => rfl, fun q => ?_, fun _ _ => rfl⟩
  have value : (setMonitor p m s).monitors[q] = if p = q then m else s.monitors[q] := getFin_set s.monitors p q m
  rw [value]
  split
  · next e => rw [same, e]
  · rfl

theorem setMonitor_lawOf (p : Fin 48) {m : Monitor} (same : m.health = s.monitors[p].health) (h : lawOf Q g s) :
    lawOf Q g (setMonitor p m s) := same_lawOf law h (setMonitor_alike p same) rfl

theorem updateMonitor_lawOf (p : Fin 48) (m : Monitor) (h : lawOf Q g s) : lawOf Q g (updateMonitor p m s) := by
  unfold updateMonitor
  split
  · next same => exact setMonitor_lawOf law p same h
  · exact healthChanged_lawOf law p m h

theorem monitorTick_lawOf (p : Fin 48) (h : lawOf Q g s) : lawOf Q g (monitorTick p s) := by
  unfold monitorTick
  split
  · exact setMonitor_lawOf law p rfl h
  · exact updateMonitor_lawOf law p _ h

omit law in
/-- Rows may change in all but their current source. -/
theorem rows_alike (rows : ∀ d : Fin 64, t.rows[d].current = s.rows[d].current) (store : t.store = s.store)
    (accounts : t.accounts = s.accounts) (monitors : t.monitors = s.monitors) (alarm : t.alarm = s.alarm) : alike s t :=
  ⟨by rw [store], by rw [store], by rw [store], accounts, rows, fun p => by rw [monitors], fun i _ => by rw [alarm]⟩

/-- R76, R77: with a pending selection the source items are derived anew, and without one nothing changes. -/
theorem switchPoint_lawOf (inside : Bool) (h : lawOf Q g s) : lawOf Q g (switchPoint inside s) := by
  by_cases pending : ∃ d : Fin 64, s.rows[d].pending.isSome = true
  · rw [switchPoint_executed inside pending]
    have frame := switched_frame inside s
    exact markPage_lawOf law (derived_lawOf law h (by rw [frame]) (by rw [frame]) (by rw [frame]))
  · rw [switchPoint_idle inside fun d => by simpa using fun e => pending ⟨d, e⟩]
    exact h

theorem tickRows_lawOf (h : lawOf Q g s) : lawOf Q g (tickRows s) := by
  refine same_lawOf law h (rows_alike (fun d => ?_) rfl rfl rfl rfl) rfl
  have row : (tickRows s).rows[d] = tickRow (ownerOf d s).isSome s.rows[d] := build_getFin _ d
  rw [row]
  rfl

theorem crosspointTick_lawOf (h : lawOf Q g s) : lawOf Q g (crosspointTick s) := by
  unfold crosspointTick
  split
  · exact switchPoint_lawOf law false (tickRows_lawOf law h)
  · exact tickRows_lawOf law h

theorem setAhead_lawOf (ahead : Bool) (h : lawOf Q g s) : lawOf Q g { s with crosspointAhead := ahead } :=
  unseen_lawOf law h ⟨rfl, rfl, rfl, rfl, rfl⟩ rfl

theorem blockTick_lawOf (k : Fin 49) (h : lawOf Q g s) : lawOf Q g (blockTick k s) := by
  unfold blockTick crosspointBlock
  split
  · exact monitorTick_lawOf law _ h
  · split
    · exact setAhead_lawOf law false h
    · exact crosspointTick_lawOf law h

theorem takeTickEarly_lawOf (p : Fin 48) (h : lawOf Q g s) : lawOf Q g (takeTickEarly p s) :=
  updateMonitor_lawOf law p _ h

theorem blockAhead_lawOf (k : Fin 49) (h : lawOf Q g s) : lawOf Q g (blockAhead k s) := by
  unfold blockAhead
  split
  · split
    · exact h
    · exact takeTickEarly_lawOf law _ h
  · split
    · exact h
    · exact setAhead_lawOf law true (crosspointTick_lawOf law h)

theorem ticksAhead_lawOf (early : TickOrder) (h : lawOf Q g s) : lawOf Q g (ticksAhead early s) :=
  foldl_closed (fun _ k ht => blockAhead_lawOf law k ht) early h

theorem blocksTick_lawOf (order done : List (Fin 49)) (h : lawOf Q g s) : lawOf Q g (blocksTick order done s) := by
  induction order generalizing done s with
  | nil => exact h
  | cons k rest ih =>
    unfold blocksTick
    split
    · exact ih done h
    · exact ih (k :: done) (blockTick_lawOf law k h)

theorem countMeters_lawOf (e : EndedSecond) (h : lawOf Q g s) : lawOf Q g (countMeters e s) := by
  have held : heldSlots (countMeters e s).store = heldSlots s.store := by
    simp only [heldSlots, countMeters, List.map_map]
    rfl
  exact same_lawOf law h ⟨rfl, rfl, held, rfl, fun _ => rfl, fun _ => rfl, fun _ _ => rfl⟩ rfl

theorem handTick_lawOf (order : TickOrder) (e : EndedSecond) (h : lawOf Q g s) : lawOf Q g (handTick order e s) :=
  countMeters_lawOf law e (blocksTick_lawOf law _ _ h)

theorem owedTick_lawOf (order : TickOrder) (ended : BitVec 32) (h : lawOf Q g s) : lawOf Q g (owedTick order ended s) := by
  have handed := handTick_lawOf law order (owedSecond ended s) h
  unfold owedTick
  exact unseen_lawOf law handed (by simp) (by simp)

theorem settlePage_lawOf (h : lawOf Q g s) : lawOf Q g (settlePage s) := unseen_lawOf law h (by simp) (by simp)

theorem boundaryPage_lawOf (minute : BitVec 32) (h : lawOf Q g s) : lawOf Q g (boundaryPage minute s) :=
  unseen_lawOf law h (by simp) (by simp)

theorem setRollover_lawOf (r : Rollover) (h : lawOf Q g s) : lawOf Q g (setRollover r s) :=
  unseen_lawOf law h ⟨rfl, rfl, rfl, rfl, rfl⟩ rfl

theorem boundaryAfterTick_lawOf (good : bookingsLawful s) (minute : BitVec 32) (clockSet : Bool)
    (swapAfter recheckAfter : Nat) (h : lawOf Q [] s) :
    lawOf Q [] (boundaryAfterTick minute clockSet swapAfter recheckAfter s) :=
  boundaryPage_lawOf law minute (boundaryCounted_lawOf law
    (s := rollTime minute clockSet (setRollover .none s)) (books_same good (by simp)) _ _ _
    (unseen_lawOf law h (by simp) (by simp)))

theorem takeBoundary_lawOf (good : bookingsLawful s) (swapAfter recheckAfter : Nat) (h : lawOf Q [] s) :
    lawOf Q [] (takeBoundary swapAfter recheckAfter s) := by
  unfold takeBoundary
  split
  · exact boundaryAfterTick_lawOf law good _ _ _ _ h
  · split
    · exact boundaryUncounted_lawOf law (books_same good (by simp)) _ _ (unseen_lawOf law h (by simp) (by simp))
    · exact h
  all_goals exact h

theorem minuteBoundary_lawOf (good : bookingsLawful s) (early : TickOrder) (boundary : Bool) (swapAfter recheckAfter : Nat)
    (h : lawOf Q [] s) : lawOf Q [] (minuteBoundary early boundary swapAfter recheckAfter s) := by
  have ahead : bookingsLawful (if tickAwaited s.clock then ticksAhead early s else s) ∧
      lawOf Q [] (if tickAwaited s.clock then ticksAhead early s else s) := by
    split
    · exact ⟨books_same good (by simp), ticksAhead_lawOf law early h⟩
    · exact ⟨good, h⟩
  unfold minuteBoundary
  dsimp only
  split
  · exact takeBoundary_lawOf law ahead.1 _ _ ahead.2
  · exact ahead.2

theorem settleBoundary_lawOf (good : bookingsLawful s) (h : lawOf Q [] s) : lawOf Q [] (settleBoundary s) := by
  unfold settleBoundary
  split
  · exact boundaryAfterTick_lawOf law good _ _ _ _ h
  all_goals exact h

theorem completeSecond_lawOf (ahead : Bool) (h : lawOf Q g s) : lawOf Q g (completeSecond ahead s) :=
  unseen_lawOf law h (by simp) (by simp)

theorem secondTick_lawOf (good : bookingsLawful s) (order : TickOrder) (h : lawOf Q [] s) :
    lawOf Q [] (secondTick order s) := by
  have settled := settleBoundary_lawOf law good h
  unfold secondTick
  dsimp only
  split
  · exact boundaryPage_lawOf law _ (setRollover_lawOf law _ (owedTick_lawOf law order _ settled))
  · exact boundaryPage_lawOf law _ (setRollover_lawOf law _ settled)
  all_goals exact completeSecond_lawOf law _ (handTick_lawOf law order _ settled)

theorem setClock_lawOf (c : Clock) (h : lawOf Q g s) : lawOf Q g { s with clock := c } :=
  unseen_lawOf law h ⟨rfl, rfl, rfl, rfl, rfl⟩ rfl

theorem clockTick_lawOf (good : bookingsLawful s) (c : Clock) (order : TickOrder) (h : lawOf Q [] s) :
    lawOf Q [] (secondTick order { s with clock := c }) :=
  secondTick_lawOf law (books_same (t := { s with clock := c }) good ⟨rfl, rfl, rfl⟩) order (setClock_lawOf law c h)

theorem changeReference_lawOf (c : Clock) (h : lawOf Q g s) : lawOf Q g (changeReference c s) := by
  refine same_lawOf law (s := latch .clock { s with clock := c }) ?_ (setSeverity_alike (i := 48) (by decide) _ _) (by simp)
  exact unseen_lawOf law (setClock_lawOf law c h) (by simp) (by simp)

theorem secrefPulse_lawOf (good : bookingsLawful s) (instant : Nat) (order : TickOrder) (h : lawOf Q [] s) :
    lawOf Q [] (secrefPulse instant order s) := by
  unfold secrefPulse pulseFreeRun
  split
  · exact clockTick_lawOf law good _ order h
  · dsimp only
    split
    · exact setClock_lawOf law _ h
    · exact secondTick_lawOf law (changeReference_books _ good) _ (changeReference_lawOf law _ h)

theorem secrefTimeout_lawOf (good : bookingsLawful s) (order : TickOrder) (h : lawOf Q [] s) :
    lawOf Q [] (secrefTimeout order s) := by
  unfold secrefTimeout
  split
  · exact secondTick_lawOf law (changeReference_books _ good) _ (changeReference_lawOf law _ h)
  · exact h

theorem ownTick_lawOf (good : bookingsLawful s) (order : TickOrder) (h : lawOf Q [] s) : lawOf Q [] (ownTick order s) := by
  unfold ownTick
  split
  · exact clockTick_lawOf law good _ order h
  all_goals exact h

theorem pulseSwitch_lawOf (h : lawOf Q g s) : lawOf Q g (pulseSwitch s) := by
  have switched := switchPoint_lawOf law true h
  unfold pulseSwitch
  dsimp only
  split
  · exact unseen_lawOf law switched ⟨rfl, rfl, rfl, rfl, rfl⟩ rfl
  · exact switched

theorem framerefPulse_lawOf (instant : Nat) (h : lawOf Q g s) : lawOf Q g (framerefPulse instant s) := by
  unfold framerefPulse
  dsimp only
  split
  · exact pulseSwitch_lawOf law (setClock_lawOf law _ h)
  · exact pulseSwitch_lawOf law (changeReference_lawOf law _ h)

theorem framerefTimeout_lawOf (h : lawOf Q g s) : lawOf Q g (framerefTimeout s) := by
  unfold framerefTimeout
  split
  · exact changeReference_lawOf law _ h
  · exact h

theorem relockTimeout_lawOf (h : lawOf Q g s) : lawOf Q g (relockTimeout s) := by
  unfold relockTimeout
  split
  · exact setClock_lawOf law _ h
  · exact h

theorem holdOffReached_lawOf (p : Fin 48) (h : lawOf Q g s) : lawOf Q g (holdOffReached p s) := by
  unfold holdOffReached
  split
  · exact takeTickEarly_lawOf law p h
  · exact h

theorem restoreExpired_lawOf (p : Fin 48) (h : lawOf Q g s) : lawOf Q g (restoreExpired p s) := by
  unfold restoreExpired
  split
  · exact takeTickEarly_lawOf law p h
  · exact h

/-! ### Commands of the host -/

theorem startCommand_lawOf (good : bookingsLawful s) (h : lawOf Q [] s) : lawOf Q [] (startCommand s) := by
  unfold startCommand
  split
  · exact unseen_lawOf law h (by simp) (by simp)
  · unfold startHeld
    split
    · exact enterRunning_lawOf law (books_same good (by simp)) (unseen_lawOf law h (by simp) (by simp))
    · exact unseen_lawOf law h (by simp) (by simp)
  · unfold startRunning
    split
    · exact takeEntry_lawOf law.toBookLaw (unseen_lawOf law h (by simp) (by simp))
    · exact h

theorem haltCommand_lawOf (h : lawOf Q g s) : lawOf Q g (haltCommand s) := unseen_lawOf law h (by simp) (by simp)

theorem busFaultAt_lawOf (after : Nat) (h : lawOf Q g s) : lawOf Q g (busFaultAt after s) := by
  unfold busFaultAt
  split
  · exact takeBusFault_lawOf law.toBookLaw h
  · split
    · exact unseen_lawOf law h ⟨rfl, rfl, rfl, rfl, rfl⟩ rfl
    · exact h

theorem headerReadComplete_lawOf (bytes : Vector Byte 80) (h : lawOf Q g s) : lawOf Q g (headerReadComplete bytes s) := by
  unfold headerReadComplete headerTaken
  split
  · split
    · exact unseen_lawOf law h (by simp) (by simp)
    · exact sendWrite_lawOf law.toBookLaw _ (lawOf_same law.toBookLaw h
        ⟨rfl, rfl, rfl, rfl, fun _ => rfl, fun _ => rfl, fun _ _ => rfl⟩ rfl rfl)
  · exact h

theorem identityWriteComplete_lawOf (good : bookingsLawful s) (h : lawOf Q [] s) :
    lawOf Q [] (identityWriteComplete s) := by
  unfold identityWriteComplete
  split
  · exact enterRunning_lawOf law (books_same good (by simp)) (unseen_lawOf law h (by simp) (by simp))
  · exact h

theorem entryRead_lawOf (bytes : Vector Byte 24) (h : lawOf Q g s) : lawOf Q g (entryRead bytes s) := by
  unfold entryRead examineEntry
  split
  · (repeat' split) <;> first | exact report_lawOf law.toBookLaw _ _ _ h | exact unseen_lawOf law h (by simp) (by simp)
  · exact h

theorem orderEndWrite_lawOf (value : Word) (h : lawOf Q g s) : lawOf Q g (orderEndWrite value s) :=
  takeEntry_lawOf law.toBookLaw (unseen_lawOf law h ⟨rfl, rfl, rfl, rfl, rfl⟩ rfl)

theorem pageComplete_lawOf (h : lawOf Q g s) : lawOf Q g (pageComplete s) := by
  unfold pageComplete
  split
  · next ws _ =>
    have written := issueAll_lawOf law.toBookLaw ws h
    dsimp only
    split
    · exact unseen_lawOf law written (by simp) (by simp)
    · exact written
  · exact h

theorem abandonPage_lawOf (issued : Nat) (h : lawOf Q g s) : lawOf Q g (abandonPage issued s) := by
  unfold abandonPage
  split
  · next ws _ =>
    have written := issueAll_lawOf law.toBookLaw (ws.take (min issued (ws.length - 1))) h
    exact unseen_lawOf law written (by simp) (by simp)
  · exact h

/-! ### The alarm registers -/

omit law in
/-- An alarm state with the same severities. -/
theorem setAlarm_alike {a : Alarm} (same : ∀ i : Fin 51, a.items[i].severity = s.alarm.items[i].severity) :
    alike s (setAlarm a s) := by
  refine ⟨by simp, by simp, by simp, by simp, by simp, by simp, fun i _ => ?_⟩
  have alarm : (setAlarm a s).alarm = a := by simp [setAlarm_eq, withAlarm, withFlags]
  rw [alarm, same]

omit law in
theorem acknowledged_severity (ack push : Bool) (item : BitVec 6) (a : Alarm) (i : Fin 51) :
    (acknowledged ack push item a).items[i].severity = a.items[i].severity := by
  unfold acknowledged
  split
  · next j _ =>
    have value : (ackItem j push a).items[i] =
        if j = i then { severity := a.items[j].severity, acked := a.items[j].severity } else a.items[i] :=
      getFin_set a.items j i _
    rw [value]
    split
    · next e => rw [e]
    · rfl
  · rfl

theorem nextAlarmWrite_lawOf (ack push pop : Bool) (item : BitVec 6) (h : lawOf Q g s) :
    lawOf Q g (nextAlarmWrite ack push pop item s) := by
  refine same_lawOf law h (setAlarm_alike fun i => ?_) (by simp)
  unfold nextAlarmWritten
  split
  · exact acknowledged_severity ack push item s.alarm i
  · exact acknowledged_severity ack push item s.alarm i

theorem modeWrite_lawOf (mode : BitVec 2) (spotlight : BitVec 6) (h : lawOf Q g s) :
    lawOf Q g (modeWrite mode spotlight s) :=
  same_lawOf law h (setAlarm_alike fun _ => rfl) (by simp)

end

end Sys2Proof.Machine
end

section
/-! ### Orders and resets under a law of the books -/

namespace Sys2Proof.Machine

section
variable {Q : List Access → State → Prop} (law : StoreLaw Q) {g : List Access} {s t : State}
include law

theorem finish_lawOf (outcome : OutcomeCode) (result : List Byte) (h : lawOf Q g s) :
    lawOf Q g (finishOrder outcome result s) := finishOrder_lawOf law.toBookLaw outcome result h

theorem queued_lawOf (h : lawOf Q g s) : lawOf Q g (setStage .queued s) := setStage_lawOf law.toBookLaw _ h

theorem submitReport_lawOf (ws : List HostWrite) (outcome : OutcomeCode) (result : List Byte) (h : lawOf Q g s) :
    lawOf Q g (submit (ws.map .write ++ [.report outcome result]) s) :=
  submitNeutral_lawOf law.toBookLaw _ (fun a ha => by
    rcases List.mem_append.1 ha with ha | ha
    · obtain ⟨w, -, rfl⟩ := List.mem_map.1 ha
      rfl
    · rw [List.mem_singleton.1 ha]
      rfl) h

/-! ### Orders of the booking store -/

theorem bookOrder_lawOf (o : Order) (h : lawOf Q g s) : lawOf Q g (bookOrder o s) := by
  unfold bookOrder
  split
  · exact finish_lawOf law _ _ h
  · next n _ =>
    split
    · exact h
    · split
      · exact submitNeutral_lawOf law.toBookLaw [.recordRead n] (by simp [neutralAccess]) (queued_lawOf law h)
      · exact finish_lawOf law _ _ h

omit law in
/-- The close of a slot that no close is under way for may begin. -/
theorem fresh_of_closing {n : Fin 1024} (h : ¬closing n s = true) :
    n ∉ heldSlots s.store ++ closings (outstanding s) := (closing_iff n s).1 (by simpa using h)

theorem cancelAccepted_lawOf (good : bookingsLawful s) {n : Fin 1024} (accepted : s.store.slots[n].state = .accepted)
    (fresh : n ∉ heldSlots s.store ++ closings (outstanding s)) (h : lawOf Q [] s) : lawOf Q [] (cancelAccepted n s) := by
  have taken : s.store.slots[n].state ≠ .free := by rw [accepted]; simp
  have off : slotOnAir s.store.slots[n] = false := by rw [slotOnAir, accepted]
  have left := leaveTimeline_lawOf law off h
  unfold cancelAccepted
  dsimp only
  split
  · exact settleClose_lawOf law _ _ _ (closable_left (t := setMeter n _ (leaveTimeline n s)) good taken fresh
      (leaveTimeline_store n s) (by simp)) (unseen_lawOf law left (by simp) (by simp))
  · exact settleClose_lawOf law _ _ _ (closable_left (t := leaveTimeline n s) good taken fresh
      (leaveTimeline_store n s) (by simp)) left

theorem cancelOrder_lawOf (good : bookingsLawful s) {o o' : Order} (unit : s.orders.unit = .acting o' .dispatched)
    (h : lawOf Q [] s) : lawOf Q [] (cancelOrder o s) := by
  have none := none_of_unit good (by simp [unit])
  have queuedGood := setStage_books .queued good none
  have queued := queued_lawOf law h
  unfold cancelOrder
  split
  · exact finish_lawOf law _ _ h
  · next n _ =>
    split
    · exact h
    · next idle =>
      have fresh : n ∉ heldSlots (setStage .queued s).store ++ closings (outstanding (setStage .queued s)) := by
        rw [setStage_outstanding]
        simpa only [setStage_keeps] using fresh_of_closing idle
      have slot : (setStage .queued s).store.slots[n] = s.store.slots[n] := by simp only [setStage_keeps]
      split
      · exact finish_lawOf law _ _ h
      · next phase => exact cancelAccepted_lawOf law queuedGood (by rw [slot, phase]) fresh queued
      · next phase =>
        exact closeOnAir_lawOf law queuedGood _ true true (by rw [slot, phase]; simp) fresh queued
      · next phase =>
        exact closeOnAir_lawOf law queuedGood _ true true (by rw [slot, phase]; simp) fresh queued

theorem grantExtension_lawOf (n : Fin 1024) (minutes : Nat) (h : lawOf Q g s) : lawOf Q g (grantExtension n minutes s) := by
  unfold grantExtension
  dsimp only
  split
  · exact finish_lawOf law _ _ h
  · have slot : (setStage .queued s).store.slots[n] = s.store.slots[n] := by simp only [setStage_keeps]
    refine submitReport_lawOf law [_] _ _ (shown_lawOf law n ?_ (queued_lawOf law h))
    rw [slot]
    exact ⟨Iff.rfl, rfl, rfl, rfl, rfl⟩

theorem extendOrder_lawOf (o : Order) (h : lawOf Q g s) : lawOf Q g (extendOrder o s) := by
  unfold extendOrder
  split
  · exact finish_lawOf law _ _ h
  · split
    · exact finish_lawOf law _ _ h
    · split
      · exact h
      · split
        · exact finish_lawOf law _ _ h
        · exact grantExtension_lawOf law _ _ h

/-! ### Orders of the ports -/

theorem request_lawOf (d : Fin 64) (target : Source) (cause : Cause) (h : lawOf Q g s) :
    lawOf Q g (request d target cause s) := by
  refine same_lawOf law h (rows_alike (fun k => ?_) (by simp) (by simp) (by simp) (by simp)) (by simp)
  have row : (request d target cause s).rows[k] = if d = k then requestRow target cause s.rows[d] else s.rows[k] :=
    getFin_set s.rows d k _
  rw [row]
  split
  · next e => rw [← e]; rfl
  · rfl

theorem applyProtection_lawOf (n : Fin 1024) (h : lawOf Q g s) : lawOf Q g (applyProtection n s) := by
  unfold applyProtection
  dsimp only
  split
  · exact h
  · exact request_lawOf law _ _ _ h

theorem switchOrder_lawOf (o : Order) (h : lawOf Q g s) : lawOf Q g (switchOrder o s) := by
  unfold switchOrder lodgeSwitch
  split
  · split
    · exact finish_lawOf law _ _ h
    · exact finish_lawOf law _ _ (request_lawOf law _ _ _ h)
  all_goals exact finish_lawOf law _ _ h

theorem storeLegMode_lawOf (n : Fin 1024) (mode : LegMode) (h : lawOf Q g s) : lawOf Q g (storeLegMode n mode s) := by
  have stored := shown_lawOf law n (b := { s.store.slots[n] with legMode := mode }) ⟨Iff.rfl, rfl, rfl, rfl, rfl⟩ h
  unfold storeLegMode
  refine finish_lawOf law _ _ ?_
  split
  · exact applyProtection_lawOf law n stored
  · exact stored

theorem setLegOrder_lawOf (o : Order) (h : lawOf Q g s) : lawOf Q g (setLegOrder o s) := by
  unfold setLegOrder
  split
  · exact finish_lawOf law _ _ h
  · split
    · exact finish_lawOf law _ _ h
    · split
      · exact h
      · split
        · exact finish_lawOf law _ _ h
        · split
          · exact finish_lawOf law _ _ h
          · exact storeLegMode_lawOf law _ _ h

theorem applySetPort_lawOf (p : Fin 48) (o : Order) (h : lawOf Q g s) : lawOf Q g (applySetPort p o s) :=
  finish_lawOf law _ _ (updateMonitor_lawOf law p _ h)

theorem setPortOrder_lawOf (o : Order) (h : lawOf Q g s) : lawOf Q g (setPortOrder o s) := by
  unfold setPortOrder
  split
  · exact finish_lawOf law _ _ h
  · split
    · split
      · exact applySetPort_lawOf law _ _ h
      · exact finish_lawOf law _ _ h
    · exact applySetPort_lawOf law _ _ h

theorem readPortOrder_lawOf (o : Order) (h : lawOf Q g s) : lawOf Q g (readPortOrder o s) := by
  unfold readPortOrder
  split
  · exact finish_lawOf law _ _ h
  · next p _ =>
    refine finish_lawOf law _ _ ?_
    split
    · exact h
    · exact setMonitor_lawOf law p rfl h

/-! ### Orders of the accounts, the tariff and the clock -/

theorem loadTariffOrder_lawOf (o : Order) (h : lawOf Q g s) : lawOf Q g (loadTariffOrder o s) := by
  unfold loadTariffOrder readSegment
  split
  · exact finish_lawOf law _ _ h
  · split
    · exact finish_lawOf law _ _ h
    · split
      · exact setStage_lawOf law.toBookLaw _ (issueRead_lawOf law.toBookLaw _ _ h)
      · exact setStage_lawOf law.toBookLaw _ h

theorem tariffSegmentRead_lawOf (bytes : Vector Byte 240) (h : lawOf Q g s) : lawOf Q g (tariffSegmentRead bytes s) := by
  unfold tariffSegmentRead segmentTaken
  split
  · split
    · exact finish_lawOf law _ _ h
    · exact finish_lawOf law _ _ (unseen_lawOf law h (by simp) (by simp))
  all_goals exact h

theorem latchAccountOrder_lawOf (o : Order) (h : lawOf Q g s) : lawOf Q g (latchAccountOrder o s) := by
  unfold latchAccountOrder
  split
  · exact h
  · split
    · exact finish_lawOf law _ _ h
    · exact finish_lawOf law _ _ h

theorem closeMatchOrder_lawOf (good : bookingsLawful s) {o o' : Order} (unit : s.orders.unit = .acting o' .dispatched)
    (h : lawOf Q [] s) : lawOf Q [] (closeMatchOrder o s) := by
  have none := none_of_unit good (by simp [unit])
  unfold closeMatchOrder
  split
  · exact h
  · split
    · exact finish_lawOf law _ _ h
    · next k account =>
      split
      · exact finish_lawOf law _ _ h
      · next count =>
        refine submit_lawOf law.toBookLaw [_] (lawOf_cons law.toBookLaw ?_)
        have totals : noTotals (outstanding (setStage .queued s) ++ []) :=
          noTotals_of_count (by rw [List.append_nil, setStage_outstanding]; exact none)
        have accounts : (setStage .queued s).accounts = s.accounts := by simp
        refine law.total _ ?_ ?_ totals (queued_lawOf law h)
        · rw [accounts]
          exact (accountOf_some account).1
        · rw [accounts]
          exact Nat.eq_zero_of_not_pos count

theorem setClockOrder_lawOf (o : Order) (h : lawOf Q g s) : lawOf Q g (setClockOrder o s) := by
  unfold setClockOrder
  split
  · exact h
  · split
    · exact finish_lawOf law _ _ h
    · exact finish_lawOf law _ _ (unseen_lawOf law h (by simp) (by simp))

theorem ownerTakes_lawOf (good : bookingsLawful s) {o o' : Order} (unit : s.orders.unit = .acting o' .dispatched)
    (h : lawOf Q [] s) : lawOf Q [] (ownerTakes o s) := by
  unfold ownerTakes
  split
  · exact bookOrder_lawOf law o h
  · exact cancelOrder_lawOf law good unit h
  · exact extendOrder_lawOf law o h
  · exact switchOrder_lawOf law o h
  · exact setLegOrder_lawOf law o h
  · exact setPortOrder_lawOf law o h
  · exact readPortOrder_lawOf law o h
  · exact loadTariffOrder_lawOf law o h
  · exact latchAccountOrder_lawOf law o h
  · exact closeMatchOrder_lawOf law good unit h
  · exact setClockOrder_lawOf law o h

/-! ### BOOK -/

/-- R51: the record that passes its checks fills a FREE slot, which stands in no timeline. -/
theorem bookFromRecord_lawOf (n : Fin 1024) (r : BookRecord) (store : storeLaw s.store (heldSlots s.store ++
      closings (outstanding s ++ g))) (none : (outstanding s ++ g).countP orderAccess = 0)
    (free : s.store.slots[n].state = .free) (fresh : n ∉ heldSlots s.store ++ closings (outstanding s ++ g))
    (h : lawOf Q g s) : lawOf Q g (bookFromRecord n r s) := by
  unfold bookFromRecord
  split
  · exact submitReport_lawOf law [] _ _ h
  · split
    · exact submitReport_lawOf law _ _ _ h
    · next checks =>
      have out : outstanding (acceptBooking n (slotOfRecord r) s) = outstanding s := by simp [outstanding]
      have left : ∀ d : Fin 64, n ∉ s.store.timelines[d] := fun d member => ((store.1 d n).1 member).1 free
      refine submitReport_lawOf law _ _ _ ?_
      rw [lawOf, out]
      exact law.accept free fresh left (noTotals_of_count none) checks h

theorem recordTaken_lawOf {n : Fin 1024} (r : BookRecord) (good : Sys2Proof.Machine.law g s)
    (flight : s.tickets.inFlight = some (.recordRead n)) (h : lawOf Q g s) :
    lawOf Q g (bookFromRecord n r (setInFlight none s)) := by
  obtain ⟨answered, none, -, free, fresh⟩ := record_facts good flight
  exact bookFromRecord_lawOf law n r answered.1 none free fresh
    (lawOf_tail law.toBookLaw (answered_lawOf law.toBookLaw h flight))

theorem bookRecordRead_lawOf (bytes : Vector Byte 20) (good : bookingsLawful s) (h : lawOf Q [] s) :
    lawOf Q [] (bookRecordRead bytes s) := by
  unfold bookRecordRead
  split
  · next n flight => exact recordTaken_lawOf law _ ((bookings_law s).1 good).1 flight h
  all_goals exact h

/-! ### The soft reset -/

theorem dropAccess_lawOf {a : Access} (h : lawOf Q (a :: g) s) : lawOf Q g (dropAccess a s) := by
  have view := dropAccess_view a s
  simp only [runView, Prod.mk.injEq] at view
  obtain ⟨-, -, -, -, -, -, flight, waiting, -⟩ := view
  have out : outstanding (dropAccess a s) = outstanding s := by rw [outstanding, outstanding, flight, waiting]
  rw [lawOf, out]
  exact dropAccess_lawQ law.toBookLaw a (lawOf_head law.toBookLaw h)

/-- R14: the access in flight is completed. -/
theorem completeInFlight_lawOf (cut : CutOff) (good : Sys2Proof.Machine.law g s) (h : lawOf Q g s) :
    lawOf Q g (completeInFlight cut s) := by
  have answered : ∀ {a : Access}, s.tickets.inFlight = some a → lawOf Q (a :: g) (setInFlight none s) :=
    fun flight => answered_lawOf law.toBookLaw h flight
  unfold completeInFlight
  split
  · next r flight =>
    split
    · exact raiseRead_lawOf law.toBookLaw _ h flight
    · exact dropAccess_lawOf law (lawOf_cons law.toBookLaw (law.begun (.raise r) (lawOf_head law.toBookLaw (answered flight))))
  · next flight => exact recordTaken_lawOf law _ good flight h
  · next k minute flight =>
    split
    · exact totalRead_lawOf law.toBookLaw _ h flight
    · have written : lawOf Q (.totalWrite k :: g) (raiseNumber (setInFlight none s)) :=
        raiseNumber_lawOf law.toBookLaw
          (lawOf_cons law.toBookLaw (law.totalBegun k minute (lawOf_head law.toBookLaw (answered flight))))
      exact dropAccess_lawOf law written
  · next flight => exact dropAccess_lawOf law (answered flight)
  · next flight => exact dropAccess_lawOf law (answered flight)
  · next flight =>
    split
    · exact unblockRing_lawOf law.toBookLaw (lawOf_tail law.toBookLaw (answered flight))
    · exact lawOf_tail law.toBookLaw (answered flight)
  · next flight => exact lawOf_tail law.toBookLaw (answered flight)
  · next flight => exact lawOf_tail law.toBookLaw (answered flight)
  · exact h

theorem setGate_lawOf (gate : Gate) (h : lawOf Q g s) : lawOf Q g (setGate gate s) :=
  unseen_lawOf law h ⟨rfl, rfl, rfl, rfl, rfl⟩ rfl

theorem gateNext_lawOf (a : Access) (h : lawOf Q g s) : lawOf Q g (gateNext a s) := by
  unfold gateNext
  split
  · exact h
  · exact setGate_lawOf law _ h

theorem completeNext_lawOf (cut : CutOff) (a : Access) (good : Sys2Proof.Machine.law (a :: g) s) (idle : quiet s)
    (h : lawOf Q (a :: g) s) : lawOf Q g (completeNext cut a s) := by
  have open_ := law_stays good (gateNext_stays a s)
  have idleOpen := quiet_kept idle (kept_of_stays (gateNext_stays a s))
  exact completeInFlight_lawOf law cut (beginAccess_law a open_ idleOpen).1
    (beginAccess_lawOf law.toBookLaw a (gateNext_lawOf law a h) idleOpen)

theorem completeRest_lawOf (cut : CutOff) (l : List Access) (good : Sys2Proof.Machine.law l s) (idle : quiet s)
    (h : lawOf Q l s) : lawOf Q [] (l.foldl (fun t a => completeNext cut a t) s) := by
  induction l generalizing s with
  | nil => exact h
  | cons a l ih =>
    obtain ⟨next, idleNext⟩ := completeNext_law cut a good idle
    exact ih next idleNext (completeNext_lawOf law cut a good idle h)

theorem completeAccesses_lawOf (cut : CutOff) (good : bookingsLawful s) (h : lawOf Q [] s) :
    lawOf Q [] (completeAccesses cut s) := by
  obtain ⟨whole, -⟩ := (bookings_law s).1 good
  have aside : Sys2Proof.Machine.law s.tickets.waiting (setWaiting [] s) :=
    law_perm whole rfl rfl (fun c => ⟨c.1, c.2.1, rfl⟩) (by simp [outstanding, setWaiting])
  have asideLaw : lawOf Q s.tickets.waiting (setWaiting [] s) := by
    have put := setWaiting_lawOf law.toBookLaw h
    rwa [List.append_nil] at put
  have gated := law_stays aside (setGate_stays
    (.muteAfter (wholeTicket cut cut.accessIssued (s.tickets.inFlight.any ticketAccess))) _)
  obtain ⟨first, idle⟩ := completeInFlight_law cut gated (by simp [setGate, setWaiting])
  exact completeRest_lawOf law cut _ first idle (completeInFlight_lawOf law cut gated (setGate_lawOf law _ asideLaw))

theorem completeTick_lawOf (cut : CutOff) (h : lawOf Q g s) : lawOf Q g (completeTick cut s) := by
  unfold completeTick
  split
  · split
    · exact h
    · exact setRollover_lawOf law _ (owedTick_lawOf law _ _ h)
  all_goals exact h

/-- Every close that the store holds may go on to its end. -/
theorem releaseHolds_law {L : List Access} (holds : List Hold) (same : s.store.holds = holds) (h : Q L s) :
    ∃ M : List Access, List.Forall₂ (fun h a => closingSlot a = some h.slot) holds M ∧
      Q (M ++ L) { s with store := { s.store with holds := [] } } := by
  induction holds generalizing L s with
  | nil => exact ⟨[], .nil, law.same (s := s) ⟨rfl, rfl, by rw [heldSlots, heldSlots, same], rfl, fun _ => rfl, fun _ => rfl,
      fun _ _ => rfl⟩ h⟩
  | cons first rest ih =>
    obtain ⟨M, closes, all⟩ := ih (s := { s with store := { s.store with holds := rest } }) rfl (law.release same h)
    refine ⟨.raise (closeRaise .booking first.slot first.closeMinute false s) :: M, .cons rfl closes, law.sub ?_ all⟩
    exact (List.perm_middle (l₁ := M) (l₂ := L)).symm.subperm

/-- A close that the store held ends inside the part. -/
theorem completeHold_lawQ {a : Access} {L : List Access} (hold : Hold) (slot : closingSlot a = some hold.slot)
    (h : Q (a :: L) s) : Q L (completeHold hold s) := by
  unfold completeHold closeInside
  have lost := loseTicket_law law.toBookLaw (some (closeRaise .booking hold.slot hold.closeMinute false s).ticket.matchNumber)
    (raiseNumber_law law.toBookLaw (law.account
      (closeRaise .booking hold.slot hold.closeMinute false s).ticket.matchNumber (addClose_kept
        (closeRaise .booking hold.slot hold.closeMinute false s).ticket.charge
        (closeRaise .booking hold.slot hold.closeMinute false s).ticket.outage) h))
  refine law.endClose (.inr (.inr ⟨slot, ?_⟩)) lost
  have store : (loseTicket (some (closeRaise .booking hold.slot hold.closeMinute false s).ticket.matchNumber) (raiseNumber
      (takeClose (closeRaise .booking hold.slot hold.closeMinute false s) s))).store = s.store := by simp
  exact congrArg (fun st : Store => st.slots[hold.slot].matchNumber) store.symm

theorem completeAll_lawQ {holds : List Hold} {M : List Access}
    (closes : List.Forall₂ (fun h a => closingSlot a = some h.slot) holds M) {L : List Access} (h : Q (M ++ L) s) :
    Q L (holds.foldl (fun t k => completeHold k t) s) := by
  induction closes generalizing s with
  | nil => exact h
  | cons slot _ ih => exact ih (completeHold_lawQ law _ slot h)

theorem completeHolds_lawOf (idle : quiet s) (still : quiet (completeHolds s)) (h : lawOf Q [] s) :
    lawOf Q [] (completeHolds s) := by
  have none : ∀ {t : State}, quiet t → outstanding t = [] := fun q => by rw [outstanding, q.1, q.2]; rfl
  rw [lawOf, none idle] at h
  rw [lawOf, none still]
  obtain ⟨M, closes, all⟩ := releaseHolds_law law s.store.holds rfl h
  exact completeAll_lawQ law closes all

theorem completeDispatched_lawOf (cut : CutOff) (good : bookingsLawful s) (h : lawOf Q [] s) :
    lawOf Q [] (completeDispatched cut s) := by
  unfold completeDispatched
  split
  · next o unit =>
    have gate := setGate_stays (.muteAfter (wholeTicket cut cut.orderIssued (ticketOrder o))) s
    have taken := ownerTakes_books (o := o) (o' := o) (books_stays good gate) unit
    exact completeInFlight_lawOf law cut ((bookings_law _).1 taken).1
      (ownerTakes_lawOf law (o := o) (o' := o) (books_stays good gate) unit (setGate_lawOf law _ h))
  all_goals exact h

theorem completeInside_lawOf (cut : CutOff) (good : bookingsLawful s) (h : lawOf Q [] s) :
    lawOf Q [] (completeInside cut s) := by
  obtain ⟨accessGood, accessIdle⟩ := completeAccesses_books cut good
  obtain ⟨tickGood, tickIdle⟩ := completeTick_books cut accessGood accessIdle
  obtain ⟨holdGood, holdIdle⟩ := completeHolds_books tickGood tickIdle
  have held := completeHolds_lawOf law tickIdle holdIdle (completeTick_lawOf law cut (completeAccesses_lawOf law cut good h))
  unfold completeInside completeOrder
  generalize completeHolds (completeTick cut (completeAccesses cut s)) = t at holdGood holdIdle held
  have gate := setGate_stays (.muteAfter cut.orderIssued) t
  have gateGood := books_stays holdGood gate
  have gateLaw := setGate_lawOf law (.muteAfter cut.orderIssued) held
  have entered : bookingsLawful (completeEntry cut (setGate (.muteAfter cut.orderIssued) t)) ∧
      lawOf Q [] (completeEntry cut (setGate (.muteAfter cut.orderIssued) t)) := by
    unfold completeEntry
    split
    · exact ⟨entryRead_books _ gateGood, entryRead_lawOf law _ gateLaw⟩
    · exact ⟨gateGood, gateLaw⟩
  obtain ⟨entryGood, entryLaw⟩ := entered
  have dispatched := completeDispatched_lawOf law cut entryGood entryLaw
  unfold completeSegment
  split
  · exact tariffSegmentRead_lawOf law _ dispatched
  · exact dispatched

theorem softReset_lawOf (cut : CutOff) (good : bookingsLawful s) (h : lawOf Q [] s) : lawOf Q [] (softReset cut s) := by
  have inside := completeInside_lawOf law cut (abandonPage_books cut.pageIssued good) (abandonPage_lawOf law cut.pageIssued h)
  unfold softReset
  generalize completeInside cut (abandonPage cut.pageIssued s) = t at inside
  have soft : lawOf Q [] (softState t) := lawOf_same law.toBookLaw inside (alike_of ⟨rfl, rfl, rfl, rfl, rfl⟩) rfl rfl
  have flags : lawOf Q [] (setFlags (alarmOnly t.link.flags) (softState t)) := unseen_lawOf law soft (by simp) (by simp)
  have item := same_lawOf law flags (setSeverity_alike (i := 50) (by decide) 0 _) (by simp)
  have floor : lawOf Q [] (softClear t) := same_lawOf law item (setAlarm_alike fun _ => rfl)
    (by simp [softClear, clearFloor])
  have left : lawOf Q [] (latchLeave s.link.run (softClear t)) := unseen_lawOf law floor (by simp) (by simp)
  exact settlePage_lawOf law left

theorem ctrlWrite_lawOf (value : Word) (cut : CutOff) (good : bookingsLawful s) (h : lawOf Q [] s) :
    lawOf Q [] (ctrlWrite value cut s) := by
  have modes : bookingsLawful
        (if value.getLsbD 15 then modeWrite (value.extractLsb' 4 2) (value.extractLsb' 8 6) s else s) ∧
      lawOf Q [] (if value.getLsbD 15 then modeWrite (value.extractLsb' 4 2) (value.extractLsb' 8 6) s else s) := by
    split
    · exact ⟨books_same good (by simp), modeWrite_lawOf law _ _ h⟩
    · exact ⟨good, h⟩
  unfold ctrlWrite ctrlCommand
  split
  · exact startCommand_lawOf law modes.1 modes.2
  · split
    · exact haltCommand_lawOf law modes.2
    · split
      · exact softReset_lawOf law cut modes.1 modes.2
      · exact modes.2

theorem registerWrite_lawOf (r : Register) (enables : BitVec 4) (value : Word) (cut : CutOff) (good : bookingsLawful s)
    (h : lawOf Q [] s) : lawOf Q [] (registerWrite r enables value cut s) := by
  unfold registerWrite
  split
  · exact h
  · cases r with
    | ctrl => exact ctrlWrite_lawOf law value cut good h
    | areaLo => exact unseen_lawOf law h (by simp) (by simp)
    | areaHi => exact unseen_lawOf law h (by simp) (by simp)
    | order => exact orderEndWrite_lawOf law value h
    | flags => exact unseen_lawOf law h (by simp) (by simp)
    | nextAlarm => exact nextAlarmWrite_lawOf law _ _ _ _ h
    | status => exact h
    | minute => exact h

theorem liveEffect_lawOf (good : bookingsLawful s) (h : lawOf Q [] s) (c : Instr) : lawOf Q [] (liveEffect c s) :=
  match c with
  | .start => startCommand_lawOf law good h
  | .halt => haltCommand_lawOf law h
  | .softReset _ _ _ => softReset_lawOf law _ good h
  | .modeWrite mode spotlight => modeWrite_lawOf law mode spotlight h
  | .areaWrite _ _ => unseen_lawOf law h (by simp [liveEffect]) (by simp [liveEffect])
  | .orderEndWrite value => orderEndWrite_lawOf law value h
  | .flagsRead _ => unseen_lawOf law h (by simp [liveEffect]) (by simp [liveEffect])
  | .flagsWrite _ => unseen_lawOf law h (by simp [liveEffect]) (by simp [liveEffect])
  | .ack item pop => nextAlarmWrite_lawOf law true false pop item h
  | .push item ack pop => nextAlarmWrite_lawOf law ack true pop item h
  | .pop => nextAlarmWrite_lawOf law false false true 0 h
  | .registerWrite register enables value => registerWrite_lawOf law register.register enables value register.cut good h
  | .hardReset => h
  | .resetRelease _ => h
  | .secrefPulse instant order => secrefPulse_lawOf law good instant order h
  | .secrefTimeout order => secrefTimeout_lawOf law good order h
  | .ownTick order => ownTick_lawOf law good order h
  | .relockTimeout => relockTimeout_lawOf law h
  | .framerefPulse instant => framerefPulse_lawOf law instant h
  | .framerefTimeout => framerefTimeout_lawOf law h
  | .minuteBoundary _ => minuteBoundary_lawOf law good _ _ _ _ h
  | .receiverObservation port _ => updateMonitor_lawOf law port _ h
  | .lossOfLightEdge port => updateMonitor_lawOf law port _ h
  | .holdOffReached port => holdOffReached_lawOf law port h
  | .restoreTimerExpiry port => restoreExpired_lawOf law port h
  | .busFault after => busFaultAt_lawOf law after h
  | .completionTimeout after => busFaultAt_lawOf law after h
  | .headerReadComplete bytes => headerReadComplete_lawOf law bytes h
  | .identityWriteComplete => identityWriteComplete_lawOf law good h
  | .orderTaken => takeEntry_lawOf law.toBookLaw h
  | .entryReadComplete bytes => entryRead_lawOf law bytes h
  | .book => takeOrder_holds _ h fun o _ => bookOrder_lawOf law o h
  | .bookRecordRead bytes => settlePage_lawOf law (bookRecordRead_lawOf law bytes good h)
  | .cancel => takeOrder_holds _ h fun _ unit => cancelOrder_lawOf law good unit h
  | .extend => takeOrder_holds _ h fun o _ => extendOrder_lawOf law o h
  | .switch => takeOrder_holds _ h fun o _ => switchOrder_lawOf law o h
  | .setLeg => takeOrder_holds _ h fun o _ => setLegOrder_lawOf law o h
  | .setPort => takeOrder_holds _ h fun o _ => setPortOrder_lawOf law o h
  | .readPort => takeOrder_holds _ h fun o _ => readPortOrder_lawOf law o h
  | .loadTariff => takeOrder_holds _ h fun o _ => loadTariffOrder_lawOf law o h
  | .tariffSegmentRead bytes => tariffSegmentRead_lawOf law bytes h
  | .latchAccount => takeOrder_holds _ h fun o _ => latchAccountOrder_lawOf law o h
  | .closeMatch => takeOrder_holds _ h fun _ unit => closeMatchOrder_lawOf law good unit h
  | .setClock => takeOrder_holds _ h fun o _ => setClockOrder_lawOf law o h
  | .ratingRelease => settlePage_lawOf law (releaseFirst_lawOf law h)
  | .pageComplete => pageComplete_lawOf law h
  | .ticketSlotReadComplete state => settlePage_lawOf law (ticketSlotRead_lawOf law.toBookLaw state h)

end

end Sys2Proof.Machine
end

section
/-! ### The open counts and the slots of a match (R149, R154, R155, R157) -/

namespace Sys2Proof.Machine

/-- The account that an access closes. -/
def totalOf (a : Access) : Option (Fin 128) :=
  match a with
  | .totalCheck k _ | .totalWrite k => some k
  | .write _ | .raise _ | .closeWrite _ | .recheck | .recordRead _ | .report _ _ => none

/-- The close that an access raises or writes. -/
def closeOf (a : Access) : Option Raise :=
  match a with
  | .raise r | .closeWrite r => some r
  | .write _ | .totalCheck _ _ | .totalWrite _ | .recheck | .recordRead _ | .report _ _ => none

/-- The accounts and the slots agree, with the closes of the accesses L under way. -/
structure balanced (L : List Access) (s : State) : Prop where
  apart : accountsApart s
  opened : ∀ n : Fin 1024, s.store.slots[n].state ≠ .free →
    ∃ k : Fin 128, s.accounts[k].isOpen = true ∧ s.accounts[k].matchNumber = s.store.slots[n].matchNumber
  counted : ∀ k : Fin 128, s.accounts[k].isOpen = true → s.accounts[k].openCount = matchSlots s.accounts[k].matchNumber s
  once : (heldSlots s.store ++ closings L).Nodup
  taken : ∀ n ∈ heldSlots s.store ++ closings L, s.store.slots[n].state ≠ .free
  matched : ∀ a ∈ L, ∀ r, closeOf a = some r → r.ticket.matchNumber = s.store.slots[r.slot].matchNumber
  totals : ∀ a ∈ L, ∀ k, totalOf a = some k → s.accounts[k].isOpen = true ∧ s.accounts[k].openCount = 0
  single : L.countP (fun a => (totalOf a).isSome) ≤ 1

/-! ### Counting slots -/

/-- One member that counts no more lowers a count by one. -/
theorem countP_one_less {α : Type} {l : List α} (once : l.Nodup) {n : α} (member : n ∈ l) {p q : α → Bool}
    (others : ∀ i, i ≠ n → p i = q i) (counts : p n = true) (gone : q n = false) : l.countP p = l.countP q + 1 := by
  classical
  have perm := List.perm_cons_erase member
  have rest : (l.erase n).countP p = (l.erase n).countP q :=
    List.countP_congr fun i hi => by rw [others i fun e => (once.mem_erase_iff.1 hi).1 e]
  rw [perm.countP_eq p, perm.countP_eq q, List.countP_cons, List.countP_cons, rest, counts, gone]
  simp

theorem matchSlots_congr {s t : State} (free : ∀ n : Fin 1024, t.store.slots[n].state = .free ↔ s.store.slots[n].state = .free)
    (matched : ∀ n : Fin 1024, t.store.slots[n].matchNumber = s.store.slots[n].matchNumber) (m : Nat) :
    matchSlots m t = matchSlots m s := by
  unfold matchSlots
  refine List.countP_congr fun n _ => ?_
  simp only [ne_eq, decide_eq_true_eq]
  rw [free n, matched n]

/-- A slot that is taken in t and FREE in s, with the others alike. -/
structure oneMore (n : Fin 1024) (s t : State) : Prop where
  others : ∀ i : Fin 1024, i ≠ n → t.store.slots[i] = s.store.slots[i]
  taken : t.store.slots[n].state ≠ .free
  free : s.store.slots[n].state = .free

theorem matchSlots_oneMore {n : Fin 1024} {s t : State} (h : oneMore n s t) (m : Nat) :
    matchSlots m t = matchSlots m s + if t.store.slots[n].matchNumber = m then 1 else 0 := by
  unfold matchSlots
  have others : ∀ i : Fin 1024, i ≠ n →
      (decide (t.store.slots[i].state ≠ .free ∧ t.store.slots[i].matchNumber = m)) =
        decide (s.store.slots[i].state ≠ .free ∧ s.store.slots[i].matchNumber = m) := fun i hi => by rw [h.others i hi]
  have gone : decide (s.store.slots[n].state ≠ .free ∧ s.store.slots[n].matchNumber = m) = false :=
    decide_eq_false fun k => k.1 h.free
  split
  · next same =>
    exact countP_one_less (List.nodup_finRange 1024) (List.mem_finRange n) others
      (decide_eq_true ⟨h.taken, same⟩) gone
  · next other =>
    rw [Nat.add_zero]
    refine List.countP_congr fun i _ => ?_
    by_cases e : i = n
    · subst e
      rw [gone, decide_eq_false fun k => other k.2]
    · rw [others i e]

/-- A taken slot counts for its match. -/
theorem matchSlots_pos {n : Fin 1024} {s : State} (taken : s.store.slots[n].state ≠ .free) :
    0 < matchSlots s.store.slots[n].matchNumber s := by
  unfold matchSlots
  rw [List.countP_pos_iff]
  exact ⟨n, List.mem_finRange n, decide_eq_true ⟨taken, rfl⟩⟩

/-- No taken slot counts for a match without an OPEN account. -/
theorem matchSlots_none {m : Nat} {s : State}
    (none : ∀ n : Fin 1024, s.store.slots[n].state ≠ .free → s.store.slots[n].matchNumber ≠ m) : matchSlots m s = 0 := by
  unfold matchSlots
  rw [List.countP_eq_zero]
  intro n _
  rw [decide_eq_true_eq]
  exact fun h => none n h.1 h.2

/-! ### The lists of accesses -/

theorem closings_subperm {M L : List Access} (h : M.Subperm L) : (closings M).Subperm (closings L) := by
  obtain ⟨l, perm, sub⟩ := h
  exact ⟨closings l, perm.filterMap _, sub.filterMap _⟩

theorem nodup_subperm {α : Type} {l m : List α} (h : m.Subperm l) (once : l.Nodup) : m.Nodup := by
  obtain ⟨k, perm, sub⟩ := h
  exact perm.nodup_iff.1 (once.sublist sub)

theorem closings_cons_some {a : Access} {n : Fin 1024} (h : closingSlot a = some n) (L : List Access) :
    closings (a :: L) = n :: closings L := List.filterMap_cons_some h

theorem closings_cons_none {a : Access} (h : closingSlot a = none) (L : List Access) : closings (a :: L) = closings L :=
  List.filterMap_cons_none h

/-- With no total to write there is no account to close. -/
theorem totalOf_none {L : List Access} (h : noTotals L) {a : Access} (member : a ∈ L) : totalOf a = none := by
  cases a with
  | totalCheck k minute => exact absurd rfl (h _ member k minute).1
  | totalWrite k => exact absurd rfl (h _ member k 0).2
  | _ => rfl

/-! ### The law is kept -/

theorem balanced_sub {M L : List Access} {s : State} (h : M.Subperm L) (k : balanced L s) : balanced M s := by
  have closes := (List.subperm_append_left (heldSlots s.store)).2 (closings_subperm h)
  exact ⟨k.apart, k.opened, k.counted, nodup_subperm closes k.once, fun n hn => k.taken n (closes.subset hn),
    fun a ha => k.matched a (h.subset ha), fun a ha => k.totals a (h.subset ha), (h.countP_le _).trans k.single⟩

/-- The books look at no more of the slots than whether they are taken, for which match, and which are held. -/
theorem balanced_alike {L : List Access} {s t : State} (h : slotsAlike s t) (k : balanced L s) : balanced L t := by
  obtain ⟨free, matched, held, accounts, -⟩ := h
  refine ⟨accounts_congr k.apart accounts, fun n hn => ?_, fun j hj => ?_, by rw [held]; exact k.once, fun n hn => ?_,
    fun a ha r hr => ?_, by rw [accounts]; exact k.totals, k.single⟩
  · rw [accounts, matched]
    exact k.opened n fun e => hn ((free n).2 e)
  · rw [accounts] at hj
    rw [accounts, matchSlots_congr free matched]
    exact k.counted j hj
  · rw [held] at hn
    exact fun e => k.taken n hn ((free n).1 e)
  · rw [matched]
    exact k.matched a ha r hr

/-- An access that closes the same booking and the same account. -/
theorem balanced_stead {L : List Access} {s : State} {a b : Access} (slot : closingSlot b = closingSlot a)
    (raises : closeOf b = closeOf a) (total : totalOf b = totalOf a) (k : balanced (a :: L) s) : balanced (b :: L) s := by
  have closes : closings (b :: L) = closings (a :: L) := by
    simp only [closings, List.filterMap_cons, slot]
  refine ⟨k.apart, k.opened, k.counted, by rw [closes]; exact k.once, by rw [closes]; exact k.taken, fun c hc r hr => ?_,
    fun c hc j hj => ?_, ?_⟩
  · rcases List.mem_cons.1 hc with rfl | hc
    · exact k.matched a (by simp) r (by rw [← raises]; exact hr)
    · exact k.matched c (List.mem_cons_of_mem _ hc) r hr
  · rcases List.mem_cons.1 hc with rfl | hc
    · exact k.totals a (by simp) j (by rw [← total]; exact hj)
    · exact k.totals c (List.mem_cons_of_mem _ hc) j hj
  · have single := k.single
    rw [List.countP_cons, total]
    rwa [List.countP_cons] at single

/-- A new access that closes no booking and no account. -/
theorem balanced_neutral {L : List Access} {s : State} (a : Access) (neutral : neutralAccess a = true) (k : balanced L s) :
    balanced (a :: L) s := by
  have none : closingSlot a = none ∧ closeOf a = none ∧ totalOf a = none := by
    cases a with
    | raise r => exact absurd neutral (by simp [neutralAccess])
    | closeWrite r => exact absurd neutral (by simp [neutralAccess])
    | totalCheck j minute => exact absurd neutral (by simp [neutralAccess])
    | totalWrite j => exact absurd neutral (by simp [neutralAccess])
    | _ => exact ⟨rfl, rfl, rfl⟩
  obtain ⟨slot, raises, total⟩ := none
  have closes := closings_cons_none slot L
  refine ⟨k.apart, k.opened, k.counted, by rw [closes]; exact k.once, by rw [closes]; exact k.taken, fun c hc r hr => ?_,
    fun c hc j hj => ?_, ?_⟩
  · rcases List.mem_cons.1 hc with rfl | hc
    · rw [raises] at hr
      cases hr
    · exact k.matched c hc r hr
  · rcases List.mem_cons.1 hc with rfl | hc
    · rw [total] at hj
      cases hj
    · exact k.totals c hc j hj
  · rw [List.countP_cons, total]
    exact k.single

/-! ### Accounts -/

/-- What a change of the account of a match leaves of each account. -/
theorem changeAccount_get (m : Nat) (f : Account → Account) (s : State) (k : Fin 128) :
    (changeAccount m f s).accounts[k] = if accountOf m s = some k then f s.accounts[k] else s.accounts[k] := by
  cases found : accountOf m s with
  | some j =>
    have value : (setAccount j (f s.accounts[j]) s).accounts[k] = if j = k then f s.accounts[j] else s.accounts[k] :=
      getFin_set s.accounts j k _
    rw [changeAccount, found]
    refine value.trans ?_
    by_cases e : j = k
    · subst e
      rw [if_pos rfl, if_pos rfl]
    · rw [if_neg e, if_neg fun same => e (Option.some.inj same)]
  | none =>
    rw [changeAccount, found, if_neg (by simp)]

theorem balanced_account {L : List Access} {s : State} (m : Nat) {f : Account → Account} (kept : accountKept f)
    (k : balanced L s) : balanced L (changeAccount m f s) := by
  have same : ∀ j : Fin 128, (changeAccount m f s).accounts[j].isOpen = s.accounts[j].isOpen ∧
      (changeAccount m f s).accounts[j].matchNumber = s.accounts[j].matchNumber ∧
      (changeAccount m f s).accounts[j].openCount = s.accounts[j].openCount := fun j => by
    rw [changeAccount_get]
    split
    · exact ⟨(kept _).1, (kept _).2.1, (kept _).2.2.1⟩
    · exact ⟨rfl, rfl, rfl⟩
  have store : (changeAccount m f s).store = s.store := by simp
  refine ⟨changeAccount_accounts m (fun a => ⟨(kept a).1, (kept a).2.1⟩) (fun a => (kept a).2.2.2) k.apart, ?_, fun j hj => ?_,
    by rw [store]; exact k.once, by rw [store]; exact k.taken, by rw [store]; exact k.matched, fun a ha j hj => ?_, k.single⟩
  · rw [store]
    intro n hn
    obtain ⟨j, isOpen, number⟩ := k.opened n hn
    exact ⟨j, (same j).1.trans isOpen, (same j).2.1.trans number⟩
  · obtain ⟨isOpen, number, count⟩ := same j
    rw [count, number, matchSlots_congr (s := s) (fun n => by rw [store]) (fun n => by rw [store])]
    exact k.counted j (isOpen ▸ hj)
  · obtain ⟨isOpen, -, count⟩ := same j
    rw [isOpen, count]
    exact k.totals a ha j hj

/-- The OPEN account of a match is found. -/
theorem accountOf_of_open {s : State} (apart : accountsApart s) {k : Fin 128} (isOpen : s.accounts[k].isOpen = true) :
    accountOf s.accounts[k].matchNumber s = some k := by
  cases found : accountOf s.accounts[k].matchNumber s with
  | none => exact absurd rfl (accountOf_none found k isOpen)
  | some j =>
    obtain ⟨open_, number⟩ := accountOf_some found
    rw [apart.1 j k open_ isOpen number]

/-- R155: when a close ends, the open count of its account falls with the slots of its match. -/
theorem balanced_endClose {L : List Access} {s : State} {a : Access} {r : Raise} (own : closesFor a r s)
    (k : balanced (a :: L) s) : balanced L (endClose r s) := by
  have closes : closingSlot a = some r.slot ∧ r.ticket.matchNumber = s.store.slots[r.slot].matchNumber := by
    rcases own with rfl | rfl | own
    · exact ⟨rfl, k.matched (.raise r) (by simp) r rfl⟩
    · exact ⟨rfl, k.matched (.closeWrite r) (by simp) r rfl⟩
    · exact own
  obtain ⟨slot, number⟩ := closes
  have list := closings_cons_some slot L
  have once := k.once
  have taken := k.taken
  rw [list] at once taken
  have takenSlot := taken r.slot (by simp)
  obtain ⟨j, isOpen, own⟩ := k.opened r.slot takenSlot
  have found : accountOf r.ticket.matchNumber s = some j := by
    rw [number, ← own]
    exact accountOf_of_open k.apart isOpen
  have accounts : ∀ i : Fin 128, (endClose r s).accounts[i] = if j = i then lowerOpen s.accounts[i] else s.accounts[i] := fun i => by
    have get := changeAccount_get r.ticket.matchNumber lowerOpen s i
    simp only [found, Option.some.injEq] at get
    exact get
  have slots : ∀ i : Fin 1024, (endClose r s).store.slots[i] =
      if r.slot = i then { s.store.slots[r.slot] with state := .free } else s.store.slots[i] := fun i => by
    rw [endClose_store]
    exact getFin_set _ _ _ _
  have held : heldSlots (endClose r s).store = heldSlots s.store := by rw [endClose_store]; rfl
  have freed : (endClose r s).store.slots[r.slot].state = .free := by rw [slots, if_pos rfl]
  have more : oneMore r.slot (endClose r s) s :=
    ⟨fun i hi => by rw [slots, if_neg (Ne.symm hi)], takenSlot, freed⟩
  have numbers : ∀ i : Fin 1024, (endClose r s).store.slots[i].matchNumber = s.store.slots[i].matchNumber := fun i => by
    rw [slots]
    split
    · next e =>
      subst e
      rfl
    · rfl
  have still : ∀ i : Fin 128, (endClose r s).accounts[i].isOpen = s.accounts[i].isOpen ∧
      (endClose r s).accounts[i].matchNumber = s.accounts[i].matchNumber := fun i => by
    rw [accounts]
    split
    · exact ⟨rfl, rfl⟩
    · exact ⟨rfl, rfl⟩
  have perm : (heldSlots s.store ++ r.slot :: closings L).Perm (r.slot :: (heldSlots s.store ++ closings L)) :=
    List.perm_middle
  obtain ⟨other, rest⟩ := List.nodup_cons.1 (perm.nodup_iff.1 once)
  have positive : 0 < s.accounts[j].openCount := by
    rw [k.counted j isOpen, own]
    exact matchSlots_pos takenSlot
  refine ⟨endClose_accounts r k.apart, fun n hn => ?_, fun i hi => ?_, by rw [held]; exact rest, fun n hn => ?_,
    fun b hb x hx => ?_, fun b hb i hi => ?_, ?_⟩
  · have away : r.slot ≠ n := fun e => hn (e ▸ freed)
    rw [slots, if_neg away] at hn
    obtain ⟨i, open_, match_⟩ := k.opened n hn
    exact ⟨i, (still i).1.trans open_, by rw [(still i).2, numbers]; exact match_⟩
  · have open_ := (still i).1 ▸ hi
    have before := k.counted i open_
    rw [matchSlots_oneMore more] at before
    rw [(still i).2, accounts]
    split
    · next e =>
      subst e
      rw [if_pos own.symm] at before
      simp only [lowerOpen]
      omega
    · next e =>
      rw [if_neg fun same => e (k.apart.1 j i isOpen open_ (own.trans same)), Nat.add_zero] at before
      exact before
  · rw [held] at hn
    have away : r.slot ≠ n := fun e => other (e ▸ hn)
    rw [slots, if_neg away]
    exact k.taken n (by rw [list]; exact perm.mem_iff.2 (List.mem_cons_of_mem _ hn))
  · rw [numbers]
    exact k.matched b (List.mem_cons_of_mem _ hb) x hx
  · obtain ⟨open_, zero⟩ := k.totals b (List.mem_cons_of_mem _ hb) i hi
    have away : j ≠ i := fun e => by
      rw [e] at positive
      omega
    rw [accounts i, if_neg away]
    exact ⟨open_, zero⟩
  · have single := k.single
    rw [List.countP_cons] at single
    omega

/-- R157: an account without bookings is freed. -/
theorem balanced_freeTotal {L : List Access} {s : State} (j : Fin 128) (k : balanced (.totalWrite j :: L) s) :
    balanced L (freeAccountSlot j s) := by
  obtain ⟨isOpen, zero⟩ := k.totals (.totalWrite j) (by simp) j rfl
  have accounts : ∀ i : Fin 128, (freeAccountSlot j s).accounts[i] =
      if j = i then { s.accounts[j] with isOpen := false } else s.accounts[i] := fun i => getFin_set s.accounts j i _
  have other : ∀ i : Fin 128, (freeAccountSlot j s).accounts[i].isOpen = true → j ≠ i := fun i hi e => by
    rw [accounts, if_pos e] at hi
    cases hi
  have none : L.countP (fun a => (totalOf a).isSome) = 0 := by
    have single := k.single
    have self : (totalOf (.totalWrite j)).isSome = true := rfl
    rw [List.countP_cons, self, if_pos rfl] at single
    omega
  refine ⟨freeAccountSlot_accounts j k.apart, fun n hn => ?_, fun i hi => ?_, k.once, k.taken,
    fun a ha => k.matched a (List.mem_cons_of_mem _ ha), fun a ha i hi => ?_, by omega⟩
  · obtain ⟨i, open_, number⟩ := k.opened n hn
    have away : j ≠ i := fun e => by
      have positive := matchSlots_pos (s := s) hn
      rw [← number, ← k.counted i open_, ← e, zero] at positive
      omega
    exact ⟨i, by rw [accounts, if_neg away]; exact open_, by rw [accounts, if_neg away]; exact number⟩
  · have away := other i hi
    rw [accounts, if_neg away] at hi ⊢
    exact k.counted i hi
  · rw [List.countP_eq_zero] at none
    exact absurd (by rw [hi]; rfl) (none a ha)

/-! ### The booking store -/

theorem deriveSources_slots {s t : State} (h : slotsAlike s t) : slotsAlike s (deriveSources t) :=
  ⟨fun n => by simpa using h.free n, fun n => by simpa using h.matched n, by simpa using h.held, by simpa using h.accounts,
    fun d n hn => h.members d n (by simpa using hn)⟩

/-- A close begins, and its slot is counted until it ends. -/
theorem balanced_begin {L : List Access} {s : State} {n : Fin 1024} (kind : TicketKind) (minute : Nat) (forOrder : Bool)
    (c : closable n L s) (k : balanced L s) : balanced (.raise (closeRaise kind n minute forOrder s) :: L) s := by
  have list : closings (.raise (closeRaise kind n minute forOrder s) :: L) = n :: closings L := closings_cons_some rfl L
  have perm : (heldSlots s.store ++ n :: closings L).Perm (n :: (heldSlots s.store ++ closings L)) := List.perm_middle
  refine ⟨k.apart, k.opened, k.counted, ?_, fun i hi => ?_, fun a ha r hr => ?_, fun a ha j hj => ?_, ?_⟩
  · rw [list]
    exact perm.nodup_iff.2 (List.nodup_cons.2 ⟨c.fresh, k.once⟩)
  · rw [list] at hi
    rcases List.mem_cons.1 (perm.mem_iff.1 hi) with rfl | hi
    · exact c.taken
    · exact k.taken i hi
  · rcases List.mem_cons.1 ha with rfl | ha
    · cases hr
      rfl
    · exact k.matched a ha r hr
  · rcases List.mem_cons.1 ha with rfl | ha
    · cases hj
    · exact k.totals a ha j hj
  · rw [List.countP_cons]
    exact k.single

theorem balanced_hold {L : List Access} {s : State} {n : Fin 1024} (minute : Nat) (c : closable n L s) (k : balanced L s) :
    balanced L (holdClose n minute s) := by
  have held : heldSlots (holdClose n minute s).store = heldSlots s.store ++ [n] := by simp [holdClose, heldSlots]
  have perm : (heldSlots s.store ++ [n] ++ closings L).Perm (n :: (heldSlots s.store ++ closings L)) := by
    rw [List.append_assoc]
    exact List.perm_middle
  refine ⟨k.apart, k.opened, k.counted, ?_, fun i hi => ?_, k.matched, k.totals, k.single⟩
  · rw [held]
    exact perm.nodup_iff.2 (List.nodup_cons.2 ⟨c.fresh, k.once⟩)
  · rw [held] at hi
    rcases List.mem_cons.1 (perm.mem_iff.1 hi) with rfl | hi
    · exact c.taken
    · exact k.taken i hi

theorem balanced_release {L : List Access} {s : State} {h : Hold} {rest : List Hold} (holds : s.store.holds = h :: rest)
    (k : balanced L s) : balanced (.raise (closeRaise .booking h.slot h.closeMinute false s) :: L)
      { s with store := { s.store with holds := rest } } := by
  have held : heldSlots s.store = h.slot :: rest.map (·.slot) := by rw [heldSlots, holds]; rfl
  have list : closings (.raise (closeRaise .booking h.slot h.closeMinute false s) :: L) = h.slot :: closings L :=
    closings_cons_some rfl L
  have perm : (rest.map (·.slot) ++ h.slot :: closings L).Perm (heldSlots s.store ++ closings L) := by
    rw [held]
    exact List.perm_middle
  refine ⟨k.apart, k.opened, k.counted, ?_, fun i hi => ?_, fun a ha r hr => ?_, fun a ha j hj => ?_, ?_⟩
  · rw [list]
    exact perm.nodup_iff.2 k.once
  · rw [list] at hi
    exact k.taken i (perm.mem_iff.1 hi)
  · rcases List.mem_cons.1 ha with rfl | ha
    · cases hr
      rfl
    · exact k.matched a ha r hr
  · rcases List.mem_cons.1 ha with rfl | ha
    · cases hj
    · exact k.totals a ha j hj
  · rw [List.countP_cons]
    exact k.single

theorem balanced_total {L : List Access} {s : State} {j : Fin 128} (minute : Nat) (isOpen : s.accounts[j].isOpen = true)
    (zero : s.accounts[j].openCount = 0) (none : noTotals L) (k : balanced L s) : balanced (.totalCheck j minute :: L) s := by
  have list : closings (.totalCheck j minute :: L) = closings L := closings_cons_none rfl L
  refine ⟨k.apart, k.opened, k.counted, by rw [list]; exact k.once, by rw [list]; exact k.taken, fun a ha r hr => ?_,
    fun a ha i hi => ?_, ?_⟩
  · rcases List.mem_cons.1 ha with rfl | ha
    · cases hr
    · exact k.matched a ha r hr
  · rcases List.mem_cons.1 ha with rfl | ha
    · cases hi
      exact ⟨isOpen, zero⟩
    · exact k.totals a ha i hi
  · have count : L.countP (fun a => (totalOf a).isSome) = 0 :=
      List.countP_eq_zero.2 fun a ha => by simp [totalOf_none none ha]
    rw [List.countP_cons, count]
    exact Nat.le_of_eq rfl

/-! ### BOOK -/

/-- What accepting a booking does to the account of match m. -/
theorem openBooking_get {m : Nat} {s : State} (room : (accountOf m s).isSome ∨ (freeAccount s).isSome) :
    ∃ k : Fin 128, (openBooking m s).accounts[k].isOpen = true ∧ (openBooking m s).accounts[k].matchNumber = m ∧
      (∀ i, i ≠ k → (openBooking m s).accounts[i] = s.accounts[i]) ∧
      ((s.accounts[k].isOpen = true ∧ s.accounts[k].matchNumber = m ∧
          (openBooking m s).accounts[k].openCount = s.accounts[k].openCount + 1) ∨
        (s.accounts[k].isOpen = false ∧ (∀ i : Fin 128, s.accounts[i].isOpen = true → s.accounts[i].matchNumber ≠ m) ∧
          (openBooking m s).accounts[k].openCount = 1)) := by
  have get : ∀ (k i : Fin 128) (a : Account), (setAccount k a s).accounts[i] = if k = i then a else s.accounts[i] :=
    fun k i a => getFin_set s.accounts k i a
  cases found : accountOf m s with
  | some k =>
    obtain ⟨isOpen, number⟩ := accountOf_some found
    have value : openBooking m s = setAccount k { s.accounts[k] with openCount := s.accounts[k].openCount + 1 } s := by
      rw [openBooking, found]
    refine ⟨k, ?_, ?_, fun i hi => ?_, .inl ⟨isOpen, number, ?_⟩⟩
    · rw [value, get, if_pos rfl]
      exact isOpen
    · rw [value, get, if_pos rfl]
      exact number
    · rw [value, get, if_neg (Ne.symm hi)]
    · rw [value, get, if_pos rfl]
  | none =>
    obtain ⟨k, free⟩ := Option.isSome_iff_exists.1 (room.resolve_left (by rw [found]; simp))
    have closed : s.accounts[k].isOpen = false := by simpa using List.find?_some free
    have value : openBooking m s = setAccount k (openedAccount m) s := by rw [openBooking, found, free]
    refine ⟨k, ?_, ?_, fun i hi => ?_, .inr ⟨closed, fun i hi => accountOf_none found i hi, ?_⟩⟩
    · rw [value, get, if_pos rfl]
      rfl
    · rw [value, get, if_pos rfl]
      rfl
    · rw [value, get, if_neg (Ne.symm hi)]
    · rw [value, get, if_pos rfl]
      rfl

/-- R50, check 10: a record that passes finds an account. -/
theorem account_of_checks {r : BookRecord} {s : State} (checks : bookRefusal r s = none) :
    (accountOf r.matchNumber s).isSome ∨ (freeAccount s).isSome := by
  have passed := checks_none checks (decide (r.matchNumber = 0) ||
    ((accountOf r.matchNumber s).isNone && (freeAccount s).isNone), .noAccount) (by simp [bookChecks])
  simp only [Bool.or_eq_false_iff, Bool.and_eq_false_iff] at passed
  obtain ⟨-, some | some⟩ := passed
  · exact .inl (by simpa [Option.isSome_iff_ne_none] using some)
  · exact .inr (by simpa [Option.isSome_iff_ne_none] using some)

theorem openBooking_accountsOf (m : Nat) {s t : State} (same : t.accounts = s.accounts) :
    (openBooking m t).accounts = (openBooking m s).accounts := by
  have account : accountOf m t = accountOf m s := by rw [accountOf, accountOf, same]
  have free : freeAccount t = freeAccount s := by rw [freeAccount, freeAccount, same]
  unfold openBooking
  rw [account, free]
  split
  · next k _ => rw [setAccount, setAccount, same]
  · split
    · next k _ => rw [setAccount, setAccount, same]
    · exact same

theorem balanced_accept {L : List Access} {s : State} {n : Fin 1024} {r : BookRecord}
    (free : s.store.slots[n].state = .free) (fresh : n ∉ heldSlots s.store ++ closings L) (still : noTotals L)
    (checks : bookRefusal r s = none) (k : balanced L s) : balanced L (acceptBooking n (slotOfRecord r) s) := by
  have room := account_of_checks checks
  have accounts : (acceptBooking n (slotOfRecord r) s).accounts = (openBooking r.matchNumber s).accounts := by
    have alike := openBooking_accountsOf r.matchNumber (s := s) (t := joinTimeline n (setSlot n (slotOfRecord r) s)) rfl
    exact alike
  have store := acceptBooking_store n (slotOfRecord r) s
  have slots : ∀ i : Fin 1024, (acceptBooking n (slotOfRecord r) s).store.slots[i] =
      if n = i then slotOfRecord r else s.store.slots[i] := fun i => by
    rw [store]
    exact getFin_set _ _ _ _
  have held : heldSlots (acceptBooking n (slotOfRecord r) s).store = heldSlots s.store := by rw [store]; rfl
  have self : (acceptBooking n (slotOfRecord r) s).store.slots[n] = slotOfRecord r := by rw [slots, if_pos rfl]
  have more : oneMore n s (acceptBooking n (slotOfRecord r) s) :=
    ⟨fun i hi => by rw [slots, if_neg (Ne.symm hi)], by rw [self]; simp [slotOfRecord], free⟩
  have away : ∀ i ∈ heldSlots s.store ++ closings L, n ≠ i := fun i hi e => fresh (e ▸ hi)
  obtain ⟨j, isOpen, number, others, was⟩ := openBooking_get room
  have count : ∀ m, matchSlots m (acceptBooking n (slotOfRecord r) s) =
      matchSlots m s + if r.matchNumber = m then 1 else 0 := fun m => by
    rw [matchSlots_oneMore more, self]
    rfl
  refine ⟨acceptBooking_accounts n _ k.apart, fun i hi => ?_, fun i hi => ?_, by rw [held]; exact k.once, fun i hi => ?_,
    fun a ha x hx => ?_, fun a ha i hi => ?_, k.single⟩
  · rw [accounts, slots]
    split
    · exact ⟨j, isOpen, number⟩
    · next e =>
      rw [slots, if_neg e] at hi
      obtain ⟨i', open_, match_⟩ := k.opened i hi
      by_cases same : i' = j
      · subst same
        rcases was with ⟨-, before, -⟩ | ⟨closed, -, -⟩
        · exact ⟨i', isOpen, number.trans (before.symm.trans match_)⟩
        · rw [closed] at open_
          cases open_
      · exact ⟨i', by rw [others i' same]; exact open_, by rw [others i' same]; exact match_⟩
  · rw [accounts] at hi ⊢
    rw [count]
    by_cases same : i = j
    · subst same
      rw [number, if_pos rfl]
      rcases was with ⟨open_, before, raised⟩ | ⟨-, new, one⟩
      · rw [raised, k.counted i open_, before]
      · rw [one, matchSlots_none fun x hx e => ?_]
        obtain ⟨y, open_, match_⟩ := k.opened x hx
        exact new y open_ (match_.trans e)
    · rw [others i same] at hi ⊢
      rw [k.counted i hi, if_neg, Nat.add_zero]
      intro e
      rcases was with ⟨open_, before, -⟩ | ⟨-, new, -⟩
      · exact same (k.apart.1 i j hi open_ (e.symm.trans before.symm))
      · exact new i hi e.symm
  · rw [held] at hi
    rw [slots, if_neg (away i hi)]
    exact k.taken i hi
  · have slot : closingSlot a = some x.slot := by
      cases a with
      | raise y => cases hx; rfl
      | closeWrite y => cases hx; rfl
      | _ => cases hx
    rw [slots, if_neg (away x.slot (List.mem_append_right _ (mem_closings.2 ⟨a, ha, slot⟩)))]
    exact k.matched a ha x hx
  · rw [totalOf_none still ha] at hi
    cases hi

/-- The books stay balanced. -/
theorem balanced_law : StoreLaw balanced where
  sub := balanced_sub
  same h := balanced_alike (slotsAlike_of h)
  begun a h := by
    cases a with
    | raise r => exact balanced_stead (a := .raise r) (b := .closeWrite r) rfl rfl rfl h
    | _ => exact h
  totalBegun j minute h := balanced_stead (a := .totalCheck j minute) (b := .totalWrite j) rfl rfl rfl h
  neutral a ha h := balanced_neutral a ha h
  account m _ kept h := balanced_account m kept h
  endClose own h := balanced_endClose own h
  freeTotal j h := balanced_freeTotal j h
  moved same h := balanced_alike (deriveSources_slots same) h
  shown n _ as h := balanced_alike (slotsAlike_slot n as.free as.matched rfl rfl) h
  leave n _ h := balanced_alike (leftStore_alike n (leaveTimeline_store n _) (by simp)) h
  begin kind minute forOrder c h := balanced_begin kind minute forOrder c h
  hold minute c h := balanced_hold minute c h
  release holds h := balanced_release holds h
  accept free fresh _ none checks h := balanced_accept free fresh none checks h
  total minute isOpen zero none h := balanced_total minute isOpen zero none h

end Sys2Proof.Machine
end

section
/-! ### O11: the accounts and the meters -/

namespace Sys2Proof.Machine

/-- A total is written for the order in flight. -/
theorem totals_of_orders (L : List Access) : L.countP (fun a => (totalOf a).isSome) ≤ L.countP orderAccess :=
  List.countP_mono_left fun a _ total => by
    cases a with
    | totalCheck k minute => rfl
    | totalWrite k => rfl
    | _ => cases total

theorem balanced_of_accounts {s : State} (good : bookingsLawful s) (h : accountsLawful s) : lawOf balanced [] s := by
  obtain ⟨apart, below, opened, counted, once, taken, matched, totals⟩ := h
  rw [lawOf, List.append_nil]
  refine ⟨⟨apart, below⟩, opened, counted, once, taken, fun a ha r hr => ?_, fun a ha k hk => ?_,
    (totals_of_orders _).trans good.2.1⟩
  · cases a with
    | raise x => cases hr; exact matched r (.inl ha)
    | closeWrite x => cases hr; exact matched r (.inr ha)
    | _ => cases hr
  · cases a with
    | totalCheck j minute => cases hk; exact totals k (.inl ⟨minute, ha⟩)
    | totalWrite j => cases hk; exact totals k (.inr ha)
    | _ => cases hk

theorem accounts_of_balanced {s : State} (h : lawOf balanced [] s) : accountsLawful s := by
  rw [lawOf, List.append_nil] at h
  refine ⟨h.apart.1, h.apart.2, h.opened, h.counted, h.once, h.taken, fun r hr => ?_, fun k hk => ?_⟩
  · rcases hr with hr | hr
    · exact h.matched _ hr r rfl
    · exact h.matched _ hr r rfl
  · rcases hk with ⟨minute, hk⟩ | hk
    · exact h.totals _ hk k rfl
    · exact h.totals _ hk k rfl

/-- With the book empty and no account open nothing is to agree. -/
theorem accounts_empty {s : State} (store : s.store = Store.hardReset) (accounts : s.accounts = State.hardReset.accounts)
    (idle : quiet s) : accountsLawful s := by
  have none : outstanding s = [] := by rw [outstanding, idle.1, idle.2]; rfl
  have closes : closingSlots s = [] := by rw [closingSlots, ratedSlots, none, store]; rfl
  have free : ∀ n : Fin 1024, s.store.slots[n].state = .free := fun n => by
    rw [store]
    exact congrArg Slot.state (build_getFin (fun _ => Slot.hardReset) n)
  have closed : ∀ k : Fin 128, s.accounts[k].isOpen = false := fun k => by
    rw [accounts]
    exact congrArg Account.isOpen (build_getFin (fun _ => Account.hardReset) k)
  have shut : ∀ {k : Fin 128}, s.accounts[k].isOpen ≠ true := fun {k} => by rw [closed k]; simp
  have apart := accounts_congr (hardReset_accounts s) (t := s) accounts
  refine ⟨apart.1, apart.2, fun n hn => absurd (free n) hn, fun k hk => absurd hk shut, ?_, ?_, fun r hr => ?_,
    fun k hk => ?_⟩
  · rw [closes]
    exact List.nodup_nil
  · rw [closes]
    intro n hn
    cases hn
  · rw [none] at hr
    rcases hr with hr | hr
    · cases hr
    · cases hr
  · rw [none] at hk
    rcases hk with ⟨_, hk⟩ | hk
    · cases hk
    · cases hk

theorem effect_accountsLawful (c : Instr) (s : State) (good : bookingsLawful s) (h : accountsLawful s) :
    accountsLawful (effect c s) := by
  refine effect_keeps (P := accountsLawful) h (accounts_empty rfl rfl ⟨rfl, rfl⟩) (fun instant => ?_) (fun _ c => ?_) c
  · unfold resetRelease
    split
    · exact h
    · exact accounts_empty (by simp [scheduleOwn, hardReset, State.hardReset])
        (by simp [scheduleOwn, hardReset, State.hardReset])
        ⟨by simp [scheduleOwn, hardReset, State.hardReset, Tickets.hardReset],
          by simp [scheduleOwn, hardReset, State.hardReset, Tickets.hardReset]⟩
  · exact accounts_of_balanced (liveEffect_lawOf balanced_law good (balanced_of_accounts good h) c)

/-- Settles O11: the books stay balanced through every command (`balanced_law`), and every command keeps the meters lawful. -/
theorem accountAndMeterLawsKept : Obligations.AccountAndMeterLawsKept := by
  refine ⟨fun s t books accounts taken => ?_, fun s t meters taken => ?_⟩
  · have both := step_keeps (P := fun u => bookingsLawful u ∧ accountsLawful u) (fun _ _ h => h)
      (fun c u h => ⟨effect_books c u h.1, effect_accountsLawful c u h.1 h.2⟩) ⟨books, accounts⟩ taken
    exact both.2
  · exact step_keeps (P := metersLawful) (fun _ _ h => h) effect_meters meters taken

end Sys2Proof.Machine
end

section
/-! ### The source items and the bookings on air (R119, R122) -/

namespace Sys2Proof.Machine

/-- The source items follow, and no booking whose close has begun stands in a timeline. -/
structure followed (L : List Access) (s : State) : Prop where
  items : sourceItemsFollow s
  left : ∀ n ∈ heldSlots s.store ++ closings L, ∀ d : Fin 64, n ∉ s.store.timelines[d]

/-! ### What the severities look at -/

theorem any_congr_mem {α : Type} {l : List α} {p q : α → Bool} (h : ∀ x ∈ l, p x = q x) : l.any p = l.any q := by
  rw [Bool.eq_iff_iff, List.any_eq_true, List.any_eq_true]
  exact exists_congr fun x => and_congr_right fun hx => by rw [h x hx]

/-- The severities of the source items are derived from the owner of each port, its legs, the current sources and the healths. -/
theorem sourceSeverity_of {s t : State} (owner : ∀ d : Fin 64, ownerOf d t = ownerOf d s)
    (legs : ∀ (d : Fin 64) (n : Fin 1024), ownerOf d s = some n → ∀ p, isLeg t.store.slots[n] p = isLeg s.store.slots[n] p)
    (current : ∀ d : Fin 64, t.rows[d].current = s.rows[d].current)
    (health : ∀ p : Fin 48, t.monitors[p].health = s.monitors[p].health) (p : Fin 48) :
    sourceSeverity p t = sourceSeverity p s := by
  have air : onAirBookings t = onAirBookings s := by
    unfold onAirBookings
    exact List.filterMap_congr fun d _ => by rw [owner d]
  have member : ∀ x ∈ onAirBookings s, ownerOf x.1 s = some x.2 := fun x hx => by
    obtain ⟨d, -, hd⟩ := List.mem_filterMap.1 hx
    obtain ⟨n, hn, e⟩ := Option.map_eq_some_iff.1 hd
    rw [← e]
    exact hn
  have carries : carriesBooking p t = carriesBooking p s := by
    unfold carriesBooking
    rw [air]
    exact any_congr_mem fun x hx => by rw [current x.1, legs x.1 x.2 (member x hx) p]
  have leg : legOfBooking p t = legOfBooking p s := by
    unfold legOfBooking
    rw [air]
    exact any_congr_mem fun x hx => legs x.1 x.2 (member x hx) p
  have healths : healthOf p t = healthOf p s := health p
  unfold sourceSeverity
  rw [carries, leg, healths]

/-- Nothing the severities look at has changed, and the source items neither. -/
theorem items_kept {s t : State} (h : sourceItemsFollow s) (owner : ∀ d : Fin 64, ownerOf d t = ownerOf d s)
    (legs : ∀ (d : Fin 64) (n : Fin 1024), ownerOf d s = some n → ∀ p, isLeg t.store.slots[n] p = isLeg s.store.slots[n] p)
    (current : ∀ d : Fin 64, t.rows[d].current = s.rows[d].current)
    (health : ∀ p : Fin 48, t.monitors[p].health = s.monitors[p].health)
    (items : ∀ i : Fin 51, i.val < 48 → t.alarm.items[i].severity = s.alarm.items[i].severity) : sourceItemsFollow t := by
  intro p i same
  rw [items i (same ▸ p.isLt), sourceSeverity_of owner legs current health]
  exact h p i same

/-- R119: once derived the source items follow. -/
theorem derived_follow (s : State) : sourceItemsFollow (deriveSources s) := by
  intro p i same
  obtain ⟨⟨-, items⟩, -⟩ := deriveSources_told s
  rw [(items i).2 p same.symm]

/-- Slots may change where no owner stands, and an owner where its legs stay. -/
theorem owner_of_slots {s t : State} {d : Fin 64} (timeline : t.store.timelines[d] = s.store.timelines[d])
    (air : ∀ n ∈ s.store.timelines[d], slotOnAir t.store.slots[n] = slotOnAir s.store.slots[n]) :
    ownerOf d t = ownerOf d s := by
  unfold ownerOf
  rw [timeline]
  exact List.find?_congr air

/-- An owner is a member of its timeline, and on air. -/
theorem owner_member {s : State} {d : Fin 64} {n : Fin 1024} (h : ownerOf d s = some n) :
    n ∈ s.store.timelines[d] ∧ slotOnAir s.store.slots[n] = true :=
  ⟨List.mem_of_find?_eq_some h, List.find?_some (p := fun k => slotOnAir s.store.slots[k]) h⟩

/-! ### The law is kept -/

theorem followed_alike {L : List Access} {s t : State} (h : alike s t) (k : followed L s) : followed L t := by
  obtain ⟨slots, timelines, held, -, current, health, items⟩ := h
  refine ⟨items_kept k.items (fun d => ?_) (fun d n _ p => by rw [slots]) current health items, fun n hn d => ?_⟩
  · exact owner_of_slots (by rw [timelines]) fun n _ => by rw [slots]
  · rw [timelines]
    exact k.left n (held ▸ hn) d

/-- The accounts and the accesses move no source item. -/
theorem followed_accounts {L : List Access} {s t : State} (h : t.store = s.store ∧ t.rows = s.rows ∧
    t.monitors = s.monitors ∧ t.alarm = s.alarm) (k : followed L s) : followed L t := by
  obtain ⟨store, rows, monitors, alarm⟩ := h
  refine ⟨items_kept k.items (fun d => owner_of_slots (by rw [store]) fun n _ => by rw [store])
    (fun d n _ p => by rw [store]) (fun d => by rw [rows]) (fun p => by rw [monitors]) fun i _ => by rw [alarm], ?_⟩
  rw [store]
  exact k.left

/-- A slot that stands in no timeline may change. -/
theorem items_outside {s t : State} {n : Fin 1024} (h : sourceItemsFollow s) (out : ∀ d : Fin 64, n ∉ s.store.timelines[d])
    (timelines : t.store.timelines = s.store.timelines) (others : ∀ i : Fin 1024, i ≠ n → t.store.slots[i] = s.store.slots[i])
    (rows : t.rows = s.rows) (monitors : t.monitors = s.monitors) (alarm : t.alarm = s.alarm) : sourceItemsFollow t := by
  have same : ∀ (d : Fin 64), ∀ i ∈ s.store.timelines[d], t.store.slots[i] = s.store.slots[i] := fun d i hi =>
    others i fun e => out d (e ▸ hi)
  refine items_kept h (fun d => ?_) (fun d i owner p => by rw [same d i (owner_member owner).1]) (fun d => by rw [rows])
    (fun p => by rw [monitors]) fun i _ => by rw [alarm]
  exact owner_of_slots (by rw [timelines]) fun i hi => by rw [same d i hi]

theorem followed_shown {L : List Access} {s : State} (n : Fin 1024) {b : Slot} (as : shownAs s.store.slots[n] b)
    (k : followed L s) : followed L (setSlot n b s) := by
  have slots : ∀ i : Fin 1024, (setSlot n b s).store.slots[i] = if n = i then b else s.store.slots[i] :=
    fun i => getFin_set s.store.slots n i b
  refine ⟨items_kept k.items (fun d => owner_of_slots rfl fun i _ => ?_) (fun d i _ p => ?_) (fun _ => rfl) (fun _ => rfl)
    fun _ _ => rfl, k.left⟩
  · rw [slots]
    split
    · next e =>
      subst e
      exact as.air
    · rfl
  · rw [slots]
    split
    · next e =>
      subst e
      rw [isLeg, isLeg, as.primary, as.backup]
    · rfl

/-- A booking that is not on air owns nothing, and may leave. -/
theorem followed_leave {L : List Access} {s : State} (n : Fin 1024) (off : slotOnAir s.store.slots[n] = false)
    (k : followed L s) : followed L (leaveTimeline n s) := by
  have members := (leftStore_alike n (leaveTimeline_store n s) (by simp)).members
  refine ⟨items_kept k.items (fun d => ?_) (fun d i _ p => rfl) (fun _ => rfl) (fun _ => rfl) fun _ _ => rfl,
    fun i hi d member => k.left i hi d (members d i member)⟩
  have timeline : (leaveTimeline n s).store.timelines[d] = _ := leftStore_get n s.store d
  unfold ownerOf
  rw [timeline]
  split
  · next same =>
    subst same
    rw [List.find?_filter]
    refine List.find?_congr fun i _ => ?_
    by_cases e : i = n
    · subst e
      exact (by simp : decide (decide (i ≠ i) = true ∧ _) = false).trans off.symm
    · simp [e, leaveTimeline_store, leftStore]
  · rfl

theorem followed_endClose {L : List Access} {s : State} {a : Access} {r : Raise} (own : closesFor a r s)
    (k : followed (a :: L) s) : followed L (endClose r s) := by
  have slot : closingSlot a = some r.slot := by
    rcases own with rfl | rfl | own
    · rfl
    · rfl
    · exact own.1
  have list := closings_cons_some slot L
  have perm : (heldSlots s.store ++ r.slot :: closings L).Perm (r.slot :: (heldSlots s.store ++ closings L)) :=
    List.perm_middle
  have left : ∀ n ∈ r.slot :: (heldSlots s.store ++ closings L), ∀ d : Fin 64, n ∉ s.store.timelines[d] := fun n hn =>
    k.left n (by rw [list]; exact perm.mem_iff.2 hn)
  have timelines : (endClose r s).store.timelines = s.store.timelines := by rw [endClose_store]
  have held : heldSlots (endClose r s).store = heldSlots s.store := by rw [endClose_store]; rfl
  refine ⟨items_outside (n := r.slot) k.items (left r.slot (by simp)) timelines (fun i hi => ?_) (by simp) (by simp)
    (by simp), fun n hn d => ?_⟩
  · rw [endClose_store]
    exact (getFin_set _ _ _ _).trans (if_neg (Ne.symm hi))
  · rw [timelines]
    exact left n (List.mem_cons_of_mem _ (held ▸ hn)) d

/-- The accesses count only by the closes they make. -/
theorem followed_closings {L M : List Access} {s : State} (fewer : ∀ n ∈ closings M, n ∈ closings L) (k : followed L s) :
    followed M s :=
  ⟨k.items, fun n hn d => k.left n (List.mem_append.2 ((List.mem_append.1 hn).imp_right (fewer n))) d⟩

theorem followed_none {L : List Access} {s : State} {a : Access} (none : closingSlot a = none) (k : followed L s) :
    followed (a :: L) s := followed_closings (fun n hn => by rwa [closings_cons_none none] at hn) k

theorem followed_tail {L : List Access} {s : State} {a : Access} (k : followed (a :: L) s) : followed L s :=
  followed_closings (fun _ hn => ((List.sublist_cons_self a L).filterMap closingSlot).subset hn) k

theorem followed_freeTotal {L : List Access} {s : State} (j : Fin 128) (k : followed (.totalWrite j :: L) s) :
    followed L (freeAccountSlot j s) := followed_accounts (s := s) ⟨rfl, rfl, rfl, rfl⟩ (followed_tail k)

theorem followed_stead {L : List Access} {s : State} {a b : Access} (slot : closingSlot b = closingSlot a)
    (k : followed (a :: L) s) : followed (b :: L) s :=
  followed_closings (fun n hn => by simpa only [closings, List.filterMap_cons, slot] using hn) k

/-- A booking that is not on air joins a timeline without owning its port. -/
theorem find_insertByStart (slots : Vector Slot 1024) (n : Fin 1024) (p : Fin 1024 → Bool) (off : p n = false)
    (l : List (Fin 1024)) : (insertByStart slots n l).find? p = l.find? p := by
  obtain ⟨before, after, whole, joined, -, -⟩ := insertByStart_split slots n l
  rw [joined, whole, List.find?_append, List.find?_append, List.find?_cons, off]

theorem followed_accept {L : List Access} {s : State} {n : Fin 1024} {r : BookRecord}
    (fresh : n ∉ heldSlots s.store ++ closings L) (out : ∀ d : Fin 64, n ∉ s.store.timelines[d]) (k : followed L s) :
    followed L (acceptBooking n (slotOfRecord r) s) := by
  have store := acceptBooking_store n (slotOfRecord r) s
  have slots : ∀ i : Fin 1024, (acceptBooking n (slotOfRecord r) s).store.slots[i] =
      if n = i then slotOfRecord r else s.store.slots[i] := fun i => by
    rw [store]
    exact getFin_set _ _ _ _
  have timelines : ∀ d : Fin 64, (acceptBooking n (slotOfRecord r) s).store.timelines[d] = if (slotOfRecord r).port = d then
      insertByStart (s.store.slots.set n (slotOfRecord r)) n s.store.timelines[(slotOfRecord r).port]
      else s.store.timelines[d] := fun d => by
    rw [store]
    exact getFin_set _ _ _ _
  have same : ∀ (d : Fin 64), ∀ i ∈ s.store.timelines[d],
      (acceptBooking n (slotOfRecord r) s).store.slots[i] = s.store.slots[i] := fun d i hi => by
    have other : n ≠ i := fun e => out d (e ▸ hi)
    rw [slots, if_neg other]
  have find : ∀ d : Fin 64, (acceptBooking n (slotOfRecord r) s).store.timelines[d].find?
      (fun i => slotOnAir (acceptBooking n (slotOfRecord r) s).store.slots[i]) = s.store.timelines[d].find?
      (fun i => slotOnAir (acceptBooking n (slotOfRecord r) s).store.slots[i]) := fun d => by
    rw [timelines]
    split
    · next e =>
      subst e
      exact find_insertByStart _ n _ (by rw [slots, if_pos rfl]; rfl) _
    · rfl
  refine ⟨items_kept k.items (fun d => ?_) (fun d i owner p => by rw [same d i (owner_member owner).1]) (fun d => by simp)
    (fun p => by simp) (fun i _ => by simp), fun i hi d member => ?_⟩
  · exact (find d).trans (List.find?_congr fun i hi => by rw [same d i hi])
  · have held : heldSlots (acceptBooking n (slotOfRecord r) s).store = heldSlots s.store := by rw [store]; rfl
    rw [held] at hi
    have other : i ≠ n := fun e => fresh (e ▸ hi)
    rw [timelines] at member
    split at member
    · obtain ⟨before, after, whole, joined, -, -⟩ := insertByStart_split (s.store.slots.set n (slotOfRecord r)) n
        s.store.timelines[(slotOfRecord r).port]
      refine k.left i hi (slotOfRecord r).port ?_
      rw [joined] at member
      rw [whole]
      simp only [List.mem_append, List.mem_cons] at member ⊢
      tauto
    · exact k.left i hi d member

theorem holdClose_held (n : Fin 1024) (minute : Nat) (s : State) :
    heldSlots (holdClose n minute s).store = heldSlots s.store ++ [n] := by simp [holdClose, heldSlots]

/-- The source items follow through all the work on bookings. -/
theorem followed_law : StoreLaw followed where
  sub h k := followed_closings (fun n hn => (closings_subperm h).subset hn) k
  same h k := followed_alike h k
  begun a k := by
    cases a with
    | raise r => exact followed_stead (a := .raise r) (b := .closeWrite r) rfl k
    | _ => exact k
  totalBegun j minute k := followed_stead (a := .totalCheck j minute) (b := .totalWrite j) rfl k
  neutral a ha k := by
    cases a with
    | raise r => exact absurd ha (by simp [neutralAccess])
    | closeWrite r => exact absurd ha (by simp [neutralAccess])
    | totalCheck j minute => exact absurd ha (by simp [neutralAccess])
    | totalWrite j => exact absurd ha (by simp [neutralAccess])
    | _ => exact followed_none rfl k
  account m _ _ k := followed_accounts (by simp) k
  endClose own k := followed_endClose own k
  freeTotal j k := followed_freeTotal j k
  moved h k := ⟨derived_follow _, fun n hn d member =>
    k.left n (by simpa [h.held] using hn) d (h.members d n (by simpa using member))⟩
  shown n _ as k := followed_shown n as k
  leave n off k := followed_leave n off k
  begin kind minute forOrder c k := by
    refine ⟨k.items, fun n hn => ?_⟩
    rw [closings_cons_some rfl] at hn
    rcases List.mem_cons.1 (List.perm_middle.mem_iff.1 hn) with rfl | hn
    · exact c.left
    · exact k.left n hn
  hold minute c k := by
    refine ⟨k.items, fun n hn => ?_⟩
    rw [holdClose_held, List.append_assoc] at hn
    rcases List.mem_cons.1 (List.perm_middle.mem_iff.1 hn) with rfl | hn
    · exact c.left
    · exact k.left n hn
  release holds k := by
    refine ⟨k.items, fun n hn => k.left n ?_⟩
    rw [closings_cons_some rfl] at hn
    have member := List.perm_middle.mem_iff.1 hn
    rw [heldSlots, holds]
    exact member
  accept _ fresh out _ _ k := followed_accept fresh out k
  total _ _ _ _ k := followed_none rfl k

/-! ### O7: the severities -/

theorem followed_of_items {s : State} (good : bookingsLawful s) (h : sourceItemsFollow s) : lawOf followed [] s := by
  rw [lawOf, List.append_nil]
  refine ⟨h, fun n hn d member => ?_⟩
  exact member_fresh good member hn

/-- After a hard reset every monitor is OUT_OF_SERVICE and every source item 0. -/
theorem items_empty {s : State} (monitors : ∀ p : Fin 48, s.monitors[p].health = .outOfService)
    (items : ∀ i : Fin 51, i.val < 48 → s.alarm.items[i].severity = 0) : sourceItemsFollow s := by
  intro p i same
  have health : healthOf p s = .outOfService := monitors p
  rw [items i (same ▸ p.isLt), sourceSeverity, health]

theorem hardReset_follows (s : State) : sourceItemsFollow (hardReset s) :=
  items_empty (fun p => congrArg Monitor.health (build_getFin (fun _ => Monitor.hardReset) p))
    (fun i _ => congrArg AlarmItem.severity (build_getFin _ i))

theorem resetRelease_follows (instant : Nat) {s : State} (h : sourceItemsFollow s) :
    sourceItemsFollow (resetRelease instant s) := by
  unfold resetRelease
  split
  · exact h
  · have base : followed [] (hardReset s) := ⟨hardReset_follows s, fun n hn => by cases hn⟩
    have released : followed [] (scheduleOwn instant { hardReset s with resetn := true }) :=
      followed_alike (s := hardReset s) (alike_of ⟨rfl, rfl, rfl, rfl, rfl⟩) base
    exact (followed_alike (setSeverity_alike (i := 48) (by decide) 2 _) released).items

theorem effect_follows (c : Instr) (s : State) (good : bookingsLawful s) (h : sourceItemsFollow s) :
    sourceItemsFollow (effect c s) :=
  effect_keeps h (hardReset_follows s) (fun instant => resetRelease_follows instant h)
    (fun _ c => (liveEffect_lawOf followed_law good (followed_of_items good h) c).items) c

/-- Settles O7: every command keeps the system items (`effect_items`), and the source items with the bookings on air
(`followed_law`). -/
theorem itemSeverityLawsKept : Obligations.ItemSeverityLawsKept := by
  refine ⟨fun s t items taken => ?_, fun s t books items taken => ?_⟩
  · exact step_keeps (P := systemItemsFollow) (fun _ _ h => h) effect_items items taken
  · have both := step_keeps (P := fun u => bookingsLawful u ∧ sourceItemsFollow u) (fun _ _ h => h)
      (fun c u h => ⟨effect_books c u h.1, effect_follows c u h.1 h.2⟩) ⟨books, items⟩ taken
    exact both.2

end Sys2Proof.Machine
end

section
/-! ### What the page logic owes is looked at by the page logic alone (R166) -/

namespace Sys2Proof.Machine

/-- s with the page logic owing the ticks given. -/
def owing (L : List OwedTick) (s : State) : State := { s with link := { s.link with pageTicks := L } }

/-- What f does is the same whatever the page logic owes. -/
def aloof (f : State → State) : Prop := ∀ (L : List OwedTick) (s : State), f (owing L s) = owing L (f s)

theorem aloof_comp {f g : State → State} (hf : aloof f) (hg : aloof g) : aloof fun s => f (g s) :=
  fun L s => (congrArg f (hg L s)).trans (hf L (g s))

/-- A branch whose condition does not look at what is owed. -/
theorem aloof_ite {c : State → Prop} [DecidablePred c] {f g : State → State} (cond : ∀ L s, c (owing L s) ↔ c s)
    (hf : aloof f) (hg : aloof g) : aloof fun s => if c s then f s else g s := by
  intro L s
  by_cases h : c s
  · simp only [if_pos h, if_pos ((cond L s).2 h)]
    exact hf L s
  · simp only [if_neg h, if_neg fun k => h ((cond L s).1 k)]
    exact hg L s

theorem aloof_id : aloof fun s => s := fun _ _ => rfl

/-- The parameter of an operation may depend on the state, but for what is owed. -/
theorem aloof_with {α : Type} {f : α → State → State} {x : State → α} (same : ∀ L s, x (owing L s) = x s)
    (hf : ∀ a, aloof (f a)) : aloof fun s => f (x s) s := by
  intro L s
  simp only [same]
  exact hf (x s) L s

/-! ### Flags, alarms and accounts -/

theorem setFlags_aloof (f : BitVec 7) : aloof (setFlags f) :=
  aloof_ite (c := fun s => s.link.flags = 0 ∧ f ≠ 0)
    (f := fun s => record .message { s with link := { s.link with flags := f } })
    (g := fun s => { s with link := { s.link with flags := f } }) (fun _ _ => Iff.rfl) (fun _ _ => rfl) fun _ _ => rfl

theorem latch_aloof (f : Flag) : aloof (latch f) :=
  aloof_ite (c := fun s => permitted f s = true) (fun _ _ => Iff.rfl)
    (aloof_with (x := fun s => s.link.flags ||| flagBit f) (fun _ _ => rfl) setFlags_aloof) aloof_id

theorem setSeverity_aloof (i : Fin 51) (v : Fin 4) : aloof (setSeverity i v) := by
  intro L s
  exact setFlags_aloof _ L { s with alarm := { s.alarm with items := s.alarm.items.set i (itemAt s.alarm.items[i] v) } }

theorem changeAccount_aloof (m : Nat) (f : Account → Account) : aloof (changeAccount m f) := by
  intro L s
  have same : accountOf m (owing L s) = accountOf m s := rfl
  rw [changeAccount, changeAccount, same]
  cases accountOf m s with
  | none => rfl
  | some k => rfl

theorem loseTicket_aloof (m : Option Nat) : aloof (loseTicket m) := by
  intro L s
  cases m with
  | none => exact latch_aloof .ticketLost L { s with tickets := { s.tickets with lost := s.tickets.lost + 1 } }
  | some m =>
    have unwritten := changeAccount_aloof m fun a => { a with unwritten := satAdd 65535 a.unwritten 1 }
    exact (aloof_comp (latch_aloof .ticketLost) unwritten :) L
      { s with tickets := { s.tickets with lost := s.tickets.lost + 1 } }

theorem endClose_aloof (r : Raise) : aloof (endClose r) := by
  intro L s
  have store : (changeAccount r.ticket.matchNumber lowerOpen (owing L s)) =
      owing L (changeAccount r.ticket.matchNumber lowerOpen s) := changeAccount_aloof _ _ L s
  rw [endClose, store]
  rfl

theorem loseRaise_aloof (r : Raise) : aloof (loseRaise r) := loseTicket_aloof _

theorem raiseNumber_aloof : aloof raiseNumber := fun _ _ => rfl

theorem freeAccountSlot_aloof (k : Fin 128) : aloof (freeAccountSlot k) := fun _ _ => rfl

theorem takeClose_aloof (r : Raise) : aloof (takeClose r) := changeAccount_aloof _ _

/-! ### The link -/

theorem dropAccess_aloof (a : Access) : aloof (dropAccess a) := by
  cases a with
  | raise r => exact (aloof_comp (endClose_aloof r) (aloof_comp (loseRaise_aloof r) raiseNumber_aloof) :)
  | closeWrite r => exact (aloof_comp (endClose_aloof r) (loseRaise_aloof r) :)
  | totalWrite k => exact (aloof_comp (freeAccountSlot_aloof k) (loseTicket_aloof none) :)
  | _ => exact aloof_id

theorem aloof_foldl {α : Type} {f : State → α → State} (h : ∀ a, aloof fun s => f s a) (l : List α) :
    aloof fun s => l.foldl f s := by
  induction l with
  | nil => exact aloof_id
  | cons a l ih => exact aloof_comp ih (h a)

theorem dropAccesses_aloof : aloof dropAccesses := by
  intro L s
  exact aloof_foldl (f := fun t a => dropAccess a t) dropAccess_aloof (droppedAccesses s) L (clearAccesses s)

theorem enterHeld_aloof : aloof enterHeld :=
  fun L s => latch_aloof .run L { s with link := { s.link with run := .held, pageDue := true } }

/-- R15: what is recorded of the first fault. -/
def faulted (s : State) : State :=
  { s with link := faultedLink s.link, orders := { s.orders with unit := stoppedUnit s.orders.unit } }

theorem takeBusFault_aloof : aloof takeBusFault := by
  have recorded : aloof fun s => setSeverity 50 3 (faulted s) := aloof_comp (setSeverity_aloof 50 3) fun _ _ => rfl
  exact aloof_ite (c := fun s => s.link.fatal = .bus) (fun _ _ => Iff.rfl) aloof_id
    (aloof_comp dropAccesses_aloof (aloof_ite (c := fun s => s.link.run = .held) (fun _ _ => Iff.rfl) recorded
      (aloof_comp enterHeld_aloof recorded)))

theorem sendWrite_aloof (w : HostWrite) : aloof (sendWrite w) := by
  intro L s
  have gate : (owing L s).link.gate = s.link.gate := rfl
  rw [sendWrite, sendWrite, gate]
  split
  · rfl
  · exact takeBusFault_aloof L s
  · rfl
  · rfl

theorem issue_aloof (w : HostWrite) : aloof (issue w) :=
  aloof_ite (c := fun s => linkOpen s = true) (fun _ _ => Iff.rfl) (sendWrite_aloof w) aloof_id

theorem issueAll_aloof (ws : List HostWrite) : aloof (issueAll ws) := aloof_foldl (f := fun t w => issue w t) issue_aloof ws

theorem issueRead_aloof (a : Address) (n : Nat) : aloof (issueRead a n) :=
  aloof_ite (c := fun s => readsOpen s = true) (fun _ _ => Iff.rfl) (fun _ _ => rfl) aloof_id

/-! ### The order unit -/

theorem setUnit_aloof (u : UnitState) : aloof (setUnit u) := fun _ _ => rfl

theorem takeEntry_aloof : aloof takeEntry :=
  aloof_ite (c := fun s => mayTake s = true) (fun _ _ => Iff.rfl)
    (aloof_comp (setUnit_aloof .reading)
      (aloof_with (x := fun s => areaAddress s (entryOffset s.orders.next)) (fun _ _ => rfl) fun a => issueRead_aloof a 24))
    aloof_id

theorem afterOrder_aloof : aloof afterOrder :=
  aloof_ite (c := fun s => s.link.haltWaiting = true) (fun _ _ => Iff.rfl)
    (aloof_comp enterHeld_aloof (g := fun s => { s with link := { s.link with haltWaiting := false } }) fun _ _ => rfl)
    takeEntry_aloof

theorem orderDone_aloof (notify : Bool) : aloof (orderDone notify) := by
  have passed : aloof fun s : State => { s with orders := passEntry s.orders } := fun _ _ => rfl
  cases notify with
  | false => exact (aloof_comp afterOrder_aloof passed :)
  | true => exact (aloof_comp afterOrder_aloof (aloof_comp (latch_aloof .order) passed) :)

theorem report_aloof (notify : Bool) (outcome : OutcomeCode) (result : List Byte) : aloof (report notify outcome result) := by
  have written : aloof fun s => issueAll (reportWrites s outcome result) (setUnit .reporting s) :=
    aloof_with (f := fun ws s => issueAll ws (setUnit .reporting s)) (x := fun s => reportWrites s outcome result)
      (fun _ _ => rfl) fun ws => aloof_comp (issueAll_aloof ws) (setUnit_aloof _)
  have last : aloof fun s => issue (stateWrite s outcome) s :=
    aloof_with (x := fun s => stateWrite s outcome) (fun _ _ => rfl) issue_aloof
  have done : aloof fun s => if linkOpen s = true then orderDone notify s else s :=
    aloof_ite (fun _ _ => Iff.rfl) (orderDone_aloof notify) aloof_id
  have whole : aloof fun s => if softResetting s = true then s else
      (fun t => if linkOpen t = true then orderDone notify t else t) (issue (stateWrite s outcome) s) :=
    aloof_ite (fun _ _ => Iff.rfl) aloof_id (aloof_comp done last)
  exact (aloof_comp whole written :)

theorem finishOrder_aloof (outcome : OutcomeCode) (result : List Byte) : aloof (finishOrder outcome result) := by
  intro L s
  have unit : (owing L s).orders.unit = s.orders.unit := rfl
  rw [finishOrder, finishOrder, unit]
  split
  · rfl
  all_goals first
    | exact report_aloof _ _ _ L s
    | rfl

theorem setStage_aloof (stage : Stage) : aloof (setStage stage) := by
  intro L s
  have unit : (owing L s).orders.unit = s.orders.unit := rfl
  rw [setStage, setStage, unit]
  split
  all_goals rfl

/-! ### The queue of accesses -/

theorem setInFlight_aloof (a : Option Access) : aloof (setInFlight a) := fun _ _ => rfl

theorem recordClose_aloof (r : Raise) : aloof (recordClose r) :=
  aloof_with (x := closeWrites r) (fun _ _ => rfl) issueAll_aloof

theorem finishClose_aloof (r : Raise) (number : BitVec 32) : aloof (finishClose r number) := by
  unfold finishClose
  split
  · exact aloof_comp (finishOrder_aloof _ _) (endClose_aloof r)
  · exact endClose_aloof r

theorem lostClose_aloof (r : Raise) : aloof (lostClose r) :=
  aloof_with (f := fun number s => finishClose r number (recordClose r s)) (x := fun s => s.tickets.number) (fun _ _ => rfl)
    fun number => aloof_comp (finishClose_aloof r number) (recordClose_aloof r)

/-- A read goes out, and its access waits for it. -/
theorem await_aloof (a : Access) (n : Nat) {address : State → Address} (same : ∀ L s, address (owing L s) = address s) :
    aloof fun s => setInFlight (some a) (issueRead (address s) n s) :=
  aloof_comp (setInFlight_aloof _) (aloof_with (f := fun x s => issueRead x n s) same fun x => issueRead_aloof x n)

theorem beginAccess_aloof (a : Access) : aloof (beginAccess a) := by
  cases a with
  | write w => exact issue_aloof w
  | report outcome result => exact finishOrder_aloof outcome result
  | raise r =>
    exact aloof_ite (c := fun s => linkOpen s = true) (fun _ _ => Iff.rfl)
      (aloof_with (f := fun x s => setInFlight (some (.raise r)) (issueRead x 1 (raiseNumber s))) (x := ringSlotAddress)
        (fun _ _ => rfl) fun x => aloof_comp (setInFlight_aloof _) (aloof_comp (issueRead_aloof x 1) raiseNumber_aloof))
      (aloof_comp (lostClose_aloof r) (aloof_comp (loseRaise_aloof r) raiseNumber_aloof))
  | closeWrite r => exact aloof_id
  | totalWrite k => exact aloof_id
  | totalCheck k minute =>
    exact aloof_ite (c := fun s => readsOpen s = true) (fun _ _ => Iff.rfl) (await_aloof _ 1 (address := ringSlotAddress)
      fun _ _ => rfl) (setStage_aloof _)
  | recheck =>
    exact aloof_ite (c := fun s => (s.tickets.blocked && linkOpen s) = true) (fun _ _ => Iff.rfl)
      (await_aloof _ 1 (address := ringSlotAddress) fun _ _ => rfl) aloof_id
  | recordRead n =>
    exact aloof_ite (c := fun s => readsOpen s = true) (fun _ _ => Iff.rfl)
      (await_aloof _ 20 (address := fun s => recordAddress s n) fun _ _ => rfl) (setStage_aloof _)

theorem pump_aloof (accesses : List Access) : aloof (pump accesses) := by
  induction accesses with
  | nil => exact aloof_id
  | cons a rest ih =>
    exact aloof_ite (c := fun s => s.tickets.inFlight.isSome = true) (fun _ _ => Iff.rfl)
      (f := fun s => { s with tickets := { s.tickets with waiting := a :: rest } }) (fun _ _ => rfl)
      (aloof_comp ih (beginAccess_aloof a))

theorem pumpWaiting_aloof : aloof pumpWaiting :=
  aloof_with (f := fun l s => pump l { s with tickets := { s.tickets with waiting := [] } }) (x := fun s => s.tickets.waiting)
    (fun _ _ => rfl)
    fun l => aloof_comp (pump_aloof l) (g := fun s => { s with tickets := { s.tickets with waiting := [] } }) fun _ _ => rfl

theorem submit_aloof (accesses : List Access) : aloof (submit accesses) :=
  aloof_comp pumpWaiting_aloof (g := fun s => { s with tickets := { s.tickets with waiting := s.tickets.waiting ++ accesses } })
    fun _ _ => rfl

/-! ### The read of the state byte -/

theorem unblockRing_aloof : aloof unblockRing :=
  aloof_ite (c := fun s => s.tickets.blocked = true) (fun _ _ => Iff.rfl)
    (aloof_comp (setSeverity_aloof 49 0) (g := fun s => { s with tickets := { s.tickets with blocked := false } })
      fun _ _ => rfl) aloof_id

theorem blockRing_aloof : aloof blockRing :=
  aloof_ite (c := fun s => s.tickets.blocked = true) (fun _ _ => Iff.rfl) aloof_id
    (aloof_comp (setSeverity_aloof 49 2) (g := fun s => { s with tickets := { s.tickets with blocked := true } })
      fun _ _ => rfl)

theorem ticketWritten_aloof : aloof ticketWritten :=
  (aloof_comp unblockRing_aloof (aloof_comp (latch_aloof .ticket)
    (g := fun s => { s with tickets := { s.tickets with writePosition := nextPosition s.tickets } }) fun _ _ => rfl) :)

theorem writeClose_aloof (r : Raise) : aloof (writeClose r) := by
  have ticket : aloof fun s => issueAll (ticketWrites r.ticket s) (setInFlight (some (.closeWrite r)) s) :=
    aloof_with (f := fun ws s => issueAll ws (setInFlight (some (.closeWrite r)) s)) (x := ticketWrites r.ticket)
      (fun _ _ => rfl) fun ws => aloof_comp (issueAll_aloof ws) (setInFlight_aloof _)
  have finish : ∀ number, aloof fun s =>
      if s.tickets.inFlight.isSome = true then finishClose r number (setInFlight none s) else s := fun number =>
    aloof_ite (fun _ _ => Iff.rfl) (aloof_comp (finishClose_aloof r number) (setInFlight_aloof none)) aloof_id
  have recorded : ∀ number, aloof fun s => if s.tickets.inFlight.isSome = true then
      (fun t => if t.tickets.inFlight.isSome = true then finishClose r number (setInFlight none t) else t)
        (recordClose r (ticketWritten s)) else s := fun number =>
    aloof_ite (fun _ _ => Iff.rfl) (aloof_comp (finish number) (aloof_comp (recordClose_aloof r) ticketWritten_aloof)) aloof_id
  exact aloof_with (f := fun number s => (fun u => if u.tickets.inFlight.isSome = true then
      (fun t => if t.tickets.inFlight.isSome = true then finishClose r number (setInFlight none t) else t)
        (recordClose r (ticketWritten u)) else u) (issueAll (ticketWrites r.ticket s) (setInFlight (some (.closeWrite r)) s)))
    (x := fun s => s.tickets.number) (fun _ _ => rfl) fun number => aloof_comp (recorded number) ticket

theorem raiseRead_aloof (r : Raise) (empty : Bool) : aloof (raiseRead r empty) := by
  cases empty with
  | true => exact (aloof_comp (writeClose_aloof r) (setInFlight_aloof none) :)
  | false =>
    exact (aloof_comp (lostClose_aloof r) (aloof_comp blockRing_aloof (aloof_comp (loseRaise_aloof r)
      (setInFlight_aloof none))) :)

/-- R157: the ticket of an account is written, and the account is freed. -/
def writeTotal (k : Fin 128) (a : Account) (minute : Nat) (s : State) : State :=
  if (issueAll (ticketWrites (totalTicket a minute) s) s).tickets.inFlight.isSome then
    finishOrder .ok (accountSnapshot a ++ le 4 s.tickets.number.toNat)
      (freeAccountSlot k (ticketWritten (setInFlight none (issueAll (ticketWrites (totalTicket a minute) s) s))))
  else issueAll (ticketWrites (totalTicket a minute) s) s

theorem writeTotal_aloof (k : Fin 128) (a : Account) (minute : Nat) : aloof (writeTotal k a minute) := by
  have written : aloof fun s => issueAll (ticketWrites (totalTicket a minute) s) s :=
    aloof_with (x := ticketWrites (totalTicket a minute)) (fun _ _ => rfl) issueAll_aloof
  have finish : ∀ result, aloof fun s => if s.tickets.inFlight.isSome = true then
      finishOrder .ok result (freeAccountSlot k (ticketWritten (setInFlight none s))) else s := fun result =>
    aloof_ite (fun _ _ => Iff.rfl) (aloof_comp (finishOrder_aloof .ok result) (aloof_comp (freeAccountSlot_aloof k)
      (aloof_comp ticketWritten_aloof (setInFlight_aloof none)))) aloof_id
  exact aloof_with (f := fun result s => (fun t => if t.tickets.inFlight.isSome = true then
      finishOrder .ok result (freeAccountSlot k (ticketWritten (setInFlight none t))) else t)
      (issueAll (ticketWrites (totalTicket a minute) s) s)) (x := fun s => accountSnapshot a ++ le 4 s.tickets.number.toNat)
    (fun _ _ => rfl) fun result => aloof_comp (finish result) written

theorem totalRead_aloof (k : Fin 128) (minute : Nat) (empty : Bool) : aloof (totalRead k minute empty) := by
  cases empty with
  | true =>
    exact aloof_with (f := fun a s => writeTotal k a minute (setInFlight (some (.totalWrite k)) (raiseNumber s)))
      (x := fun s => s.accounts[k]) (fun _ _ => rfl)
      fun a => aloof_comp (writeTotal_aloof k a minute) (aloof_comp (setInFlight_aloof _) raiseNumber_aloof)
  | false =>
    exact aloof_with (f := fun a s => finishOrder .ringFull (accountSnapshot a) (setInFlight none s))
      (x := fun s => s.accounts[k]) (fun _ _ => rfl)
      fun a => aloof_comp (finishOrder_aloof _ _) (setInFlight_aloof none)

theorem ticketSlotRead_aloof (state : Byte) : aloof (ticketSlotRead state) := by
  intro L s
  have flight : (owing L s).tickets.inFlight = s.tickets.inFlight := rfl
  rw [ticketSlotRead, ticketSlotRead, flight]
  split
  · exact aloof_comp pumpWaiting_aloof (raiseRead_aloof _ _) L s
  · exact aloof_comp pumpWaiting_aloof (totalRead_aloof _ _ _) L s
  · cases state == 0 with
    | true => exact aloof_comp pumpWaiting_aloof (aloof_comp unblockRing_aloof (setInFlight_aloof none)) L s
    | false => exact aloof_comp pumpWaiting_aloof (setInFlight_aloof none) L s
  all_goals rfl

/-! ### A close released, and a record read -/

theorem makeRecheck_aloof : aloof makeRecheck :=
  aloof_comp (submit_aloof [.recheck]) (g := fun s => { s with tickets := { s.tickets with recheckIn := none } })
    fun _ _ => rfl

theorem countRecheck_aloof : aloof countRecheck := by
  intro L s
  have waits : (owing L s).tickets.recheckIn = s.tickets.recheckIn := rfl
  rw [countRecheck, countRecheck, waits]
  split
  · rfl
  · exact makeRecheck_aloof L s
  · rfl

theorem lastRecheck_aloof : aloof lastRecheck :=
  aloof_ite (c := fun s => (s.tickets.recheckIn.isSome && s.store.holds.isEmpty) = true) (fun _ _ => Iff.rfl)
    makeRecheck_aloof aloof_id

theorem settleClose_aloof (kind : TicketKind) (n : Fin 1024) (minute : Nat) (forOrder : Bool) :
    aloof (settleClose kind n minute forOrder) :=
  aloof_with (f := fun r s => submit [.raise r] (takeClose r s)) (x := closeRaise kind n minute forOrder) (fun _ _ => rfl)
    fun r => aloof_comp (submit_aloof _) (takeClose_aloof r)

theorem releaseFirst_aloof : aloof releaseFirst := by
  intro L s
  have holds : (owing L s).store.holds = s.store.holds := rfl
  rw [releaseFirst, releaseFirst, holds]
  split
  · next first rest _ =>
    split
    · exact aloof_comp lastRecheck_aloof (aloof_comp countRecheck_aloof
        (settleClose_aloof .booking first.slot first.closeMinute false)) L { s with store := { s.store with holds := rest } }
    · rfl
  · rfl

theorem openBooking_aloof (m : Nat) : aloof (openBooking m) := by
  intro L s
  have account : accountOf m (owing L s) = accountOf m s := rfl
  have free : freeAccount (owing L s) = freeAccount s := rfl
  rw [openBooking, openBooking, account, free]
  split
  · rfl
  · split
    · rfl
    · rfl

theorem acceptBooking_aloof (n : Fin 1024) (b : Slot) : aloof (acceptBooking n b) :=
  aloof_comp (f := setMeter n Meter.cleared) (fun _ _ => rfl) (aloof_comp (openBooking_aloof b.matchNumber)
    (g := fun s => joinTimeline n (setSlot n b s)) fun _ _ => rfl)

theorem bookFromRecord_aloof (n : Fin 1024) (r : BookRecord) : aloof (bookFromRecord n r) := by
  intro L s
  have checks : bookRefusal r (owing L s) = bookRefusal r s := rfl
  rw [bookFromRecord, bookFromRecord, checks]
  split
  · exact submit_aloof _ L s
  · split
    · next code _ =>
      exact aloof_with (x := fun s => (refuseWrites n code s).map Access.write ++ [.report code (refusalResult code r s)])
        (fun _ _ => rfl) submit_aloof L s
    · exact aloof_with (f := fun l s => submit l (acceptBooking n (slotOfRecord r) s))
        (x := fun s => (acceptWrites n s).map Access.write ++ [.report .ok (acceptResult n (slotOfRecord r))])
        (fun _ _ => rfl) (fun l => aloof_comp (submit_aloof l) (acceptBooking_aloof n _)) L s

theorem bookRecordRead_aloof (bytes : Vector Byte 20) : aloof (bookRecordRead bytes) := by
  intro L s
  have flight : (owing L s).tickets.inFlight = s.tickets.inFlight := rfl
  rw [bookRecordRead, bookRecordRead, flight]
  split
  · exact aloof_comp (bookFromRecord_aloof _ _) (setInFlight_aloof none) L s
  all_goals rfl

/-! ### O32: the page logic -/

/-- An operation that does not look at what is owed leaves it. -/
theorem aloof_owed {f : State → State} (h : aloof f) (s : State) : (f s).link.pageTicks = s.link.pageTicks := by
  have same : owing s.link.pageTicks s = s := rfl
  rw [← same, h s.link.pageTicks s]
  rfl

/-- R166: what the page logic does behind an operation that does not look at what it owes. -/
theorem settled_behind {f : State → State} (h : aloof f) (s : State) :
    settlePage (f (owing [] s)) = owing [] (f s) ∧
      settlePage (f s) = withPage (settlePage (f s)) (f s) ∧
      owedPaged s.link.pageTicks (f s) (settlePage (f s)) := by
  obtain ⟨page, owed⟩ := settlePage_taken (f s)
  rw [aloof_owed h] at owed
  exact ⟨by rw [h [] s]; exact settlePage_none rfl, page, owed⟩

theorem owing_back {f : State → State} (h : aloof f) (s : State) : owing s.link.pageTicks (owing [] (f s)) = f s := by
  rw [← aloof_owed h s]
  rfl

/-- R167: the writes of a page go out, and PAGE is latched. -/
theorem pageComplete_free {s : State} (free : linkFree s) {ws : List HostWrite} (page : s.link.page = some ws) :
    pageComplete s = withLatched .page { s with link := { s.link with
      page := none
      log := s.link.log ++ ws.map .write } } := by
  obtain ⟨-, link, gate⟩ := free
  have written := issueAll_open ws link gate
  have flight : (logged (ws.map LinkOp.write) s).link.page.isSome = true := by
    have same : (logged (ws.map LinkOp.write) s).link.page = s.link.page := rfl
    rw [same, page]
    rfl
  rw [pageComplete, page]
  dsimp only
  rw [written, if_pos flight, latch_eq]
  rfl

/-- Settles O32: the page goes out on the free link, and the operations of the other two blocks do not look at what the page
logic owes (`settled_behind`). -/
theorem pageCompleted : Obligations.PageCompleted := by
  refine ⟨fun s free => ⟨fun none => ?_, fun ws page => ?_⟩, fun c s free _ command => ?_⟩
  · rw [exec_live free.1 (by simp) (by simp)]
    exact congrArg _ (by rw [liveEffect, pageComplete, none])
  · rw [exec_live free.1 (by simp) (by simp)]
    exact congrArg _ (pageComplete_free free page)
  · have behind : ∀ {f : State → State}, aloof f → (∀ t : State, t.resetn = true → exec c t = .next (settlePage (f t))) →
        ∃ u t, exec c { s with link := { s.link with pageTicks := [] } } = .next u ∧ exec c s = .next t ∧
          let v : State := { u with link := { u.link with pageTicks := s.link.pageTicks } }
          t = withPage t v ∧ owedPaged s.link.pageTicks v t := fun {f} h run => by
      obtain ⟨alone, page, owed⟩ := settled_behind h s
      refine ⟨owing [] (f s), settlePage (f s), (run (owing [] s) free.1).trans (congrArg _ alone), run s free.1, ?_⟩
      have back : ({ owing [] (f s) with link := { (owing [] (f s)).link with pageTicks := s.link.pageTicks } } : State) = f s :=
        owing_back h s
      dsimp only
      rw [back]
      exact ⟨page, owed⟩
    rcases command with rfl | ⟨state, rfl⟩ | ⟨bytes, rfl⟩
    · exact behind releaseFirst_aloof fun t high => exec_live high (by simp) (by simp)
    · exact behind (ticketSlotRead_aloof state) fun t high => exec_live high (by simp) (by simp)
    · exact behind (bookRecordRead_aloof bytes) fun t high => exec_live high (by simp) (by simp)

end Sys2Proof.Machine
end

section
/-! ### A second tick at the line monitors and the crosspoint, block by block (R34, R79, R84; log 5, log 8) -/

namespace Sys2Proof.Machine

/-! ### The severities of the source items in the course of a tick (R119, R122) -/

/-- R119: the severity of a source item, from the health of its port and whether it carries a booking or is a leg of one. -/
def severityOf (health : Health) (carries leg : Bool) : Fin 4 :=
  match health with
  | .failed => if carries then 3 else if leg then 2 else 1
  | .recovering => 1
  | .ok | .suspect | .outOfService => 0

theorem sourceSeverity_eq (p : Fin 48) (s : State) :
    sourceSeverity p s = severityOf s.monitors[p].health (carriesBooking p s) (legOfBooking p s) := by
  unfold sourceSeverity severityOf healthOf
  cases s.monitors[p].health <;> rfl

/-- A FAILED port has the highest severity. -/
theorem severityOf_failed (health : Health) (carries leg : Bool) :
    severityOf health carries leg ≤ severityOf .failed carries leg := by
  cases health <;> cases carries <;> cases leg <;> decide

/-- Where health and carrier each change at most once, the severity never dips below both its ends. -/
theorem severityOf_between {first now last : Health} {carried carries carrying : Bool} (leg : Bool)
    (health : now = first ∨ now = last) (carrier : carries = carried ∨ carries = carrying) :
    min (severityOf first carried leg) (severityOf last carrying leg) ≤ severityOf now carries leg := by
  rcases health with rfl | rfl <;> rcases carrier with rfl | rfl
  · exact min_le_left _ _
  · cases now
    case failed => exact (min_le_right _ _).trans (severityOf_failed last carries leg)
    all_goals exact min_le_left _ _
  · cases now
    case failed => exact (min_le_left _ _).trans (severityOf_failed first carries leg)
    all_goals exact min_le_right _ _
  · exact min_le_right _ _

/-! ### ALARM and the other flags -/

/-- R130: ALARM at its level moves no other flag. -/
theorem withAlarmLevel_others (f : BitVec 7) (level : Bool) :
    withAlarmLevel f level &&& ~~~flagBit .alarm = f &&& ~~~flagBit .alarm := by
  revert f level
  decide

theorem withAlarmLevel_eq (f : BitVec 7) (level : Bool) :
    withAlarmLevel f level = (f &&& ~~~flagBit .alarm) ||| (if level then flagBit .alarm else 0) := by
  revert f level
  decide

/-- Where the other flags agree, so do the flags with ALARM at one level. -/
theorem withAlarmLevel_congr {f g : BitVec 7} (h : f &&& ~~~flagBit .alarm = g &&& ~~~flagBit .alarm) (level : Bool) :
    withAlarmLevel f level = withAlarmLevel g level := by
  rw [withAlarmLevel_eq, withAlarmLevel_eq, h]

/-- R172: with a flag set no message goes out. -/
theorem messages_set {f : BitVec 7} (g : BitVec 7) (h : f &&& ~~~flagBit .alarm ≠ 0) : messages f g = [] := by
  refine if_neg fun k => h ?_
  rw [k.1]
  decide

theorem messages_some (f g : BitVec 7) : ∃ n, messages f g = List.replicate n .message := by
  by_cases sent : f = 0 ∧ g ≠ 0
  · exact ⟨1, if_pos sent⟩
  · exact ⟨0, if_neg sent⟩

/-! ### What a tick makes of the alarm items -/

/-- R119, R122, R130, R165: the alarm items, the flags and the page due mark from u to s, where `made` says that a health has
changed or a selection has been executed in between. -/
structure itemsTold (made : Prop) (u s : State) : Prop where
  still : ¬made → s.alarm = u.alarm ∧ s.link.flags = u.link.flags ∧ s.link.log = u.link.log ∧
    s.link.pageDue = u.link.pageDue
  follow : sourceItemsFollow u → sourceItemsFollow s
  told : made → sourceItemsFollow s ∧ s.link.flags = withAlarmLevel u.link.flags (alarmLevel s) ∧ s.link.pageDue = true
  system : ∀ i : Fin 51, 48 ≤ i.val → s.alarm.items[i] = u.alarm.items[i]
  lowered : ∀ i : Fin 51, s.alarm.items[i].acked ≤ u.alarm.items[i].acked
  acked : sourceItemsFollow u → acksBounded u →
    ∀ i : Fin 51, s.alarm.items[i].acked = min u.alarm.items[i].acked s.alarm.items[i].severity
  silent : u.link.flags &&& ~~~flagBit .alarm ≠ 0 → s.link.log = u.link.log
  sent : ∃ n, s.link.log = u.link.log ++ List.replicate n .message

theorem itemsTold_refl (u : State) : itemsTold False u u :=
  ⟨fun _ => ⟨rfl, rfl, rfl, rfl⟩, id, fun h => h.elim, fun _ _ => rfl, fun _ => le_rfl,
    fun _ bounded i => (min_eq_left (bounded i)).symm, fun _ => rfl, 0, (List.append_nil _).symm⟩

/-- No flag but ALARM moves. -/
theorem itemsTold_others {made : Prop} {u s : State} (h : itemsTold made u s) :
    s.link.flags &&& ~~~flagBit .alarm = u.link.flags &&& ~~~flagBit .alarm := by
  by_cases m : made
  · obtain ⟨-, flags, -⟩ := h.told m
    rw [flags, withAlarmLevel_others]
  · obtain ⟨-, flags, -, -⟩ := h.still m
    rw [flags]

/-- What leaves the alarm ranking unit and the link registers. -/
theorem itemsTold_quiet {made now : Prop} {u s t : State} (h : itemsTold made u s) (same : now ↔ made)
    (alarm : t.alarm = s.alarm) (link : t.link = s.link) (follow : sourceItemsFollow s → sourceItemsFollow t) :
    itemsTold now u t := by
  have level : alarmLevel t = alarmLevel s := by rw [alarmLevel, alarmLevel, permitted, permitted, alarm, link]
  obtain ⟨still, followed, told, system, lowered, acked, silent, sent⟩ := h
  refine ⟨fun k => ?_, fun k => follow (followed k), fun k => ?_, ?_, ?_, ?_, ?_, ?_⟩
  · rw [alarm, link]
    exact still fun m => k (same.2 m)
  · obtain ⟨follows, flags, due⟩ := told (same.1 k)
    rw [link, level]
    exact ⟨follow follows, flags, due⟩
  · rw [alarm]; exact system
  · rw [alarm]; exact lowered
  · rw [alarm]; exact acked
  · rw [link]; exact silent
  · rw [link]; exact sent

/-- R119, R122: a change of R94 or R77 has the source items derived anew. -/
theorem itemsTold_derived {made : Prop} {u s v : State} (h : itemsTold made u s) (alarm : v.alarm = s.alarm)
    (link : v.link = s.link)
    (between : ∀ p, min (sourceSeverity p u) (sourceSeverity p v) ≤ sourceSeverity p s) :
    itemsTold True u (markPage (deriveSources v)) := by
  have others := itemsTold_others h
  obtain ⟨-, follow, -, system, lowered, acked, silent, sent⟩ := h
  have follows : sourceItemsFollow (markPage (deriveSources v)) := derived_follow v
  obtain ⟨⟨-, items⟩, flags⟩ := deriveSources_told v
  have written := (congrArg (fun t : State => t.link.log) (deriveSources_eq v)).trans
    (show _ = v.link.log ++ messages v.link.flags _ from rfl)
  have system' : ∀ i : Fin 51, 48 ≤ i.val → (deriveSources v).alarm.items[i] = u.alarm.items[i] := fun i hi => by
    rw [(items i).1 hi, alarm, system i hi]
  have item : ∀ i : Fin 51, ∀ p : Fin 48, p.val = i.val → (deriveSources v).alarm.items[i].acked =
      min s.alarm.items[i].acked (deriveSources v).alarm.items[i].severity := fun i p hp => by
    rw [(items i).2 p hp, alarm]
  rw [link] at flags written
  refine ⟨fun k => absurd trivial k, fun _ => follows, fun _ => ⟨follows, ?_, rfl⟩, system', fun i => ?_, fun ruled bounded i => ?_, fun k => ?_, ?_⟩
  · exact flags.trans (withAlarmLevel_congr others _)
  · show (deriveSources v).alarm.items[i].acked ≤ _
    by_cases hi : 48 ≤ i.val
    · rw [system' i hi]
    · rw [item i ⟨i.val, by omega⟩ rfl]
      exact (min_le_left _ _).trans (lowered i)
  · show (deriveSources v).alarm.items[i].acked = min _ (deriveSources v).alarm.items[i].severity
    by_cases hi : 48 ≤ i.val
    · rw [system' i hi]
      exact (min_eq_left (bounded i)).symm
    · have hp : i.val = (⟨i.val, by omega⟩ : Fin 48).val := rfl
      have after : (deriveSources v).alarm.items[i].severity = sourceSeverity ⟨i.val, by omega⟩ v := by
        rw [(items i).2 _ hp.symm]
        exact sourceSeverity_congr (by simp) (by simp) (by simp) (by simp) _
      rw [item i _ hp.symm, acked ruled bounded i, after, follow ruled _ i hp, min_assoc]
      have first : u.alarm.items[i].acked ≤ sourceSeverity ⟨i.val, by omega⟩ u := ruled _ i hp ▸ bounded i
      refine le_antisymm (le_min (min_le_left _ _) ((min_le_right _ _).trans (min_le_right _ _)))
        (le_min (min_le_left _ _) (le_min ((min_le_min_right _ first).trans (between _)) (min_le_right _ _)))
  · rw [← others] at k
    refine (show _ = (deriveSources v).link.log from rfl).trans (written.trans ?_)
    rw [messages_set _ k, List.append_nil]
    exact silent (others ▸ k)
  · obtain ⟨n, e⟩ := sent
    obtain ⟨m, e'⟩ := messages_some s.link.flags _
    refine ⟨n + m, written.trans ?_⟩
    rw [e', e, List.append_assoc, List.replicate_add]

end Sys2Proof.Machine
end

section
/-! ### A second tick in progress (R34, R79, R84; log 5, log 8) -/

namespace Sys2Proof.Machine

/-- What the blocks that take a tick move. -/
def tickMoved (u s : State) : Prop :=
  s = { u with
    rows := s.rows
    crosspointAhead := s.crosspointAhead
    monitors := s.monitors
    alarm := { u.alarm with items := s.alarm.items }
    link := { u.link with
      flags := s.link.flags
      log := s.link.log
      pageDue := s.link.pageDue } }

theorem tickMoved_refl (u : State) : tickMoved u u := rfl

theorem tickMoved_trans {u s t : State} (h : tickMoved u s) (k : tickMoved s t) : tickMoved u t := by
  unfold tickMoved at *
  rw [k, h]

theorem tickMoved_derived {s v : State} (h : tickMoved s v) : tickMoved s (markPage (deriveSources v)) := by
  refine tickMoved_trans h ?_
  rw [deriveSources_eq]
  rfl

/-- The store and the clock take no part. -/
theorem tickMoved_stays {u s : State} (h : tickMoved u s) : s.store = u.store ∧ s.clock = u.clock := by
  rw [h]
  exact ⟨rfl, rfl⟩

/-- R110: the part after a health change, before the alarm ranking unit follows. -/
theorem healthTold_moved (p : Fin 48) (m : Monitor) (s : State) : protectHealth p (setMonitor p m s) =
    { s with rows := (protectHealth p (setMonitor p m s)).rows, monitors := s.monitors.set p m } := by
  have frame := protectPorts_frame (fun b => isLeg b p) (List.finRange 64) (setMonitor p m s)
  exact frame

/-- R79: the tick of the crosspoint with nothing to execute. -/
theorem crosspointTick_idle {s : State} (h : ¬(s.clock.frameref = .lost ∧ ∃ d : Fin 64, s.rows[d].pending.isSome = true)) :
    crosspointTick s = tickRows s := by
  unfold crosspointTick
  by_cases lost : s.clock.frameref = .lost
  · rw [if_pos lost]
    refine switchPoint_idle false fun d => ?_
    rw [(tickRows_same s d).2]
    simpa using fun e => h ⟨lost, d, e⟩
  · rw [if_neg lost]

/-- R76, R77: the tick of the crosspoint that executes a selection. -/
theorem crosspointTick_executed {s : State} (lost : s.clock.frameref = .lost)
    (h : ∃ d : Fin 64, s.rows[d].pending.isSome = true) :
    crosspointTick s = markPage (deriveSources (switched false (tickRows s))) := by
  unfold crosspointTick
  rw [if_pos lost]
  obtain ⟨d, pending⟩ := h
  exact switchPoint_executed false ⟨d, by rw [(tickRows_same s d).2]; exact pending⟩

theorem tickRows_row (s : State) (d : Fin 64) : (tickRows s).rows[d] = tickRow (ownerOf d s).isSome s.rows[d] :=
  build_getFin _ d

/-- R79: the row of a port after the tick of the crosspoint, but for its source and its pending selection. -/
theorem crosspointTick_books (s : State) (d : Fin 64) : (crosspointTick s).rows[d] =
    { tickRow (ownerOf d s).isSome s.rows[d] with
      current := (crosspointTick s).rows[d].current
      pending := (crosspointTick s).rows[d].pending } := by
  by_cases executed : s.clock.frameref = .lost ∧ ∃ d : Fin 64, s.rows[d].pending.isSome = true
  · rw [crosspointTick_executed executed.1 executed.2, deriveSources_row, switched_row, tickRows_row, Bool.and_false,
      Bool.or_false]
  · rw [crosspointTick_idle executed, tickRows_row]

/-- R78: while FRAMEREF is PRESENT a tick is no switch point. -/
theorem crosspointTick_present {s : State} (h : s.clock.frameref = .present) (d : Fin 64) :
    (crosspointTick s).rows[d].current = s.rows[d].current := by
  have idle := crosspointTick_idle (s := s) (by rw [h]; simp)
  rw [idle]
  exact (tickRows_same s d).1

/-- R76: what becomes of the selection of a port with no owner. -/
theorem crosspointTick_unowned {s : State} {d : Fin 64} (h : ownersHome s) (free : ownerOf d s = none) :
    sameSelection (crosspointTick s).rows[d] (if tickSwitches s then selectionTaken s.rows[d] else s.rows[d]) := by
  have tick := tickRows_same s d
  by_cases executed : s.clock.frameref = .lost ∧ ∃ d : Fin 64, s.rows[d].pending.isSome = true
  · have switches : tickSwitches s = true := decide_eq_true executed.1
    rw [crosspointTick_executed executed.1 executed.2, deriveSources_row, switched_selection false (by exact h),
      if_pos switches]
    have none : ownerOf d (tickRows s) = none := free
    by_cases pending : (tickRows s).rows[d].pending.isSome = true
    · rw [if_pos pending, toldRow, none]
      exact switchRow_same false tick
    · rw [if_neg pending]
      refine sameSelection_trans tick ?_
      rw [tick.2] at pending
      exact ⟨(selectionTaken_none pending).1.symm, (selectionTaken_none pending).2.symm⟩
  · rw [crosspointTick_idle executed]
    by_cases lost : s.clock.frameref = .lost
    · rw [if_pos (show tickSwitches s = true from decide_eq_true lost)]
      have idle : ¬s.rows[d].pending.isSome = true := fun e => executed ⟨lost, d, e⟩
      exact sameSelection_trans tick ⟨(selectionTaken_none idle).1.symm, (selectionTaken_none idle).2.symm⟩
    · rw [if_neg (show ¬tickSwitches s = true from fun e => lost (of_decide_eq_true e))]
      exact tick

/-- R110: a monitor moves pending selections alone. -/
theorem updateMonitor_pending (p : Fin 48) (m : Monitor) (s : State) (d : Fin 64) : (updateMonitor p m s).rows[d] =
    { s.rows[d] with pending := (updateMonitor p m s).rows[d].pending } := by
  unfold updateMonitor
  split
  · rfl
  · unfold healthChanged
    rw [deriveSources_row]
    exact protectPorts_pending _ _ d _

/-- The monitors of `done` have taken a tick from u to s, and the crosspoint has where `crossed` says so. -/
structure ticking (u s : State) (crossed : Bool) (done : List (Fin 48)) : Prop where
  moved : tickMoved u s
  rest : ∀ p, p ∉ done → s.monitors[p] = u.monitors[p]
  before : crossed = false → ∀ d : Fin 64, s.rows[d] = { u.rows[d] with pending := s.rows[d].pending }
  books : crossed = true → ∀ d : Fin 64, rowTicked (ownerOf d u).isSome u.rows[d] s.rows[d]
  present : u.clock.frameref = .present → ∀ d : Fin 64, s.rows[d].current = u.rows[d].current
  still : crossed = false → (∀ p : Fin 48, s.monitors[p].health = u.monitors[p].health) → s.rows = u.rows
  told : itemsTold (changeMade crossed u s) u s
  free : ownersHome u → ∀ d : Fin 64, ownerOf d u = none → sameSelection s.rows[d]
    (if crossed && tickSwitches u then selectionTaken u.rows[d] else u.rows[d])
  owned : ownersHome u → ∀ (d : Fin 64) (n : Fin 1024), ownerOf d u = some n →
    tickRowOf u s d n (if crossed then some (tickSwitches u) else none) done

theorem changeMade_none (u : State) : ¬changeMade false u u := by
  rintro (⟨p, changed⟩ | ⟨crossed, -⟩)
  · exact changed rfl
  · cases crossed

theorem ticking_start (u : State) : ticking u u false [] := by
  have told := itemsTold_refl u
  rw [← iff_false_intro (changeMade_none u)] at told
  exact ⟨tickMoved_refl u, fun _ _ => rfl, fun _ _ => rfl, (nomatch ·), fun _ _ => rfl, fun _ _ => rfl, told,
    fun _ _ _ => ⟨rfl, rfl⟩, fun _ d n _ => tickRowOf_start u d n⟩

/-- The mark of a block that has taken the tick ahead of the others. -/
theorem ticking_ahead {u s : State} {crossed : Bool} {done : List (Fin 48)} (ahead : Bool) (h : ticking u s crossed done) :
    ticking u { s with crosspointAhead := ahead } crossed done := by
  obtain ⟨moved, rest, before, books, present, still, told, free, owned⟩ := h
  refine ⟨?_, rest, before, books, present, still, ?_, free, ?_⟩
  · exact tickMoved_trans moved rfl
  · exact itemsTold_quiet told Iff.rfl rfl rfl id
  · intro home d n owner
    obtain ⟨store, clock, rest, row⟩ := owned home d n owner
    exact ⟨store, clock, rest, row⟩

theorem ticking_home {u s : State} {crossed : Bool} {done : List (Fin 48)} (h : ticking u s crossed done)
    (home : ownersHome u) : ownersHome s := by
  obtain ⟨store, -⟩ := tickMoved_stays h.moved
  simpa only [ownersHome, ownerOf, store] using home

theorem ticking_owner {u s : State} {crossed : Bool} {done : List (Fin 48)} (h : ticking u s crossed done) (d : Fin 64) :
    ownerOf d s = ownerOf d u := by
  obtain ⟨store, -⟩ := tickMoved_stays h.moved
  rw [ownerOf, ownerOf, store]

theorem carriesBooking_congr {s t : State} (store : t.store = s.store)
    (current : ∀ d : Fin 64, t.rows[d].current = s.rows[d].current) (p : Fin 48) :
    carriesBooking p t = carriesBooking p s := by
  unfold carriesBooking onAirBookings ownerOf
  rw [store]
  exact any_congr_mem fun x _ => by rw [current x.1]

theorem legOfBooking_congr {s t : State} (store : t.store = s.store) (p : Fin 48) :
    legOfBooking p t = legOfBooking p s := by
  unfold legOfBooking onAirBookings ownerOf
  rw [store]

/-- The source items follow while what they look at stands. -/
theorem follow_quiet {s t : State} (store : t.store = s.store) (current : ∀ d : Fin 64, t.rows[d].current = s.rows[d].current)
    (health : ∀ p : Fin 48, t.monitors[p].health = s.monitors[p].health) (alarm : t.alarm = s.alarm)
    (h : sourceItemsFollow s) : sourceItemsFollow t :=
  items_kept h (fun d => by rw [ownerOf, ownerOf, store]) (fun d n _ p => by rw [store]) current health
    (fun i _ => by rw [alarm])

/-- A monitor whose health stands. -/
theorem updateMonitor_kept {p : Fin 48} {m : Monitor} {s : State} (h : m.health = s.monitors[p].health) :
    updateMonitor p m s = setMonitor p m s := if_pos h

/-- A monitor whose health changes. -/
theorem updateMonitor_changed {p : Fin 48} {m : Monitor} {s : State} (h : m.health ≠ s.monitors[p].health) :
    updateMonitor p m s = markPage (deriveSources (protectHealth p (setMonitor p m s))) := if_neg h

theorem updateMonitor_get (p q : Fin 48) (m : Monitor) (s : State) :
    (updateMonitor p m s).monitors[q] = if p = q then m else s.monitors[q] := by
  obtain ⟨-, -, monitors⟩ := updateMonitor_frame p m s
  rw [monitors]
  exact getFin_set s.monitors p q m

/-- A monitor that takes no new health makes no change of R94. -/
theorem changeMade_congr {crossed : Bool} {u s t : State} (h : ∀ p : Fin 48, t.monitors[p].health = s.monitors[p].health) :
    changeMade crossed u t ↔ changeMade crossed u s := by
  unfold changeMade
  simp only [h]

/-- R94: the alarm ranking unit and the mark when a monitor has taken its tick. -/
theorem monitor_told {u s : State} {crossed : Bool} {done : List (Fin 48)} (h : ticking u s crossed done) {p : Fin 48}
    (fresh : p ∉ done) (m : Monitor) :
    itemsTold (changeMade crossed u (updateMonitor p m s)) u (updateMonitor p m s) := by
  obtain ⟨store, -⟩ := tickMoved_stays h.moved
  by_cases same : m.health = s.monitors[p].health
  · have health : ∀ q : Fin 48, (updateMonitor p m s).monitors[q].health = s.monitors[q].health := fun q => by
      rw [updateMonitor_get]
      split
      · next e => rw [← e, same]
      · rfl
    have quiet := itemsTold_quiet (t := updateMonitor p m s) h.told (changeMade_congr health)
    rw [updateMonitor_kept same] at quiet health ⊢
    exact quiet rfl rfl (follow_quiet rfl (fun _ => rfl) health rfl)
  · have made : changeMade crossed u (updateMonitor p m s) := .inl ⟨p, by
      rw [updateMonitor_get, if_pos rfl, ← h.rest p fresh]
      exact same⟩
    have health : ∀ q : Fin 48, s.monitors[q].health = u.monitors[q].health ∨
        s.monitors[q].health = (setMonitor p m s).monitors[q].health := fun q => by
      by_cases e : p = q
      · exact .inl (by rw [← e, h.rest p fresh])
      · exact .inr (by rw [show (setMonitor p m s).monitors[q] = _ from getFin_set s.monitors p q m, if_neg e])
    have current : ∀ d : Fin 64, (protectHealth p (setMonitor p m s)).rows[d].current = s.rows[d].current := fun d =>
      (congrArg Row.current (protectPorts_pending _ _ d (setMonitor p m s))).trans rfl
    obtain ⟨storeV, monitorsV, alarmV, linkV⟩ : (protectHealth p (setMonitor p m s)).store = s.store ∧
        (protectHealth p (setMonitor p m s)).monitors = (setMonitor p m s).monitors ∧
        (protectHealth p (setMonitor p m s)).alarm = s.alarm ∧ (protectHealth p (setMonitor p m s)).link = s.link := by
      rw [healthTold_moved]
      exact ⟨rfl, rfl, rfl, rfl⟩
    rw [iff_true_intro made, updateMonitor_changed same]
    refine itemsTold_derived h.told alarmV linkV fun q => ?_
    rw [sourceSeverity_eq, sourceSeverity_eq, sourceSeverity_eq, legOfBooking_congr storeV, legOfBooking_congr store,
      monitorsV]
    exact severityOf_between _ (health q) (.inr (carriesBooking_congr storeV current q).symm)

/-- R84, R94, R110: a monitor takes the tick. -/
theorem ticking_monitor {u s : State} {crossed : Bool} {done : List (Fin 48)} (h : ticking u s crossed done) {p : Fin 48}
    (fresh : p ∉ done) (m : Monitor) : ticking u (updateMonitor p m s) crossed (p :: done) := by
  have pending := updateMonitor_pending p m s
  have home := ticking_home h
  have owners := ticking_owner h
  refine ⟨tickMoved_trans h.moved ?_, fun q hq => ?_, fun c d => ?_, fun c d => ?_, fun c d => ?_, fun c health => ?_,
    monitor_told h fresh m, fun k d free => ?_, fun k d n owner => updateMonitor_tickRow k owner (h.owned k d n owner) p fresh m⟩
  · by_cases same : m.health = s.monitors[p].health
    · rw [updateMonitor_kept same]
      rfl
    · rw [updateMonitor_changed same]
      have moved := healthTold_moved p m s
      generalize (protectHealth p (setMonitor p m s)).rows = rows at moved
      rw [moved]
      exact tickMoved_derived rfl
  · simp only [List.mem_cons, not_or] at hq
    rw [updateMonitor_get, if_neg (Ne.symm hq.1)]
    exact h.rest q hq.2
  · exact (pending d).trans (congrArg (fun r : Row => { r with pending := (updateMonitor p m s).rows[d].pending })
      (h.before c d))
  · rw [pending d]
    exact h.books c d
  · exact (congrArg Row.current (pending d)).trans (h.present c d)
  · have same : m.health = s.monitors[p].health := by
      have now := health p
      rw [updateMonitor_get, if_pos rfl] at now
      rw [now, h.rest p fresh]
    have before : ∀ q : Fin 48, s.monitors[q].health = u.monitors[q].health := fun q => by
      have now := health q
      rw [updateMonitor_get] at now
      split at now
      · next e => rw [← e, h.rest p fresh]
      · exact now
    rw [updateMonitor_kept same]
    exact h.still c before
  · have row := updateMonitor_row p m d (home k)
    have none : ownerOf d (setMonitor p m s) = none := (owners d).trans free
    rw [toldRow, none] at row
    rw [row, ite_self]
    exact h.free k d free

theorem selectionTaken_same {x y : Row} (h : sameSelection x y) : sameSelection (selectionTaken x) (selectionTaken y) := by
  obtain ⟨current, pending⟩ := h
  simp only [selectionTaken, sameSelection, intended, current, pending, and_self]

/-- R79: the books of a row. -/
theorem tickRow_ticked (owned : Bool) {r q x : Row} (before : q = { r with pending := q.pending })
    (after : x = { tickRow owned q with current := x.current, pending := x.pending }) : rowTicked owned r x := by
  rw [after, before]
  refine ⟨rfl, rfl, rfl, ?_⟩
  show (if _ then _ else _) = if _ then _ else _
  simp only [Bool.and_eq_true, Bool.not_eq_true', decide_eq_true_eq, and_assoc, satAdd, max32]

/-- R77, R94: the alarm ranking unit and the mark when the crosspoint has taken its tick. -/
theorem crosspoint_told {u s : State} {done : List (Fin 48)} (h : ticking u s false done) :
    itemsTold (changeMade true u (crosspointTick s)) u (crosspointTick s) := by
  obtain ⟨store, clock⟩ := tickMoved_stays h.moved
  obtain ⟨-, -, monitors⟩ := crosspointTick_frame s
  have kept : (∀ p : Fin 48, s.monitors[p].health = u.monitors[p].health) → ∀ d : Fin 64, s.rows[d] = u.rows[d] :=
    fun health d => by rw [h.still rfl health]
  have current : ∀ d : Fin 64, s.rows[d].current = u.rows[d].current := fun d =>
    (congrArg Row.current (h.before rfl d) :)
  by_cases executed : s.clock.frameref = .lost ∧ ∃ d : Fin 64, s.rows[d].pending.isSome = true
  · obtain ⟨lost, d, pending⟩ := executed
    have made : changeMade true u (crosspointTick s) := by
      by_cases changed : ∃ p : Fin 48, s.monitors[p].health ≠ u.monitors[p].health
      · rw [← monitors] at changed
        exact .inl changed
      · refine .inr ⟨rfl, decide_eq_true (clock ▸ lost), d, ?_⟩
        rw [← kept (fun p => Classical.byContradiction fun e => changed ⟨p, e⟩) d]
        exact pending
    have frame := switched_frame false (tickRows s)
    obtain ⟨storeV, monitorsV, alarmV, linkV⟩ : (switched false (tickRows s)).store = s.store ∧
        (switched false (tickRows s)).monitors = s.monitors ∧ (switched false (tickRows s)).alarm = s.alarm ∧
        (switched false (tickRows s)).link = s.link := by
      rw [frame]
      exact ⟨rfl, rfl, rfl, rfl⟩
    rw [iff_true_intro made, crosspointTick_executed lost ⟨d, pending⟩]
    refine itemsTold_derived h.told alarmV linkV fun q => ?_
    rw [sourceSeverity_eq, sourceSeverity_eq, sourceSeverity_eq, legOfBooking_congr storeV, legOfBooking_congr store,
      monitorsV]
    exact severityOf_between _ (.inr rfl) (.inl (carriesBooking_congr store current q))
  · have same : changeMade true u (crosspointTick s) ↔ changeMade false u s := by
      refine ⟨fun made => ?_, fun made => ?_⟩
      · by_cases changed : ∃ p : Fin 48, s.monitors[p].health ≠ u.monitors[p].health
        · exact .inl changed
        · obtain made | ⟨-, lost, d, pending⟩ := made
          · rw [monitors] at made
            exact .inl made
          · refine absurd ⟨clock ▸ of_decide_eq_true lost, d, ?_⟩ executed
            rw [kept (fun p => Classical.byContradiction fun e => changed ⟨p, e⟩) d]
            exact pending
      · obtain made | ⟨no, -⟩ := made
        · rw [← monitors] at made
          exact .inl made
        · cases no
    have quiet := itemsTold_quiet (t := crosspointTick s) h.told same
    rw [crosspointTick_idle executed] at quiet ⊢
    exact quiet rfl rfl (follow_quiet rfl (fun d => (tickRows_same s d).1) (fun _ => rfl) rfl)

/-- R76, R78, R79, R111: the crosspoint takes the tick. -/
theorem ticking_crosspoint {u s : State} {done : List (Fin 48)} (h : ticking u s false done) :
    ticking u (crosspointTick s) true done := by
  obtain ⟨store, clock⟩ := tickMoved_stays h.moved
  obtain ⟨-, -, monitors⟩ := crosspointTick_frame s
  have home := ticking_home h
  have owners := ticking_owner h
  have switches : tickSwitches s = tickSwitches u := by rw [tickSwitches, tickSwitches, clock]
  refine ⟨tickMoved_trans h.moved ?_, fun p hp => ?_, (nomatch ·), fun _ d => ?_, fun c d => ?_, (nomatch ·),
    crosspoint_told h, fun k d free => ?_, fun k d n owner => ?_⟩
  · by_cases executed : s.clock.frameref = .lost ∧ ∃ d : Fin 64, s.rows[d].pending.isSome = true
    · rw [crosspointTick_executed executed.1 executed.2]
      refine tickMoved_derived ?_
      rw [switched_frame]
      rfl
    · rw [crosspointTick_idle executed]
      rfl
  · rw [monitors]
    exact h.rest p hp
  · have books := crosspointTick_books s d
    rw [owners d] at books
    exact tickRow_ticked _ (h.before rfl d) books
  · exact (crosspointTick_present (clock ▸ c) d).trans (h.present c d)
  · have row := crosspointTick_unowned (home k) ((owners d).trans free)
    have before : sameSelection s.rows[d] u.rows[d] := h.free k d free
    rw [switches] at row
    rw [Bool.true_and]
    refine sameSelection_trans row ?_
    split
    · exact selectionTaken_same before
    · exact before
  · exact crosspointTick_tickRow k owner (h.owned k d n owner)

end Sys2Proof.Machine
end

section
/-! ### A second tick at every block, with the others or ahead of them (R34; log 5, log 8) -/

namespace Sys2Proof.Machine

/-! ### What a tick has done, in the terms of the statements -/

/-- R76, R107 to R111: what becomes of a selection while blocks take a tick. -/
theorem ticking_selection {u s : State} {crossed : Bool} {done : List (Fin 48)} (h : ticking u s crossed done)
    (lawful : timelinesLawful u) (d : Fin 64) : selectionMoved (crossed && tickSwitches u) d u s := by
  have home := ownersHome_of lawful
  refine ⟨h.free home d, fun n owner => ?_⟩
  obtain ⟨first, later, nodup, none, member, same⟩ := (h.owned home d n owner).row
  refine ⟨first, later, nodup, member, ?_⟩
  cases crossed with
  | true => exact same
  | false =>
    obtain rfl := none rfl
    simp only [Bool.false_and, Bool.false_eq_true, false_and, if_false]
    exact same

theorem ticking_crosspointTook {u s : State} {done : List (Fin 48)} (h : ticking u s true done) : crosspointTook u s :=
  fun d => ⟨h.books rfl d, fun present => h.present present d, fun lawful => ticking_selection h lawful d⟩

theorem ticking_crosspointHeld {u s : State} {done : List (Fin 48)} (h : ticking u s false done) : crosspointHeld u s :=
  fun d => ⟨h.before rfl d, fun lawful => ticking_selection h lawful d⟩

theorem ticking_alarms {u s : State} {crossed : Bool} {done : List (Fin 48)} (h : ticking u s crossed done) :
    alarmsFollowed crossed u s := by
  obtain ⟨still, -, told, system, lowered, acked, silent, sent⟩ := h.told
  refine ⟨fun none => ?_, fun made => ?_, fun i => ⟨system i, lowered i, fun follow bounded => acked follow bounded i⟩,
    silent, sent⟩
  · obtain ⟨alarm, flags, log, -⟩ := still none
    exact ⟨alarm, flags, log⟩
  · obtain ⟨follow, flags, -⟩ := told made
    exact ⟨follow, flags⟩

/-- R165: a change made in the taking of a tick sets the page due mark, and nothing else does. -/
theorem ticking_due {u s : State} {crossed : Bool} {done : List (Fin 48)} (h : ticking u s crossed done) :
    (changeMade crossed u s → s.link.pageDue = true) ∧ (¬changeMade crossed u s → s.link.pageDue = u.link.pageDue) := by
  refine ⟨fun made => ?_, fun none => ?_⟩
  · obtain ⟨-, -, due⟩ := h.told.told made
    exact due
  · obtain ⟨-, -, -, due⟩ := h.told.still none
    exact due

theorem ticking_writes {u s : State} {crossed : Bool} {done : List (Fin 48)} (h : ticking u s crossed done) :
    hostWrites s = hostWrites u := by
  obtain ⟨n, log⟩ := h.told.sent
  have none : writesOf (List.replicate n .message) = [] := by
    refine List.filterMap_eq_nil_iff.2 fun op hop => ?_
    rw [List.eq_of_mem_replicate hop]
  rw [hostWrites, log, writesOf, List.filterMap_append]
  refine (congrArg _ none).trans (List.append_nil _)

/-! ### The blocks, each by its number -/

/-- The number of the block that monitor p is. -/
def blockOf (p : Fin 48) : Fin 49 := p.castLE (by decide)

/-- A block is a line monitor or the crosspoint. -/
theorem block_cases (k : Fin 49) : (∃ p : Fin 48, k = blockOf p) ∨ k = 48 := by
  by_cases h : k.val < 48
  · exact .inl ⟨⟨k.val, h⟩, rfl⟩
  · exact .inr (Fin.ext (by have := k.isLt; show k.val = 48; omega))

theorem blockOf_inj {p q : Fin 48} (h : blockOf p = blockOf q) : p = q := Fin.castLE_injective _ h

theorem blockOf_ne (p : Fin 48) : (48 : Fin 49) ≠ blockOf p := fun h => by
  have value : (48 : Nat) = p.val := congrArg Fin.val h
  have := p.isLt
  omega

theorem blockTick_monitor (p : Fin 48) (s : State) : blockTick (blockOf p) s = monitorTick p s := dif_pos p.isLt

theorem blockTick_crosspoint (s : State) : blockTick 48 s = crosspointBlock s := dif_neg (by decide)

/-- R86: a monitor at the tick, where it takes it with the other blocks. -/
def monitorTicked (m : Monitor) : Monitor := if m.tookTick then { m with tookTick := false } else monitorAtTick m

theorem monitorTick_eq (p : Fin 48) (s : State) : monitorTick p s = updateMonitor p (monitorTicked s.monitors[p]) s := by
  unfold monitorTick monitorTicked
  split
  · have kept := updateMonitor_kept (p := p) (m := { s.monitors[p] with tookTick := false }) (s := s) rfl
    exact kept.symm
  · rfl

/-! ### With the other blocks -/

/-- The blocks of `done` have taken the tick, or cleared the mark of having taken it ahead. -/
structure blocksTook (u s : State) (done : List (Fin 49)) : Prop where
  took : ∃ l, ticking u s (decide (48 ∈ done) && !u.crosspointAhead) l ∧ ∀ p ∈ l, blockOf p ∈ done
  monitors : ∀ p : Fin 48, s.monitors[p] = if blockOf p ∈ done then monitorTicked u.monitors[p] else u.monitors[p]
  ahead : s.crosspointAhead = if 48 ∈ done then false else u.crosspointAhead

theorem blocksTook_start (u : State) : blocksTook u u [] :=
  ⟨⟨[], ticking_start u, fun _ h => nomatch h⟩, fun _ => rfl, rfl⟩

theorem crosspointTick_ahead (s : State) : (crosspointTick s).crosspointAhead = s.crosspointAhead := by simp

theorem updateMonitor_ahead (p : Fin 48) (m : Monitor) (s : State) :
    (updateMonitor p m s).crosspointAhead = s.crosspointAhead := by simp

theorem blocksTook_monitor {u s : State} {done : List (Fin 49)} (h : blocksTook u s done) {p : Fin 48}
    (fresh : blockOf p ∉ done) : blocksTook u (monitorTick p s) (blockOf p :: done) := by
  obtain ⟨⟨l, took, members⟩, monitors, ahead⟩ := h
  have none : p ∉ l := fun hp => fresh (members p hp)
  have before : s.monitors[p] = u.monitors[p] := (monitors p).trans (if_neg fresh)
  have crosspoint : (48 : Fin 49) ∈ blockOf p :: done ↔ 48 ∈ done := by
    rw [List.mem_cons, or_iff_right (blockOf_ne p)]
  rw [monitorTick_eq]
  refine ⟨⟨p :: l, ?_, fun q hq => ?_⟩, fun q => ?_, ?_⟩
  · rw [decide_eq_decide.2 crosspoint]
    exact ticking_monitor took none _
  · rcases List.mem_cons.1 hq with rfl | hq
    · exact List.mem_cons_self ..
    · exact List.mem_cons_of_mem _ (members q hq)
  · rw [updateMonitor_get, before]
    by_cases e : p = q
    · subst e
      rw [if_pos rfl, if_pos (List.mem_cons_self ..)]
    · have other : blockOf q ∈ blockOf p :: done ↔ blockOf q ∈ done := by
        rw [List.mem_cons, or_iff_right fun k => e (blockOf_inj k).symm]
      rw [if_neg e, monitors q]
      simp only [other]
  · rw [updateMonitor_ahead, ahead]
    simp only [crosspoint]

theorem blocksTook_crosspoint {u s : State} {done : List (Fin 49)} (h : blocksTook u s done) (fresh : 48 ∉ done) :
    blocksTook u (crosspointBlock s) (48 :: done) := by
  obtain ⟨⟨l, took, members⟩, monitors, ahead⟩ := h
  rw [if_neg fresh] at ahead
  rw [decide_eq_false fresh, Bool.false_and] at took
  have sameBlock : ∀ q : Fin 48, blockOf q ∈ (48 : Fin 49) :: done ↔ blockOf q ∈ done := fun q => by
    rw [List.mem_cons, or_iff_right (blockOf_ne q).symm]
  have member : ∀ p ∈ l, blockOf p ∈ (48 : Fin 49) :: done := fun p hp => List.mem_cons_of_mem _ (members p hp)
  have crossed : decide ((48 : Fin 49) ∈ (48 : Fin 49) :: done) = true := decide_eq_true (List.mem_cons_self ..)
  unfold crosspointBlock
  split
  · next was =>
    refine ⟨⟨l, ?_, member⟩, fun q => ?_, ?_⟩
    · rw [← ahead, was, Bool.not_true, Bool.and_false]
      exact ticking_ahead false took
    · simp only [sameBlock]
      exact monitors q
    · exact (if_pos (List.mem_cons_self ..)).symm
  · next was =>
    have not : s.crosspointAhead = false := Bool.eq_false_iff.2 was
    obtain ⟨-, -, same⟩ := crosspointTick_frame s
    refine ⟨⟨l, ?_, member⟩, fun q => ?_, ?_⟩
    · rw [← ahead, not, crossed]
      exact ticking_crosspoint took
    · simp only [sameBlock]
      rw [same]
      exact monitors q
    · rw [crosspointTick_ahead, not, if_pos (List.mem_cons_self ..)]

theorem blocksTook_block {u s : State} {done : List (Fin 49)} (h : blocksTook u s done) {k : Fin 49} (fresh : k ∉ done) :
    blocksTook u (blockTick k s) (k :: done) := by
  obtain ⟨p, rfl⟩ | rfl := block_cases k
  · rw [blockTick_monitor]
    exact blocksTook_monitor h fresh
  · rw [blockTick_crosspoint]
    exact blocksTook_crosspoint h fresh

/-- Every block of the order has taken the tick, each once. -/
theorem blocksTick_blocks (order : List (Fin 49)) {done : List (Fin 49)} {u s : State} (h : blocksTook u s done) :
    ∃ all, blocksTook u (blocksTick order done s) all ∧ ∀ k, k ∈ order ∨ k ∈ done → k ∈ all := by
  induction order generalizing done s with
  | nil => exact ⟨done, h, fun k hk => hk.resolve_left (List.not_mem_nil)⟩
  | cons k rest ih =>
    unfold blocksTick
    by_cases before : k ∈ done
    · rw [if_pos before]
      obtain ⟨all, took, members⟩ := ih h
      refine ⟨all, took, fun j hj => ?_⟩
      rcases hj with hj | hj
      · rcases List.mem_cons.1 hj with rfl | hj
        · exact members _ (.inr before)
        · exact members j (.inl hj)
      · exact members j (.inr hj)
    · rw [if_neg before]
      obtain ⟨all, took, members⟩ := ih (blocksTook_block h before)
      refine ⟨all, took, fun j hj => ?_⟩
      rcases hj with hj | hj
      · rcases List.mem_cons.1 hj with rfl | hj
        · exact members _ (.inr (List.mem_cons_self ..))
        · exact members j (.inl hj)
      · exact members j (.inr (List.mem_cons_of_mem _ hj))

/-- R34: every block has taken the tick. -/
theorem blocksTick_took (order : TickOrder) (u : State) :
    (∃ l, ticking u (blocksTick (order ++ List.finRange 49) [] u) (!u.crosspointAhead) l) ∧
    monitorsTook u (blocksTick (order ++ List.finRange 49) [] u) ∧
    (blocksTick (order ++ List.finRange 49) [] u).crosspointAhead = false := by
  obtain ⟨all, ⟨⟨l, took, -⟩, monitors, ahead⟩, members⟩ :=
    blocksTick_blocks (order ++ List.finRange 49) (blocksTook_start u)
  have every : ∀ k, k ∈ all := fun k => members k (.inl (List.mem_append_right _ (List.mem_finRange k)))
  rw [decide_eq_true (every 48), Bool.true_and] at took
  exact ⟨⟨l, took⟩, fun p => (monitors p).trans (if_pos (every _)), ahead.trans (if_pos (every 48))⟩

/-! ### Ahead of the others -/

/-- The blocks of `early` have taken the tick ahead of its command. -/
structure blocksAhead (u s : State) (early : List (Fin 49)) : Prop where
  took : ∃ l, ticking u s (!u.crosspointAhead && decide (48 ∈ early)) l ∧ ∀ p ∈ l, s.monitors[p].tookTick = true
  monitors : ∀ p : Fin 48, s.monitors[p] = if u.monitors[p].tookTick = false ∧ blockOf p ∈ early then
    { monitorAtTick u.monitors[p] with tookTick := true } else u.monitors[p]
  ahead : s.crosspointAhead = (u.crosspointAhead || decide (48 ∈ early))

theorem blocksAhead_start (u : State) : blocksAhead u u [] := by
  refine ⟨⟨[], ?_, fun _ h => nomatch h⟩, fun p => ?_, ?_⟩
  · rw [decide_eq_false List.not_mem_nil, Bool.and_false]
    exact ticking_start u
  · exact (if_neg fun h => List.not_mem_nil h.2).symm
  · rw [decide_eq_false List.not_mem_nil, Bool.or_false]

theorem blockAhead_monitor (p : Fin 48) (s : State) :
    blockAhead (blockOf p) s = if s.monitors[p].tookTick then s else takeTickEarly p s := dif_pos p.isLt

theorem blockAhead_crosspoint (s : State) : blockAhead 48 s =
    if s.crosspointAhead then s else { crosspointTick s with crosspointAhead := true } := dif_neg (by decide)

theorem blocksAhead_monitor {u s : State} {early : List (Fin 49)} (h : blocksAhead u s early) (p : Fin 48) :
    blocksAhead u (blockAhead (blockOf p) s) (early ++ [blockOf p]) := by
  obtain ⟨⟨l, took, members⟩, monitors, ahead⟩ := h
  have crosspoint : (48 : Fin 49) ∈ early ++ [blockOf p] ↔ 48 ∈ early := by
    rw [List.mem_append, List.mem_singleton, or_iff_left (blockOf_ne p)]
  have other : ∀ q : Fin 48, q ≠ p → (blockOf q ∈ early ++ [blockOf p] ↔ blockOf q ∈ early) := fun q e => by
    rw [List.mem_append, List.mem_singleton, or_iff_left fun k => e (blockOf_inj k)]
  have self : blockOf p ∈ early ++ [blockOf p] := List.mem_append_right _ (List.mem_singleton_self _)
  rw [blockAhead_monitor]
  have own := monitors p
  split
  · next has =>
    refine ⟨⟨l, ?_, members⟩, fun q => ?_, ?_⟩
    · rw [decide_eq_decide.2 crosspoint]
      exact took
    · by_cases e : q = p
      · subst e
        by_cases late : u.monitors[q].tookTick = false ∧ blockOf q ∈ early
        · rw [if_pos late] at own
          rw [if_pos ⟨late.1, self⟩, own]
        · rw [if_neg late] at own
          rw [own] at has
          rw [if_neg (fun k => by rw [has] at k; exact Bool.noConfusion k.1), own]
      · rw [monitors q]
        simp only [other q e]
    · rw [ahead, decide_eq_decide.2 crosspoint]
  · next has =>
    have fresh : p ∉ l := fun hp => has (members p hp)
    have late : ¬(u.monitors[p].tookTick = false ∧ blockOf p ∈ early) := fun k => by
      rw [if_pos k] at own
      exact has (by rw [own])
    rw [if_neg late] at own
    unfold takeTickEarly
    refine ⟨⟨p :: l, ?_, fun q hq => ?_⟩, fun q => ?_, ?_⟩
    · rw [decide_eq_decide.2 crosspoint]
      exact ticking_monitor took fresh _
    · rw [updateMonitor_get]
      by_cases e : p = q
      · rw [if_pos e]
      · rw [if_neg e]
        exact members q ((List.mem_cons.1 hq).resolve_left (Ne.symm e))
    · rw [updateMonitor_get]
      by_cases e : p = q
      · subst e
        rw [own] at has ⊢
        rw [if_pos rfl, if_pos ⟨Bool.eq_false_iff.2 has, self⟩]
      · rw [if_neg e, monitors q]
        simp only [other q (Ne.symm e)]
    · rw [updateMonitor_ahead, ahead, decide_eq_decide.2 crosspoint]

theorem blocksAhead_crosspoint {u s : State} {early : List (Fin 49)} (h : blocksAhead u s early) :
    blocksAhead u (blockAhead 48 s) (early ++ [48]) := by
  obtain ⟨⟨l, took, members⟩, monitors, ahead⟩ := h
  have sameBlock : ∀ q : Fin 48, blockOf q ∈ early ++ [48] ↔ blockOf q ∈ early := fun q => by
    rw [List.mem_append, List.mem_singleton, or_iff_left (blockOf_ne q).symm]
  have crossed : decide ((48 : Fin 49) ∈ early ++ [48]) = true :=
    decide_eq_true (List.mem_append_right _ (List.mem_singleton_self _))
  rw [blockAhead_crosspoint]
  split
  · next has =>
    refine ⟨⟨l, ?_, members⟩, fun q => ?_, ?_⟩
    · rw [crossed]
      rw [has] at ahead
      by_cases was : u.crosspointAhead = true
      · rw [was] at took ⊢
        exact took
      · rw [Bool.eq_false_iff.2 was] at ahead took ⊢
        rw [← Bool.false_or (decide (48 ∈ early)), ← ahead] at took
        exact took
    · simp only [sameBlock]
      exact monitors q
    · rw [crossed, Bool.or_true]
      exact has
  · next has =>
    rw [Bool.eq_false_iff.2 has, Eq.comm, Bool.or_eq_false_iff] at ahead
    obtain ⟨was, out⟩ := ahead
    rw [was, out] at took
    obtain ⟨-, -, same⟩ := crosspointTick_frame s
    refine ⟨⟨l, ?_, fun p hp => ?_⟩, fun q => ?_, ?_⟩
    · rw [was, crossed]
      exact ticking_ahead true (ticking_crosspoint took)
    · exact (congrArg (fun m : Vector Monitor 48 => m[p].tookTick) same).trans (members p hp)
    · simp only [sameBlock]
      exact (congrArg (fun m : Vector Monitor 48 => m[q]) same).trans (monitors q)
    · rw [crossed, Bool.or_true]

theorem blocksAhead_fold (rest : List (Fin 49)) {early : List (Fin 49)} {u s : State} (h : blocksAhead u s early) :
    blocksAhead u (rest.foldl (fun t k => blockAhead k t) s) (early ++ rest) := by
  induction rest generalizing early s with
  | nil => rwa [List.append_nil]
  | cons k rest ih =>
    have next : blocksAhead u (blockAhead k s) (early ++ [k]) := by
      obtain ⟨p, rfl⟩ | rfl := block_cases k
      · exact blocksAhead_monitor h p
      · exact blocksAhead_crosspoint h
    have all := ih next
    rwa [List.append_assoc] at all

/-- R34: the blocks given have taken the tick ahead of its command. -/
theorem ticksAhead_taken (early : TickOrder) (u : State) : earlyTicksTaken early u (ticksAhead early u) := by
  obtain ⟨⟨l, took, -⟩, monitors, ahead⟩ := blocksAhead_fold early (blocksAhead_start u)
  rw [List.nil_append] at took monitors ahead
  have due := ticking_due took
  refine ⟨?_, ticking_writes took, ticking_alarms took, due.1, due.2, monitors, fun crossed => ?_, fun crossed => ?_⟩
  · rw [← ahead]
    exact took.moved
  · rw [crossed] at took
    exact ticking_crosspointTook took
  · rw [crossed] at took
    exact ticking_crosspointHeld took

end Sys2Proof.Machine
end

section
/-! ### Second ticks (03 sections 3.2, 3.3; 09 section 9.5) -/

namespace Sys2Proof.Machine

/-! ### The meters (R140 to R145) -/

/-- R143: the leg that carried a second. -/
theorem carriedBy_iff (b : Slot) (x : Source) (p : Fin 48) : carriedBy b x = some p ↔ x = .port p ∧ isLeg b p = true := by
  have leg : isLeg b p = true ↔ b.primary = p ∨ b.backup = some p := decide_eq_true_iff
  unfold carriedBy carrierOf
  rw [leg]
  by_cases primary : x = .port b.primary
  · subst primary
    simp only [if_true, Option.some.injEq, Source.port.injEq]
    exact ⟨fun e => ⟨e, .inl e⟩, fun e => e.1⟩
  · rw [if_neg primary]
    by_cases backup : b.backup.map Source.port = some x
    · obtain ⟨q, has, rfl⟩ := Option.map_eq_some_iff.1 backup
      rw [if_pos backup]
      simp only [has, Option.some.injEq, Source.port.injEq]
      exact ⟨fun e => ⟨e, .inr e⟩, fun e => e.1⟩
    · rw [if_neg backup]
      refine ⟨(nomatch ·), ?_⟩
      rintro ⟨rfl, e | e⟩
      · exact absurd (congrArg Source.port e.symm) primary
      · exact absurd (by rw [e]; rfl) backup

/-- R143: an outage second is one whose carrier's port classed it SEVERE or DARK. -/
theorem outageSecond_iff (b : Slot) (s : State) : outageSecond b s = true ↔ badSecondOf b s := by
  unfold outageSecond badSecondOf
  cases carried : carriedBy b s.rows[b.port].last with
  | none =>
    refine ⟨(nomatch ·), ?_⟩
    rintro ⟨p, last, leg, -⟩
    rw [(carriedBy_iff b _ p).2 ⟨last, leg⟩] at carried
    cases carried
  | some q =>
    obtain ⟨last, leg⟩ := (carriedBy_iff b _ q).1 carried
    refine ⟨fun bad => ⟨q, last, leg, bad⟩, ?_⟩
    rintro ⟨p, last', -, bad⟩
    obtain rfl := Source.port.inj (last.symm.trans last')
    exact bad

/-- R140: what a slot counts depends on the book, the tickets and the meters. -/
theorem countsSecond_iff (n : Fin 1024) {minute second : Nat} {e : EndedSecond} {u s : State} (hm : e.minute = minute)
    (hs : e.second = second) (store : s.store = u.store) (tickets : s.tickets = u.tickets) (tariffs : s.tariffs = u.tariffs) :
    countsSecond n e s = true ↔ countsAt n minute second u := by
  subst hm hs
  have rated : ratedSlots s = ratedSlots u := by rw [ratedSlots, ratedSlots, outstanding, outstanding, tickets]
  unfold countsSecond countsAt countedHold
  rw [store, tariffs, rated]
  simp only [Bool.and_eq_true, Bool.not_eq_true', decide_eq_true_eq, and_assoc]
  refine and_congr_right fun _ => and_congr_right fun _ => and_congr_right fun _ => ?_
  cases u.tariffs.meters[n].firstCounted with
  | none => simp [countsFrom]
  | some f => simp [countsFrom]

/-- R143: an outage second, but for the excess. -/
theorem countOutage_fields (phase : Phase) (band : Band) (allowance : Nat) (m : Meter) :
    (countOutage phase band allowance m).booked = m.booked ∧ (countOutage phase band allowance m).overrun = m.overrun ∧
    (countOutage phase band allowance m).held = m.held ∧
    (countOutage phase band allowance m).outage = min 4294967295 (m.outage + 1) ∧
    (countOutage phase band allowance m).allowanceUsed =
      (if m.allowanceUsed < allowance then m.allowanceUsed + 1 else m.allowanceUsed) ∧
    (countOutage phase band allowance m).excess =
      (if allowance ≤ m.allowanceUsed ∧ phase ≠ .held then bandAdd band m.excess else m.excess) ∧
    (countOutage phase band allowance m).startBand = m.startBand ∧
    (countOutage phase band allowance m).firstCounted = m.firstCounted ∧
    (countOutage phase band allowance m).lastTable = m.lastTable := by
  unfold countOutage
  by_cases used : m.allowanceUsed < allowance
  · have not : ¬allowance ≤ m.allowanceUsed := by omega
    simp [used, not, satAdd, max32]
  · have reached : allowance ≤ m.allowanceUsed := by omega
    cases phase <;> simp [used, reached, satAdd, max32]

/-- R142: the phase follows the minute. -/
theorem phaseOf_iff (b : Slot) (minute : Nat) : (minute < bookedEnd b ↔ phaseOf b minute = .booked) ∧
    (bookedEnd b ≤ minute ∧ minute < finalEnd b ↔ phaseOf b minute = .overrun) ∧
    (finalEnd b ≤ minute ↔ phaseOf b minute = .held) := by
  have ends : bookedEnd b ≤ finalEnd b := Nat.le_add_right _ _
  unfold phaseOf
  by_cases booked : minute < bookedEnd b
  · have short : ¬finalEnd b ≤ minute := by omega
    simp [booked, short]
  · have past : bookedEnd b ≤ minute := by omega
    by_cases overrun : minute < finalEnd b
    · have short : ¬finalEnd b ≤ minute := by omega
      simp [booked, past, overrun, short]
    · have held : finalEnd b ≤ minute := by omega
      have off : ¬minute < bookedEnd b := by omega
      simp [off, overrun, held]

/-- R142, R143: a counted second. -/
theorem countWith_counted (b : Slot) (table : Tariff) (e : EndedSecond) (bad : Bool) (m : Meter) :
    secondCounted b e.minute table e.number bad m (countWith b table e bad m) := by
  obtain ⟨booked, overrun, held⟩ := phaseOf_iff b e.minute
  unfold secondCounted countWith
  simp only [booked, overrun, held]
  have outage := countOutage_fields (phaseOf b e.minute) (bandAt table e.minute) table.classes[b.cls].allowance
    { countPhase (phaseOf b e.minute) (bandAt table e.minute) m with lastTable := some e.number }
  revert outage
  generalize phaseOf b e.minute = phase
  generalize table.classes[b.cls].allowance = allowance
  cases bad with
  | false => cases phase <;> simp [countPhase, satAdd, max32, bandAt, hourOfWeek]
  | true =>
    intro outage
    obtain ⟨o1, o2, o3, o4, o5, o6, o7, o8, o9⟩ := outage
    rw [if_pos rfl, o1, o2, o3, o4, o5, o6, o7, o8, o9]
    cases phase
    case held =>
      simp [countPhase, satAdd, max32]
      rfl
    all_goals simp [countPhase, bandAt, hourOfWeek]

/-! ### The blocks that take a tick before the page logic (R34) -/

/-- What a tick does but for the clock, the meters and the page. -/
structure tickShared (u t : State) : Prop where
  leaves : tickLeaves u t
  monitors : monitorsTook u t
  ahead : t.crosspointAhead = false
  took : u.crosspointAhead = false → crosspointTook u t
  held : u.crosspointAhead = true → crosspointHeld u t

theorem changeMade_monitors {crosspoint : Bool} {u s t : State} (h : t.monitors = s.monitors) :
    changeMade crosspoint u t ↔ changeMade crosspoint u s := by
  unfold changeMade
  rw [h]

/-- What the alarm items look at after a tick. -/
theorem alarmsFollowed_congr {crosspoint : Bool} {u s t : State} (h : alarmsFollowed crosspoint u s)
    (store : t.store.slots = s.store.slots ∧ t.store.timelines = s.store.timelines) (rows : t.rows = s.rows)
    (monitors : t.monitors = s.monitors) (alarm : t.alarm = s.alarm)
    (link : t.link.flags = s.link.flags ∧ t.link.log = s.link.log ∧ t.link.permissions = s.link.permissions) :
    alarmsFollowed crosspoint u t := by
  obtain ⟨flags, log, permissions⟩ := link
  obtain ⟨slots, timelines⟩ := store
  have made := changeMade_monitors (crosspoint := crosspoint) (u := u) monitors
  have level : alarmLevel t = alarmLevel s := by rw [alarmLevel, alarmLevel, permitted, permitted, alarm, permissions]
  obtain ⟨still, told, items, silent, sent⟩ := h
  refine ⟨fun none => ?_, fun changed => ?_, fun i => ?_, fun set => ?_, ?_⟩
  · rw [alarm, flags, log]
    exact still fun k => none (made.2 k)
  · obtain ⟨follow, at_⟩ := told (made.1 changed)
    rw [flags, level]
    refine ⟨fun p i same => ?_, at_⟩
    rw [alarm, sourceSeverity_congr slots timelines rows monitors]
    exact follow p i same
  · rw [alarm]
    exact items i
  · rw [log]
    exact silent set
  · rw [log]
    exact sent

theorem selectionMoved_congr {switched : Bool} {d : Fin 64} {u s t : State} (h : selectionMoved switched d u s)
    (rows : t.rows = s.rows) (monitors : t.monitors = s.monitors) : selectionMoved switched d u t := by
  unfold selectionMoved at *
  rw [rows, monitors]
  exact h

/-- The clock, the meters and the page come after the blocks. -/
theorem tickShared_after {u v t : State} (h : tickShared u v)
    (after : t = { withPage t v with clock := t.clock, tariffs := t.tariffs }) : tickShared u t := by
  obtain ⟨⟨leaves, writes, alarms⟩, monitors, ahead, took, held⟩ := h
  have storeT : t.store = v.store := by rw [after]; rfl
  have rowsT : t.rows = v.rows := by rw [after]; rfl
  have monitorsT : t.monitors = v.monitors := by rw [after]; rfl
  have alarmT : t.alarm = v.alarm := by rw [after]; rfl
  have aheadT : t.crosspointAhead = v.crosspointAhead := by rw [after]; rfl
  have linkT : t.link.flags = v.link.flags ∧ t.link.log = v.link.log ∧ t.link.permissions = v.link.permissions := by
    rw [after]
    exact ⟨rfl, rfl, rfl⟩
  refine ⟨⟨?_, ?_, ?_⟩, fun p => ?_, aheadT.trans ahead, fun c d => ?_, fun c d => ?_⟩
  · rw [rowsT, monitorsT, alarmT, aheadT, linkT.1, linkT.2.1]
    conv_lhs => rw [after, leaves]
    rfl
  · rw [hostWrites, linkT.2.1]
    exact writes
  · exact alarmsFollowed_congr alarms (by rw [storeT]; exact ⟨rfl, rfl⟩) rowsT monitorsT alarmT linkT
  · rw [monitorsT]
    exact monitors p
  · obtain ⟨books, present, moved⟩ := took c d
    rw [rowsT]
    exact ⟨books, present, fun k => selectionMoved_congr (moved k) rowsT monitorsT⟩
  · obtain ⟨row, moved⟩ := held c d
    rw [rowsT]
    exact ⟨row, fun k => selectionMoved_congr (moved k) rowsT monitorsT⟩

/-- R34: the line monitors, the crosspoint and the meters have taken the tick, and the page logic has not. -/
theorem handTick_shared (order : TickOrder) (e : EndedSecond) (u : State) : tickShared u (handTick order e u) := by
  obtain ⟨⟨l, took⟩, monitors, ahead⟩ := blocksTick_took order u
  have frame : tickMoved u _ := took.moved
  have writes := ticking_writes took
  have alarms := ticking_alarms took
  unfold handTick countMeters
  generalize blocksTick (order ++ List.finRange 49) [] u = b at *
  refine ⟨⟨?_, writes, ?_⟩, monitors, ahead, fun c => ?_, fun c => ?_⟩
  · conv_lhs => rw [frame]
    conv_rhs => rw [frame]
    rfl
  · exact alarmsFollowed_congr alarms ⟨rfl, rfl⟩ rfl rfl rfl ⟨rfl, rfl, rfl⟩
  · rw [c, Bool.not_false] at took
    exact (ticking_crosspointTook took :)
  · rw [c, Bool.not_true] at took
    exact (ticking_crosspointHeld took :)

/-- R94, R165: until the page logic takes the tick its registers stand, but for the mark of a change made. -/
theorem handTick_page (order : TickOrder) (e : EndedSecond) (u : State) :
    (handTick order e u).link = { u.link with
      flags := (handTick order e u).link.flags
      log := (handTick order e u).link.log
      pageDue := (handTick order e u).link.pageDue } ∧
    (changeMade (!u.crosspointAhead) u (handTick order e u) → (handTick order e u).link.pageDue = true) ∧
    (¬changeMade (!u.crosspointAhead) u (handTick order e u) →
      (handTick order e u).link.pageDue = u.link.pageDue) := by
  obtain ⟨⟨l, took⟩, -, -⟩ := blocksTick_took order u
  have frame : tickMoved u _ := took.moved
  exact ⟨(congrArg State.link frame :), (ticking_due took :)⟩

/-- R140 to R143: the meters after a tick. -/
theorem handTick_meters_at (order : TickOrder) (e : EndedSecond) {u : State} {table : Tariff} (current : e.table = some table)
    (n : Fin 1024) :
    (countsAt n e.minute e.second u → ∃ bad : Bool,
      secondCounted u.store.slots[n] e.minute table e.number bad u.tariffs.meters[n] (handTick order e u).tariffs.meters[n] ∧
      (bad = true ↔ badSecondOf u.store.slots[n] (handTick order e u))) ∧
    (¬countsAt n e.minute e.second u → (handTick order e u).tariffs.meters[n] = u.tariffs.meters[n]) := by
  obtain ⟨⟨l, took⟩, -, -⟩ := blocksTick_took order u
  have frame : tickMoved u _ := took.moved
  have meter : (handTick order e u).tariffs.meters[n] = meterAfter n e (blocksTick (order ++ List.finRange 49) [] u) :=
    build_getFin _ n
  have bad : ∀ b, outageSecond b (blocksTick (order ++ List.finRange 49) [] u) = true ↔ badSecondOf b (handTick order e u) :=
    fun b => outageSecond_iff b _
  rw [meter]
  generalize blocksTick (order ++ List.finRange 49) [] u = b at *
  obtain ⟨store, tariffs, tickets⟩ : b.store = u.store ∧ b.tariffs = u.tariffs ∧ b.tickets = u.tickets := by
    rw [frame]
    exact ⟨rfl, rfl, rfl⟩
  have counts := countsSecond_iff n (e := e) rfl rfl store tickets tariffs
  simp only [meterAfter, current, store, tariffs]
  refine ⟨fun k => ⟨outageSecond u.store.slots[n] b, ?_, bad _⟩, fun k => if_neg fun c => k (counts.1 c)⟩
  rw [if_pos (counts.2 k)]
  exact countWith_counted _ _ _ _ _

/-! ### The page logic at a tick (R165, R166) -/

/-- The link registers that the page logic looks at. -/
def pageAlike (s v : State) : Prop :=
  v.link.run = s.link.run ∧ v.link.fatal = s.link.fatal ∧ v.link.page = s.link.page ∧ v.link.pageCount = s.link.pageCount ∧
  v.link.pageDue = s.link.pageDue ∧ v.link.pageNext = s.link.pageNext

theorem pageTaken_congr {time : Stamp} {more : Bool} {s v t : State} (h : pageAlike s v) (k : pageTaken time more v t) :
    pageTaken time more s t := by
  obtain ⟨run, fatal, page, count, due, next⟩ := h
  unfold pageTaken pageKept at *
  rwa [run, fatal, page, count, due, next] at k

theorem owedPaged_congr {owed : List OwedTick} {s v t : State} (h : pageAlike s v) (k : owedPaged owed v t) :
    owedPaged owed s t := by
  obtain ⟨ticks, none, some⟩ := k
  refine ⟨ticks, fun e => ?_, fun e later taken => pageTaken_congr h (some e later taken)⟩
  obtain ⟨run, fatal, page, count, due, next⟩ := h
  have kept := none e
  unfold pageKept marksKept at *
  rwa [page, count, due, next] at kept

theorem boundaryPaged_congr {minute : BitVec 32} {s v t : State} (h : pageAlike s v)
    (ticks : v.link.pageTicks = s.link.pageTicks) (k : boundaryPaged minute v t) : boundaryPaged minute s t := by
  unfold boundaryPaged at *
  rw [ticks] at k
  exact owedPaged_congr h k

/-- R166: s as the page logic finds it when it takes the tick. -/
def markedAt (ahead : Bool) (s : State) : State := if ahead then s else nextMark s

/-- R166: the mark of a FRAMEREF pulse is taken with the tick, unless the crosspoint has taken that ahead. -/
theorem markedAt_link (ahead : Bool) (s : State) : (markedAt ahead s).link = { s.link with
    pageDue := s.link.pageDue || (!ahead && s.link.pageNext)
    pageNext := ahead && s.link.pageNext } := by
  cases ahead
  · rfl
  · show s.link = _
    simp only [Bool.not_true, Bool.false_and, Bool.or_false, Bool.true_and]

theorem withNextMark_eq (u : State) : withNextMark u = markedAt u.crosspointAhead u := by
  unfold withNextMark markedAt nextMark
  rfl

/-- R166: the page logic takes a tick that ends no minute. -/
theorem secondPage_paged {u v s t : State} (running : u.clock.second < 59)
    (link : v.link = { u.link with flags := v.link.flags, log := v.link.log, pageDue := v.link.pageDue })
    (due : changeMade (!u.crosspointAhead) u v → v.link.pageDue = true)
    (kept : ¬changeMade (!u.crosspointAhead) u v → v.link.pageDue = u.link.pageDue)
    (clock : clockTime s.clock = { minute := u.clock.minute.toNat, second := u.clock.second + 1 })
    (same : s.link = v.link) (monitors : t.monitors = v.monitors) (run : t = secondPage u.crosspointAhead s) :
    tickPaged u t := by
  obtain ⟨ticks, frame, taken, idle⟩ := secondPage_taken u.crosspointAhead s
  have found : (if u.crosspointAhead then s else nextMark s) = markedAt u.crosspointAhead s := rfl
  have made := changeMade_monitors (crosspoint := !u.crosspointAhead) (u := u) monitors
  rw [found] at taken idle
  rw [← run] at ticks frame taken idle
  have before := markedAt_link u.crosspointAhead u
  have after := markedAt_link u.crosspointAhead s
  rw [same, link] at after
  refine ⟨by rw [ticks, same, link], fun ended => by omega, fun _ => ?_⟩
  rw [withNextMark_eq, made]
  have mark : (markedAt u.crosspointAhead s).link.pageDue = true ↔
      (markedAt u.crosspointAhead u).link.pageDue = true ∨ changeMade (!u.crosspointAhead) u v := by
    rw [before, after]
    by_cases changed : changeMade (!u.crosspointAhead) u v
    · simp only [due changed, changed, Bool.true_or, or_true]
    · simp only [kept changed, changed, or_false]
  refine ⟨fun k => ?_, fun k => ?_⟩
  · have now := mark.2 k
    refine pageTaken_congr (v := markedAt u.crosspointAhead s) ?_ (clock ▸ taken now)
    refine ⟨?_, ?_, ?_, ?_, now, ?_⟩ <;> simp only [withMark, before, after]
  · have now : (markedAt u.crosspointAhead s).link.pageDue = false := Bool.eq_false_iff.2 fun e => k (mark.1 e)
    rw [idle now]
    refine ⟨⟨?_, ?_⟩, ?_, rfl⟩
    · show (markedAt u.crosspointAhead s).link.page = _
      rw [after]
    · show (markedAt u.crosspointAhead s).link.pageCount = _
      rw [after]
    · show ((markedAt u.crosspointAhead s).link.pageDue || (markedAt u.crosspointAhead s).link.pageNext) = _
      rw [now, after, before, Bool.false_or]

end Sys2Proof.Machine
end

section
/-! ### Second ticks, and the tick of a second 59 whose boundary came first (O33, O34) -/

namespace Sys2Proof.Machine

/-- The tick leaves the clock and the tables. -/
theorem handTick_stays (order : TickOrder) (e : EndedSecond) (u : State) : (handTick order e u).clock = u.clock ∧
    (handTick order e u).tariffs = { u.tariffs with meters := (handTick order e u).tariffs.meters } ∧
    (handTick order e u).store.slots = u.store.slots := by
  obtain ⟨⟨l, took⟩, -, -⟩ := blocksTick_took order u
  have frame : tickMoved u _ := took.moved
  unfold handTick countMeters
  generalize blocksTick (order ++ List.finRange 49) [] u = b at *
  rw [frame]
  exact ⟨rfl, rfl, rfl⟩

/-- R35: the clock and the page after the other blocks have taken the tick. -/
theorem completeSecond_after (ahead : Bool) (v : State) : completeSecond ahead v =
    { withPage (completeSecond ahead v) v with clock := clockTicked v.clock } := by
  unfold completeSecond clockTicked
  by_cases running : v.clock.second < 59
  · rw [if_pos running, if_pos running]
    obtain ⟨-, frame, -⟩ := secondPage_taken ahead { v with clock := { v.clock with second := v.clock.second + 1 } }
    exact frame
  · rw [if_neg running, if_neg running]
    rfl

/-- R34, R35, R84, R140, R166: a tick with no boundary outstanding. -/
theorem completeSecond_taken (order : TickOrder) (w : State) :
    tickTaken w (completeSecond w.crosspointAhead (handTick order (runningSecond w) w)) := by
  obtain ⟨clock, tables, -⟩ := handTick_stays order (runningSecond w) w
  obtain ⟨link, due, kept⟩ := handTick_page order (runningSecond w) w
  have meters := fun n table (current : (runningSecond w).table = some table) =>
    handTick_meters_at order (runningSecond w) (u := w) current n
  have shared := handTick_shared order (runningSecond w) w
  generalize handTick order (runningSecond w) w = v at *
  have after := completeSecond_after w.crosspointAhead v
  have paged : tickPaged w (completeSecond w.crosspointAhead v) := by
    unfold completeSecond
    by_cases running : w.clock.second < 59
    · rw [if_pos (clock ▸ running)]
      refine secondPage_paged (s := { v with clock := { v.clock with second := v.clock.second + 1 } }) running link due kept
        ?_ rfl (by simp) rfl
      rw [clock]
      rfl
    · rw [if_neg (clock ▸ running)]
      have page : v.link.page = w.link.page ∧ v.link.pageCount = w.link.pageCount := by rw [link]; exact ⟨rfl, rfl⟩
      have next : v.link.pageNext = w.link.pageNext := by rw [link]
      refine ⟨show v.link.pageTicks = _ by rw [link], fun _ => ⟨page, fun k => ⟨due k, next⟩, fun k => ⟨kept k, next⟩⟩,
        fun k => absurd k running⟩
  generalize completeSecond w.crosspointAhead v = t at *
  have clockT : t.clock = clockTicked w.clock := by rw [after, clock]
  have tariffsT : t.tariffs = v.tariffs := by rw [after]; rfl
  have rowsT : t.rows = v.rows := by rw [after]; rfl
  have monitorsT : t.monitors = v.monitors := by rw [after]; rfl
  have frame : t = { withPage t v with clock := t.clock, tariffs := t.tariffs } := by
    rw [clockT, ← clock, tariffsT]
    exact after
  obtain ⟨leaves, monitors, ahead, took, held⟩ := tickShared_after shared frame
  refine ⟨clockT, leaves, monitors, ahead, took, held, paged, ?_, ?_, ?_, ?_, fun n table current => ?_⟩
  · rw [tariffsT, tables]
  · rw [tariffsT, tables]
  · rw [tariffsT, tables]
  · rw [tariffsT, tables]
  · obtain ⟨counts, rests⟩ := meters n table current
    rw [tariffsT, badSecondOf, rowsT, monitorsT]
    exact ⟨counts, rests⟩

/-! ### The tick of a second 59 whose boundary came first (R34, R136, R145) -/

/-- R136: the tables after a boundary. -/
theorem swapTariff_tariffs (s : State) :
    (∀ table, s.tariffs.staged = some table → (swapTariff s).tariffs = { s.tariffs with
      current := some table
      staged := none
      retired := s.tariffs.current
      number := s.tariffs.number + 1 }) ∧
    (s.tariffs.staged = none → (swapTariff s).tariffs = s.tariffs) := by
  unfold swapTariff
  refine ⟨fun table staged => ?_, fun staged => ?_⟩
  · rw [staged]
  · rw [staged]

/-- R145: the band of an activation is looked up in the current table. -/
theorem activationBand_eq (b : Slot) {s t : State} (h : s.tariffs.current = t.tariffs.current) :
    activationBand b s = activationBandOf b t := by
  unfold activationBand activationBandOf currentBand
  rw [h]
  rfl

/-- R136, R145: the meter and tariff unit takes a boundary. -/
theorem takeTariffBoundary_swapped (s : State) :
    takeTariffBoundary s = { s with tariffs := (takeTariffBoundary s).tariffs } ∧
    tariffSwapped s (takeTariffBoundary s) ∧
    ∀ n : Fin 1024, (takeTariffBoundary s).tariffs.meters[n] =
      bandSet s.store.slots[n] s.tariffs.meters[n] (takeTariffBoundary s) := by
  obtain ⟨some, none⟩ := swapTariff_tariffs s
  have frame : swapTariff s = { s with tariffs := (swapTariff s).tariffs } := by
    unfold swapTariff
    split <;> rfl
  have meters : (swapTariff s).tariffs.meters = s.tariffs.meters := by
    cases staged : s.tariffs.staged with
    | none => rw [none staged]
    | some table => rw [some table staged]
  refine ⟨?_, ⟨fun table staged => ?_, fun staged => ?_⟩, fun n => ?_⟩
  · unfold takeTariffBoundary setStartBands swapTariff
    split <;> rfl
  · unfold takeTariffBoundary setStartBands
    rw [some table staged]
  · unfold takeTariffBoundary setStartBands
    rw [none staged]
  · have banded : (takeTariffBoundary s).tariffs.meters[n] = if slotOnAir (swapTariff s).store.slots[n] then
        bandedMeter n (swapTariff s) else (swapTariff s).tariffs.meters[n] := build_getFin _ n
    have slots : (swapTariff s).store.slots[n] = s.store.slots[n] := by rw [frame]
    have current : (swapTariff s).tariffs.current = (takeTariffBoundary s).tariffs.current := by
      simp only [takeTariffBoundary, setStartBands]
    rw [banded, bandedMeter, slots, meters, activationBand_eq _ current]
    rfl

theorem bandSet_congr (b : Slot) (m : Meter) {s t : State} (h : t.tariffs.current = s.tariffs.current) :
    bandSet b m t = bandSet b m s := by
  simp only [bandSet, withStartBand, activationBandOf, h]

theorem tariffSwapped_congr {s v t u : State} (h : tariffSwapped v u)
    (before : v.tariffs = { s.tariffs with meters := v.tariffs.meters }) (after : t.tariffs = u.tariffs) :
    tariffSwapped s t := by
  obtain ⟨some, none⟩ := h
  have staged : v.tariffs.staged = s.tariffs.staged := by rw [before]
  unfold tariffSwapped
  rw [← staged]
  refine ⟨fun table k => ?_, fun k => ?_⟩
  · rw [after, some table k, before]
  · rw [after, none k, before]

/-- R34, R136, R142, R145, R166: the tick of the second 59 of `ended`, whose boundary the store has taken. -/
theorem owedTick_taken (order : TickOrder) (ended : BitVec 32) (w : State) :
    let t := boundaryPage (ended + 1) (setRollover .none (owedTick order ended w))
    t.clock = { w.clock with rollover := .none } ∧ tickShared w t ∧ tariffSwapped w t ∧
    (changeMade (!w.crosspointAhead) w t → boundaryPaged (ended + 1) (withMark w) t) ∧
    (¬changeMade (!w.crosspointAhead) w t → boundaryPaged (ended + 1) w t) ∧
    ∀ n : Fin 1024, ∀ table, w.tariffs.current = some table →
      (countsAt n ended.toNat 59 w → ∃ bad x, secondCounted w.store.slots[n] ended.toNat table w.tariffs.number bad
        w.tariffs.meters[n] x ∧ (bad = true ↔ badSecondOf w.store.slots[n] t) ∧
        t.tariffs.meters[n] = bandSet w.store.slots[n] x t) ∧
      (¬countsAt n ended.toNat 59 w → t.tariffs.meters[n] = bandSet w.store.slots[n] w.tariffs.meters[n] t) := by
  intro t
  obtain ⟨clock, tables, slots⟩ := handTick_stays order (owedSecond ended w) w
  obtain ⟨link, due, kept⟩ := handTick_page order (owedSecond ended w) w
  have meters := fun n table (current : (owedSecond ended w).table = some table) =>
    handTick_meters_at order (owedSecond ended w) (u := w) current n
  have shared := handTick_shared order (owedSecond ended w) w
  have run : t = boundaryPage (ended + 1) (setRollover .none (takeTariffBoundary (handTick order (owedSecond ended w) w))) := rfl
  generalize handTick order (owedSecond ended w) w = v at *
  obtain ⟨swap, swapped, banded⟩ := takeTariffBoundary_swapped v
  generalize takeTariffBoundary v = x at *
  obtain ⟨frame, paged⟩ := boundaryPage_taken (ended + 1) (setRollover .none x)
  rw [← run] at frame paged
  clear run
  clear_value t
  have clockT : t.clock = { w.clock with rollover := .none } := by rw [frame, ← clock, swap]; rfl
  have tariffsT : t.tariffs = x.tariffs := by rw [frame]; rfl
  have rowsT : t.rows = v.rows := by rw [frame, swap]; rfl
  have monitorsT : t.monitors = v.monitors := by rw [frame, swap]; rfl
  have linkX : (setRollover .none x).link = v.link := by rw [swap]; rfl
  have made := changeMade_monitors (crosspoint := !w.crosspointAhead) (u := w) monitorsT
  have after : t = { withPage t v with clock := t.clock, tariffs := t.tariffs } := by
    rw [clockT, tariffsT, ← clock]
    conv_lhs => rw [frame, swap]
    rfl
  refine ⟨clockT, tickShared_after shared after, tariffSwapped_congr swapped tables tariffsT, fun k => ?_, fun k => ?_,
    fun n table current => ?_⟩
  · refine boundaryPaged_congr ?_ (by rw [linkX, link]; rfl) paged
    unfold pageAlike
    rw [linkX, due (made.1 k), link]
    exact ⟨rfl, rfl, rfl, rfl, rfl, rfl⟩
  · refine boundaryPaged_congr ?_ (by rw [linkX, link]) paged
    unfold pageAlike
    rw [linkX, kept fun e => k (made.2 e), link]
    exact ⟨rfl, rfl, rfl, rfl, rfl, rfl⟩
  · obtain ⟨counts, rests⟩ := meters n table current
    have band : ∀ m, bandSet w.store.slots[n] m t = bandSet w.store.slots[n] m x := fun m =>
      bandSet_congr _ _ (by rw [tariffsT])
    have meter := banded n
    rw [slots] at meter
    rw [tariffsT, badSecondOf, rowsT, monitorsT, band]
    refine ⟨fun k => ?_, fun k => ?_⟩
    · obtain ⟨bad, counted, second⟩ := counts k
      exact ⟨bad, _, counted, second, by rw [band]; exact meter⟩
    · rw [meter, rests k]

/-! ### The commands that make a tick (R32, R33) -/

/-- R33: a pulse that completes a relock run. -/
theorem pulseFreeRun_relocks {instant : Nat} (order : TickOrder) {s : State} (two : s.clock.relock.count = 2)
    (gap : relockGap s.clock.relock instant) :
    pulseFreeRun instant order s = secondTick order (withReference (lockedClock instant s.clock) s) := by
  have three : relockCount s.clock.relock instant = 3 := by
    rw [relockCount_next (by omega) gap, two]
  rw [pulseFreeRun, three, changeReference_eq]
  rfl

/-- R32: the clock once the 1.5 s have passed. -/
theorem freeRunClock_eq {c : Clock} {last : Nat} (h : c.lastTick = some last) : freeRunClock c = { c with
    secref := .freeRun
    lastTick := none
    nextOwn := some (last + 1500000000 + 1000000000)
    relock := { count := 0, last := 0 } } := by
  rw [freeRunClock, h]
  rfl

/-- R32, R33: each of the commands hands out a second tick. -/
theorem tickBy_ticks {c : Instr} {s w : State} (live : s.resetn = true) (h : tickBy c s w) :
    ∃ order, exec c s = .next (secondTick order w) ∧ w.resetn = true := by
  rcases h with ⟨instant, order, rfl, locked, rfl⟩ | ⟨instant, order, rfl, free, two, gap, rfl⟩ |
    ⟨order, due, rfl, free, next, rfl⟩ | ⟨order, last, rfl, locked, tick, rfl⟩
  all_goals refine ⟨order, (exec_live live (by simp) (by simp)).trans (congrArg _ ?_), live⟩
  · rw [liveEffect, secrefPulse, locked]
  · rw [liveEffect, secrefPulse, free]
    exact pulseFreeRun_relocks order two gap
  · rw [liveEffect, ownTick, free, next]
    rfl
  · rw [liveEffect, secrefTimeout, locked]
    show secondTick order (changeReference (freeRunClock s.clock) s) = _
    rw [changeReference_eq, freeRunClock_eq tick]

theorem secondTick_idle (order : TickOrder) {s : State} (h : s.clock.rollover = .none) :
    secondTick order s = completeSecond s.crosspointAhead (handTick order (runningSecond s) s) := by
  have settled : settleBoundary s = s := by rw [settleBoundary, h]
  rw [secondTick, settled, h]

theorem boundaryAfterTick_rollover (minute : BitVec 32) (clockSet : Bool) (swapAfter recheckAfter : Nat) (s : State) :
    (boundaryAfterTick minute clockSet swapAfter recheckAfter s).clock.rollover = .none := by
  have clock : (boundaryAfterTick minute clockSet swapAfter recheckAfter s).clock =
      (rollTime minute clockSet (setRollover .none s)).clock := by simp [boundaryAfterTick]
  rw [clock, rollTime]
  split <;> rfl

/-- R35: a boundary that its tick has left outstanding is taken first. -/
theorem secondTick_settles (order : TickOrder) {minute : BitVec 32} {clockSet : Bool} {s : State}
    (h : s.clock.rollover = .tickFirst minute clockSet) :
    secondTick order s = secondTick order (boundaryAfterTick minute clockSet 0 64 s) := by
  have settled : settleBoundary s = boundaryAfterTick minute clockSet 0 64 s := by rw [settleBoundary, h]
  have rollover := boundaryAfterTick_rollover minute clockSet 0 64 s
  rw [secondTick_idle order rollover, secondTick, settled, rollover]

theorem secondTick_owed (order : TickOrder) {ended : BitVec 32} {s : State} (h : s.clock.rollover = .boundaryFirst ended) :
    secondTick order s = boundaryPage (ended + 1) (setRollover .none (owedTick order ended s)) := by
  have settled : settleBoundary s = s := by rw [settleBoundary, h]
  rw [secondTick, settled, h]

theorem secondTick_handed (order : TickOrder) {ended : BitVec 32} {s : State} (h : s.clock.rollover = .handed ended) :
    secondTick order s = boundaryPage (ended + 1) (setRollover .none s) := by
  have settled : settleBoundary s = s := by rw [settleBoundary, h]
  rw [secondTick, settled, h]

/-- Settles O33: a tick with a boundary outstanding is one at the state that the boundary leaves. -/
theorem secondTicksTaken : Obligations.SecondTicksTaken := by
  intro c s w live ticks
  obtain ⟨order, run, liveW⟩ := tickBy_ticks live ticks
  refine ⟨fun idle => ⟨_, run, ?_⟩, fun minute clockSet first => ?_⟩
  · rw [secondTick_idle order idle]
    exact completeSecond_taken order w
  · have boundary : exec (.minuteBoundary ⟨[], true, 0, 64⟩) w = .next (boundaryAfterTick minute clockSet 0 64 w) := by
      refine (exec_live liveW (by simp) (by simp)).trans (congrArg _ ?_)
      rw [liveEffect, minuteBoundary, tickAwaited, first]
      simp only [takeBoundary, first, Bool.false_eq_true, if_false, if_true]
    have rollover := boundaryAfterTick_rollover minute clockSet 0 64 w
    rw [secondTick_settles order first, secondTick_idle order rollover] at run
    exact ⟨_, _, boundary, run, completeSecond_taken order _⟩

/-- Settles O34. -/
theorem owedTickTaken : Obligations.OwedTickTaken := by
  intro c s w live ticks
  obtain ⟨order, run, -⟩ := tickBy_ticks live ticks
  refine ⟨fun ended first => ?_, fun ended handed => ?_⟩
  · rw [secondTick_owed order first] at run
    obtain ⟨clock, ⟨leaves, monitors, ahead, took, held⟩, swapped, marked, stood, meters⟩ := owedTick_taken order ended w
    exact ⟨_, run, clock, leaves, monitors, ahead, took, held, swapped, marked, stood, meters⟩
  · rw [secondTick_handed order handed] at run
    obtain ⟨frame, paged⟩ := boundaryPage_taken (ended + 1) (setRollover .none w)
    exact ⟨_, run, frame, boundaryPaged_congr ⟨rfl, rfl, rfl, rfl, rfl, rfl⟩ rfl paged⟩

end Sys2Proof.Machine
end

section
/-! ### The ring re-check of a boundary (R163; log 9, log 21) -/

namespace Sys2Proof.Machine

/-- From s to t the accesses and the link traffic alone have moved. -/
def ticketsMoved (s t : State) : Prop := t = { s with tickets := t.tickets, link := { s.link with log := t.link.log } }

theorem ticketsMoved_refl (s : State) : ticketsMoved s s := rfl

theorem recheckDue_iff (s : State) : recheckDue s ↔ readsOpen s = true := by
  unfold recheckDue readsOpen
  rw [decide_eq_true_eq, and_comm]

/-- R163: from s to t the re-check of the ring has been handed to the ticket unit. -/
structure recheckMade (s t : State) : Prop where
  moved : ticketsMoved s t
  writes : hostWrites t = hostWrites s
  grown : ∃ l, t.link.log = s.link.log ++ l
  behind : ∀ a, s.tickets.inFlight = some a →
    t.tickets = { s.tickets with recheckIn := none, waiting := s.tickets.waiting ++ [.recheck] }
  idle : s.tickets.inFlight = none → s.tickets.blocked = false ∨ ¬recheckDue s →
    t.tickets = { s.tickets with recheckIn := none }
  quiet : s.tickets.inFlight = none → s.tickets.blocked = false → t.link.log = s.link.log
  read : s.tickets.inFlight = none → s.tickets.blocked = true → recheckDue s →
    t.tickets = { s.tickets with recheckIn := none, inFlight := some .recheck } ∧ slotRead s t

theorem makeRecheck_made {s : State} (gate : s.link.gate ≠ .muteAfter 0)
    (tidy : s.tickets.inFlight = none → s.tickets.waiting = []) : recheckMade s (makeRecheck s) := by
  have due := recheckDue_iff s
  cases flight : s.tickets.inFlight with
  | some a =>
    have e : makeRecheck s =
        { s with tickets := { s.tickets with recheckIn := none, waiting := s.tickets.waiting ++ [.recheck] } } :=
      submit_behind _ (by exact flight)
    rw [e]
    exact ⟨rfl, rfl, ⟨[], (List.append_nil _).symm⟩, fun _ _ => rfl, fun k => (nomatch flight.symm.trans k),
      fun k => (nomatch flight.symm.trans k), fun k => (nomatch flight.symm.trans k)⟩
  | none =>
    have e : makeRecheck s = beginAccess .recheck { s with tickets := { s.tickets with recheckIn := none } } := by
      refine (submit_idle _ (by exact tidy flight)).trans ?_
      show (if s.tickets.inFlight.isSome then _ else _) = _
      rw [flight]
      rfl
    have linked : linkOpen s = readsOpen s := by
      rw [linkOpen, writesDropped, decide_eq_false gate, Bool.not_false, Bool.and_true]
    have begun : beginAccess .recheck { s with tickets := { s.tickets with recheckIn := none } } =
        if s.tickets.blocked && linkOpen s then setInFlight (some .recheck) (issueRead (ringSlotAddress s) 1
          { s with tickets := { s.tickets with recheckIn := none } })
        else { s with tickets := { s.tickets with recheckIn := none } } := rfl
    rw [e, begun, linked]
    by_cases reads : s.tickets.blocked = true ∧ readsOpen s = true
    · obtain ⟨blocked, opened⟩ := reads
      have out : issueRead (ringSlotAddress s) 1 { s with tickets := { s.tickets with recheckIn := none } } =
          record (.read (ringSlotAddress s) 1) { s with tickets := { s.tickets with recheckIn := none } } := if_pos opened
      rw [blocked, opened, out]
      refine ⟨rfl, ?_, ⟨[_], rfl⟩, fun a k => (nomatch flight.symm.trans k), fun _ k => ?_,
        fun _ k => (nomatch blocked.symm.trans k), fun _ _ _ => ⟨rfl, fun ring has => ?_⟩⟩
      · exact (List.filterMap_append ..).trans (List.append_nil _)
      · rcases k with k | k
        · exact (nomatch blocked.symm.trans k)
        · exact absurd (due.2 opened) k
      · refine ⟨[], [], ?_⟩
        rw [List.append_nil]
        show s.link.log ++ [LinkOp.read (ringSlotAddress s) 1] = _
        rw [ringSlotAddress, has]
    · have closed : (s.tickets.blocked && readsOpen s) = false := by
        rw [Bool.eq_false_iff]
        exact fun k => reads (Bool.and_eq_true_iff.1 k)
      rw [closed]
      exact ⟨rfl, rfl, ⟨[], (List.append_nil _).symm⟩, fun a k => (nomatch flight.symm.trans k), fun _ _ => rfl,
        fun _ _ => rfl, fun _ blocked k => absurd ⟨blocked, due.1 k⟩ reads⟩

/-- A read between two states stands between states before and after them. -/
theorem slotRead_widen {s x y t : State} (before : ∃ l, x.link.log = s.link.log ++ l) (after : ∃ l, t.link.log = y.link.log ++ l)
    (ring : x.tickets.ring = s.tickets.ring) (position : x.tickets.writePosition = s.tickets.writePosition)
    (h : slotRead x y) : slotRead s t := by
  intro r has
  obtain ⟨first, e1⟩ := before
  obtain ⟨last, e2⟩ := after
  obtain ⟨l, l', e⟩ := h r (ring.trans has)
  refine ⟨first ++ l, l' ++ last, ?_⟩
  rw [e2, e, e1, position]
  simp only [List.append_assoc, List.cons_append]

/-- R163: from s to v the boundary has opened with its re-check. -/
structure recheckOpened (after : Nat) (s v : State) : Prop where
  moved : ticketsMoved s v
  writes : hostWrites v = hostWrites s
  grown : ∃ l, v.link.log = s.link.log ++ l
  shut : ¬recheckDue s → v.tickets = s.tickets
  later : recheckDue s → after ≠ 0 → v.tickets = { s.tickets with recheckIn := some after }
  first : recheckDue s → after = 0 → recheckMade s v

theorem openRecheck_opened (after : Nat) {s : State} (gate : s.link.gate ≠ .muteAfter 0)
    (tidy : s.tickets.inFlight = none → s.tickets.waiting = []) : recheckOpened after s (openRecheck after s) := by
  have made := makeRecheck_made gate tidy
  unfold openRecheck
  by_cases due : s.link.run ≠ .dormant ∧ s.link.fatal = .none
  · rw [if_pos due]
    by_cases zero : after = 0
    · rw [if_pos zero]
      exact ⟨made.moved, made.writes, made.grown, fun k => absurd due k, fun _ k => absurd zero k, fun _ _ => made⟩
    · rw [if_neg zero]
      exact ⟨rfl, rfl, ⟨[], (List.append_nil _).symm⟩, fun k => absurd due k, fun _ _ => rfl, fun _ k => absurd k zero⟩
  · rw [if_neg due]
    exact ⟨rfl, rfl, ⟨[], (List.append_nil _).symm⟩, fun _ => rfl, fun k => absurd k due, fun k => absurd k due⟩

/-- R163: from u to t a re-check still to be made has been made, unless closes are held. -/
structure recheckClosed (u t : State) : Prop where
  moved : ticketsMoved u t
  writes : hostWrites t = hostWrites u
  grown : ∃ l, t.link.log = u.link.log ++ l
  rest : u.tickets.recheckIn = none ∨ u.store.holds ≠ [] → t.tickets = u.tickets
  made : u.tickets.recheckIn ≠ none → u.store.holds = [] → recheckMade u t

theorem lastRecheck_closed {u : State} (gate : u.link.gate ≠ .muteAfter 0)
    (tidy : u.tickets.inFlight = none → u.tickets.waiting = []) : recheckClosed u (lastRecheck u) := by
  have made := makeRecheck_made gate tidy
  unfold lastRecheck
  by_cases waits : u.tickets.recheckIn ≠ none ∧ u.store.holds = []
  · obtain ⟨some, empty⟩ := waits
    have k : (u.tickets.recheckIn.isSome && u.store.holds.isEmpty) = true := by
      rw [Bool.and_eq_true, Option.isSome_iff_ne_none, List.isEmpty_iff]
      exact ⟨some, empty⟩
    rw [if_pos k]
    exact ⟨made.moved, made.writes, made.grown, fun no => (no.elim some fun e => e empty).elim, fun _ _ => made⟩
  · have k : ¬(u.tickets.recheckIn.isSome && u.store.holds.isEmpty) = true := by
      rw [Bool.and_eq_true, Option.isSome_iff_ne_none, List.isEmpty_iff]
      exact waits
    rw [if_neg k]
    exact ⟨rfl, rfl, ⟨[], (List.append_nil _).symm⟩, fun _ => rfl, fun some empty => absurd ⟨some, empty⟩ waits⟩

/-- R163, R48: a boundary at which the store makes record writes alone, between its first and its last look at the re-check. -/
theorem rechecked_of {after : Nat} {ws : List HostWrite} {s v u t : State} (opened : recheckOpened after s v)
    (written : recordsWritten ws v u) (grown : ∃ l, u.link.log = v.link.log ++ l)
    (holds : after ≠ 0 → u.store.holds = s.store.holds)
    (due : recheckDue u ↔ recheckDue s) (closed : recheckClosed u t) (work : recheckDue s ∨ ws = []) :
    rechecked after ws s t := by
  have start : ∃ l, u.link.log = s.link.log ++ l := by
    obtain ⟨l, e⟩ := opened.grown
    obtain ⟨m, e'⟩ := grown
    exact ⟨l ++ m, by rw [e', e, List.append_assoc]⟩
  have finish : ∃ l, t.link.log = v.link.log ++ l := by
    obtain ⟨l, e⟩ := grown
    obtain ⟨m, e'⟩ := closed.grown
    exact ⟨l ++ m, by rw [e', e, List.append_assoc]⟩
  obtain ⟨free, busy⟩ := written
  refine ⟨fun no noRecheck => ?_, fun must flight waiting => ?_, fun must a flight => ?_⟩
  · have tickets := opened.shut no
    obtain rfl := work.resolve_left no
    have kept : u.tickets = s.tickets ∧ hostWrites u = hostWrites s := by
      by_cases flight : v.tickets.inFlight = none
      · obtain ⟨same, writes⟩ := free flight
        exact ⟨same.trans tickets, by rw [writes, List.append_nil, opened.writes]⟩
      · obtain ⟨writes, same⟩ := busy flight
        rw [List.map_nil, List.append_nil] at same
        exact ⟨same.trans tickets, writes.trans opened.writes⟩
    refine ⟨(closed.rest (.inl ?_)).trans kept.1, closed.writes.trans kept.2⟩
    rw [kept.1]
    exact noRecheck
  · by_cases zero : after = 0
    · have made := opened.first must zero
      have unheld : ¬(after ≠ 0 ∧ s.store.holds ≠ []) := fun k => k.1 zero
      rw [if_neg unheld]
      refine ⟨fun k => ?_, fun blocked _ _ => ?_, fun _ _ k => absurd zero k⟩
      · have tickets := made.idle flight (.inl (k.resolve_right unheld))
        obtain ⟨same, writes⟩ := free (by rw [tickets]; exact flight)
        have last := closed.rest (.inl (by rw [same, tickets]))
        exact ⟨last.trans (same.trans tickets), by rw [closed.writes, writes, opened.writes]⟩
      · obtain ⟨tickets, read⟩ := made.read flight blocked must
        obtain ⟨writes, same⟩ := busy (by rw [tickets]; exact Option.some_ne_none _)
        have last := closed.rest (.inl (by rw [same, tickets]))
        refine ⟨slotRead_widen ⟨[], (List.append_nil _).symm⟩ finish rfl rfl read,
          closed.writes.trans (writes.trans opened.writes), ?_⟩
        rw [last, same, tickets, waiting, List.nil_append]
    · have tickets := opened.later must zero
      obtain ⟨same, writes⟩ := free (by rw [tickets]; exact flight)
      have written : hostWrites t = hostWrites s ++ ws := by rw [closed.writes, writes, opened.writes]
      have now : u.tickets = { s.tickets with recheckIn := some after } := same.trans tickets
      have waits : u.tickets.recheckIn ≠ none := by rw [now]; exact Option.some_ne_none _
      by_cases held : s.store.holds ≠ []
      · have last := closed.rest (.inr (holds zero ▸ held))
        rw [if_pos ⟨zero, held⟩]
        exact ⟨fun _ => ⟨last.trans now, written⟩, fun _ k => absurd ⟨zero, held⟩ k, fun _ k => absurd ⟨zero, held⟩ k⟩
      · have unheld : ¬(after ≠ 0 ∧ s.store.holds ≠ []) := fun k => held k.2
        have made := closed.made waits (holds zero ▸ not_not.1 held)
        have idle : u.tickets.inFlight = none := by rw [now]; exact flight
        rw [if_neg unheld]
        refine ⟨fun k => ⟨?_, written⟩, fun _ _ k => absurd k zero, fun blocked _ _ => ?_⟩
        · rw [made.idle idle (.inl (by rw [now]; exact k.resolve_right unheld)), now]
        · obtain ⟨last, read⟩ := made.read idle (by rw [now]; exact blocked) (due.2 must)
          refine ⟨slotRead_widen start ⟨[], (List.append_nil _).symm⟩ (by rw [now]) (by rw [now]) read, written, ?_⟩
          rw [last, now]
  · by_cases zero : after = 0
    · have tickets := (opened.first must zero).behind a flight
      obtain ⟨writes, same⟩ := busy (by rw [tickets, flight]; exact Option.some_ne_none _)
      have unheld : ¬(after ≠ 0 ∧ s.store.holds ≠ []) := fun k => k.1 zero
      have last := closed.rest (.inl (by rw [same, tickets]))
      refine ⟨closed.writes.trans (writes.trans opened.writes), ?_⟩
      rw [if_neg unheld, if_pos zero, if_pos (.inl zero), last, same, tickets, List.append_nil]
    · have tickets := opened.later must zero
      obtain ⟨writes, same⟩ := busy (by rw [tickets, flight]; exact Option.some_ne_none _)
      refine ⟨closed.writes.trans (writes.trans opened.writes), ?_⟩
      by_cases held : s.store.holds ≠ []
      · have last := closed.rest (.inr (holds zero ▸ held))
        rw [if_pos ⟨zero, held⟩, if_neg zero, if_pos (.inr ⟨zero, held⟩), last, same, tickets, List.append_nil,
          List.append_nil]
      · have unheld : ¬(after ≠ 0 ∧ s.store.holds ≠ []) := fun k => held k.2
        have made := closed.made (by rw [same, tickets]; exact Option.some_ne_none _) (holds zero ▸ not_not.1 held)
        have last := made.behind a (by rw [same, tickets]; exact flight)
        rw [if_neg unheld, if_neg zero, if_neg (fun k => k.elim zero unheld), last, same, tickets, List.append_nil]

end Sys2Proof.Machine
end

section
/-! ### The boundary of a minute (R34, R53, R136, R163, R166) -/

namespace Sys2Proof.Machine

/-! ### What a boundary moves -/

/-- What a boundary may change behind its new time and ahead of the page logic. -/
def boundaryMoved (s t : State) : Prop :=
  t = { s with
    store := t.store
    rows := t.rows
    tariffs := t.tariffs
    accounts := t.accounts
    tickets := t.tickets
    alarm := { s.alarm with items := t.alarm.items }
    link := { s.link with
      flags := t.link.flags
      log := t.link.log } } ∧
  ∀ i : Fin 51, 48 ≤ i.val → t.alarm.items[i] = s.alarm.items[i]

theorem boundaryMoved_refl (s : State) : boundaryMoved s s := ⟨rfl, fun _ _ => rfl⟩

theorem boundaryMoved_trans {s t u : State} (h : boundaryMoved s t) (k : boundaryMoved t u) : boundaryMoved s u := by
  obtain ⟨frame, items⟩ := h
  obtain ⟨frame', items'⟩ := k
  refine ⟨?_, fun i hi => (items' i hi).trans (items i hi)⟩
  rw [frame', frame]

theorem boundaryMoved_tickets {s t : State} (h : ticketsMoved s t) : boundaryMoved s t := by
  rw [h]
  exact ⟨rfl, fun _ _ => rfl⟩

theorem boundaryMoved_store {s t : State} (h : storeWorked s t) : boundaryMoved s t := by
  obtain ⟨frame, items⟩ := h
  refine ⟨?_, items⟩
  conv_lhs => rw [frame]
  conv_rhs => rw [frame]

theorem boundaryMoved_tariffs {s t : State} (h : t = { s with tariffs := t.tariffs }) : boundaryMoved s t := by
  rw [h]
  exact ⟨rfl, fun _ _ => rfl⟩

/-- The links of a state that a boundary has moved. -/
theorem boundaryMoved_link {s t : State} (h : boundaryMoved s t) : t.link.run = s.link.run ∧
    t.link.fatal = s.link.fatal ∧ t.link.gate = s.link.gate ∧ t.link.permissions = s.link.permissions ∧
    t.link.pageTicks = s.link.pageTicks ∧ t.clock = s.clock ∧ t.monitors = s.monitors ∧ pageAlike s t := by
  obtain ⟨frame, -⟩ := h
  rw [frame]
  exact ⟨rfl, rfl, rfl, rfl, rfl, rfl, rfl, rfl, rfl, rfl, rfl, rfl, rfl⟩

theorem boundaryMoved_due {s t : State} (h : boundaryMoved s t) : recheckDue t ↔ recheckDue s := by
  obtain ⟨run, fatal, -⟩ := boundaryMoved_link h
  rw [recheckDue, recheckDue, run, fatal]

theorem boundaryMoved_free {s t : State} (h : boundaryMoved s t) (free : linkFree s) : linkFree t := by
  obtain ⟨live, opened, gate⟩ := free
  rw [h.1]
  exact ⟨live, opened, gate⟩

/-! ### The timelines with nothing due -/

theorem boundaryTimeline_idle {minute : Nat} (counted swapped : Bool) {d : Fin 64} {s : State} (h : ¬dueAt minute d s) :
    boundaryTimeline minute counted swapped d s = s := by
  cases head : s.store.timelines[d].head? with
  | none => simp only [boundaryTimeline, boundaryHead, boundaryStart, headOf, head]
  | some n =>
    have none := fun k => h ⟨n, head, k⟩
    have closes : ¬(slotOnAir s.store.slots[n] = true ∧ finalEnd s.store.slots[n] = minute) := fun k => none (.inl k)
    have overruns : ¬(s.store.slots[n].state = .active ∧ bookedEnd s.store.slots[n] = minute ∧
      0 < s.store.slots[n].extension) := fun k => none (.inr (.inl k))
    have starts : ¬(s.store.slots[n].state = .accepted ∧ s.store.slots[n].start = minute) := fun k => none (.inr (.inr k))
    simp only [boundaryTimeline, boundaryHead, boundaryStart, headOf, head, if_neg closes, if_neg overruns, if_neg starts]

/-- What the store has due looks at the store alone. -/
theorem dueAt_congr {minute : Nat} {d : Fin 64} {s t : State} (h : t.store = s.store) : dueAt minute d t ↔ dueAt minute d s := by
  rw [dueAt, dueAt, h]

theorem timelines_idle {minute : Nat} (counted swapped : Bool) (ports : List (Fin 64)) {s : State}
    (h : ∀ d ∈ ports, ¬dueAt minute d s) :
    ports.foldl (fun t d => boundaryTimeline minute counted swapped d t) s = s := by
  induction ports with
  | nil => rfl
  | cons d rest ih =>
    rw [List.foldl_cons, boundaryTimeline_idle counted swapped (h d (List.mem_cons_self ..))]
    exact ih fun e he => h e (List.mem_cons_of_mem _ he)

/-- R53, R64: with nothing due, or out of RUNNING, the store has no work. -/
theorem storeTimelines_idle {minute : Nat} {taken : Bool} (counted swapped : Bool) (ports : List (Fin 64)) {s : State}
    (h : taken = true → ∀ d, ¬dueAt minute d s) : storeTimelines taken minute counted swapped ports s = s := by
  unfold storeTimelines
  split
  · next k => exact timelines_idle counted swapped ports fun d _ => h k d
  · rfl

/-! ### The end of a boundary -/

/-- The clock of a boundary after its tick. -/
theorem rollTime_eq (minute : BitVec 32) (clockSet : Bool) (s : State) : rollTime minute clockSet (setRollover .none s) =
    { s with clock := { s.clock with
      minute := if clockSet then s.clock.minute else minute
      second := if clockSet then s.clock.second else 0
      rollover := .none } } := by
  cases clockSet <;> rfl

theorem recheckOpened_tidy {after : Nat} {s v : State} (h : recheckOpened after s v)
    (tidy : s.tickets.inFlight = none → s.tickets.waiting = []) : v.tickets.inFlight = none → v.tickets.waiting = [] := by
  intro idle
  by_cases due : recheckDue s
  · by_cases zero : after = 0
    · have made := h.first due zero
      cases flight : s.tickets.inFlight with
      | some a =>
        rw [made.behind a flight, flight] at idle
        cases idle
      | none =>
        by_cases reads : s.tickets.blocked = true
        · rw [(made.read flight reads due).1] at idle
          cases idle
        · rw [made.idle flight (.inl (Bool.eq_false_iff.2 reads))]
          exact tidy flight
    · rw [h.later due zero] at idle ⊢
      exact tidy idle
  · rw [h.shut due] at idle ⊢
    exact tidy idle

theorem rechecked_congr {after : Nat} {ws : List HostWrite} {s z t : State} (h : rechecked after ws s z)
    (tickets : t.tickets = z.tickets) (log : t.link.log = z.link.log) : rechecked after ws s t := by
  unfold rechecked hostWrites slotRead at *
  rw [tickets, log]
  exact h

/-- R163, R166: from x to t the boundary into `minute` has come to its end, as s found it. -/
structure boundaryFinished (minute : BitVec 32) (s x t : State) : Prop where
  stays : t.clock = s.clock ∧ t.store = x.store ∧ t.rows = x.rows ∧ t.accounts = x.accounts ∧ t.tariffs = x.tariffs ∧
    t.alarm = x.alarm ∧ t.link.flags = x.link.flags ∧ t.link.permissions = x.link.permissions ∧ t.monitors = x.monitors
  closed : ∃ z, recheckClosed x z ∧ t.tickets = z.tickets ∧ t.link.log = z.link.log
  paged : boundaryPaged minute s t
  worked : storeWorked (withPage t { s with
    tariffs := t.tariffs
    tickets := { s.tickets with recheckIn := none } }) t

theorem boundary_finished (minute : BitVec 32) {s x : State} (moved : boundaryMoved s x) (gate : s.link.gate ≠ .muteAfter 0)
    (tidy : x.tickets.inFlight = none → x.tickets.waiting = []) :
    boundaryFinished minute s x (boundaryPage minute (lastRecheck x)) := by
  have closed := lastRecheck_closed (u := x) (by rwa [(boundaryMoved_link moved).2.2.1]) tidy
  obtain ⟨frame, paged⟩ := boundaryPage_taken minute (lastRecheck x)
  generalize boundaryPage minute (lastRecheck x) = t at *
  have last := closed.moved
  have whole := boundaryMoved_trans moved (boundaryMoved_tickets last)
  obtain ⟨-, -, -, -, ticks, -, -, alike⟩ := boundaryMoved_link whole
  generalize lastRecheck x = z at *
  have stays : t.store = x.store ∧ t.rows = x.rows ∧ t.accounts = x.accounts ∧ t.tariffs = x.tariffs ∧
      t.alarm = x.alarm ∧ t.link.flags = x.link.flags ∧ t.link.permissions = x.link.permissions ∧
      t.monitors = x.monitors ∧ t.clock = x.clock := by
    rw [frame, last]
    exact ⟨rfl, rfl, rfl, rfl, rfl, rfl, rfl, rfl, rfl⟩
  obtain ⟨store, rows, accounts, tariffs, alarm, flags, permissions, monitors, clock⟩ := stays
  refine ⟨⟨?_, store, rows, accounts, tariffs, alarm, flags, permissions, monitors⟩, ⟨z, closed, ?_, ?_⟩,
    boundaryPaged_congr alike ticks paged, ?_, fun i hi => ?_⟩
  · rw [clock, (boundaryMoved_link moved).2.2.2.2.2.1]
  · rw [frame]; rfl
  · rw [frame]; rfl
  · conv_lhs => rw [frame, whole.1]
    conv_rhs => rw [frame, whole.1]
    rfl
  · rw [alarm]
    exact moved.2 i hi

end Sys2Proof.Machine
end

section
/-! ### A boundary with nothing due, and one at which the store takes its timelines in order (O37) -/

namespace Sys2Proof.Machine

/-! ### The command -/

theorem ticksAhead_none (s : State) : (if tickAwaited s.clock then ticksAhead [] s else s) = s := ite_self s

/-- A boundary with no block ahead of its tick. -/
theorem whole_boundary {swapAfter recheckAfter : Nat} {s : State} (live : s.resetn = true) :
    exec (.minuteBoundary ⟨[], true, swapAfter, recheckAfter⟩) s = .next (takeBoundary swapAfter recheckAfter s) := by
  refine (exec_live live (by simp) (by simp)).trans (congrArg _ ?_)
  rw [liveEffect, minuteBoundary, ticksAhead_none]
  rfl

/-- A boundary after its tick: no block takes that tick any more. -/
theorem tickFirst_boundary {early : TickOrder} {swapAfter recheckAfter : Nat} {minute : BitVec 32} {clockSet : Bool} {s : State}
    (live : s.resetn = true) (first : s.clock.rollover = .tickFirst minute clockSet) :
    exec (.minuteBoundary ⟨early, true, swapAfter, recheckAfter⟩) s =
      .next (boundaryAfterTick minute clockSet swapAfter recheckAfter s) := by
  refine (exec_live live (by simp) (by simp)).trans (congrArg _ ?_)
  rw [liveEffect, minuteBoundary, tickAwaited, first]
  simp only [takeBoundary, first, Bool.false_eq_true, if_false, if_true]

/-- A boundary ahead of its tick. -/
theorem early_boundary {swapAfter recheckAfter : Nat} {s : State} (live : s.resetn = true)
    (idle : s.clock.rollover = .none) (ends : s.clock.second = 59) :
    exec (.minuteBoundary ⟨[], true, swapAfter, recheckAfter⟩) s = .next (boundaryBeforeTick recheckAfter s) := by
  rw [whole_boundary live, takeBoundary, idle]
  exact congrArg _ (if_pos ends)

theorem tickAwaited_iff (c : Clock) :
    tickAwaited c = true ↔ c.rollover = .none ∧ c.second = 59 ∨ ∃ ended, c.rollover = .boundaryFirst ended := by
  unfold tickAwaited
  cases c.rollover <;> simp

/-! ### The state that a boundary finds (R35) -/

/-- The part at the new time, after its tick. -/
def timeRolled (minute : BitVec 32) (clockSet : Bool) (s : State) : State :=
  { s with clock := { s.clock with
    minute := if clockSet then s.clock.minute else minute
    second := if clockSet then s.clock.second else 0
    rollover := .none } }

/-- The part at the new time, ahead of its tick. -/
def timeAhead (s : State) : State :=
  { s with clock := { s.clock with
    minute := s.clock.minute + 1
    second := 0
    rollover := .boundaryFirst s.clock.minute } }

/-- The work of the store at a boundary after its tick, with that of the tariff unit in between. -/
def countedWork (minute swapAfter : Nat) (s : State) : State :=
  storeTimelines (decide (s.link.run = .running)) minute true true ((List.finRange 64).drop swapAfter)
    (takeTariffBoundary (storeTimelines (decide (s.link.run = .running)) minute true false
      ((List.finRange 64).take swapAfter) s))

theorem openRecheck_runs (after : Nat) {s : State} (gate : s.link.gate ≠ .muteAfter 0)
    (tidy : s.tickets.inFlight = none → s.tickets.waiting = []) : (openRecheck after s).link.run = s.link.run := by
  obtain ⟨run, -⟩ := boundaryMoved_link (boundaryMoved_tickets (openRecheck_opened after gate tidy).moved)
  exact run

theorem boundaryAfterTick_eq (minute : BitVec 32) (clockSet : Bool) (swapAfter recheckAfter : Nat) {s : State}
    (gate : s.link.gate ≠ .muteAfter 0) (tidy : s.tickets.inFlight = none → s.tickets.waiting = []) :
    boundaryAfterTick minute clockSet swapAfter recheckAfter s = boundaryPage minute (lastRecheck
      (countedWork minute.toNat swapAfter (openRecheck recheckAfter (timeRolled minute clockSet s)))) := by
  rw [boundaryAfterTick, rollTime_eq, boundaryCounted, countedWork,
    openRecheck_runs (s := timeRolled minute clockSet s) recheckAfter gate tidy]
  rfl

theorem boundaryBeforeTick_eq (recheckAfter : Nat) (s : State) :
    boundaryBeforeTick recheckAfter s = lastRecheck (storeTimelines (decide (s.link.run = .running))
      (s.clock.minute + 1).toNat false false (List.finRange 64) (openRecheck recheckAfter (timeAhead s))) := rfl

/-- What the work of a boundary ahead of its tick may change. -/
theorem boundaryMoved_early {s t : State} (h : boundaryMoved (timeAhead s) t)
    (tariffs : t.tariffs = { s.tariffs with meters := t.tariffs.meters }) : earlyBoundaryWorked (s.clock.minute + 1) s t := by
  obtain ⟨frame, items⟩ := h
  refine ⟨?_, items⟩
  conv_lhs => rw [frame, tariffs]
  rfl

theorem recordsWritten_none {v x : State} (tickets : x.tickets = v.tickets) (log : x.link.log = v.link.log) :
    recordsWritten [] v x := by
  have writes : hostWrites x = hostWrites v := by rw [hostWrites, hostWrites, log]
  refine ⟨fun _ => ⟨tickets, by rw [writes, List.append_nil]⟩, fun _ => ⟨writes, ?_⟩⟩
  rw [tickets, List.map_nil, List.append_nil]

/-! ### Nothing due -/

/-- R34, R136, R163, R166: the boundary after its tick, with nothing due. -/
theorem idleBoundary_counted {minute : BitVec 32} {clockSet : Bool} {recheckAfter swapAfter : Nat} {s : State}
    (gate : s.link.gate ≠ .muteAfter 0) (tidy : s.tickets.inFlight = none → s.tickets.waiting = [])
    (none : s.link.run = .running → ∀ d, ¬dueAt minute.toNat d s) :
    let t := boundaryAfterTick minute clockSet swapAfter recheckAfter s
    t.clock = (timeRolled minute clockSet s).clock ∧ t.store = s.store ∧ t.rows = s.rows ∧ t.accounts = s.accounts ∧
    alarmStands s t ∧ rechecked recheckAfter [] s t ∧ boundaryWorked minute clockSet s t ∧ tariffSwapped s t ∧
    boundaryPaged minute s t ∧ ∀ n : Fin 1024, t.tariffs.meters[n] = bandSet s.store.slots[n] s.tariffs.meters[n] t := by
  intro t
  have opened := openRecheck_opened recheckAfter (s := timeRolled minute clockSet s) gate tidy
  have run := openRecheck_runs recheckAfter (s := timeRolled minute clockSet s) gate tidy
  have e : t = boundaryPage minute (lastRecheck _) := boundaryAfterTick_eq minute clockSet swapAfter recheckAfter gate tidy
  generalize openRecheck recheckAfter (timeRolled minute clockSet s) = v at *
  have frame := opened.moved
  obtain ⟨storeV, rowsV, accountsV, tariffsV, alarmV, flagsV⟩ : v.store = s.store ∧ v.rows = s.rows ∧
      v.accounts = s.accounts ∧ v.tariffs = s.tariffs ∧ v.alarm = s.alarm ∧ v.link.flags = s.link.flags := by
    rw [frame]
    exact ⟨rfl, rfl, rfl, rfl, rfl, rfl⟩
  have due : decide (v.link.run = .running) = true → ∀ d, ¬dueAt minute.toNat d v := fun k d => by
    rw [dueAt_congr storeV]
    exact none (run ▸ of_decide_eq_true k) d
  obtain ⟨swap, swapped, meters⟩ := takeTariffBoundary_swapped v
  have work : countedWork minute.toNat swapAfter v = takeTariffBoundary v := by
    unfold countedWork
    rw [storeTimelines_idle true false _ due, storeTimelines_idle true true _ fun k d => ?_]
    rw [dueAt_congr (by rw [swap])]
    exact due k d
  rw [work] at e
  generalize takeTariffBoundary v = x at *
  obtain ⟨storeX, rowsX, accountsX, alarmX, flagsX, ticketsX, logX⟩ : x.store = v.store ∧ x.rows = v.rows ∧
      x.accounts = v.accounts ∧ x.alarm = v.alarm ∧ x.link.flags = v.link.flags ∧ x.tickets = v.tickets ∧
      x.link.log = v.link.log := by
    rw [swap]
    exact ⟨rfl, rfl, rfl, rfl, rfl, rfl, rfl⟩
  have moved := boundaryMoved_trans (boundaryMoved_tickets frame) (boundaryMoved_tariffs swap)
  have finished := boundary_finished minute moved gate (ticketsX ▸ recheckOpened_tidy opened tidy)
  rw [← e] at finished
  obtain ⟨⟨clock, store, rows, accounts, tariffs, alarm, flags, -, -⟩, ⟨z, closed, tickets, log⟩, paged, worked⟩ := finished
  refine ⟨clock, store.trans (storeX.trans storeV), rows.trans (rowsX.trans rowsV), accounts.trans (accountsX.trans accountsV),
    ⟨alarm.trans (alarmX.trans alarmV), flags.trans (flagsX.trans flagsV)⟩, rechecked_congr ?_ tickets log, worked, ?_, paged,
    fun n => ?_⟩
  · have told := rechecked_of opened (recordsWritten_none ticketsX logX) ⟨[], by rw [logX, List.append_nil]⟩
      (fun _ => by rw [storeX, storeV]; rfl) (boundaryMoved_due moved) closed (.inr rfl)
    exact told
  · exact tariffSwapped_congr swapped (by rw [tariffsV]) tariffs
  · rw [tariffs, bandSet_congr _ _ (s := x) (by rw [tariffs]), meters n, storeV, tariffsV]

/-- R34, R163: the boundary ahead of its tick, with nothing due. -/
theorem idleBoundary_early {recheckAfter : Nat} {s : State} (gate : s.link.gate ≠ .muteAfter 0)
    (tidy : s.tickets.inFlight = none → s.tickets.waiting = [])
    (none : s.link.run = .running → ∀ d, ¬dueAt (s.clock.minute + 1).toNat d s) :
    let t := boundaryBeforeTick recheckAfter s
    t.clock = (timeAhead s).clock ∧ t.store = s.store ∧ t.rows = s.rows ∧ t.accounts = s.accounts ∧
    alarmStands s t ∧ rechecked recheckAfter [] s t ∧ earlyBoundaryWorked (s.clock.minute + 1) s t ∧ t.tariffs = s.tariffs := by
  intro t
  have opened := openRecheck_opened recheckAfter (s := timeAhead s) gate tidy
  have e : t = _ := boundaryBeforeTick_eq recheckAfter s
  generalize openRecheck recheckAfter (timeAhead s) = v at *
  have storeV : v.store = s.store := by rw [opened.moved]; rfl
  rw [storeTimelines_idle false false _ fun k d => by
    rw [dueAt_congr storeV]
    exact none (of_decide_eq_true k) d] at e
  have moved := boundaryMoved_tickets opened.moved
  have closed := lastRecheck_closed (u := v) (by rw [(boundaryMoved_link moved).2.2.1]; exact gate)
    (recheckOpened_tidy opened tidy)
  rw [← e] at closed
  have whole := boundaryMoved_trans moved (boundaryMoved_tickets closed.moved)
  obtain ⟨clock, store, rows, accounts, tariffs, alarm, flags⟩ : t.clock = (timeAhead s).clock ∧ t.store = s.store ∧
      t.rows = s.rows ∧ t.accounts = s.accounts ∧ t.tariffs = s.tariffs ∧ t.alarm = s.alarm ∧
      t.link.flags = s.link.flags := by
    rw [closed.moved, opened.moved]
    exact ⟨rfl, rfl, rfl, rfl, rfl, rfl, rfl⟩
  have told := rechecked_of opened (recordsWritten_none rfl rfl) ⟨[], (List.append_nil _).symm⟩ (fun _ => by rw [storeV]; rfl)
    (boundaryMoved_due moved) closed (.inr rfl)
  exact ⟨clock, store, rows, accounts, ⟨alarm, flags⟩, told, boundaryMoved_early whole (by rw [tariffs]), tariffs⟩

/-! ### The timelines in their order -/

/-- R163: on a ring that is not blocked, with no access in flight, the re-check is no access. -/
theorem openRecheck_unblocked {s : State} (free : linkFree s) (idle : accessesIdle s) (unblocked : s.tickets.blocked = false) :
    openRecheck 0 s = { s with tickets := { s.tickets with recheckIn := none } } := by
  have tidy : s.tickets.inFlight = none → s.tickets.waiting = [] := fun _ => idle.2
  have gate : s.link.gate ≠ .muteAfter 0 := by rw [free.2.2]; simp
  have due : recheckDue s := by
    refine (recheckDue_iff s).2 ?_
    have opened := free.2.1
    rw [linkOpen, Bool.and_eq_true] at opened
    exact opened.1
  have made := (openRecheck_opened 0 gate tidy).first due rfl
  rw [made.moved, made.idle idle.1 (.inl unblocked), made.quiet idle.1 unblocked]

theorem lastRecheck_none {s : State} (h : s.tickets.recheckIn = none) : lastRecheck s = s := by
  rw [lastRecheck, h]
  rfl

theorem tariffBoundary_ready {s : State} (h : boundaryReady s) : boundaryReady (takeTariffBoundary s) := by
  obtain ⟨swap, -, -⟩ := takeTariffBoundary_swapped s
  generalize takeTariffBoundary s = t at *
  obtain ⟨⟨⟨live, opened, gate⟩, books⟩, recheck⟩ := h
  refine ⟨⟨?_, books_same books ?_⟩, ?_⟩
  · rw [swap]
    exact ⟨live, opened, gate⟩
  · rw [swap]
    exact ⟨rfl, rfl, rfl⟩
  · rw [swap]
    exact recheck

/-- The state that the boundary finds is ready for the store. -/
theorem boundaryFound_ready (minute : BitVec 32) (clockSet : Bool) (rollover : Rollover) {s : State} (free : linkFree s)
    (books : bookingsLawful s) (idle : accessesIdle s) : boundaryReady (boundaryFound minute clockSet rollover s) := by
  obtain ⟨flight, waiting⟩ := idle
  obtain ⟨timelines, accesses⟩ := books
  refine ⟨⟨free, timelines, ?_⟩, rfl⟩
  exact accesses

/-- R53, R136, R166: the boundary after its tick, timeline by timeline. -/
theorem countedBoundary_ports (minute : BitVec 32) (clockSet : Bool) (swapAfter : Nat) {s : State} (free : linkFree s)
    (books : bookingsLawful s) (running : s.link.run = .running) (idle : accessesIdle s)
    (unblocked : s.tickets.blocked = false) : ∃ u v w,
      portsAtBoundary minute.toNat true false ((List.finRange 64).take swapAfter) (boundaryFound minute clockSet .none s) u ∧
      tariffTaken u v ∧ portsAtBoundary minute.toNat true true ((List.finRange 64).drop swapAfter) v w ∧
      boundaryAfterTick minute clockSet swapAfter 0 s = withPage (boundaryAfterTick minute clockSet swapAfter 0 s) w ∧
      boundaryPaged minute w (boundaryAfterTick minute clockSet swapAfter 0 s) := by
  have gate : s.link.gate ≠ .muteAfter 0 := by rw [free.2.2]; simp
  have found : openRecheck 0 (timeRolled minute clockSet s) = boundaryFound minute clockSet .none s :=
    openRecheck_unblocked (s := timeRolled minute clockSet s) free idle unblocked
  have run : decide ((boundaryFound minute clockSet .none s).link.run = .running) = true := decide_eq_true running
  have ready := boundaryFound_ready minute clockSet .none free books idle
  obtain ⟨first, ready⟩ := storeTimelines_at minute.toNat true false ((List.finRange 64).take swapAfter) ready
  have swapped := takeTariffBoundary_swapped (storeTimelines true minute.toNat true false ((List.finRange 64).take swapAfter)
    (boundaryFound minute clockSet .none s))
  obtain ⟨second, ready⟩ := storeTimelines_at minute.toNat true true ((List.finRange 64).drop swapAfter)
    (tariffBoundary_ready ready)
  have e := boundaryAfterTick_eq minute clockSet swapAfter 0 gate fun _ => idle.2
  rw [found, countedWork, run, lastRecheck_none ready.2] at e
  have paged := boundaryPage_taken minute (storeTimelines true minute.toNat true true ((List.finRange 64).drop swapAfter)
    (takeTariffBoundary (storeTimelines true minute.toNat true false ((List.finRange 64).take swapAfter)
      (boundaryFound minute clockSet .none s))))
  rw [← e] at paged
  exact ⟨_, _, _, first, swapped, second, paged⟩

/-- R53: the boundary ahead of its tick, timeline by timeline. -/
theorem earlyBoundary_ports {s : State} (free : linkFree s) (books : bookingsLawful s) (running : s.link.run = .running)
    (idle : accessesIdle s) (unblocked : s.tickets.blocked = false) :
    portsAtBoundary (s.clock.minute + 1).toNat false false (List.finRange 64)
      (boundaryFound (s.clock.minute + 1) false (.boundaryFirst s.clock.minute) s) (boundaryBeforeTick 0 s) := by
  have found : openRecheck 0 (timeAhead s) = boundaryFound (s.clock.minute + 1) false (.boundaryFirst s.clock.minute) s :=
    openRecheck_unblocked (s := timeAhead s) free idle unblocked
  have ready := boundaryFound_ready (s.clock.minute + 1) false (.boundaryFirst s.clock.minute) free books idle
  obtain ⟨work, ready⟩ := storeTimelines_at (s.clock.minute + 1).toNat false false (List.finRange 64) ready
  rw [boundaryBeforeTick_eq, found, decide_eq_true running, lastRecheck_none ready.2]
  exact work

/-- Settles O37: a boundary with blocks ahead of its tick is one at the state they leave; with nothing due the store has no
work, and otherwise it takes the timelines in their order. -/
theorem minuteBoundaryTaken : Obligations.MinuteBoundaryTaken := by
  refine ⟨fun early boundary swapAfter recheckAfter s live => ⟨fun awaited => ?_, fun late => ?_, fun none => ?_,
    fun minute clockSet when_ gate tidy none => ?_⟩, fun early swapAfter minute clockSet s free books running idle unblocked =>
    ⟨fun first => ?_, fun idleClock ends e => ?_⟩⟩
  · have live' : (ticksAhead early s).resetn = true := by rw [(ticksAhead_taken early s).1]; exact live
    refine ⟨ticksAhead early s, ?_, ticksAhead_taken early s, ?_⟩
    · refine (exec_live live (by simp) (by simp)).trans (congrArg _ ?_)
      rw [liveEffect, minuteBoundary, (tickAwaited_iff s.clock).2 awaited]
      rfl
    · rw [whole_boundary live']
      refine (exec_live live (by simp) (by simp)).trans (congrArg _ ?_)
      rw [liveEffect, minuteBoundary, (tickAwaited_iff s.clock).2 awaited]
      rfl
  · have not : tickAwaited s.clock = false := Bool.eq_false_iff.2 fun k => late ((tickAwaited_iff s.clock).1 k)
    have run : exec (.minuteBoundary ⟨early, boundary, swapAfter, recheckAfter⟩) s =
        .next (if boundary then takeBoundary swapAfter recheckAfter s else s) := by
      refine (exec_live live (by simp) (by simp)).trans (congrArg _ ?_)
      rw [liveEffect, minuteBoundary, not]
      rfl
    rw [run, whole_boundary live]
    split <;> rfl
  · rw [whole_boundary live, takeBoundary]
    rcases none with ⟨ended, first | handed⟩ | ⟨idle, short⟩
    · rw [first]
    · rw [handed]
    · rw [idle, if_neg short]
  · rcases when_ with ⟨idle, ends, rfl, rfl⟩ | first
    · rw [early_boundary live idle ends]
      obtain ⟨clock, store, rows, accounts, alarm, recheck, worked, tariffs⟩ :=
        idleBoundary_early (recheckAfter := recheckAfter) gate tidy none
      refine ⟨_, rfl, ?_, store, rows, accounts, alarm, recheck, fun _ => ⟨worked, tariffs⟩, fun k => absurd idle k⟩
      rw [clock, if_pos idle]
      rfl
    · rw [tickFirst_boundary live first]
      obtain ⟨clock, store, rows, accounts, alarm, recheck, worked, swapped, paged, meters⟩ :=
        idleBoundary_counted (clockSet := clockSet) (recheckAfter := recheckAfter) (swapAfter := swapAfter) gate tidy none
      have not : s.clock.rollover ≠ .none := by rw [first]; simp
      refine ⟨_, rfl, ?_, store, rows, accounts, alarm, recheck, fun k => absurd k not,
        fun _ => ⟨worked, swapped, paged, meters⟩⟩
      rw [clock, if_neg not]
      rfl
  · obtain ⟨u, v, w, first', swapped, second, frame, paged⟩ :=
      countedBoundary_ports minute clockSet swapAfter free books running idle unblocked
    exact ⟨u, v, w, _, tickFirst_boundary free.1 first, first', swapped, second, frame, paged⟩
  · subst e
    exact ⟨_, early_boundary free.1 idleClock ends, earlyBoundary_ports free books running idle unblocked⟩

end Sys2Proof.Machine
end

section
/-! ### One activation at a boundary (O38) -/

namespace Sys2Proof.Machine

/-! ### What the store does with one booking, on a free link with the accesses in order -/

/-- R54: the part with booking n activated, before the alarm ranking unit and the record follow. -/
def activating (n : Fin 1024) (minute : Nat) (first : Stamp) (band : Option Band) (s : State) : State :=
  markOwned s.store.slots[n].port (applyActivation n (setMeter n
    { s.tariffs.meters[n] with firstCounted := some first, startBand := band }
    (setSlot n { s.store.slots[n] with state := .active, activation := some minute } s)))

theorem activating_eq {n : Fin 1024} (minute : Nat) (first : Stamp) (band : Option Band) {d : Fin 64} {s : State}
    (port : s.store.slots[n].port = d) : activating n minute first band s = { s with
      store := { s.store with slots := s.store.slots.set n { s.store.slots[n] with
        state := .active
        activation := some minute } }
      tariffs := { s.tariffs with meters := s.tariffs.meters.set n { s.tariffs.meters[n] with
        firstCounted := some first
        startBand := band } }
      rows := s.rows.set d (rowActivated s.store.slots[n] s s.rows[d]) } := by
  have rows : (activating n minute first band s).rows = s.rows.set d (rowActivated s.store.slots[n] s s.rows[d]) := by
    unfold activating
    rw [activation_row n _ (b := { s.store.slots[n] with state := .active, activation := some minute })
      (by simp [setMeter, setSlot])]
    simp only [port]
    rfl
  rw [← rows]
  rfl

/-- Record writes leave all but the accesses and the link traffic. -/
theorem submit_writes_moved (ws : List HostWrite) {s : State} (free : linkFree s)
    (tidy : s.tickets.inFlight = none → s.tickets.waiting = []) :
    recordsWritten ws s (submit (ws.map Access.write) s) ∧ ticketsMoved s (submit (ws.map Access.write) s) ∧
    ∃ l, (submit (ws.map Access.write) s).link.log = s.link.log ++ l := by
  obtain ⟨written, -⟩ := submit_writes ws free tidy
  refine ⟨written, ?_⟩
  cases flight : s.tickets.inFlight with
  | none =>
    rw [submit_idle _ (tidy flight), pump_writes ws free flight]
    exact ⟨rfl, _, rfl⟩
  | some a =>
    rw [submit_behind _ flight]
    exact ⟨rfl, [], (List.append_nil _).symm⟩

/-- The work of the store on one booking, with its record writes. -/
structure storeStep (ws : List HostWrite) (s t : State) : Prop where
  moved : boundaryMoved s t
  written : recordsWritten ws s t
  grown : ∃ l, t.link.log = s.link.log ++ l

/-- Record writes that follow work which leaves the accesses. -/
theorem storeStep_submit {ws : List HostWrite} {s v : State} (moved : boundaryMoved s v) (tickets : v.tickets = s.tickets)
    (writes : hostWrites v = hostWrites s) (grown : ∃ l, v.link.log = s.link.log ++ l) (free : linkFree s)
    (tidy : s.tickets.inFlight = none → s.tickets.waiting = []) : storeStep ws s (submit (ws.map Access.write) v) := by
  obtain ⟨written, frame, l, log⟩ := submit_writes_moved ws (boundaryMoved_free moved free) (by rw [tickets]; exact tidy)
  obtain ⟨m, before⟩ := grown
  exact ⟨boundaryMoved_trans moved (boundaryMoved_tickets frame), recordsWritten_after written tickets writes,
    m ++ l, by rw [log, before, List.append_assoc]⟩

theorem boundaryMoved_derived {s v : State} (h : boundaryMoved s v) : boundaryMoved s (deriveSources v) :=
  boundaryMoved_trans h (boundaryMoved_store (deriveSources_worked v))

/-- R54, R119, R140: a booking activates. -/
theorem activate_step {n : Fin 1024} (minute : Nat) (first : Stamp) (band : Option Band) {d : Fin 64} {s : State}
    (port : s.store.slots[n].port = d) (free : linkFree s) (tidy : s.tickets.inFlight = none → s.tickets.waiting = []) :
    let t := activate n minute first band s
    storeStep [recordWrite s n 20 (le 4 minute), recordWrite s n 0 [4]] s t ∧
    t.store = { s.store with slots := s.store.slots.set n { s.store.slots[n] with
      state := .active
      activation := some minute } } ∧
    t.tariffs = { s.tariffs with meters := s.tariffs.meters.set n { s.tariffs.meters[n] with
      firstCounted := some first
      startBand := band } } ∧
    t.rows = s.rows.set d (rowActivated s.store.slots[n] s s.rows[d]) ∧ t.accounts = s.accounts ∧ sourcesTold s t := by
  intro t
  have frame := activating_eq minute first band port
  have run : t = submit ([recordField (deriveSources (activating n minute first band s)) n 20 4 minute,
    recordField (deriveSources (activating n minute first band s)) n 0 1 recordOnAir].map Access.write)
      (deriveSources (activating n minute first band s)) := rfl
  have moved : boundaryMoved s (activating n minute first band s) := by
    rw [frame]
    exact ⟨rfl, fun _ _ => rfl⟩
  obtain ⟨store, rows, tariffs, accounts, tickets, alarm, flags, log⟩ :
      (activating n minute first band s).store = _ ∧ (activating n minute first band s).rows = _ ∧
      (activating n minute first band s).tariffs = _ ∧ (activating n minute first band s).accounts = s.accounts ∧
      (activating n minute first band s).tickets = s.tickets ∧ (activating n minute first band s).alarm = s.alarm ∧
      (activating n minute first band s).link.flags = s.link.flags ∧
      (activating n minute first band s).link.log = s.link.log := by
    rw [frame]
    exact ⟨rfl, rfl, rfl, rfl, rfl, rfl, rfl, rfl⟩
  have told := deriveSources_told (activating n minute first band s)
  have grown := deriveSources_log (activating n minute first band s)
  have writes := deriveSources_writes (activating n minute first band s)
  obtain ⟨storeV, rowsV, tariffsV, accountsV, ticketsV⟩ :
      (deriveSources (activating n minute first band s)).store = (activating n minute first band s).store ∧
      (deriveSources (activating n minute first band s)).rows = (activating n minute first band s).rows ∧
      (deriveSources (activating n minute first band s)).tariffs = (activating n minute first band s).tariffs ∧
      (deriveSources (activating n minute first band s)).accounts = (activating n minute first band s).accounts ∧
      (deriveSources (activating n minute first band s)).tickets = (activating n minute first band s).tickets := by simp
  have movedV := boundaryMoved_derived moved
  generalize deriveSources (activating n minute first band s) = v at *
  have fields : [recordField v n 20 4 minute, recordField v n 0 1 recordOnAir] =
      [recordWrite s n 20 (le 4 minute), recordWrite s n 0 [4]] := by
    simp only [recordField, recordAddress, recordWrite, storeV, store]
    rfl
  rw [fields] at run
  have writesV : hostWrites v = hostWrites s := by rw [writes, hostWrites, log, hostWrites]
  have step : storeStep [recordWrite s n 20 (le 4 minute), recordWrite s n 0 [4]] s t := by
    rw [run]
    exact storeStep_submit movedV (ticketsV.trans tickets) writesV (log ▸ grown) free tidy
  obtain ⟨-, last, -⟩ := submit_writes_moved [recordWrite s n 20 (le 4 minute), recordWrite s n 0 [4]]
    (boundaryMoved_free movedV free) (by rw [ticketsV, tickets]; exact tidy)
  rw [← run] at last
  obtain ⟨storeT, rowsT, tariffsT, accountsT, alarmT, flagsT, permissionsT, monitorsT⟩ : t.store = v.store ∧ t.rows = v.rows ∧
      t.tariffs = v.tariffs ∧ t.accounts = v.accounts ∧ t.alarm = v.alarm ∧ t.link.flags = v.link.flags ∧
      t.link.permissions = v.link.permissions ∧ t.monitors = v.monitors := by
    rw [last]
    exact ⟨rfl, rfl, rfl, rfl, rfl, rfl, rfl, rfl⟩
  exact ⟨step, storeT.trans (storeV.trans store), tariffsT.trans (tariffsV.trans tariffs), rowsT.trans (rowsV.trans rows),
    accountsT.trans (accountsV.trans accounts), sourcesTold_around told alarm flags alarmT flagsT permissionsT (by rw [storeT])
      (by rw [storeT]) rowsT monitorsT⟩

/-! ### The work where one timeline has something due -/

/-- R53: booking b is due as a head at the boundary into `minute`. -/
def bookingDue (minute : Nat) (b : Slot) : Prop :=
  slotOnAir b = true ∧ finalEnd b = minute ∨ b.state = .active ∧ bookedEnd b = minute ∧ 0 < b.extension ∨
    b.state = .accepted ∧ b.start = minute

/-- A timeline with nothing due keeps nothing due while the slots that change were due. -/
theorem stays_idle {minute : Nat} {e : Fin 64} {n : Fin 1024} {s t : State} (due : bookingDue minute s.store.slots[n])
    (timeline : t.store.timelines[e] = s.store.timelines[e])
    (slots : ∀ k : Fin 1024, k ≠ n → t.store.slots[k] = s.store.slots[k]) (h : ¬dueAt minute e s) : ¬dueAt minute e t := by
  rintro ⟨k, head, has⟩
  rw [timeline] at head
  have other : k ≠ n := fun same => h ⟨n, same ▸ head, due⟩
  dsimp only at has
  rw [slots k other] at has
  exact h ⟨k, head, has⟩

/-- R53: of the timelines of a list one has something due. -/
theorem timelines_one {minute : Nat} {counted swapped : Bool} {d : Fin 64} (ports : List (Fin 64)) (once : ports.Nodup)
    {s : State} (before : ∀ e, e ≠ d → ¬dueAt minute e s)
    (after : ∀ e, e ≠ d → ¬dueAt minute e (boundaryTimeline minute counted swapped d s)) :
    ports.foldl (fun t e => boundaryTimeline minute counted swapped e t) s =
      if d ∈ ports then boundaryTimeline minute counted swapped d s else s := by
  by_cases member : d ∈ ports
  · rw [if_pos member]
    obtain ⟨pre, post, rfl⟩ := List.append_of_mem member
    obtain ⟨-, nodup, apart⟩ := List.nodup_append.1 once
    have left : ∀ e ∈ pre, e ≠ d := fun e he => apart e he d (List.mem_cons_self ..)
    have right : ∀ e ∈ post, e ≠ d := fun e he same => (List.nodup_cons.1 nodup).1 (same ▸ he)
    rw [List.foldl_append, timelines_idle counted swapped pre fun e he => before e (left e he), List.foldl_cons]
    exact timelines_idle counted swapped post fun e he => after e (right e he)
  · rw [if_neg member]
    exact timelines_idle counted swapped ports fun e he => before e fun same => member (same ▸ he)

/-- R53, R136: the timeline with something due is taken before the tariff unit takes the boundary, or after it. -/
theorem countedWork_one {minute : Nat} (swapAfter : Nat) {d : Fin 64} {s : State} (running : s.link.run = .running)
    (before : ∀ e, e ≠ d → ¬dueAt minute e s)
    (after : ∀ e, e ≠ d → ¬dueAt minute e (boundaryTimeline minute true false d s))
    (behind : ∀ e, e ≠ d → ¬dueAt minute e (boundaryTimeline minute true true d (takeTariffBoundary s))) :
    countedWork minute swapAfter s = takeTariffBoundary (boundaryTimeline minute true false d s) ∨
    countedWork minute swapAfter s = boundaryTimeline minute true true d (takeTariffBoundary s) := by
  have keeps : ∀ x : State, (takeTariffBoundary x).store = x.store := fun x => by
    obtain ⟨swap, -, -⟩ := takeTariffBoundary_swapped x
    rw [swap]
  have whole : (List.finRange 64).take swapAfter ++ (List.finRange 64).drop swapAfter = List.finRange 64 :=
    List.take_append_drop ..
  have once : ((List.finRange 64).take swapAfter ++ (List.finRange 64).drop swapAfter).Nodup := by
    rw [whole]
    exact List.nodup_finRange 64
  obtain ⟨onceFirst, onceLast, apart⟩ := List.nodup_append.1 once
  have member : d ∈ (List.finRange 64).take swapAfter ++ (List.finRange 64).drop swapAfter := by
    rw [whole]
    exact List.mem_finRange d
  unfold countedWork storeTimelines
  rw [decide_eq_true running, if_pos rfl, if_pos rfl]
  have first := timelines_one (counted := true) (swapped := false) _ onceFirst before after
  rcases List.mem_append.1 member with early | late
  · left
    rw [if_pos early] at first
    rw [first]
    refine timelines_idle true true _ fun e he => ?_
    rw [dueAt_congr (keeps _)]
    exact after e (fun same => apart d early d (same ▸ he) rfl)
  · right
    rw [if_neg fun early => apart d early d late rfl] at first
    rw [first, timelines_one (counted := true) (swapped := true) _ onceLast
      (fun e he => by rw [dueAt_congr (keeps _)]; exact before e he) behind, if_pos late]

theorem earlyWork_one {minute : Nat} {d : Fin 64} {s : State} (before : ∀ e, e ≠ d → ¬dueAt minute e s)
    (after : ∀ e, e ≠ d → ¬dueAt minute e (boundaryTimeline minute false false d s)) :
    storeTimelines true minute false false (List.finRange 64) s = boundaryTimeline minute false false d s := by
  unfold storeTimelines
  rw [if_pos rfl, timelines_one _ (List.nodup_finRange 64) before after, if_pos (List.mem_finRange d)]

/-- R53, step 3: an ACCEPTED head whose start has come. -/
theorem boundaryTimeline_starts {minute : Nat} (counted swapped : Bool) {d : Fin 64} {n : Fin 1024} {s : State}
    (head : s.store.timelines[d].head? = some n) (accepted : s.store.slots[n].state = .accepted)
    (start : s.store.slots[n].start = minute) : boundaryTimeline minute counted swapped d s =
      activate n minute { minute := minute, second := 0 } (if swapped then currentBand minute s else none) s := by
  have off : ¬(slotOnAir s.store.slots[n] = true ∧ finalEnd s.store.slots[n] = minute) := by
    rw [slotOnAir, accepted]
    simp
  have waits : ¬(s.store.slots[n].state = .active ∧ bookedEnd s.store.slots[n] = minute ∧ 0 < s.store.slots[n].extension) := by
    rw [accepted]
    simp
  have stands : boundaryHead minute counted d s = s := by
    simp only [boundaryHead, headOf, head, if_neg off, if_neg waits]
  have starts : s.store.slots[n].state = .accepted ∧ s.store.slots[n].start = minute := ⟨accepted, start⟩
  rw [boundaryTimeline, stands]
  simp only [boundaryStart, headOf, head, if_pos starts]

/-! ### What stands through the ends of a boundary -/

/-- The bookings, the rows, the accounts, the monitors and the alarm ranking unit with its flag are the same. -/
structure booksAlike (s t : State) : Prop where
  store : t.store = s.store
  rows : t.rows = s.rows
  accounts : t.accounts = s.accounts
  monitors : t.monitors = s.monitors
  alarm : t.alarm = s.alarm
  flags : t.link.flags = s.link.flags
  permissions : t.link.permissions = s.link.permissions

theorem booksAlike_trans {s t u : State} (h : booksAlike s t) (k : booksAlike t u) : booksAlike s u :=
  ⟨k.store.trans h.store, k.rows.trans h.rows, k.accounts.trans h.accounts, k.monitors.trans h.monitors,
    k.alarm.trans h.alarm, k.flags.trans h.flags, k.permissions.trans h.permissions⟩

theorem booksAlike_tickets {s t : State} (h : ticketsMoved s t) : booksAlike s t := by
  rw [h]
  exact ⟨rfl, rfl, rfl, rfl, rfl, rfl, rfl⟩

theorem booksAlike_tariffs (s : State) : booksAlike s (takeTariffBoundary s) := by
  obtain ⟨swap, -, -⟩ := takeTariffBoundary_swapped s
  rw [swap]
  exact ⟨rfl, rfl, rfl, rfl, rfl, rfl, rfl⟩

theorem boundaryFinished_alike {minute : BitVec 32} {s x t : State} (h : boundaryFinished minute s x t) : booksAlike x t := by
  obtain ⟨-, store, rows, accounts, -, alarm, flags, permissions, monitors⟩ := h.stays
  exact ⟨store, rows, accounts, monitors, alarm, flags, permissions⟩

theorem sourcesTold_alike {s v w t : State} (before : booksAlike s v) (h : sourcesTold v w) (after : booksAlike w t) :
    sourcesTold s t :=
  sourcesTold_around h before.alarm before.flags after.alarm after.flags after.permissions (by rw [after.store])
    (by rw [after.store]) after.rows after.monitors

/-- The tariff unit takes the boundary behind the work of the store. -/
theorem storeStep_swap {ws : List HostWrite} {s t : State} (h : storeStep ws s t) : storeStep ws s (takeTariffBoundary t) := by
  obtain ⟨swap, -, -⟩ := takeTariffBoundary_swapped t
  generalize takeTariffBoundary t = u at *
  obtain ⟨moved, written, grown⟩ := h
  obtain ⟨tickets, link⟩ : u.tickets = t.tickets ∧ u.link = t.link := by rw [swap]; exact ⟨rfl, rfl⟩
  refine ⟨boundaryMoved_trans moved (boundaryMoved_tariffs swap), ?_, by rw [link]; exact grown⟩
  unfold recordsWritten hostWrites at *
  rw [tickets, link]
  exact written

/-- The tariff unit takes the boundary ahead of the work of the store. -/
theorem swap_storeStep {ws : List HostWrite} {s t : State} (h : storeStep ws (takeTariffBoundary s) t) : storeStep ws s t := by
  obtain ⟨swap, -, -⟩ := takeTariffBoundary_swapped s
  generalize takeTariffBoundary s = u at *
  obtain ⟨moved, written, grown⟩ := h
  obtain ⟨tickets, link⟩ : u.tickets = s.tickets ∧ u.link = s.link := by rw [swap]; exact ⟨rfl, rfl⟩
  refine ⟨boundaryMoved_trans (boundaryMoved_tariffs swap) moved, ?_, by rw [← link]; exact grown⟩
  unfold recordsWritten hostWrites at *
  rw [← tickets, ← link]
  exact written

theorem recordsWritten_tidy {ws : List HostWrite} {s t : State} (h : recordsWritten ws s t)
    (tidy : s.tickets.inFlight = none → s.tickets.waiting = []) : t.tickets.inFlight = none → t.tickets.waiting = [] := by
  intro idle
  obtain ⟨free, busy⟩ := h
  by_cases flight : s.tickets.inFlight = none
  · rw [(free flight).1]
    exact tidy flight
  · rw [(busy flight).2] at idle
    exact absurd idle flight

theorem tariffSwapped_after {s u t : State} (h : tariffSwapped s u)
    (after : t.tariffs = { u.tariffs with meters := t.tariffs.meters }) : tariffSwapped s t := by
  obtain ⟨some, none⟩ := h
  refine ⟨fun table k => ?_, fun k => ?_⟩
  · rw [after, some table k]
  · rw [after, none k]

/-! ### The meters at an activation (R140, R145) -/

/-- R136, R140, R145: the tariff unit has taken the boundary at which booking n has activated: its meter counts from second 0
of the minute, with the band of that minute in the table current after it. -/
def activationMeters (minute : Nat) (n : Fin 1024) (s t : State) : Prop :=
  tariffSwapped s t ∧
  (∀ k : Fin 1024, k ≠ n → t.tariffs.meters[k] = bandSet s.store.slots[k] s.tariffs.meters[k] t) ∧
  t.tariffs.meters[n] = { s.tariffs.meters[n] with
    firstCounted := some { minute := minute, second := 0 }
    startBand := bandNow minute t }

theorem activationMeters_congr {minute : Nat} {n : Fin 1024} {s v w t : State} (h : activationMeters minute n v w)
    (slots : v.store.slots = s.store.slots) (before : v.tariffs = s.tariffs) (after : t.tariffs = w.tariffs) :
    activationMeters minute n s t := by
  obtain ⟨swapped, others, own⟩ := h
  refine ⟨tariffSwapped_congr swapped (by rw [before]) after, fun k other => ?_, ?_⟩
  · rw [bandSet_congr _ _ (s := w) (by rw [after]), after, others k other, slots, before]
  · rw [bandNow, after, own, before]
    rfl

/-- The tariff unit takes the boundary behind the activation: it gives the meter its start band. -/
theorem swapped_after_activation {minute : Nat} {n : Fin 1024} {v w : State} {b : Slot}
    (slots : w.store.slots = v.store.slots.set n { b with state := .active, activation := some minute })
    (tariffs : w.tariffs = { v.tariffs with meters := v.tariffs.meters.set n { v.tariffs.meters[n] with
      firstCounted := some { minute := minute, second := 0 }
      startBand := none } }) : activationMeters minute n v (takeTariffBoundary w) := by
  obtain ⟨-, swapped, meters⟩ := takeTariffBoundary_swapped w
  generalize takeTariffBoundary w = y at *
  refine ⟨tariffSwapped_congr swapped (by rw [tariffs]) rfl, fun k other => ?_, ?_⟩
  · have slot : w.store.slots[k] = v.store.slots[k] := by
      rw [slots]
      exact (getFin_set ..).trans (if_neg (Ne.symm other))
    have meter : w.tariffs.meters[k] = v.tariffs.meters[k] := by
      rw [tariffs]
      exact (getFin_set ..).trans (if_neg (Ne.symm other))
    rw [meters k, slot, meter]
  · have slot : w.store.slots[n] = { b with state := .active, activation := some minute } := by
      rw [slots]
      exact (getFin_set ..).trans (if_pos rfl)
    have meter : w.tariffs.meters[n] = { v.tariffs.meters[n] with
        firstCounted := some { minute := minute, second := 0 }
        startBand := none } := by
      rw [tariffs]
      exact (getFin_set ..).trans (if_pos rfl)
    rw [meters n, slot, meter]
    rfl

/-- The tariff unit takes the boundary ahead of the activation. -/
theorem swapped_before_activation {minute : Nat} {n : Fin 1024} {v y w : State} (swap : takeTariffBoundary v = y)
    (off : slotOnAir v.store.slots[n] = false)
    (tariffs : w.tariffs = { y.tariffs with meters := y.tariffs.meters.set n { y.tariffs.meters[n] with
      firstCounted := some { minute := minute, second := 0 }
      startBand := currentBand minute y } }) : activationMeters minute n v w := by
  obtain ⟨-, swapped, meters⟩ := takeTariffBoundary_swapped v
  rw [swap] at swapped meters
  have current : w.tariffs.current = y.tariffs.current := by rw [tariffs]
  refine ⟨tariffSwapped_after swapped (by rw [tariffs]), fun k other => ?_, ?_⟩
  · have meter : w.tariffs.meters[k] = y.tariffs.meters[k] := by
      rw [tariffs]
      exact (getFin_set ..).trans (if_neg (Ne.symm other))
    rw [meter, meters k, bandSet_congr _ _ current]
  · have meter : w.tariffs.meters[n] = { y.tariffs.meters[n] with
        firstCounted := some { minute := minute, second := 0 }
        startBand := currentBand minute y } := by
      rw [tariffs]
      exact (getFin_set ..).trans (if_pos rfl)
    have old : y.tariffs.meters[n] = v.tariffs.meters[n] := by
      rw [meters n, bandSet, if_neg (Bool.eq_false_iff.1 off)]
    rw [meter, old, bandNow, current]
    rfl

end Sys2Proof.Machine
end

section
/-! ### The head of one timeline activates (O38) -/

namespace Sys2Proof.Machine

/-- R54, R71, R109, R119: booking n of port d has activated in `minute`: the book, the rows, the accounts and the source items. -/
def activatedAt (minute : Nat) (d : Fin 64) (n : Fin 1024) (s t : State) : Prop :=
  t.store = { s.store with slots := s.store.slots.set n { s.store.slots[n] with
    state := .active
    activation := some minute } } ∧
  t.rows = s.rows.set d (rowActivated s.store.slots[n] s s.rows[d]) ∧ sourcesTold s t ∧ t.accounts = s.accounts

theorem activatedAt_alike {minute : Nat} {d : Fin 64} {n : Fin 1024} {s v w t : State} (before : booksAlike s v)
    (h : activatedAt minute d n v w) (after : booksAlike w t) : activatedAt minute d n s t := by
  obtain ⟨store, rows, told, accounts⟩ := h
  refine ⟨?_, ?_, sourcesTold_alike before told after, after.accounts.trans (accounts.trans before.accounts)⟩
  · rw [after.store, store, before.store]
  · rw [after.rows, rows, before.rows, before.store]
    unfold rowActivated
    rw [before.monitors]

/-- The state that the store finds at a boundary: the link is free, and nothing waits but behind an access in flight. -/
theorem recheckOpened_found {after : Nat} {s v : State} (h : recheckOpened after s v) (free : linkFree s)
    (tidy : s.tickets.inFlight = none → s.tickets.waiting = []) :
    linkFree v ∧ (v.tickets.inFlight = none → v.tickets.waiting = []) ∧ booksAlike s v ∧ v.tariffs = s.tariffs ∧
    v.link.run = s.link.run := by
  have moved := boundaryMoved_tickets h.moved
  have tariffs : v.tariffs = s.tariffs := by rw [h.moved]
  obtain ⟨run, -⟩ := boundaryMoved_link moved
  exact ⟨boundaryMoved_free moved free, recheckOpened_tidy h tidy, booksAlike_tickets h.moved, tariffs, run⟩

theorem free_due {s : State} (free : linkFree s) : recheckDue s := by
  have opened := free.2.1
  rw [linkOpen, Bool.and_eq_true] at opened
  exact (recheckDue_iff s).2 opened.1

theorem free_gate {s : State} (free : linkFree s) : s.link.gate ≠ .muteAfter 0 := by
  rw [free.2.2]
  simp

section
variable {minute : Nat} {d : Fin 64} {n : Fin 1024} {s : State}

/-- Where the head of d activates, the other timelines have nothing due before or after. -/
theorem starts_alone (counted swapped : Bool) {x : State} (same : x.store = s.store) (free : linkFree x)
    (tidy : x.tickets.inFlight = none → x.tickets.waiting = []) (head : s.store.timelines[d].head? = some n)
    (accepted : s.store.slots[n].state = .accepted) (start : s.store.slots[n].start = minute)
    (port : s.store.slots[n].port = d) (alone : ∀ e, e ≠ d → ¬dueAt minute e s) (e : Fin 64) (other : e ≠ d) :
    ¬dueAt minute e (boundaryTimeline minute counted swapped d x) := by
  rw [← same] at head accepted start port
  rw [boundaryTimeline_starts counted swapped head accepted start]
  obtain ⟨-, store, -⟩ := activate_step minute { minute := minute, second := 0 }
    (if swapped then currentBand minute x else none) port free tidy
  refine stays_idle (s := x) (n := n) (.inr (.inr ⟨accepted, start⟩)) (by rw [store]) (fun k hk => ?_)
    (by rw [dueAt_congr same]; exact alone e other)
  rw [store]
  exact (getFin_set ..).trans (if_neg (Ne.symm hk))

/-- R34, R53, R136, R145: the work of the store at a boundary after its tick, where one head activates. -/
theorem countedWork_starts (swapAfter : Nat) (free : linkFree s)
    (tidy : s.tickets.inFlight = none → s.tickets.waiting = []) (running : s.link.run = .running)
    (head : s.store.timelines[d].head? = some n) (accepted : s.store.slots[n].state = .accepted)
    (start : s.store.slots[n].start = minute) (port : s.store.slots[n].port = d)
    (alone : ∀ e, e ≠ d → ¬dueAt minute e s) :
    let y := countedWork minute swapAfter s
    storeStep [recordWrite s n 20 (le 4 minute), recordWrite s n 0 [4]] s y ∧ activatedAt minute d n s y ∧
    activationMeters minute n s y := by
  intro y
  obtain ⟨swap, -, -⟩ := takeTariffBoundary_swapped s
  have movedX : boundaryMoved s (takeTariffBoundary s) := boundaryMoved_tariffs swap
  have alikeX := booksAlike_tariffs s
  have tidyX : (takeTariffBoundary s).tickets.inFlight = none → (takeTariffBoundary s).tickets.waiting = [] := by
    rw [swap]
    exact tidy
  have freeX := boundaryMoved_free movedX free
  have same : (takeTariffBoundary s).store = s.store := alikeX.store
  have off : slotOnAir s.store.slots[n] = false := by rw [slotOnAir, accepted]
  rcases countedWork_one swapAfter running alone
    (starts_alone true false rfl free tidy head accepted start port alone)
    (starts_alone true true same freeX tidyX head accepted start port alone) with e | e
  · rw [boundaryTimeline_starts true false head accepted start] at e
    obtain ⟨step, store, tariffs, rows, accounts, told⟩ :=
      activate_step minute { minute := minute, second := 0 } none port free tidy
    have meters := swapped_after_activation (congrArg Store.slots store) tariffs
    rw [show y = _ from e]
    exact ⟨storeStep_swap step, activatedAt_alike (booksAlike_tickets (ticketsMoved_refl s))
      ⟨store, rows, told, accounts⟩ (booksAlike_tariffs _), meters⟩
  · rw [boundaryTimeline_starts true true (same ▸ head) (same ▸ accepted) (same ▸ start)] at e
    obtain ⟨step, store, tariffs, rows, accounts, told⟩ :=
      activate_step minute { minute := minute, second := 0 } (currentBand minute (takeTariffBoundary s)) (same ▸ port)
        freeX tidyX
    have meters := swapped_before_activation rfl off tariffs
    rw [show y = _ from e]
    refine ⟨swap_storeStep ?_, activatedAt_alike alikeX ⟨store, rows, told, accounts⟩
      (booksAlike_tickets (ticketsMoved_refl _)), meters⟩
    rw [recordWrite, recordWrite, ← same]
    exact step

end

/-! ### From the work of the store to the end of the boundary -/

/-- R163, R166: the boundary after its tick, at which the store makes record writes alone. -/
theorem counted_done {minute : BitVec 32} {clockSet : Bool} {swapAfter after : Nat} {ws : List HostWrite} {s v y : State}
    (free : linkFree s) (tidy : s.tickets.inFlight = none → s.tickets.waiting = [])
    (found : openRecheck after (timeRolled minute clockSet s) = v) (work : countedWork minute.toNat swapAfter v = y)
    (step : storeStep ws v y) (holds : y.store.holds = s.store.holds) :
    let t := boundaryAfterTick minute clockSet swapAfter after s
    booksAlike y t ∧ t.tariffs = y.tariffs ∧ rechecked after ws s t ∧ boundaryWorked minute clockSet s t ∧
    boundaryPaged minute s t := by
  intro t
  have gate := free_gate free
  have opened := openRecheck_opened after (s := timeRolled minute clockSet s) gate tidy
  rw [found] at opened
  have moved := boundaryMoved_trans (boundaryMoved_tickets opened.moved) step.moved
  have finished := boundary_finished minute moved gate (recordsWritten_tidy step.written (recheckOpened_tidy opened tidy))
  rw [← work, ← found, ← boundaryAfterTick_eq minute clockSet swapAfter after gate tidy, found, work] at finished
  obtain ⟨z, closed, tickets, log⟩ := finished.closed
  have told := rechecked_of opened step.written step.grown (fun _ => holds) (boundaryMoved_due moved) closed
    (.inl (free_due free))
  exact ⟨boundaryFinished_alike finished, finished.stays.2.2.2.2.1, rechecked_congr told tickets log, finished.worked,
    finished.paged⟩

/-- R163: the boundary ahead of its tick, at which the store makes record writes alone. -/
theorem early_done {after : Nat} {ws : List HostWrite} {s v y : State} (free : linkFree s)
    (tidy : s.tickets.inFlight = none → s.tickets.waiting = []) (running : s.link.run = .running)
    (found : openRecheck after (timeAhead s) = v)
    (work : storeTimelines true (s.clock.minute + 1).toNat false false (List.finRange 64) v = y)
    (step : storeStep ws v y) (tariffs : y.tariffs = { s.tariffs with meters := y.tariffs.meters }) :
    let t := boundaryBeforeTick after s
    recheckClosed y t ∧ ((after ≠ 0 → y.store.holds = s.store.holds) → rechecked after ws s t) ∧ booksAlike y t ∧
    t.tariffs = y.tariffs ∧ earlyBoundaryWorked (s.clock.minute + 1) s t := by
  intro t
  have gate := free_gate free
  have opened := openRecheck_opened after (s := timeAhead s) gate tidy
  rw [found] at opened
  have moved := boundaryMoved_trans (boundaryMoved_tickets opened.moved) step.moved
  have closed := lastRecheck_closed (u := y) (by rw [(boundaryMoved_link moved).2.2.1]; exact gate)
    (recordsWritten_tidy step.written (recheckOpened_tidy opened tidy))
  have e : lastRecheck y = t := by
    rw [← work, ← found]
    show _ = boundaryBeforeTick after s
    rw [boundaryBeforeTick_eq, decide_eq_true running]
  rw [e] at closed
  have same : t.tariffs = y.tariffs := by rw [closed.moved]
  have told := fun holds => rechecked_of opened step.written step.grown holds (boundaryMoved_due moved) closed
    (.inl (free_due free))
  exact ⟨closed, told, booksAlike_tickets closed.moved, same,
    boundaryMoved_early (boundaryMoved_trans moved (boundaryMoved_tickets closed.moved)) (by rw [same]; exact tariffs)⟩

/-- Settles O38. -/
theorem boundaryActivates : Obligations.BoundaryActivates := by
  intro early swapAfter recheckAfter minute clockSet d n s free tidy running head accepted start port alone activated met
  refine ⟨fun first => ?_, fun idle ends e => ?_⟩
  · have opened := openRecheck_opened recheckAfter (s := timeRolled minute clockSet s) (free_gate free) tidy
    obtain ⟨v, found⟩ : ∃ v, openRecheck recheckAfter (timeRolled minute clockSet s) = v := ⟨_, rfl⟩
    rw [found] at opened
    obtain ⟨freeV, tidyV, alike, tariffsV, runV⟩ := recheckOpened_found opened free tidy
    have same : v.store = s.store := alike.store
    obtain ⟨step, active, meters⟩ := countedWork_starts (s := v) (minute := minute.toNat) swapAfter freeV tidyV
      (runV.trans running) (same ▸ head) (same ▸ accepted) (same ▸ start) (same ▸ port)
      (fun e he => by rw [dueAt_congr same]; exact alone e he)
    have write : ∀ offset bytes, recordWrite v n offset bytes = recordWrite s n offset bytes := fun offset bytes => by
      rw [recordWrite, recordWrite, same]
    rw [write, write] at step
    obtain ⟨after, tariffs, recheck, worked, paged⟩ := counted_done free tidy found rfl step (by rw [active.1, same])
    obtain ⟨swapped, others, own⟩ := activationMeters_congr (s := s) meters (by rw [same]) tariffsV tariffs
    obtain ⟨store, rows, told, accounts⟩ := activatedAt_alike alike active after
    exact ⟨_, tickFirst_boundary free.1 first, ⟨store, rows, told, accounts, recheck⟩, worked, swapped, paged, others, own⟩
  · subst e
    have opened := openRecheck_opened recheckAfter (s := timeAhead s) (free_gate free) tidy
    obtain ⟨v, found⟩ : ∃ v, openRecheck recheckAfter (timeAhead s) = v := ⟨_, rfl⟩
    rw [found] at opened
    obtain ⟨freeV, tidyV, alike, tariffsV, -⟩ := recheckOpened_found opened free tidy
    have same : v.store = s.store := alike.store
    have aloneV : ∀ e, e ≠ d → ¬dueAt (s.clock.minute + 1).toNat e v := fun e he => by
      rw [dueAt_congr same]
      exact alone e he
    have work := earlyWork_one aloneV (starts_alone false false rfl freeV tidyV (same ▸ head) (same ▸ accepted)
      (same ▸ start) (same ▸ port) aloneV)
    rw [boundaryTimeline_starts false false (same ▸ head) (same ▸ accepted) (same ▸ start),
      if_neg Bool.false_ne_true] at work
    obtain ⟨step, store, tariffsY, rows, accounts, told⟩ := activate_step (s.clock.minute + 1).toNat
      { minute := (s.clock.minute + 1).toNat, second := 0 } none (s := v) (same ▸ port) freeV tidyV
    have write : ∀ offset bytes, recordWrite v n offset bytes = recordWrite s n offset bytes := fun offset bytes => by
      rw [recordWrite, recordWrite, same]
    rw [write, write] at step
    rw [tariffsV] at tariffsY
    obtain ⟨-, recheck, after, tariffs, worked⟩ := early_done free tidy running found work step (by
      refine tariffsY.trans ?_
      rw [tariffsY]
      rfl)
    have recheck := recheck fun _ => (congrArg Store.holds store).trans (by rw [same])
    obtain ⟨store, rows, told, accounts⟩ := activatedAt_alike alike ⟨store, rows, told, accounts⟩ after
    exact ⟨_, early_boundary free.1 idle ends, ⟨store, rows, told, accounts, recheck⟩, worked, tariffs.trans tariffsY⟩

end Sys2Proof.Machine
end

section
/-! ### A head enters OVERRUN at the boundary (O39) -/

namespace Sys2Proof.Machine

/-- R55: booking n has entered OVERRUN: the book has, and the rows, the tariff unit, the accounts and the alarm items stand. -/
structure overrunAt (n : Fin 1024) (s t : State) : Prop where
  store : t.store = { s.store with slots := s.store.slots.set n { s.store.slots[n] with state := .overrun } }
  rows : t.rows = s.rows
  accounts : t.accounts = s.accounts
  alarm : alarmStands s t

theorem overrunAt_alike {n : Fin 1024} {s v w t : State} (before : booksAlike s v) (h : overrunAt n v w)
    (after : booksAlike w t) : overrunAt n s t := by
  obtain ⟨store, rows, accounts, alarm, flags⟩ := h
  refine ⟨?_, after.rows.trans (rows.trans before.rows), after.accounts.trans (accounts.trans before.accounts),
    after.alarm.trans (alarm.trans before.alarm), after.flags.trans (flags.trans before.flags)⟩
  rw [after.store, store, before.store]

/-- R55: the work of the store at a booking that enters OVERRUN. -/
theorem enterOverrun_step (n : Fin 1024) {s : State} (free : linkFree s)
    (tidy : s.tickets.inFlight = none → s.tickets.waiting = []) :
    storeStep [recordWrite s n 0 [5]] s (enterOverrun n s) ∧ overrunAt n s (enterOverrun n s) ∧
    (enterOverrun n s).tariffs = s.tariffs := by
  have run : enterOverrun n s = submit ([recordWrite s n 0 [5]].map Access.write)
      (setSlot n { s.store.slots[n] with state := .overrun } s) := rfl
  have moved : boundaryMoved s (setSlot n { s.store.slots[n] with state := .overrun } s) := ⟨rfl, fun _ _ => rfl⟩
  obtain ⟨-, frame, -⟩ := submit_writes_moved [recordWrite s n 0 [5]]
    (s := setSlot n { s.store.slots[n] with state := .overrun } s) free tidy
  have step := storeStep_submit (ws := [recordWrite s n 0 [5]]) moved rfl rfl ⟨[], (List.append_nil _).symm⟩ free tidy
  rw [← run] at frame step
  rw [frame] at step ⊢
  exact ⟨step, ⟨rfl, rfl, rfl, rfl, rfl⟩, rfl⟩

/-- R53, step 3: a head whose start has not come, or that is on air already. -/
theorem boundaryStart_stays {minute : Nat} (swapped : Bool) {d : Fin 64} {s : State}
    (h : ∀ k, s.store.timelines[d].head? = some k →
      ¬(s.store.slots[k].state = .accepted ∧ s.store.slots[k].start = minute)) : boundaryStart minute swapped d s = s := by
  cases head : s.store.timelines[d].head? with
  | none => simp only [boundaryStart, headOf, head]
  | some k => simp only [boundaryStart, headOf, head, if_neg (h k head)]

/-- R53, step 2: an ACTIVE head with an extension whose booked end has come. -/
theorem boundaryTimeline_overruns {minute : Nat} (counted swapped : Bool) {d : Fin 64} {n : Fin 1024} {s : State}
    (free : linkFree s) (tidy : s.tickets.inFlight = none → s.tickets.waiting = [])
    (head : s.store.timelines[d].head? = some n) (active : s.store.slots[n].state = .active)
    (ends : bookedEnd s.store.slots[n] = minute) (extended : 0 < s.store.slots[n].extension) :
    boundaryTimeline minute counted swapped d s = enterOverrun n s := by
  have longer : finalEnd s.store.slots[n] = bookedEnd s.store.slots[n] + s.store.slots[n].extension := rfl
  have open_ : ¬(slotOnAir s.store.slots[n] = true ∧ finalEnd s.store.slots[n] = minute) := by omega
  have entered : boundaryHead minute counted d s = enterOverrun n s := by
    simp only [boundaryHead, headOf, head, if_neg open_, active, ends, extended, and_self, if_true]
  obtain ⟨-, overrun, -⟩ := enterOverrun_step n free tidy
  rw [boundaryTimeline, entered]
  refine boundaryStart_stays swapped fun k is starts => ?_
  rw [overrun.store] at is starts
  obtain rfl : n = k := Option.some.inj (head.symm.trans is)
  have slot : (s.store.slots.set n { s.store.slots[n] with state := .overrun })[n] =
      { s.store.slots[n] with state := .overrun } := (getFin_set ..).trans (if_pos rfl)
  rw [slot] at starts
  exact (nomatch starts.1)

section
variable {minute : Nat} {d : Fin 64} {n : Fin 1024} {s : State}

/-- Where the head of d enters OVERRUN, the other timelines have nothing due before or after. -/
theorem overruns_alone (counted swapped : Bool) {x : State} (same : x.store = s.store) (free : linkFree x)
    (tidy : x.tickets.inFlight = none → x.tickets.waiting = []) (head : s.store.timelines[d].head? = some n)
    (active : s.store.slots[n].state = .active) (ends : bookedEnd s.store.slots[n] = minute)
    (extended : 0 < s.store.slots[n].extension) (alone : ∀ e, e ≠ d → ¬dueAt minute e s) (e : Fin 64) (other : e ≠ d) :
    ¬dueAt minute e (boundaryTimeline minute counted swapped d x) := by
  rw [← same] at head active ends extended
  rw [boundaryTimeline_overruns counted swapped free tidy head active ends extended]
  obtain ⟨-, overrun, -⟩ := enterOverrun_step n free tidy
  refine stays_idle (s := x) (n := n) (.inr (.inl ⟨active, ends, extended⟩)) (by rw [overrun.store]) (fun k hk => ?_)
    (by rw [dueAt_congr same]; exact alone e other)
  rw [overrun.store]
  exact (getFin_set ..).trans (if_neg (Ne.symm hk))

/-- R136, R145: a booking on air has its start band whether it is ACTIVE or in OVERRUN. -/
theorem bandSet_overrun (k : Fin 1024) (active : s.store.slots[n].state = .active) {x : State} (overrun : overrunAt n s x)
    (m : Meter) (t : State) : bandSet x.store.slots[k] m t = bandSet s.store.slots[k] m t := by
  rw [overrun.store]
  have slot := getFin_set s.store.slots n k { s.store.slots[n] with state := .overrun }
  by_cases same : n = k
  · subst same
    rw [show _ = _ from slot, if_pos rfl]
    simp only [bandSet, slotOnAir, active, withStartBand, activationBandOf]
  · rw [show _ = _ from slot, if_neg same]

/-- R53, R55, R136: the work of the store at a boundary after its tick, where one head enters OVERRUN. -/
theorem countedWork_overruns (swapAfter : Nat) (free : linkFree s)
    (tidy : s.tickets.inFlight = none → s.tickets.waiting = []) (running : s.link.run = .running)
    (head : s.store.timelines[d].head? = some n) (active : s.store.slots[n].state = .active)
    (ends : bookedEnd s.store.slots[n] = minute) (extended : 0 < s.store.slots[n].extension)
    (alone : ∀ e, e ≠ d → ¬dueAt minute e s) :
    let y := countedWork minute swapAfter s
    storeStep [recordWrite s n 0 [5]] s y ∧ overrunAt n s y ∧ tariffSwapped s y ∧
    ∀ k : Fin 1024, y.tariffs.meters[k] = bandSet s.store.slots[k] s.tariffs.meters[k] y := by
  intro y
  obtain ⟨swap, swapped, meters⟩ := takeTariffBoundary_swapped s
  have movedX : boundaryMoved s (takeTariffBoundary s) := boundaryMoved_tariffs swap
  have alikeX := booksAlike_tariffs s
  have tidyX : (takeTariffBoundary s).tickets.inFlight = none → (takeTariffBoundary s).tickets.waiting = [] := by
    rw [swap]
    exact tidy
  have freeX := boundaryMoved_free movedX free
  have same : (takeTariffBoundary s).store = s.store := alikeX.store
  rcases countedWork_one swapAfter running alone
    (overruns_alone true false rfl free tidy head active ends extended alone)
    (overruns_alone true true same freeX tidyX head active ends extended alone) with e | e
  · rw [boundaryTimeline_overruns true false free tidy head active ends extended] at e
    obtain ⟨step, overrun, tariffs⟩ := enterOverrun_step n free tidy
    obtain ⟨-, swappedY, metersY⟩ := takeTariffBoundary_swapped (enterOverrun n s)
    rw [← show y = _ from e] at swappedY metersY
    refine ⟨?_, ?_, tariffSwapped_congr swappedY (by rw [tariffs]) rfl, fun k => ?_⟩
    · rw [show y = _ from e]
      exact storeStep_swap step
    · rw [show y = _ from e]
      exact overrunAt_alike (booksAlike_tickets (ticketsMoved_refl s)) overrun (booksAlike_tariffs _)
    · rw [metersY k, bandSet_overrun k active overrun, tariffs]
  · rw [boundaryTimeline_overruns true true freeX tidyX (same ▸ head) (same ▸ active) (same ▸ ends) (same ▸ extended)] at e
    obtain ⟨step, overrun, tariffs⟩ := enterOverrun_step n freeX tidyX
    rw [← show y = _ from e] at step overrun tariffs
    refine ⟨swap_storeStep ?_, overrunAt_alike alikeX overrun (booksAlike_tickets (ticketsMoved_refl _)),
      tariffSwapped_congr swapped rfl tariffs, fun k => ?_⟩
    · rw [recordWrite, ← same]
      exact step
    · rw [tariffs, meters k]
      exact (bandSet_congr _ _ (by rw [tariffs])).symm

end

end Sys2Proof.Machine
end

section
/-! ### A head closes at the boundary after its tick, and its ticket is raised (O39) -/

namespace Sys2Proof.Machine

/-! ### The countdown of the re-check (R163; log 21) -/

/-- R163: after how many closes the re-check is still to be made, once one more has been handed over. -/
def countLeft : Option Nat → Option Nat
  | some (k + 2) => some (k + 1)
  | _ => none

/-- R163: the re-check, if it comes right behind the close that has been handed over. -/
def countMade : Option Nat → List Access
  | some 0 | some 1 => [.recheck]
  | _ => []

theorem countRecheck_behind {s : State} {a : Access} (h : s.tickets.inFlight = some a) :
    countRecheck s = { s with tickets := { s.tickets with
      recheckIn := countLeft s.tickets.recheckIn
      waiting := s.tickets.waiting ++ countMade s.tickets.recheckIn } } := by
  have made : makeRecheck s = { s with tickets := { s.tickets with
      recheckIn := none
      waiting := s.tickets.waiting ++ [.recheck] } } := submit_behind _ (by exact h)
  match e : s.tickets.recheckIn with
  | none =>
    have count : countRecheck s = s := by simp only [countRecheck, e]
    rw [count]
    show s = { s with tickets := { s.tickets with recheckIn := none, waiting := s.tickets.waiting ++ [] } }
    rw [List.append_nil, ← e]
  | some 0 =>
    have count : countRecheck s = makeRecheck s := by simp only [countRecheck, e]
    exact count.trans made
  | some 1 =>
    have count : countRecheck s = makeRecheck s := by simp only [countRecheck, e]
    exact count.trans made
  | some (k + 2) =>
    have count : countRecheck s = { s with tickets := { s.tickets with recheckIn := some (k + 1) } } := by
      simp only [countRecheck, e]
    rw [count]
    show _ = { s with tickets := { s.tickets with recheckIn := some (k + 1), waiting := s.tickets.waiting ++ [] } }
    rw [List.append_nil]

/-! ### A close handed over at the boundary -/

/-- R56, R163: from s to y the close r has been handed over, the re-check counted, and the record writes `ws` made behind it. -/
structure closeStep (r : Raise) (ws : List HostWrite) (s y : State) : Prop where
  moved : boundaryMoved s y
  writes : hostWrites y = hostWrites s
  grown : ∃ l, y.link.log = s.link.log ++ l
  idle : s.tickets.inFlight = none → slotRead s y ∧ y.tickets = { s.tickets with
    recheckIn := countLeft s.tickets.recheckIn
    number := s.tickets.number + 1
    inFlight := some (.raise r)
    waiting := s.tickets.waiting ++ (countMade s.tickets.recheckIn ++ ws.map Access.write) }
  busy : s.tickets.inFlight ≠ none → y.tickets = { s.tickets with
    recheckIn := countLeft s.tickets.recheckIn
    waiting := s.tickets.waiting ++ .raise r :: (countMade s.tickets.recheckIn ++ ws.map Access.write) }

theorem closeStep_flight {r : Raise} {ws : List HostWrite} {s y : State} (h : closeStep r ws s y) :
    y.tickets.inFlight ≠ none := by
  by_cases flight : s.tickets.inFlight = none
  · rw [(h.idle flight).2]
    exact Option.some_ne_none _
  · rw [h.busy flight]
    exact flight

/-- The next member activates behind the close of the head. -/
theorem closeStep_storeStep {r : Raise} {ws : List HostWrite} {s c y : State} (h : closeStep r [] s c) (k : storeStep ws c y) :
    closeStep r ws s y := by
  obtain ⟨writes, tickets⟩ := k.written.2 (closeStep_flight h)
  obtain ⟨first, e⟩ := h.grown
  obtain ⟨last, e'⟩ := k.grown
  refine ⟨boundaryMoved_trans h.moved k.moved, writes.trans h.writes, ⟨first ++ last, by rw [e', e, List.append_assoc]⟩,
    fun flight => ?_, fun flight => ?_⟩
  · obtain ⟨read, now⟩ := h.idle flight
    refine ⟨slotRead_widen ⟨[], (List.append_nil _).symm⟩ k.grown rfl rfl read, ?_⟩
    rw [tickets, now]
    simp only [List.map_nil, List.append_nil, List.append_assoc]
  · rw [tickets, h.busy flight]
    simp only [List.map_nil, List.append_nil, List.append_assoc, List.cons_append]

/-- The tariff unit takes the boundary ahead of the work of the store, or behind it. -/
theorem closeStep_around {r : Raise} {ws : List HostWrite} {s x w y : State} (before : x = { s with tariffs := x.tariffs })
    (h : closeStep r ws x w) (after : y = { w with tariffs := y.tariffs }) : closeStep r ws s y := by
  have moved := boundaryMoved_trans (boundaryMoved_tariffs before) (boundaryMoved_trans h.moved (boundaryMoved_tariffs after))
  obtain ⟨-, writes, grown, idle, busy⟩ := h
  obtain ⟨ticketsX, linkX⟩ : x.tickets = s.tickets ∧ x.link = s.link := by rw [before]; exact ⟨rfl, rfl⟩
  obtain ⟨ticketsY, linkY⟩ : y.tickets = w.tickets ∧ y.link = w.link := by rw [after]; exact ⟨rfl, rfl⟩
  refine ⟨moved, ?_, ?_, ?_, ?_⟩
  · rw [hostWrites, linkY, hostWrites, ← linkX]
    exact writes
  · rw [linkY, ← linkX]
    exact grown
  · unfold slotRead at *
    rw [linkY, ticketsY, ← linkX, ← ticketsX]
    exact idle
  · rw [ticketsY, ← ticketsX]
    exact busy

/-- R56, R57, R149: what is handed over when the on-air head n closes in `minute`. -/
def headRaise (n : Fin 1024) (minute : Nat) (s : State) : Raise :=
  closeRaise .booking n minute false (beginClose n minute s)

/-- R56, R57, R155: head n of d has closed in `minute`: the book, the row, the tariff unit, the source items and the account. -/
structure headClosed (minute : Nat) (d : Fin 64) (r : Raise) (rest : List (Fin 1024)) (s c : State) : Prop where
  store : c.store = { s.store with timelines := s.store.timelines.set d rest }
  rows : c.rows = rowsAfterClose minute d rest s
  tariffs : c.tariffs = s.tariffs
  told : sourcesTold s c
  added : closeAdded r s c

/-- R149: the read for a ticket is all that a close handed over puts on the link. -/
theorem raise_grown (r : Raise) {s : State} (free : linkFree s) (tidy : s.tickets.inFlight = none → s.tickets.waiting = []) :
    ∃ l, (submit [.raise r] (takeClose r s)).link.log = s.link.log ++ l := by
  obtain ⟨-, frame⟩ := takeClose_added r s
  generalize (takeClose r s).accounts = accounts at frame
  rw [frame]
  cases flight : s.tickets.inFlight with
  | some a =>
    rw [submit_behind _ (by exact flight)]
    exact ⟨[], (List.append_nil _).symm⟩
  | none =>
    have opened : linkOpen { s with accounts := accounts } = true := free.2.1
    have reads : readsOpen (raiseNumber { s with accounts := accounts }) = true := by
      rw [linkOpen, Bool.and_eq_true] at opened
      exact opened.1
    rw [submit_idle _ (by exact tidy flight)]
    simp only [pump, flight, Option.isSome_none, Bool.false_eq_true, if_false, beginAccess, opened, if_true, issueRead, reads]
    exact ⟨_, rfl⟩

/-- R56: what is done to a close behind its handover leaves all but the re-check. -/
theorem countRecheck_moved {s : State} {a : Access} (h : s.tickets.inFlight = some a) : ticketsMoved s (countRecheck s) := by
  rw [countRecheck_behind h]
  rfl

/-- R53, R56, R163: the on-air head of a timeline closes at the boundary. -/
theorem boundaryClose_step (minute : Nat) {d : Fin 64} {n : Fin 1024} {rest : List (Fin 1024)} {s : State}
    (h : headAt d n rest s) (free : linkFree s) (tidy : s.tickets.inFlight = none → s.tickets.waiting = []) :
    closeStep (headRaise n minute s) [] s (boundaryClose n minute true s) ∧
    headClosed minute d (headRaise n minute s) rest s (boundaryClose n minute true s) := by
  obtain ⟨worked, store, rows, tariffs, told, tickets, writes, grown, accounts⟩ := beginClose_head minute h
  have run : boundaryClose n minute true s =
      countRecheck (submit [.raise (headRaise n minute s)] (takeClose (headRaise n minute s) (beginClose n minute s))) := by
    simp only [boundaryClose, closeOnAir, settleClose, headRaise, if_true]
  have freeU := storeWorked_free worked free
  obtain ⟨first, before⟩ := grown
  obtain ⟨last, after⟩ := raise_grown (headRaise n minute s) freeU (by rw [tickets]; exact tidy)
  obtain ⟨handed, workedC, storeC, rowsC, tariffsC, alarm, flags⟩ :=
    raise_handed (headRaise n minute s) freeU (by rw [tickets]; exact tidy)
  have handed := raisingFrom_after handed tickets writes ⟨first, before⟩ accounts
  generalize headRaise n minute s = r at *
  generalize beginClose n minute s = u at *
  generalize submit [.raise r] (takeClose r u) = c at *
  have waits := raisingFrom_recheck handed
  obtain ⟨writesC, added, begun, behind⟩ := handed
  obtain ⟨a, flight⟩ : ∃ a, c.tickets.inFlight = some a := by
    by_cases idle : s.tickets.inFlight = none
    · exact ⟨_, by rw [(begun idle).1]⟩
    · rw [behind idle]
      exact Option.ne_none_iff_exists'.mp idle
  have moved := boundaryMoved_trans (boundaryMoved_store worked)
    (boundaryMoved_trans (boundaryMoved_store workedC) (boundaryMoved_tickets (countRecheck_moved flight)))
  have alike := booksAlike_tickets (countRecheck_moved flight)
  rw [run]
  refine ⟨⟨moved, ?_, ?_, fun idle => ?_, fun busy => ?_⟩, ?_, ?_, ?_, ?_, ?_⟩
  · rw [countRecheck_behind flight]
    exact writesC
  · rw [countRecheck_behind flight]
    exact ⟨first ++ last, by rw [after, before, List.append_assoc]⟩
  · obtain ⟨now, read⟩ := begun idle
    rw [countRecheck_behind flight, waits]
    refine ⟨read, ?_⟩
    rw [now]
    simp only [List.map_nil, List.append_nil]
  · rw [countRecheck_behind flight, waits, behind busy]
    simp only [List.map_nil, List.append_nil, List.append_assoc, List.cons_append, List.nil_append]
  · rw [alike.store, storeC, store]
  · rw [alike.rows, rowsC, rows]
  · rw [countRecheck_behind flight]
    exact tariffsC.trans tariffs
  · exact sourcesTold_around told rfl rfl (alike.alarm.trans alarm) (alike.flags.trans flags)
      (alike.permissions.trans (storeWorked_permissions workedC)) (by rw [alike.store, storeC])
      (by rw [alike.store, storeC]) (alike.rows.trans rowsC) (alike.monitors.trans (storeWorked_monitors workedC))
  · unfold closeAdded at *
    rw [alike.accounts]
    exact added

end Sys2Proof.Machine
end

section
/-! ### The re-check at a boundary that raises a ticket (O39) -/

namespace Sys2Proof.Machine

section
variable {r : Raise} {ws : List HostWrite} {s v y t : State}

/-- The part has been opened, a close handed over, and closed, with the traffic that each has added. -/
theorem closeStep_reads {after : Nat} (opened : recheckOpened after s v) (step : closeStep r ws v y) (closed : recheckClosed y t)
    (ring : v.tickets.ring = s.tickets.ring) (position : v.tickets.writePosition = s.tickets.writePosition) :
    (slotRead s v → slotRead s t) ∧ (slotRead v y → slotRead s t) := by
  obtain ⟨first, e⟩ := step.grown
  obtain ⟨last, e'⟩ := closed.grown
  exact ⟨slotRead_widen ⟨[], (List.append_nil _).symm⟩ ⟨first ++ last, by rw [e', e, List.append_assoc]⟩ rfl rfl,
    slotRead_widen opened.grown closed.grown ring position⟩

/-- R163: the re-check comes ahead of the close. -/
theorem closedAt_ahead (opened : recheckOpened 0 s v) (step : closeStep r ws v y) (due : recheckDue s)
    (closed : recheckClosed y t) (added : closeAdded r s t) : closedAt 0 r ws s t := by
  have made := opened.first due rfl
  refine ⟨closed.writes.trans (step.writes.trans opened.writes), added, fun idle waiting => ?_, fun a busy => ?_⟩
  · by_cases blocked : s.tickets.blocked = true
    · obtain ⟨begun, read⟩ := made.read idle blocked due
      have now := step.busy (by rw [begun]; exact Option.some_ne_none _)
      have last := closed.rest (.inl (by rw [now, begun]; rfl))
      obtain ⟨reads, -⟩ := closeStep_reads opened step closed (by rw [begun]) (by rw [begun])
      refine ⟨reads read, ?_⟩
      rw [last, now, begun, waiting]
      simp [blocked, countLeft, countMade]
    · have same := made.idle idle (.inl (Bool.eq_false_iff.2 blocked))
      obtain ⟨read, now⟩ := step.idle (by rw [same]; exact idle)
      have last := closed.rest (.inl (by rw [now, same]; rfl))
      obtain ⟨-, reads⟩ := closeStep_reads opened step closed (by rw [same]) (by rw [same])
      refine ⟨reads read, ?_⟩
      rw [last, now, same, waiting]
      simp [blocked, countLeft, countMade]
  · have same := made.behind a busy
    have now := step.busy (by rw [same, busy]; exact Option.some_ne_none _)
    have last := closed.rest (.inl (by rw [now, same]; rfl))
    rw [last, now, same]
    simp [countLeft, countMade]

/-- R163: the re-check comes behind the close. -/
theorem closedAt_behind (opened : recheckOpened 1 s v) (step : closeStep r ws v y) (due : recheckDue s)
    (closed : recheckClosed y t) (added : closeAdded r s t) : closedAt 1 r ws s t := by
  have same := opened.later due (by simp)
  refine ⟨closed.writes.trans (step.writes.trans opened.writes), added, fun idle waiting => ?_, fun a busy => ?_⟩
  · obtain ⟨read, now⟩ := step.idle (by rw [same]; exact idle)
    have last := closed.rest (.inl (by rw [now, same]; rfl))
    obtain ⟨-, reads⟩ := closeStep_reads opened step closed (by rw [same]) (by rw [same])
    refine ⟨reads read, ?_⟩
    rw [last, now, same, waiting]
    simp [countLeft, countMade]
  · have now := step.busy (by rw [same, busy]; exact Option.some_ne_none _)
    have last := closed.rest (.inl (by rw [now, same]; rfl))
    rw [last, now, same]
    simp [countLeft, countMade]

/-- R163: the re-check waits for more closes than this one: it is made once no close is held. -/
theorem closedAt_last {k : Nat} (opened : recheckOpened (k + 2) s v) (step : closeStep r ws v y)
    (holds : y.store.holds = s.store.holds) (due : recheckDue s) (closed : recheckClosed y t) (added : closeAdded r s t) :
    closedAt (k + 2) r ws s t := by
  have same := opened.later due (by simp)
  obtain ⟨a, flight⟩ := Option.ne_none_iff_exists'.mp (closeStep_flight step)
  have waits : y.tickets.recheckIn = some (k + 1) := by
    by_cases idle : v.tickets.inFlight = none
    · rw [(step.idle idle).2, same]
      rfl
    · rw [step.busy idle, same]
      rfl
  have last : t.tickets = { y.tickets with
      recheckIn := if s.store.holds ≠ [] then some (k + 1) else none
      waiting := y.tickets.waiting ++ if s.store.holds ≠ [] then [] else [.recheck] } := by
    by_cases held : s.store.holds = []
    · rw [closed.made (by rw [waits]; exact Option.some_ne_none _) (holds ▸ held) |>.behind a flight]
      simp [held]
    · rw [closed.rest (.inr (holds ▸ held)), if_pos held, if_pos held, List.append_nil, ← waits]
  refine ⟨closed.writes.trans (step.writes.trans opened.writes), added, fun idle waiting => ?_, fun a busy => ?_⟩
  · obtain ⟨read, now⟩ := step.idle (by rw [same]; exact idle)
    obtain ⟨-, reads⟩ := closeStep_reads opened step closed (by rw [same]) (by rw [same])
    refine ⟨reads read, ?_⟩
    rw [last, now, same, waiting]
    simp [countMade]
  · have now := step.busy (by rw [same, busy]; exact Option.some_ne_none _)
    rw [last, now, same]
    simp [countMade]

/-- R149, R163, log 21: what a boundary with one close leaves of the tickets. -/
theorem closedAt_of {after : Nat} (opened : recheckOpened after s v) (step : closeStep r ws v y)
    (holds : y.store.holds = s.store.holds) (due : recheckDue s) (closed : recheckClosed y t) (added : closeAdded r s t) :
    closedAt after r ws s t :=
  match after, opened with
  | 0, opened => closedAt_ahead opened step due closed added
  | 1, opened => closedAt_behind opened step due closed added
  | _ + 2, opened => closedAt_last opened step holds due closed added

theorem closedAt_congr {after : Nat} {z : State} (h : closedAt after r ws s z) (tickets : t.tickets = z.tickets)
    (log : t.link.log = z.link.log) (accounts : t.accounts = z.accounts) : closedAt after r ws s t := by
  unfold closedAt slotRead closeAdded hostWrites at *
  rw [tickets, log, accounts]
  exact h

/-- R163, R166: the boundary after its tick, at which the store hands over one close. -/
theorem counted_closed {minute : BitVec 32} {clockSet : Bool} {swapAfter after : Nat} (free : linkFree s)
    (tidy : s.tickets.inFlight = none → s.tickets.waiting = [])
    (found : openRecheck after (timeRolled minute clockSet s) = v) (work : countedWork minute.toNat swapAfter v = y)
    (step : closeStep r ws v y) (added : closeAdded r v y) (holds : y.store.holds = s.store.holds) :
    let t := boundaryAfterTick minute clockSet swapAfter after s
    booksAlike y t ∧ t.tariffs = y.tariffs ∧ closedAt after r ws s t ∧ boundaryWorked minute clockSet s t ∧
    boundaryPaged minute s t := by
  intro t
  have gate := free_gate free
  have opened := openRecheck_opened after (s := timeRolled minute clockSet s) gate tidy
  rw [found] at opened
  have moved := boundaryMoved_trans (boundaryMoved_tickets opened.moved) step.moved
  have finished := boundary_finished minute moved gate fun idle => absurd idle (closeStep_flight step)
  rw [← work, ← found, ← boundaryAfterTick_eq minute clockSet swapAfter after gate tidy, found, work] at finished
  obtain ⟨z, closed, tickets, log⟩ := finished.closed
  have accounts : v.accounts = s.accounts := by rw [opened.moved]; rfl
  have sum : closeAdded r s z := by
    have last : z.accounts = y.accounts := by rw [closed.moved]
    unfold closeAdded accountOf at *
    rw [last, ← accounts]
    exact added
  have told := closedAt_of opened step holds (free_due free) closed sum
  exact ⟨boundaryFinished_alike finished, finished.stays.2.2.2.2.1,
    closedAt_congr told tickets log (finished.stays.2.2.2.1.trans (by rw [closed.moved])), finished.worked, finished.paged⟩

end

end Sys2Proof.Machine
end

section
/-! ### The head of one timeline closes at the boundary, and the next member may take over (O39) -/

namespace Sys2Proof.Machine

/-! ### What the source items are derived from -/

theorem derivedFrom_congr {s t : State} {a b : Alarm} (h : derivedFrom s a b) (slots : t.store.slots = s.store.slots)
    (timelines : t.store.timelines = s.store.timelines) (rows : t.rows = s.rows) (monitors : t.monitors = s.monitors) :
    derivedFrom t a b := by
  obtain ⟨frame, items⟩ := h
  refine ⟨frame, fun i => ⟨(items i).1, fun p hp => ?_⟩⟩
  rw [sourceSeverity_congr slots timelines rows monitors]
  exact (items i).2 p hp

/-- R119, R122, R130: the source items have followed the close that left the book at `cleared`, and then the activation of the
member that took over; ALARM has followed them. -/
def takenOver (cleared : Store) (s t : State) : Prop :=
  (∃ a, derivedFrom { s with store := cleared } s.alarm a ∧ derivedFrom t a t.alarm) ∧
  t.link.flags = withAlarmLevel s.link.flags (alarmLevel t)

theorem takenOver_of {cleared : Store} {s c t : State} (store : c.store = cleared) (rows : c.rows = s.rows)
    (monitors : c.monitors = s.monitors) (first : sourcesTold s c) (second : sourcesTold c t) : takenOver cleared s t := by
  obtain ⟨derived, flags⟩ := first
  obtain ⟨derived', flags'⟩ := second
  refine ⟨⟨c.alarm, derivedFrom_congr derived (by rw [store]) (by rw [store]) rows.symm monitors.symm, derived'⟩, ?_⟩
  rw [flags', flags]
  exact withAlarmLevel_congr (withAlarmLevel_others _ _) _

theorem takenOver_alike {cleared : Store} {s v w t : State} (before : booksAlike s v) (h : takenOver cleared v w)
    (after : booksAlike w t) : takenOver cleared s t := by
  obtain ⟨⟨a, first, second⟩, flags⟩ := h
  have level : alarmLevel t = alarmLevel w := by
    simp only [alarmLevel, permitted, after.alarm, after.permissions]
  refine ⟨⟨a, ?_, ?_⟩, ?_⟩
  · rw [← before.alarm]
    exact derivedFrom_congr first rfl rfl before.rows.symm before.monitors.symm
  · rw [after.alarm]
    exact derivedFrom_congr second (by rw [after.store]) (by rw [after.store]) after.rows after.monitors
  · rw [after.flags, flags, before.flags, level]

/-! ### What is handed over -/

/-- R48, R149, R160: what the close of booking n hands over, from s to t. -/
structure raiseTold (minute : Nat) (n : Fin 1024) (r : Raise) (s t : State) : Prop where
  slot : r.slot = n
  closed : r.closeMinute = minute
  boundary : r.forOrder = false
  fields : meterFields n s r
  ticket : onAirTicket n s r.ticket ∨ onAirTicket n { s with tariffs := t.tariffs } r.ticket

/-- What the ticket of a close looks at of the tariff unit. -/
theorem onAirTicket_congr {n : Fin 1024} {s v : State} {x : Ticket} (h : onAirTicket n s x)
    (slots : v.store.slots = s.store.slots) (tariffs : v.tariffs = { s.tariffs with meters := v.tariffs.meters })
    (meter : v.tariffs.meters[n] = s.tariffs.meters[n]) : onAirTicket n v x := by
  have current : v.tariffs.current = s.tariffs.current := by rw [tariffs]
  have table : ratingTable v.tariffs.meters[n] v.tariffs = ratingTable s.tariffs.meters[n] s.tariffs := by
    rw [meter, tariffs]
    rfl
  unfold onAirTicket at *
  simp only [ticketOf, withStartBand, activationBandOf, slots, current] at *
  rw [table, meter]
  exact h

/-- R48, R160: the close that the store begins while the tariff unit stands as in x. -/
theorem headRaise_told {minute : Nat} {d : Fin 64} {n : Fin 1024} {rest : List (Fin 1024)} {s x : State}
    (at_ : headAt d n rest x) (slots : x.store.slots = s.store.slots)
    (meter : x.tariffs.meters[n] = { s.tariffs.meters[n] with startBand := x.tariffs.meters[n].startBand }) :
    meterFields n s (headRaise n minute x) ∧ onAirTicket n { s with tariffs := x.tariffs } (headRaise n minute x).ticket := by
  obtain ⟨-, store, -, tariffs, -⟩ := beginClose_head minute at_
  have booked : x.tariffs.meters[n].booked = s.tariffs.meters[n].booked := by rw [meter]
  have overrun : x.tariffs.meters[n].overrun = s.tariffs.meters[n].overrun := by rw [meter]
  have outage : x.tariffs.meters[n].outage = s.tariffs.meters[n].outage := by rw [meter]
  have held : x.tariffs.meters[n].held = s.tariffs.meters[n].held := by rw [meter]
  refine ⟨?_, closeTicket_onAir n (by rw [store]; exact slots) tariffs⟩
  simp only [meterFields, headRaise, closeRaise, tariffs, booked, overrun, outage, held, and_self]

/-! ### The work of the store -/

/-- R53, R136: from s to y one timeline with something due has been brought up, from x to w, and the tariff unit has taken the
boundary behind that work or ahead of it. -/
structure workOrder (minute : Nat) (d : Fin 64) (s x w y : State) : Prop where
  before : x = { s with tariffs := x.tariffs }
  after : y = { w with tariffs := y.tariffs }
  order : x = s ∧ w = boundaryTimeline minute true false d x ∧ y = takeTariffBoundary w ∨
    x = takeTariffBoundary s ∧ w = boundaryTimeline minute true true d x ∧ y = w

theorem workOrder_alike {minute : Nat} {d : Fin 64} {s x w y : State} (h : workOrder minute d s x w y) :
    booksAlike s x ∧ booksAlike w y ∧ x.tickets = s.tickets ∧ x.link = s.link := by
  rw [h.before, h.after]
  exact ⟨⟨rfl, rfl, rfl, rfl, rfl, rfl, rfl⟩, ⟨rfl, rfl, rfl, rfl, rfl, rfl, rfl⟩, rfl, rfl⟩

theorem countedWork_ordered {minute : Nat} (swapAfter : Nat) {d : Fin 64} {s : State} (running : s.link.run = .running)
    (alone : ∀ e, e ≠ d → ¬dueAt minute e s)
    (after : ∀ x, x = s ∨ x = takeTariffBoundary s → ∀ swapped e, e ≠ d →
      ¬dueAt minute e (boundaryTimeline minute true swapped d x)) :
    ∃ x w, workOrder minute d s x w (countedWork minute swapAfter s) := by
  obtain ⟨swap, -, -⟩ := takeTariffBoundary_swapped s
  rcases countedWork_one swapAfter running alone (after s (.inl rfl) false) (after _ (.inr rfl) true) with e | e
  · obtain ⟨swap', -, -⟩ := takeTariffBoundary_swapped (boundaryTimeline minute true false d s)
    rw [e]
    exact ⟨s, _, rfl, swap', .inl ⟨rfl, rfl, rfl⟩⟩
  · rw [e]
    exact ⟨_, _, swap, rfl, .inr ⟨rfl, rfl, rfl⟩⟩

/-- The tariffs once the tariff unit has taken the boundary around work that leaves the slots and the tariff unit. -/
theorem workOrder_meters {minute : Nat} {d : Fin 64} {s x w y : State} (h : workOrder minute d s x w y)
    (slots : w.store.slots = x.store.slots) (tariffs : w.tariffs = x.tariffs) :
    tariffSwapped s y ∧ ∀ k : Fin 1024, y.tariffs.meters[k] = bandSet s.store.slots[k] s.tariffs.meters[k] y := by
  obtain ⟨-, -, ⟨rfl, -, rfl⟩ | ⟨rfl, -, rfl⟩⟩ := h
  · obtain ⟨-, swapped, meters⟩ := takeTariffBoundary_swapped w
    refine ⟨tariffSwapped_congr swapped (by rw [tariffs]) rfl, fun k => ?_⟩
    rw [meters k, slots, tariffs]
  · obtain ⟨-, swapped, meters⟩ := takeTariffBoundary_swapped s
    refine ⟨tariffSwapped_congr swapped rfl tariffs, fun k => ?_⟩
    rw [tariffs, meters k]
    exact (bandSet_congr _ _ (by rw [tariffs])).symm

/-- The meter that the store finds. -/
theorem workOrder_meter {minute : Nat} {d : Fin 64} {s x w y : State} (h : workOrder minute d s x w y) (n : Fin 1024) :
    x.tariffs.meters[n] = { s.tariffs.meters[n] with startBand := x.tariffs.meters[n].startBand } := by
  obtain ⟨-, -, ⟨rfl, -, -⟩ | ⟨rfl, -, -⟩⟩ := h
  · rfl
  · obtain ⟨-, -, meters⟩ := takeTariffBoundary_swapped s
    rw [meters n]
    unfold bandSet
    split
    · rfl
    · rfl

end Sys2Proof.Machine
end

section
/-! ### The work of the store where the head of one timeline closes (O39) -/

namespace Sys2Proof.Machine

/-- R53, R56: head n of d is on air and has come to its final end; `rest` are the members behind it. -/
structure headEnds (minute : Nat) (d : Fin 64) (n : Fin 1024) (rest : List (Fin 1024)) (s : State) : Prop where
  place : headAt d n rest s
  onAir : slotOnAir s.store.slots[n] = true
  ends : finalEnd s.store.slots[n] = minute

/-- R53, step 3: booking k starts in `minute`. -/
def startsAt (minute : Nat) (k : Fin 1024) (s : State) : Prop :=
  s.store.slots[k].state = .accepted ∧ s.store.slots[k].start = minute

theorem headEnds_congr {minute : Nat} {d : Fin 64} {n : Fin 1024} {rest : List (Fin 1024)} {s x : State}
    (h : headEnds minute d n rest s) (same : x.store = s.store) : headEnds minute d n rest x := by
  obtain ⟨⟨members, once, port, taken⟩, onAir, ends⟩ := h
  exact ⟨⟨same ▸ members, once, same ▸ port, same ▸ taken⟩, same ▸ onAir, same ▸ ends⟩

section
variable {minute : Nat} {d : Fin 64} {n : Fin 1024} {rest : List (Fin 1024)} {s x : State}

theorem boundaryHead_closes (counted : Bool) (h : headEnds minute d n rest x) :
    boundaryHead minute counted d x = boundaryClose n minute counted x := by
  simp only [boundaryHead, headOf_cons h.place.members, h.onAir, h.ends, and_self, if_true]

/-- The timeline of a head that has left it. -/
theorem left_members {c : State} (store : c.store = { x.store with timelines := x.store.timelines.set d rest }) :
    c.store.timelines[d] = rest := by
  rw [store]
  exact (getFin_set ..).trans (if_pos rfl)

/-- R53: no member takes over behind the close. -/
theorem boundaryTimeline_closes (swapped : Bool) (h : headEnds minute d n rest x) (free : linkFree x)
    (tidy : x.tickets.inFlight = none → x.tickets.waiting = []) (last : ∀ k, rest.head? = some k → ¬startsAt minute k x) :
    boundaryTimeline minute true swapped d x = boundaryClose n minute true x := by
  obtain ⟨-, closed⟩ := boundaryClose_step minute h.place free tidy
  rw [boundaryTimeline, boundaryHead_closes true h]
  refine boundaryStart_stays swapped fun k head starts => last k ?_ ?_
  · rwa [left_members closed.store] at head
  · rw [closed.store] at starts
    exact starts

/-- R53, R57: the next member takes over behind the close. -/
theorem boundaryTimeline_follows (swapped : Bool) (h : headEnds minute d n rest x) (free : linkFree x)
    (tidy : x.tickets.inFlight = none → x.tickets.waiting = []) {k : Fin 1024} (head : rest.head? = some k)
    (starts : startsAt minute k x) : boundaryTimeline minute true swapped d x =
      activate k minute { minute := minute, second := 0 }
        (if swapped then currentBand minute (boundaryClose n minute true x) else none) (boundaryClose n minute true x) := by
  obtain ⟨-, closed⟩ := boundaryClose_step minute h.place free tidy
  have begun : headOf d (boundaryClose n minute true x) = some k := by
    rw [headOf, left_members closed.store, head]
  have now : startsAt minute k (boundaryClose n minute true x) := by
    rw [startsAt, closed.store]
    exact starts
  rw [boundaryTimeline, boundaryHead_closes true h]
  simp only [boundaryStart, begun]
  exact if_pos now

/-- The other timelines have nothing due once the head of d has left. -/
theorem left_alone {c : State} (h : headEnds minute d n rest x)
    (store : c.store = { x.store with timelines := x.store.timelines.set d rest }) {e : Fin 64} (other : e ≠ d)
    (alone : ¬dueAt minute e x) : ¬dueAt minute e c := by
  refine stays_idle (.inl ⟨h.onAir, h.ends⟩) ?_ (fun k _ => by rw [store]) alone
  rw [store]
  exact (getFin_set ..).trans (if_neg (Ne.symm other))

theorem follows_alone {c y : State} {k : Fin 1024} {b : Slot} (starts : startsAt minute k c)
    (store : y.store = { c.store with slots := c.store.slots.set k b }) {e : Fin 64} (alone : ¬dueAt minute e c) :
    ¬dueAt minute e y := by
  refine stays_idle (.inr (.inr starts)) (by rw [store]) (fun j hj => ?_) alone
  rw [store]
  exact (getFin_set ..).trans (if_neg (Ne.symm hj))

/-- Where the head of d closes, the other timelines have nothing due after it. -/
theorem closes_alone (swapped : Bool) (h : headEnds minute d n rest x) (free : linkFree x)
    (tidy : x.tickets.inFlight = none → x.tickets.waiting = []) (alone : ∀ e, e ≠ d → ¬dueAt minute e x) (e : Fin 64)
    (other : e ≠ d) : ¬dueAt minute e (boundaryTimeline minute true swapped d x) := by
  obtain ⟨step, closed⟩ := boundaryClose_step minute h.place free tidy
  have left := left_alone h closed.store other (alone e other)
  by_cases last : ∀ k, rest.head? = some k → ¬startsAt minute k x
  · rw [boundaryTimeline_closes swapped h free tidy last]
    exact left
  · obtain ⟨k, head, starts⟩ : ∃ k, rest.head? = some k ∧ startsAt minute k x := by
      simpa only [not_forall, not_not, exists_prop] using last
    rw [boundaryTimeline_follows swapped h free tidy head starts]
    have now : startsAt minute k (boundaryClose n minute true x) := by
      rw [startsAt, closed.store]
      exact starts
    obtain ⟨-, store, -⟩ := activate_step (n := k) minute { minute := minute, second := 0 }
      (if swapped then currentBand minute (boundaryClose n minute true x) else none) rfl
      (boundaryMoved_free step.moved free) (fun idle => absurd idle (closeStep_flight step))
    exact follows_alone now store left

/-! ### The close, with the tariff unit around it -/

/-- R48, R160: what is handed over is told by the state before, and by the tariff unit before or after the boundary. -/
theorem raiseTold_of {w y : State} (order : workOrder minute d s x w y) (place : headAt d n rest x)
    (tariffs : w.tariffs = { x.tariffs with meters := w.tariffs.meters })
    (meter : w.tariffs.meters[n] = x.tariffs.meters[n]) : raiseTold minute n (headRaise n minute x) s y := by
  obtain ⟨alike, -⟩ := workOrder_alike order
  obtain ⟨fields, ticket⟩ := headRaise_told (minute := minute) place (by rw [alike.store]) (workOrder_meter order n)
  refine ⟨rfl, rfl, rfl, fields, ?_⟩
  obtain ⟨-, -, ⟨same, -, -⟩ | ⟨-, -, same⟩⟩ := order
  · left
    subst same
    exact ticket
  · right
    subst same
    exact onAirTicket_congr ticket rfl tariffs meter

/-- R56, R57, R149, R155: a boundary after its tick hands over the close of head n, and the book, the tariff unit and the
accounts have followed; `ws` are the record writes made behind it. -/
structure closeCounted (minute : Nat) (n : Fin 1024) (r : Raise) (ws : List HostWrite) (s y : State) : Prop where
  step : closeStep r ws s y
  told : raiseTold minute n r s y
  added : closeAdded r s y
  swapped : tariffSwapped s y

theorem closeAdded_between {r : Raise} {s v w t : State} (before : v.accounts = s.accounts) (h : closeAdded r v w)
    (after : t.accounts = w.accounts) : closeAdded r s t := by
  unfold closeAdded accountOf at *
  rw [after, ← before]
  exact h

/-- What the store finds, with the tariff unit as it stands. -/
theorem around_ready (before : x = { s with tariffs := x.tariffs }) (free : linkFree s)
    (tidy : s.tickets.inFlight = none → s.tickets.waiting = []) :
    linkFree x ∧ (x.tickets.inFlight = none → x.tickets.waiting = []) ∧ x.store = s.store := by
  rw [before]
  exact ⟨free, tidy, rfl⟩

theorem taken_tariffs (h : x = s ∨ x = takeTariffBoundary s) : x = { s with tariffs := x.tariffs } := by
  rcases h with rfl | rfl
  · rfl
  · exact (takeTariffBoundary_swapped s).1

/-- The work of a boundary at which a head closes, with the tariff unit around it. -/
theorem countedWork_ending (swapAfter : Nat) (h : headEnds minute d n rest s) (free : linkFree s)
    (tidy : s.tickets.inFlight = none → s.tickets.waiting = []) (running : s.link.run = .running)
    (alone : ∀ e, e ≠ d → ¬dueAt minute e s) : ∃ x w, workOrder minute d s x w (countedWork minute swapAfter s) ∧
      headEnds minute d n rest x ∧ linkFree x ∧ (x.tickets.inFlight = none → x.tickets.waiting = []) := by
  obtain ⟨x, w, order⟩ := countedWork_ordered swapAfter running alone fun x either swapped => by
    obtain ⟨freeX, tidyX, same⟩ := around_ready (taken_tariffs either) free tidy
    exact closes_alone swapped (headEnds_congr h same) freeX tidyX fun e he => by
      rw [dueAt_congr same]
      exact alone e he
  obtain ⟨freeX, tidyX, same⟩ := around_ready order.before free tidy
  exact ⟨x, w, order, headEnds_congr h same, freeX, tidyX⟩

theorem successor_starts : (rest.head?.any fun k =>
    decide (x.store.slots[k].state = .accepted ∧ x.store.slots[k].start = minute)) = true ↔
    ∃ k, rest.head? = some k ∧ startsAt minute k x := by
  cases rest.head? with
  | none => simp
  | some k => simp [startsAt]

/-- R136, R140: the meters once a member has taken over at state c and the tariff unit has taken the boundary. -/
theorem workOrder_activation {c w y : State} {k : Fin 1024} {band : Option Band} {b : Slot}
    (order : x = s ∧ band = none ∧ y = takeTariffBoundary w ∨
      x = takeTariffBoundary s ∧ band = currentBand minute c ∧ y = w)
    (off : slotOnAir s.store.slots[k] = false) (slotsC : c.store.slots = s.store.slots) (tariffsC : c.tariffs = x.tariffs)
    (slots : w.store.slots = c.store.slots.set k { b with state := .active, activation := some minute })
    (tariffs : w.tariffs = { c.tariffs with meters := c.tariffs.meters.set k { c.tariffs.meters[k] with
      firstCounted := some { minute := minute, second := 0 }
      startBand := band } }) : activationMeters minute k s y := by
  rcases order with ⟨rfl, rfl, rfl⟩ | ⟨same, rfl, rfl⟩
  · exact activationMeters_congr (swapped_after_activation slots tariffs) slotsC tariffsC rfl
  · refine swapped_before_activation same.symm off ?_
    rw [tariffs, currentBand, tariffsC]
    rfl

/-- R57: the work of a boundary at which a head closes and no member takes over. -/
theorem countedWork_closes (swapAfter : Nat) (h : headEnds minute d n rest s) (free : linkFree s)
    (tidy : s.tickets.inFlight = none → s.tickets.waiting = []) (running : s.link.run = .running)
    (alone : ∀ e, e ≠ d → ¬dueAt minute e s) (last : ∀ k, rest.head? = some k → ¬startsAt minute k s) :
    let y := countedWork minute swapAfter s
    ∃ r, closeCounted minute n r [] s y ∧ y.store = { s.store with timelines := s.store.timelines.set d rest } ∧
    y.rows = blackAsked d s ∧ sourcesTold s y ∧
    ∀ k : Fin 1024, y.tariffs.meters[k] = bandSet s.store.slots[k] s.tariffs.meters[k] y := by
  intro y
  obtain ⟨x, w, order, ends, freeX, tidyX⟩ := countedWork_ending swapAfter h free tidy running alone
  obtain ⟨before, after, tickets, -⟩ := workOrder_alike order
  obtain ⟨step, closed⟩ := boundaryClose_step minute ends.place freeX tidyX
  have lastX : ∀ k, rest.head? = some k → ¬startsAt minute k x := by
    unfold startsAt
    rw [before.store]
    exact last
  have work : w = boundaryClose n minute true x := by
    obtain ⟨-, -, ⟨-, e, -⟩ | ⟨-, e, -⟩⟩ := order
    · rw [e, boundaryTimeline_closes false ends freeX tidyX lastX]
    · rw [e, boundaryTimeline_closes true ends freeX tidyX lastX]
  rw [← work] at step closed
  obtain ⟨swapped, meters⟩ := workOrder_meters order (by rw [closed.store]) closed.tariffs
  have told := raiseTold_of order ends.place (by rw [closed.tariffs]) (by rw [closed.tariffs])
  refine ⟨_, ⟨closeStep_around order.before step order.after, told,
    closeAdded_between before.accounts closed.added after.accounts, swapped⟩, ?_, ?_,
    sourcesTold_alike before closed.told after, meters⟩
  · rw [after.store, closed.store, before.store]
  · rw [after.rows, closed.rows, rowsAfterClose, if_neg (mt successor_starts.1 (not_exists.2 fun k => not_and.2 (lastX k)))]
    simp only [blackAsked, before.rows]

/-- R57, R54: the work of a boundary at which a head closes and member k takes over. -/
theorem countedWork_follows (swapAfter : Nat) (h : headEnds minute d n rest s) (free : linkFree s)
    (tidy : s.tickets.inFlight = none → s.tickets.waiting = []) (running : s.link.run = .running)
    (alone : ∀ e, e ≠ d → ¬dueAt minute e s) {k : Fin 1024} (head : rest.head? = some k) (starts : startsAt minute k s) :
    let y := countedWork minute swapAfter s
    let cleared : Store := { s.store with timelines := s.store.timelines.set d rest }
    ∃ r, closeCounted minute n r [recordWrite s k 20 (le 4 minute), recordWrite s k 0 [4]] s y ∧
    y.store = { cleared with slots := s.store.slots.set k { s.store.slots[k] with
      state := .active
      activation := some minute } } ∧
    (s.store.slots[k].port = d → y.rows = s.rows.set d (rowActivated s.store.slots[k] s s.rows[d])) ∧
    takenOver cleared s y ∧ activationMeters minute k s y := by
  intro y cleared
  obtain ⟨x, w, order, ends, freeX, tidyX⟩ := countedWork_ending swapAfter h free tidy running alone
  obtain ⟨before, after, tickets, link⟩ := workOrder_alike order
  obtain ⟨step, closed⟩ := boundaryClose_step minute ends.place freeX tidyX
  have startsX : startsAt minute k x := by
    unfold startsAt
    rw [before.store]
    exact starts
  have other : k ≠ n := fun same => ends.place.once (same ▸ List.mem_of_mem_head? head)
  obtain ⟨band, work, ordered⟩ : ∃ band, w = activate k minute { minute := minute, second := 0 } band
      (boundaryClose n minute true x) ∧ (x = s ∧ band = none ∧ y = takeTariffBoundary w ∨
        x = takeTariffBoundary s ∧ band = currentBand minute (boundaryClose n minute true x) ∧ y = w) := by
    obtain ⟨-, -, ⟨same, e, taken⟩ | ⟨same, e, taken⟩⟩ := order
    · exact ⟨_, e.trans (boundaryTimeline_follows false ends freeX tidyX head startsX), .inl ⟨same, rfl, taken⟩⟩
    · exact ⟨_, e.trans (boundaryTimeline_follows true ends freeX tidyX head startsX), .inr ⟨same, rfl, taken⟩⟩
  generalize boundaryClose n minute true x = c at *
  obtain ⟨e, portC⟩ : ∃ e, c.store.slots[k].port = e := ⟨_, rfl⟩
  obtain ⟨stepA, storeA, tariffsA, rowsA, accountsA, toldA⟩ :=
    activate_step (n := k) minute { minute := minute, second := 0 } band (s := c) portC (boundaryMoved_free step.moved freeX)
      (fun idle => absurd idle (closeStep_flight step))
  rw [← work] at stepA storeA tariffsA rowsA accountsA toldA
  have slotsC : c.store.slots = s.store.slots := by rw [closed.store, before.store]
  have off : slotOnAir s.store.slots[k] = false := by rw [slotOnAir, starts.1]
  have meters := workOrder_activation ordered off slotsC closed.tariffs (congrArg Store.slots storeA) tariffsA
  have told := raiseTold_of order ends.place (by rw [tariffsA, closed.tariffs]) (by
    rw [tariffsA, closed.tariffs]
    exact (getFin_set ..).trans (if_neg other))
  have stands : rowsAfterClose minute d rest x = x.rows := if_pos (successor_starts.2 ⟨k, head, startsX⟩)
  have writes : ∀ offset bytes, recordWrite c k offset bytes = recordWrite s k offset bytes := fun offset bytes => by
    rw [recordWrite, recordWrite, closed.store, before.store]
  rw [writes, writes] at stepA
  have monitors : c.monitors = s.monitors := (boundaryMoved_link step.moved).2.2.2.2.2.2.1.trans before.monitors
  have rowsC : c.rows = s.rows := closed.rows.trans (stands.trans before.rows)
  refine ⟨_, ⟨closeStep_around order.before (closeStep_storeStep step stepA) order.after, told,
    closeAdded_between before.accounts closed.added (after.accounts.trans accountsA), meters.1⟩, ?_, fun port => ?_,
    takenOver_of (by rw [closed.store, before.store]) rowsC monitors (sourcesTold_alike before closed.told ?_)
      (sourcesTold_alike ?_ toldA after), meters⟩
  · rw [after.store, storeA, closed.store, before.store]
  · have slotC : c.store.slots[k] = s.store.slots[k] := by rw [slotsC]
    obtain rfl : e = d := by rw [← portC, slotC, port]
    rw [after.rows, rowsA, rowsC, slotC]
    unfold rowActivated
    rw [monitors]
  · exact booksAlike_tickets (ticketsMoved_refl c)
  · exact booksAlike_tickets (ticketsMoved_refl c)

end

end Sys2Proof.Machine
end

section
/-! ### An OVERRUN, a held close, and a close with its ticket at the boundary (O39) -/

namespace Sys2Proof.Machine

/-! ### A close held for the count of its last second (R58) -/

section
variable {minute : Nat} {d : Fin 64} {n : Fin 1024} {rest : List (Fin 1024)} {s : State}

theorem rowsAfterClose_last (last : ∀ k, rest.head? = some k → ¬startsAt minute k s) :
    rowsAfterClose minute d rest s = blackAsked d s :=
  if_neg (mt successor_starts.1 (not_exists.2 fun k => not_and.2 (last k)))

/-- R56, R57, R58: the head closes ahead of the tick, and is held. -/
theorem holdClose_step (h : headEnds minute d n rest s) (last : ∀ k, rest.head? = some k → ¬startsAt minute k s) :
    let y := boundaryTimeline minute false false d s
    storeStep [] s y ∧ y.tickets = s.tickets ∧ y.rows = blackAsked d s ∧ y.tariffs = s.tariffs ∧ sourcesTold s y ∧
    y.accounts = s.accounts ∧ y.store = { s.store with
      timelines := s.store.timelines.set d rest
      holds := s.store.holds ++ [{ slot := n, closeMinute := minute, counted := false }] } := by
  intro y
  obtain ⟨worked, store, rows, tariffs, told, tickets, writes, grown, accounts⟩ := beginClose_head minute h.place
  have held : boundaryClose n minute false s = holdClose n minute (beginClose n minute s) := rfl
  have stays : boundaryStart minute false d (holdClose n minute (beginClose n minute s)) =
      holdClose n minute (beginClose n minute s) := by
    have left : (beginClose n minute s).store.timelines[d] = rest := left_members store
    have slots : (holdClose n minute (beginClose n minute s)).store.slots = s.store.slots :=
      (congrArg Store.slots store :)
    refine boundaryStart_stays false fun k head starts => last k ?_ ?_
    · rwa [show (holdClose n minute (beginClose n minute s)).store.timelines[d] = rest from left] at head
    · rwa [slots] at starts
  have run : y = holdClose n minute (beginClose n minute s) := by
    refine Eq.trans ?_ stays
    rw [← held, ← boundaryHead_closes false h]
    rfl
  rw [rowsAfterClose_last last] at rows
  rw [run]
  generalize beginClose n minute s = u at *
  refine ⟨⟨boundaryMoved_trans (boundaryMoved_store worked) ⟨rfl, fun _ _ => rfl⟩, ⟨fun _ => ⟨tickets, ?_⟩, fun _ => ⟨writes, ?_⟩⟩,
    grown⟩, tickets, rows, tariffs, sourcesTold_around told rfl rfl rfl rfl rfl rfl rfl rfl rfl, accounts, ?_⟩
  · rw [List.append_nil]
    exact writes
  · rw [List.map_nil, List.append_nil]
    exact tickets
  · rw [holdClose, store]

/-- R57: where a close is held, the other timelines have nothing due after it. -/
theorem holdClose_alone (h : headEnds minute d n rest s) (last : ∀ k, rest.head? = some k → ¬startsAt minute k s)
    (alone : ∀ e, e ≠ d → ¬dueAt minute e s) (e : Fin 64) (other : e ≠ d) :
    ¬dueAt minute e (boundaryTimeline minute false false d s) := by
  obtain ⟨-, -, -, -, -, -, store⟩ := holdClose_step h last
  refine stays_idle (.inl ⟨h.onAir, h.ends⟩) ?_ (fun k _ => by rw [store]) (alone e other)
  rw [store]
  exact (getFin_set ..).trans (if_neg (Ne.symm other))

end

/-! ### The slot of the ring read for the one close of a boundary (R161, R166) -/

/-- R161, R166: the read for a close of a boundary with nothing else left: the close ends, and the page logic takes what it was
owed. -/
theorem ticketRead_paged {r : Raise} {ring : Ring} {t : State} (state : Byte) (free : linkFree t)
    (placed : t.tickets.ring = some ring) (flight : t.tickets.inFlight = some (.raise r)) (waiting : t.tickets.waiting = [])
    (boundary : r.forOrder = false) (holds : t.store.holds = []) (recheck : t.tickets.recheckIn = none) : ∃ u v,
      closeTaken (state != 0) r ring t u ∧ exec (.ticketSlotReadComplete state) t = .next v ∧ v = withPage v u ∧
      v.link.pageTicks = [] ∧ owedPaged t.link.pageTicks u v := by
  obtain ⟨u, closed, taken⟩ := raiseRead_taken r (state == 0) free placed
  have lost : (!(state == 0)) = (state != 0) := rfl
  rw [lost] at closed
  rw [boundary, if_neg Bool.false_ne_true] at taken
  have frame := closed.2.2.1
  have ended : u.tickets.inFlight = none ∧ u.tickets.waiting = [] ∧ u.tickets.recheckIn = none ∧ u.store.holds = [] ∧
      u.link.pageTicks = t.link.pageTicks := by
    rw [frame]
    exact ⟨rfl, waiting, recheck, holds, rfl⟩
  obtain ⟨idle, waits, recheckU, holdsU, ticks⟩ := ended
  have ran : exec (.ticketSlotReadComplete state) t = .next (settlePage u) := by
    have read : ticketSlotRead state t = pumpWaiting u := by
      simp only [ticketSlotRead, flight, taken]
    have nothing : pumpWaiting u = u := by
      rw [pumpWaiting, waits]
      show { u with tickets := { u.tickets with waiting := [] } } = u
      rw [← waits]
    rw [nothing] at read
    rw [← read]
    exact exec_live free.1 (by simp) (by simp)
  obtain ⟨page, paged⟩ := settlePage_taken u
  have nothing : outstanding (settlePage u) = [] := by
    rw [outstanding]
    simp [idle, waits]
  have ready : ∀ e, pageReady (settlePage u) e = true := fun e => by
    simp [pageReady, boundaryCloses, waitingWrites, recheckWaits, nothing, recheckU, holdsU]
  refine ⟨u, settlePage u, closed, ran, page, ?_, ticks ▸ paged⟩
  rw [paged.1]
  exact List.dropWhile_eq_nil_iff.2 fun e _ => ready e

/-! ### From the work of the store to the end of the boundary -/

theorem raiseTold_between {minute : Nat} {n : Fin 1024} {r : Raise} {s v w t : State} (store : v.store = s.store)
    (before : v.tariffs = s.tariffs) (h : raiseTold minute n r v w) (after : t.tariffs = w.tariffs) :
    raiseTold minute n r s t := by
  obtain ⟨slot, closed, boundary, fields, ticket⟩ := h
  refine ⟨slot, closed, boundary, ?_, ?_⟩
  · unfold meterFields at *
    rw [← before]
    exact fields
  · rw [after]
    refine ticket.imp (fun k => ?_) fun k => ?_
    · exact onAirTicket_congr k (by rw [store]) (by rw [before]) (by rw [before])
    · exact onAirTicket_congr k (by rw [store]) rfl rfl

/-- R163: the boundary ahead of its tick, at which a close is held: a re-check that waits for closes waits for it. -/
theorem early_held {after : Nat} {s v y t : State} (due : recheckDue s) (opened : recheckOpened after s v)
    (step : storeStep [] v y) (tickets : y.tickets = v.tickets) (holds : y.store.holds ≠ []) (closed : recheckClosed y t)
    (waits : after ≠ 0) : t.tickets = { s.tickets with recheckIn := some after } ∧ hostWrites t = hostWrites s := by
  refine ⟨(closed.rest (.inr holds)).trans (tickets.trans (opened.later due waits)), closed.writes.trans ?_⟩
  rw [← opened.writes]
  by_cases idle : v.tickets.inFlight = none
  · rw [(step.written.1 idle).2, List.append_nil]
  · exact (step.written.2 idle).1

end Sys2Proof.Machine
end

section
/-! ### The end of a booking at the boundary (O39) -/

namespace Sys2Proof.Machine

theorem boundaryWorked_free {minute : BitVec 32} {clockSet : Bool} {s t : State} (h : boundaryWorked minute clockSet s t)
    (free : linkFree s) : linkFree t := storeWorked_free h (by exact free)

/-- What a boundary finds, with the time that it has rolled set aside. -/
theorem booksAlike_clock {clock : Clock} {s v : State} (h : booksAlike { s with clock := clock } v) : booksAlike s v :=
  ⟨h.store, h.rows, h.accounts, h.monitors, h.alarm, h.flags, h.permissions⟩

section
variable {minute : BitVec 32} {clockSet : Bool} {swapAfter after : Nat} {d : Fin 64} {n : Fin 1024}
  {rest : List (Fin 1024)} {s : State}

/-- R53, R55: the boundary after its tick, at which a head enters OVERRUN. -/
theorem boundary_overruns (free : linkFree s) (tidy : s.tickets.inFlight = none → s.tickets.waiting = [])
    (running : s.link.run = .running) (head : s.store.timelines[d].head? = some n) (alone : ∀ e, e ≠ d → ¬dueAt minute.toNat e s)
    (active : s.store.slots[n].state = .active) (ends : bookedEnd s.store.slots[n] = minute.toNat)
    (extended : 0 < s.store.slots[n].extension) :
    let t := boundaryAfterTick minute clockSet swapAfter after s
    overrunAt n s t ∧ boundaryWorked minute clockSet s t ∧ tariffSwapped s t ∧ boundaryPaged minute s t ∧
    (∀ k : Fin 1024, t.tariffs.meters[k] = bandSet s.store.slots[k] s.tariffs.meters[k] t) ∧
    rechecked after [recordWrite s n 0 [5]] s t := by
  intro t
  have opened := openRecheck_opened after (s := timeRolled minute clockSet s) (free_gate free) tidy
  obtain ⟨v, found⟩ : ∃ v, openRecheck after (timeRolled minute clockSet s) = v := ⟨_, rfl⟩
  rw [found] at opened
  obtain ⟨freeV, tidyV, alike, tariffsV, runV⟩ := recheckOpened_found opened free tidy
  have same : v.store = s.store := alike.store
  obtain ⟨step, overrun, swapped, meters⟩ := countedWork_overruns (s := v) (minute := minute.toNat) swapAfter freeV tidyV
    (runV.trans running) (same ▸ head) (same ▸ active) (same ▸ ends) (same ▸ extended)
    (fun e he => by rw [dueAt_congr same]; exact alone e he)
  have write : recordWrite v n 0 [5] = recordWrite s n 0 [5] := by rw [recordWrite, recordWrite, same]
  rw [write] at step
  obtain ⟨last, tariffs, recheck, worked, paged⟩ := counted_done free tidy found rfl step (by rw [overrun.store, same])
  refine ⟨overrunAt_alike (booksAlike_clock alike) overrun last, worked, tariffSwapped_congr swapped (by rw [tariffsV]; rfl) tariffs, paged,
    fun k => ?_, recheck⟩
  rw [tariffs, meters k, same, tariffsV]
  exact (bandSet_congr _ _ (by rw [tariffs])).symm

/-- R53, R55: the boundary ahead of its tick, at which a head enters OVERRUN. -/
theorem early_overruns (free : linkFree s) (tidy : s.tickets.inFlight = none → s.tickets.waiting = [])
    (running : s.link.run = .running) (head : s.store.timelines[d].head? = some n)
    (alone : ∀ e, e ≠ d → ¬dueAt (s.clock.minute + 1).toNat e s) (active : s.store.slots[n].state = .active)
    (ends : bookedEnd s.store.slots[n] = (s.clock.minute + 1).toNat) (extended : 0 < s.store.slots[n].extension) :
    let t := boundaryBeforeTick after s
    overrunAt n s t ∧ earlyBoundaryWorked (s.clock.minute + 1) s t ∧ t.tariffs = s.tariffs ∧
    rechecked after [recordWrite s n 0 [5]] s t := by
  intro t
  have opened := openRecheck_opened after (s := timeAhead s) (free_gate free) tidy
  obtain ⟨v, found⟩ : ∃ v, openRecheck after (timeAhead s) = v := ⟨_, rfl⟩
  rw [found] at opened
  obtain ⟨freeV, tidyV, alike, tariffsV, -⟩ := recheckOpened_found opened free tidy
  have same : v.store = s.store := alike.store
  have aloneV : ∀ e, e ≠ d → ¬dueAt (s.clock.minute + 1).toNat e v := fun e he => by
    rw [dueAt_congr same]
    exact alone e he
  have work : storeTimelines true (s.clock.minute + 1).toNat false false (List.finRange 64) v = enterOverrun n v := by
    rw [earlyWork_one aloneV (overruns_alone false false rfl freeV tidyV (same ▸ head) (same ▸ active) (same ▸ ends)
      (same ▸ extended) aloneV),
      boundaryTimeline_overruns false false freeV tidyV (same ▸ head) (same ▸ active) (same ▸ ends) (same ▸ extended)]
  obtain ⟨step, overrun, tariffsY⟩ := enterOverrun_step n freeV tidyV
  have write : recordWrite v n 0 [5] = recordWrite s n 0 [5] := by rw [recordWrite, recordWrite, same]
  have tariffsY := tariffsY.trans tariffsV
  rw [write] at step
  obtain ⟨-, recheck, last, tariffs, worked⟩ := early_done free tidy running found work step (by rw [tariffsY]; rfl)
  exact ⟨overrunAt_alike (booksAlike_clock alike) overrun last, worked, tariffs.trans tariffsY,
    recheck fun _ => (congrArg Store.holds overrun.store).trans (by rw [same])⟩

/-- R53, R58: the boundary ahead of its tick, at which a head closes and no member takes over. -/
theorem early_holds (free : linkFree s) (tidy : s.tickets.inFlight = none → s.tickets.waiting = [])
    (running : s.link.run = .running) (h : headEnds (s.clock.minute + 1).toNat d n rest s)
    (last : ∀ k, rest.head? = some k → ¬startsAt (s.clock.minute + 1).toNat k s)
    (alone : ∀ e, e ≠ d → ¬dueAt (s.clock.minute + 1).toNat e s) :
    let t := boundaryBeforeTick after s
    t.store = { s.store with
      timelines := s.store.timelines.set d rest
      holds := s.store.holds ++ [{ slot := n, closeMinute := (s.clock.minute + 1).toNat, counted := false }] } ∧
    t.rows = blackAsked d s ∧ sourcesTold s t ∧ t.tariffs = s.tariffs ∧ t.accounts = s.accounts ∧
    earlyBoundaryWorked (s.clock.minute + 1) s t ∧ (after = 0 → rechecked 0 [] s t) ∧
    (after ≠ 0 → t.tickets = { s.tickets with recheckIn := some after } ∧ hostWrites t = hostWrites s) := by
  intro t
  have opened := openRecheck_opened after (s := timeAhead s) (free_gate free) tidy
  obtain ⟨v, found⟩ : ∃ v, openRecheck after (timeAhead s) = v := ⟨_, rfl⟩
  rw [found] at opened
  obtain ⟨freeV, tidyV, alike, tariffsV, -⟩ := recheckOpened_found opened free tidy
  have same : v.store = s.store := alike.store
  have endsV := headEnds_congr h same
  have lastV : ∀ k, rest.head? = some k → ¬startsAt (s.clock.minute + 1).toNat k v := by
    unfold startsAt
    rw [same]
    exact last
  have aloneV : ∀ e, e ≠ d → ¬dueAt (s.clock.minute + 1).toNat e v := fun e he => by
    rw [dueAt_congr same]
    exact alone e he
  have work := earlyWork_one aloneV (holdClose_alone endsV lastV aloneV)
  obtain ⟨step, tickets, rows, tariffsY, told, accounts, store⟩ := holdClose_step endsV lastV
  have tariffsY := tariffsY.trans tariffsV
  obtain ⟨closed, recheck, finished, tariffs, worked⟩ := early_done free tidy running found work step (by rw [tariffsY]; rfl)
  have held : (boundaryTimeline (s.clock.minute + 1).toNat false false d v).store.holds ≠ [] := by
    rw [store]
    simp
  refine ⟨?_, ?_, sourcesTold_alike (booksAlike_clock alike) told finished, tariffs.trans tariffsY,
    finished.accounts.trans (accounts.trans alike.accounts), worked, fun zero => ?_,
    early_held (s := timeAhead s) (free_due free) opened step tickets held closed⟩
  · rw [finished.store, store, same]
  · rw [finished.rows, rows]
    simp only [blackAsked, alike.rows]
    rfl
  · subst zero
    exact recheck fun no => absurd rfl no

/-- R48, R149, R155, R160: from s to t the boundary after its tick has handed over the close r of head n. -/
structure closeAtBoundary (minute : BitVec 32) (clockSet : Bool) (n : Fin 1024) (r : Raise) (s t : State) : Prop where
  told : raiseTold minute.toNat n r s t
  added : closeAdded r s t
  worked : boundaryWorked minute clockSet s t
  swapped : tariffSwapped s t
  paged : boundaryPaged minute s t

/-- R53, R57: the boundary after its tick, at which a head closes and no member takes over. -/
theorem boundary_closes (free : linkFree s) (tidy : s.tickets.inFlight = none → s.tickets.waiting = [])
    (running : s.link.run = .running) (h : headEnds minute.toNat d n rest s) (alone : ∀ e, e ≠ d → ¬dueAt minute.toNat e s)
    (last : ∀ k, rest.head? = some k → ¬startsAt minute.toNat k s) :
    let t := boundaryAfterTick minute clockSet swapAfter after s
    ∃ r, closeAtBoundary minute clockSet n r s t ∧ sourcesTold s t ∧
    t.store = { s.store with timelines := s.store.timelines.set d rest } ∧ t.rows = blackAsked d s ∧
    closedAt after r [] s t ∧
    ∀ k : Fin 1024, t.tariffs.meters[k] = bandSet s.store.slots[k] s.tariffs.meters[k] t := by
  intro t
  have opened := openRecheck_opened after (s := timeRolled minute clockSet s) (free_gate free) tidy
  obtain ⟨v, found⟩ : ∃ v, openRecheck after (timeRolled minute clockSet s) = v := ⟨_, rfl⟩
  rw [found] at opened
  obtain ⟨freeV, tidyV, alike, tariffsV, runV⟩ := recheckOpened_found opened free tidy
  have same : v.store = s.store := alike.store
  have lastV : ∀ k, rest.head? = some k → ¬startsAt minute.toNat k v := by
    unfold startsAt
    rw [same]
    exact last
  obtain ⟨r, ⟨step, told, added, swapped⟩, store, rows, sources, meters⟩ :=
    countedWork_closes swapAfter (headEnds_congr h same) freeV tidyV (runV.trans running)
      (fun e he => by rw [dueAt_congr same]; exact alone e he) lastV
  obtain ⟨finished, tariffs, closed, worked, paged⟩ :=
    counted_closed free tidy found rfl step added (by rw [store, same])
  refine ⟨r, ⟨raiseTold_between same tariffsV told tariffs, closed.2.1, worked,
    tariffSwapped_congr swapped (by rw [tariffsV]; rfl) tariffs, paged⟩,
    sourcesTold_alike (booksAlike_clock alike) sources finished, ?_, ?_, closed, fun k => ?_⟩
  · rw [finished.store, store, same]
  · rw [finished.rows, rows]
    simp only [blackAsked, alike.rows]
    rfl
  · rw [tariffs, meters k, same, tariffsV]
    exact (bandSet_congr _ _ (by rw [tariffs])).symm

/-- R53, R54, R57: the boundary after its tick, at which a head closes and member k takes over. -/
theorem boundary_follows (free : linkFree s) (tidy : s.tickets.inFlight = none → s.tickets.waiting = [])
    (running : s.link.run = .running) (h : headEnds minute.toNat d n rest s) (alone : ∀ e, e ≠ d → ¬dueAt minute.toNat e s)
    {k : Fin 1024} (head : rest.head? = some k) (starts : startsAt minute.toNat k s) :
    let t := boundaryAfterTick minute clockSet swapAfter after s
    let cleared : Store := { s.store with timelines := s.store.timelines.set d rest }
    ∃ r, closeAtBoundary minute clockSet n r s t ∧
    t.store = { cleared with slots := s.store.slots.set k { s.store.slots[k] with
      state := .active
      activation := some minute.toNat } } ∧
    (s.store.slots[k].port = d → t.rows = s.rows.set d (rowActivated s.store.slots[k] s s.rows[d])) ∧
    takenOver cleared s t ∧ activationMeters minute.toNat k s t ∧
    closedAt after r [recordWrite s k 20 (le 4 minute.toNat), recordWrite s k 0 [4]] s t := by
  intro t cleared
  have opened := openRecheck_opened after (s := timeRolled minute clockSet s) (free_gate free) tidy
  obtain ⟨v, found⟩ : ∃ v, openRecheck after (timeRolled minute clockSet s) = v := ⟨_, rfl⟩
  rw [found] at opened
  obtain ⟨freeV, tidyV, alike, tariffsV, runV⟩ := recheckOpened_found opened free tidy
  have same : v.store = s.store := alike.store
  have startsV : startsAt minute.toNat k v := by
    unfold startsAt
    rw [same]
    exact starts
  obtain ⟨r, ⟨step, told, added, swapped⟩, store, rows, overtaken, meters⟩ :=
    countedWork_follows swapAfter (headEnds_congr h same) freeV tidyV (runV.trans running)
      (fun e he => by rw [dueAt_congr same]; exact alone e he) head startsV
  have overtaken : takenOver cleared v (countedWork minute.toNat swapAfter v) := by
    rw [same] at overtaken
    exact overtaken
  have write : ∀ offset bytes, recordWrite v k offset bytes = recordWrite s k offset bytes := fun offset bytes => by
    rw [recordWrite, recordWrite, same]
  rw [write, write] at step
  obtain ⟨finished, tariffs, closed, worked, paged⟩ :=
    counted_closed free tidy found rfl step added (by rw [store, same])
  refine ⟨r, ⟨raiseTold_between same tariffsV told tariffs, closed.2.1, worked,
    tariffSwapped_congr swapped (by rw [tariffsV]; rfl) tariffs, paged⟩, ?_, fun port => ?_,
    takenOver_alike (booksAlike_clock alike) overtaken finished,
    activationMeters_congr meters (by rw [same]) tariffsV tariffs, closed⟩
  · rw [finished.store, store, same]
  · rw [finished.rows, rows (same ▸ port), same]
    unfold rowActivated
    rw [alike.monitors, alike.rows]
    rfl

end

end Sys2Proof.Machine
end

section
/-! ### What the boundary does at the end of a booking, in whichever order (O39) -/

namespace Sys2Proof.Machine

/-- R161, R166: the one close of a boundary, once the slot of the ring has been read: nothing is left for the page logic to
wait for. -/
theorem closedAt_read {minute : BitVec 32} {clockSet : Bool} {n : Fin 1024} {r : Raise} {s t : State} (free : linkFree s)
    (tidy : s.tickets.inFlight = none → s.tickets.waiting = []) (close : closeAtBoundary minute clockSet n r s t)
    (closed : closedAt 0 r [] s t) (holds : t.store.holds = []) (unblocked : s.tickets.blocked = false)
    (idle : s.tickets.inFlight = none) (ring : Ring) (state : Byte) (placed : s.tickets.ring = some ring) : ∃ u v,
      closeTaken (state != 0) r ring t u ∧ exec (.ticketSlotReadComplete state) t = .next v ∧ v = withPage v u ∧
      v.link.pageTicks = [] ∧ owedPaged t.link.pageTicks u v := by
  obtain ⟨-, -, begun, -⟩ := closed
  obtain ⟨-, now⟩ := begun idle (tidy idle)
  have tickets : t.tickets.ring = some ring ∧ t.tickets.inFlight = some (.raise r) ∧ t.tickets.waiting = [] ∧
      t.tickets.recheckIn = none := by
    rw [now]
    simp [unblocked, placed]
  obtain ⟨ringT, flight, waiting, recheck⟩ := tickets
  exact ticketRead_paged state (boundaryWorked_free close.worked free) ringT flight waiting close.told.boundary holds recheck

/-- Settles O39: the head enters OVERRUN, or closes, and then the next member takes over or none does. -/
theorem boundaryEndsBookings : Obligations.BoundaryEndsBookings := by
  intro early swapAfter recheckAfter minute clockSet d n rest s free tidy running members once port alone b starts cleared
  have head : s.store.timelines[d].head? = some n := by rw [members]; rfl
  have place : slotOnAir b = true → headAt d n rest s := fun onAir =>
    ⟨members, once, port, fun out => by rw [slotOnAir, show b.state = .free from out] at onAir; cases onAir⟩
  refine ⟨fun first active ends extended => ?_, fun idle last e active ends extended => ?_,
    fun idle last e onAir ends unfollowed => ?_, fun first onAir ends => ?_⟩
  · obtain ⟨⟨store, rows, accounts, alarm⟩, worked, swapped, paged, meters, recheck⟩ :=
      boundary_overruns (clockSet := clockSet) (swapAfter := swapAfter) (after := recheckAfter) free tidy running head alone
        active ends extended
    exact ⟨_, tickFirst_boundary free.1 first, store, rows, accounts, alarm, worked, swapped, paged, meters, recheck⟩
  · subst e
    obtain ⟨⟨store, rows, accounts, alarm⟩, worked, tariffs, recheck⟩ :=
      early_overruns (after := recheckAfter) free tidy running head alone active ends extended
    exact ⟨_, early_boundary free.1 idle last, store, rows, accounts, alarm, worked, tariffs, recheck⟩
  · subst e
    exact ⟨_, early_boundary free.1 idle last,
      early_holds free tidy running ⟨place onAir, onAir, ends⟩ unfollowed alone⟩
  · have run := tickFirst_boundary (early := early) (swapAfter := swapAfter) (recheckAfter := recheckAfter) free.1 first
    have h : headEnds minute.toNat d n rest s := ⟨place onAir, onAir, ends⟩
    by_cases unfollowed : ∀ k, rest.head? = some k → ¬starts k
    · obtain ⟨r, close, told, store, rows, closed, meters⟩ :=
        boundary_closes (clockSet := clockSet) (swapAfter := swapAfter) (after := recheckAfter) free tidy running h alone
          unfollowed
      obtain ⟨⟨slot, closeMinute, boundary, fields, ticket⟩, added, worked, swapped, paged⟩ := id close
      refine ⟨r, _, run, slot, closeMinute, boundary, fields, ticket, added, worked, swapped, paged,
        fun _ => ⟨told, store, rows, closed, meters, fun zero unblocked idle holds ring state placed => ?_⟩,
        fun k next now => absurd now (unfollowed k next)⟩
      subst zero
      exact closedAt_read free tidy close closed (by rw [store]; exact holds) unblocked idle ring state placed
    · obtain ⟨k, next, now⟩ : ∃ k, rest.head? = some k ∧ starts k := by
        simpa only [not_forall, not_not, exists_prop] using unfollowed
      obtain ⟨r, ⟨⟨slot, closeMinute, boundary, fields, ticket⟩, added, worked, swapped, paged⟩, store, rows, ⟨alarm, flags⟩,
        ⟨-, others, own⟩, closed⟩ :=
        boundary_follows (clockSet := clockSet) (swapAfter := swapAfter) (after := recheckAfter) free tidy running h alone
          next now
      refine ⟨r, _, run, slot, closeMinute, boundary, fields, ticket, added, worked, swapped, paged,
        fun none => absurd now (none k next), fun j next' _ port' => ?_⟩
      obtain rfl : k = j := Option.some.inj (next.symm.trans next')
      exact ⟨store, rows port', alarm, flags, own, others, closed⟩

end Sys2Proof.Machine
end

section
/-! ### What a soft reset completes inside the part leaves as it stands (R14, O31): the accesses -/

namespace Sys2Proof.Machine

/-- From u to s the part has completed work, and its gate is in G: the link has kept its place, the page logic its marks, the
alarm ranking unit its mode, the ring its place, the store the closes it holds and the tariff unit its current table. -/
structure workKept (G : Gate → Prop) (u s : State) : Prop where
  gate : G s.link.gate
  start : s.link.start = u.link.start
  lastStart : s.link.lastStart = u.link.lastStart
  pageCount : s.link.pageCount = u.link.pageCount
  due : u.link.pageDue = true → s.link.pageDue = true
  next : u.link.pageNext = true → s.link.pageNext = true
  mode : s.alarm.mode = u.alarm.mode
  spotlight : s.alarm.spotlight = u.alarm.spotlight
  ring : s.tickets.ring = u.tickets.ring
  holds : s.store.holds = u.store.holds
  tariffs : s.tariffs = { u.tariffs with staged := s.tariffs.staged, meters := s.tariffs.meters }

/-- R14: the writes not let out are dropped. -/
def muted (g : Gate) : Prop := ∃ n, g = .muteAfter n

/-- R14: work completed inside the part by a soft reset. -/
abbrev insideKept (u s : State) : Prop := workKept muted u s

section
variable {G : Gate → Prop} {u s t : State}

/-- Work that leaves the link but for the flags and the traffic. -/
theorem inside_frame (h : workKept G u s)
    (link : ∃ f l, t.link = { s.link with flags := f, log := l })
    (alarm : t.alarm.mode = s.alarm.mode ∧ t.alarm.spotlight = s.alarm.spotlight) (ring : t.tickets.ring = s.tickets.ring)
    (holds : t.store.holds = s.store.holds)
    (tariffs : t.tariffs = { s.tariffs with staged := t.tariffs.staged, meters := t.tariffs.meters }) : workKept G u t := by
  obtain ⟨f, l, link⟩ := link
  refine ⟨?_, ?_, ?_, ?_, ?_, ?_, alarm.1.trans h.mode, alarm.2.trans h.spotlight, ring.trans h.ring, holds.trans h.holds, ?_⟩
  · rw [link]; exact h.gate
  · rw [link]; exact h.start
  · rw [link]; exact h.lastStart
  · rw [link]; exact h.pageCount
  · rw [link]; exact h.due
  · rw [link]; exact h.next
  · rw [tariffs, h.tariffs]

/-- Work that leaves the link, the alarm ranking unit, the ring, the closes held and the tariff unit. -/
theorem inside_plain (h : workKept G u s) (link : t.link = s.link) (alarm : t.alarm = s.alarm)
    (ring : t.tickets.ring = s.tickets.ring) (holds : t.store.holds = s.store.holds) (tariffs : t.tariffs = s.tariffs) :
    workKept G u t :=
  inside_frame h ⟨s.link.flags, s.link.log, link⟩ ⟨by rw [alarm], by rw [alarm]⟩ ring holds (by rw [tariffs])

/-! ### Flags, alarms and accounts -/

theorem setFlags_inside (f : BitVec 7) (h : workKept G u s) : workKept G u (setFlags f s) := by
  rw [setFlags_eq]
  exact inside_frame h ⟨_, _, rfl⟩ ⟨rfl, rfl⟩ rfl rfl rfl

theorem latch_inside (f : Flag) (h : workKept G u s) : workKept G u (latch f s) := by
  unfold latch
  split
  · exact setFlags_inside _ h
  · exact h

/-- New items, in the mode and with the spotlight as they stand. -/
theorem setAlarm_inside {a : Alarm} (mode : a.mode = s.alarm.mode) (spotlight : a.spotlight = s.alarm.spotlight)
    (h : workKept G u s) : workKept G u (setAlarm a s) :=
  setFlags_inside _ (inside_frame (t := { s with alarm := a }) h ⟨_, _, rfl⟩ ⟨mode, spotlight⟩ rfl rfl rfl)

theorem setSeverity_inside (i : Fin 51) (v : Fin 4) (h : workKept G u s) : workKept G u (setSeverity i v s) :=
  setAlarm_inside rfl rfl h

theorem deriveSources_inside (h : workKept G u s) : workKept G u (deriveSources s) := setAlarm_inside rfl rfl h

theorem changeAccount_inside (m : Nat) (f : Account → Account) (h : workKept G u s) : workKept G u (changeAccount m f s) :=
  inside_plain h (by simp) (by simp) (by simp) (by simp) (by simp)

theorem openBooking_inside (m : Nat) (h : workKept G u s) : workKept G u (openBooking m s) :=
  inside_plain h (by simp) (by simp) (by simp) (by simp) (by simp)

theorem loseTicket_inside (m : Option Nat) (h : workKept G u s) : workKept G u (loseTicket m s) := by
  have lost : workKept G u { s with tickets := { s.tickets with lost := s.tickets.lost + 1 } } :=
    inside_plain h rfl rfl rfl rfl rfl
  unfold loseTicket
  refine latch_inside _ ?_
  cases m with
  | none => exact lost
  | some k => exact changeAccount_inside _ _ lost

theorem raiseNumber_inside (h : workKept G u s) : workKept G u (raiseNumber s) := inside_plain h rfl rfl rfl rfl rfl

theorem freeAccountSlot_inside (k : Fin 128) (h : workKept G u s) : workKept G u (freeAccountSlot k s) :=
  inside_plain h rfl rfl rfl rfl rfl

theorem setSlot_inside (n : Fin 1024) (b : Slot) (h : workKept G u s) : workKept G u (setSlot n b s) :=
  inside_plain h rfl rfl rfl rfl rfl

theorem takeClose_inside (r : Raise) (h : workKept G u s) : workKept G u (takeClose r s) := changeAccount_inside _ _ h

theorem loseRaise_inside (r : Raise) (h : workKept G u s) : workKept G u (loseRaise r s) := loseTicket_inside _ h

theorem endClose_inside (r : Raise) (h : workKept G u s) : workKept G u (endClose r s) :=
  setSlot_inside _ _ (changeAccount_inside _ _ h)

theorem closeInside_inside (r : Raise) (h : workKept G u s) : workKept G u (closeInside r s) :=
  endClose_inside r (loseRaise_inside r (raiseNumber_inside h))

/-! ### The link -/

theorem dropAccess_inside (a : Access) (h : workKept G u s) : workKept G u (dropAccess a s) := by
  cases a with
  | raise r => exact closeInside_inside r h
  | closeWrite r => exact endClose_inside r (loseRaise_inside r h)
  | totalWrite k => exact freeAccountSlot_inside k (loseTicket_inside none h)
  | write _ | totalCheck _ _ | recheck | recordRead _ | report _ _ => exact h

/-- R14: a write is let out or dropped, and none is a bus fault. -/
theorem issue_inside (w : HostWrite) (h : insideKept u s) : insideKept u (issue w s) := by
  obtain ⟨n, gate⟩ := h.gate
  unfold issue
  split
  · rw [sendWrite, gate]
    exact ⟨⟨n - 1, rfl⟩, h.start, h.lastStart, h.pageCount, h.due, h.next, h.mode, h.spotlight, h.ring, h.holds, h.tariffs⟩
  · exact h

theorem issueAll_inside (ws : List HostWrite) (h : insideKept u s) : insideKept u (issueAll ws s) :=
  foldl_closed (fun _ w k => issue_inside w k) ws h

theorem issueRead_inside (a : Address) (n : Nat) (h : insideKept u s) : insideKept u (issueRead a n s) := by
  unfold issueRead
  split
  · exact inside_frame h ⟨_, _, rfl⟩ ⟨rfl, rfl⟩ rfl rfl rfl
  · exact h

theorem setGate_inside (n : Nat) (h : insideKept u s) : insideKept u (setGate (.muteAfter n) s) :=
  ⟨⟨n, rfl⟩, h.start, h.lastStart, h.pageCount, h.due, h.next, h.mode, h.spotlight, h.ring, h.holds, h.tariffs⟩

/-! ### The order unit -/

theorem setUnit_inside (x : UnitState) (h : insideKept u s) : insideKept u (setUnit x s) := inside_plain h rfl rfl rfl rfl rfl

theorem setStage_inside (g : Stage) (h : insideKept u s) : insideKept u (setStage g s) := by
  unfold setStage
  split
  · exact setUnit_inside _ h
  · exact h
  · exact h
  · exact h

/-- R28: the state byte of an order that a soft reset ends is not written, and the order is not done. -/
theorem report_inside (notify : Bool) (outcome : OutcomeCode) (result : List Byte) (h : insideKept u s) :
    insideKept u (report notify outcome result s) := by
  have written := issueAll_inside (reportWrites s outcome result) (setUnit_inside .reporting h)
  obtain ⟨n, gate⟩ := written.gate
  have ends : softResetting (issueAll (reportWrites s outcome result) (setUnit .reporting s)) = true := by
    rw [softResetting, gate]
  unfold report
  rw [if_pos ends]
  exact written

theorem finishOrder_inside (outcome : OutcomeCode) (result : List Byte) (h : insideKept u s) :
    insideKept u (finishOrder outcome result s) := by
  unfold finishOrder
  split
  · exact h
  · exact report_inside _ _ _ h
  · exact report_inside _ _ _ h
  · exact report_inside _ _ _ h
  · exact h
  · exact h
  · exact h

theorem entryRead_inside (bytes : Vector Byte 24) (h : insideKept u s) : insideKept u (entryRead bytes s) := by
  unfold entryRead examineEntry
  split
  · split
    · exact report_inside _ _ _ h
    · split
      · exact report_inside _ _ _ h
      · exact setUnit_inside _ h
  · exact h

/-! ### The accesses to the book and the ring -/

theorem setInFlight_inside (a : Option Access) (h : insideKept u s) : insideKept u (setInFlight a s) :=
  inside_plain h rfl rfl rfl rfl rfl

theorem setWaiting_inside (l : List Access) (h : insideKept u s) : insideKept u (setWaiting l s) :=
  inside_plain h rfl rfl rfl rfl rfl

theorem unblockRing_inside (h : insideKept u s) : insideKept u (unblockRing s) := by
  unfold unblockRing
  split
  · exact setSeverity_inside _ _
      (inside_plain (t := { s with tickets := { s.tickets with blocked := false } }) h rfl rfl rfl rfl rfl)
  · exact h

theorem blockRing_inside (h : insideKept u s) : insideKept u (blockRing s) := by
  unfold blockRing
  split
  · exact h
  · exact setSeverity_inside _ _
      (inside_plain (t := { s with tickets := { s.tickets with blocked := true } }) h rfl rfl rfl rfl rfl)

theorem ticketWritten_inside (h : insideKept u s) : insideKept u (ticketWritten s) :=
  unblockRing_inside (latch_inside _ (inside_plain
    (t := { s with tickets := { s.tickets with writePosition := nextPosition s.tickets } }) h rfl rfl rfl rfl rfl))

theorem recordClose_inside (r : Raise) (h : insideKept u s) : insideKept u (recordClose r s) := issueAll_inside _ h

theorem finishClose_inside (r : Raise) (number : BitVec 32) (h : insideKept u s) :
    insideKept u (finishClose r number s) := by
  unfold finishClose
  split
  · exact finishOrder_inside _ _ (endClose_inside r h)
  · exact endClose_inside r h

theorem lostClose_inside (r : Raise) (h : insideKept u s) : insideKept u (lostClose r s) :=
  finishClose_inside _ _ (recordClose_inside r h)

theorem await_inside (a : Access) (address : Address) (n : Nat) (h : insideKept u s) :
    insideKept u (setInFlight (some a) (issueRead address n s)) := setInFlight_inside _ (issueRead_inside _ _ h)

theorem beginAccess_inside (a : Access) (h : insideKept u s) : insideKept u (beginAccess a s) := by
  cases a with
  | write w => exact issue_inside w h
  | report outcome result => exact finishOrder_inside _ _ h
  | raise r =>
    simp only [beginAccess]
    split
    · exact await_inside _ _ _ (raiseNumber_inside h)
    · exact lostClose_inside r (loseRaise_inside r (raiseNumber_inside h))
  | totalCheck k minute =>
    simp only [beginAccess]
    split
    · exact await_inside _ _ _ h
    · exact setStage_inside _ h
  | closeWrite _ | totalWrite _ => exact h
  | recheck =>
    simp only [beginAccess]
    split
    · exact await_inside _ _ _ h
    · exact h
  | recordRead n =>
    simp only [beginAccess]
    split
    · exact await_inside _ _ _ h
    · exact setStage_inside _ h

theorem pump_inside (accesses : List Access) (h : insideKept u s) : insideKept u (pump accesses s) := by
  induction accesses generalizing s with
  | nil => exact h
  | cons a rest ih =>
    unfold pump
    split
    · exact setWaiting_inside (a :: rest) h
    · exact ih (beginAccess_inside a h)

theorem submit_inside (accesses : List Access) (h : insideKept u s) : insideKept u (submit accesses s) :=
  pump_inside _ (setWaiting_inside [] (setWaiting_inside (s.tickets.waiting ++ accesses) h))

theorem writeClose_inside (r : Raise) (h : insideKept u s) : insideKept u (writeClose r s) := by
  have written := issueAll_inside (ticketWrites r.ticket s) (setInFlight_inside (some (.closeWrite r)) h)
  have recorded := recordClose_inside r (ticketWritten_inside written)
  simp only [writeClose]
  split
  · split
    · exact finishClose_inside _ _ (setInFlight_inside none recorded)
    · exact recorded
  · exact written

theorem raiseRead_inside (r : Raise) (empty : Bool) (h : insideKept u s) : insideKept u (raiseRead r empty s) := by
  have idle := setInFlight_inside none h
  unfold raiseRead
  split
  · exact writeClose_inside r idle
  · exact lostClose_inside r (blockRing_inside (loseRaise_inside r idle))

theorem totalRead_inside (k : Fin 128) (minute : Nat) (empty : Bool) (h : insideKept u s) :
    insideKept u (totalRead k minute empty s) := by
  have written := issueAll_inside (ticketWrites (totalTicket s.accounts[k] minute)
    (setInFlight (some (.totalWrite k)) (raiseNumber s))) (setInFlight_inside (some (.totalWrite k)) (raiseNumber_inside h))
  simp only [totalRead]
  split
  · split
    · exact finishOrder_inside _ _ (freeAccountSlot_inside k (ticketWritten_inside (setInFlight_inside none written)))
    · exact written
  · exact finishOrder_inside _ _ (setInFlight_inside none h)

/-! ### The record of a BOOK, and what is in flight -/

theorem setMeter_inside (n : Fin 1024) (m : Meter) (h : insideKept u s) : insideKept u (setMeter n m s) :=
  inside_frame h ⟨_, _, rfl⟩ ⟨rfl, rfl⟩ rfl rfl rfl

theorem setTimeline_inside (d : Fin 64) (l : List (Fin 1024)) (h : insideKept u s) : insideKept u (setTimeline d l s) :=
  inside_plain h rfl rfl rfl rfl rfl

theorem acceptBooking_inside (n : Fin 1024) (b : Slot) (h : insideKept u s) : insideKept u (acceptBooking n b s) :=
  setMeter_inside _ _ (openBooking_inside _ (setTimeline_inside _ _ (setSlot_inside n b h)))

theorem bookFromRecord_inside (n : Fin 1024) (r : BookRecord) (h : insideKept u s) :
    insideKept u (bookFromRecord n r s) := by
  unfold bookFromRecord
  split
  · exact submit_inside _ h
  · split
    · exact submit_inside _ h
    · exact submit_inside _ (acceptBooking_inside _ _ h)

theorem completeInFlight_inside (cut : CutOff) (h : insideKept u s) : insideKept u (completeInFlight cut s) := by
  have idle := setInFlight_inside none h
  unfold completeInFlight
  split
  · split
    · exact raiseRead_inside _ _ h
    · exact dropAccess_inside _ idle
  · exact bookFromRecord_inside _ _ idle
  · split
    · exact totalRead_inside _ _ _ h
    · exact freeAccountSlot_inside _ (loseTicket_inside none (raiseNumber_inside idle))
  · exact dropAccess_inside _ idle
  · exact dropAccess_inside _ idle
  · split
    · exact unblockRing_inside idle
    · exact idle
  · exact idle
  · exact idle
  · exact h

theorem completeNext_inside (cut : CutOff) (a : Access) (h : insideKept u s) : insideKept u (completeNext cut a s) := by
  have gated : insideKept u (gateNext a s) := by
    unfold gateNext
    split
    · exact h
    · exact setGate_inside 0 h
  exact completeInFlight_inside cut (beginAccess_inside a gated)

theorem completeAccesses_inside (cut : CutOff) (s : State) : insideKept s (completeAccesses cut s) := by
  unfold completeAccesses
  refine foldl_closed (fun t a k => completeNext_inside cut a k) _ (completeInFlight_inside cut ?_)
  exact ⟨⟨_, rfl⟩, rfl, rfl, rfl, id, id, rfl, rfl, rfl, rfl, rfl⟩

end

end Sys2Proof.Machine
end

section
/-! ### What a soft reset completes inside the part leaves as it stands (O31): the tick, the closes and the order -/

namespace Sys2Proof.Machine

section
variable {u s : State}

/-! ### Rows and monitors -/

theorem request_inside (d : Fin 64) (target : Source) (cause : Cause) (h : insideKept u s) :
    insideKept u (request d target cause s) := inside_plain h rfl rfl rfl rfl rfl

theorem applyProtection_inside (n : Fin 1024) (h : insideKept u s) : insideKept u (applyProtection n s) := by
  simp only [applyProtection]
  split
  · exact h
  · exact request_inside _ _ _ h

theorem protectPort_inside (cond : Slot → Bool) (d : Fin 64) (h : insideKept u s) : insideKept u (protectPort cond d s) := by
  unfold protectPort
  split
  · split
    · exact applyProtection_inside _ h
    · exact h
  · exact h

theorem markPage_inside (h : insideKept u s) : insideKept u (markPage s) :=
  ⟨h.gate, h.start, h.lastStart, h.pageCount, fun _ => rfl, h.next, h.mode, h.spotlight, h.ring, h.holds, h.tariffs⟩

theorem switchPoint_inside (inside : Bool) (h : insideKept u s) : insideKept u (switchPoint inside s) := by
  have rows : insideKept u { s with rows := build fun d => switchRow inside s.rows[d] } := inside_plain h rfl rfl rfl rfl rfl
  unfold switchPoint handExecutions
  split
  · exact rows
  · exact markPage_inside (deriveSources_inside (foldl_closed (fun _ d k => protectPort_inside _ d k) _ rows))

theorem crosspointTick_inside (h : insideKept u s) : insideKept u (crosspointTick s) := by
  have rows : insideKept u (tickRows s) := inside_plain h rfl rfl rfl rfl rfl
  unfold crosspointTick
  split
  · exact switchPoint_inside false rows
  · exact rows

theorem setMonitor_inside (p : Fin 48) (m : Monitor) (h : insideKept u s) : insideKept u (setMonitor p m s) :=
  inside_plain h rfl rfl rfl rfl rfl

theorem updateMonitor_inside (p : Fin 48) (m : Monitor) (h : insideKept u s) : insideKept u (updateMonitor p m s) := by
  unfold updateMonitor healthChanged protectHealth
  split
  · exact setMonitor_inside p m h
  · exact markPage_inside (deriveSources_inside (foldl_closed (fun _ d k => protectPort_inside _ d k) _ (setMonitor_inside p m h)))

/-! ### The tick of a second 59 (R14, R136, R141) -/

theorem blockTick_inside (k : Fin 49) (h : insideKept u s) : insideKept u (blockTick k s) := by
  unfold blockTick monitorTick crosspointBlock
  split
  · split
    · exact setMonitor_inside _ _ h
    · exact updateMonitor_inside _ _ h
  · split
    · exact inside_plain h rfl rfl rfl rfl rfl
    · exact crosspointTick_inside h

theorem blocksTick_inside (order done : List (Fin 49)) (h : insideKept u s) : insideKept u (blocksTick order done s) := by
  induction order generalizing done s with
  | nil => exact h
  | cons k rest ih =>
    unfold blocksTick
    split
    · exact ih done h
    · exact ih (k :: done) (blockTick_inside k h)

/-- R14, R141: where no close waits for the count of its last second, or no tick is owed, there is no tick to complete. -/
theorem completeTick_none (cut : CutOff)
    (h : (∀ e, s.clock.rollover ≠ .boundaryFirst e) ∨ ∀ k ∈ s.store.holds, k.counted = true) : completeTick cut s = s := by
  unfold completeTick
  split
  · next ended rollover =>
    exact if_pos (List.all_eq_true.2 (h.resolve_left fun k => k ended rollover))
  · rfl
  · rfl
  · rfl

/-- The part u with the closes held and the tariff unit of t. -/
def besides (t u : State) : State := { u with store := { u.store with holds := t.store.holds }, tariffs := t.tariffs }

/-- Work that moves the closes held and the tariff unit alone. -/
theorem inside_besides {t : State} (h : insideKept u s) (link : t.link = s.link) (alarm : t.alarm = s.alarm)
    (ring : t.tickets.ring = s.tickets.ring) : insideKept (besides t u) t := by
  obtain ⟨gate, start, lastStart, pageCount, due, next, mode, spotlight, place, -, -⟩ := h
  rw [← link] at gate start lastStart pageCount due next
  rw [← alarm] at mode spotlight
  exact ⟨gate, start, lastStart, pageCount, due, next, mode, spotlight, ring.trans place, rfl, rfl⟩

theorem handTick_kept (order : TickOrder) (e : EndedSecond) (s : State) :
    (handTick order e s).link = (blocksTick (order ++ List.finRange 49) [] s).link ∧
    (handTick order e s).alarm = (blocksTick (order ++ List.finRange 49) [] s).alarm ∧
    (handTick order e s).tickets = (blocksTick (order ++ List.finRange 49) [] s).tickets := ⟨rfl, rfl, rfl⟩

/-- R14, R141: the tick completed leaves the link, the page logic's marks, the alarm ranking unit's mode and the ring. -/
theorem completeTick_inside (cut : CutOff) (h : insideKept u s) :
    insideKept (besides (completeTick cut s) u) (completeTick cut s) := by
  unfold completeTick
  split
  · split
    · exact inside_besides h rfl rfl rfl
    · next ended _ _ =>
      have ticked := blocksTick_inside (cut.order ++ List.finRange 49) [] h
      obtain ⟨link, alarm, tickets⟩ := handTick_kept cut.order (owedSecond ended s) s
      obtain ⟨swap, -, -⟩ := takeTariffBoundary_swapped (handTick cut.order (owedSecond ended s) s)
      rw [owedTick]
      generalize handTick cut.order (owedSecond ended s) s = x at *
      generalize takeTariffBoundary x = y at *
      have kept : y.link = x.link ∧ y.alarm = x.alarm ∧ y.tickets = x.tickets := by
        rw [swap]
        exact ⟨rfl, rfl, rfl⟩
      exact inside_besides ticked (kept.1.trans link) (kept.2.1.trans alarm)
        (congrArg Tickets.ring (kept.2.2.trans tickets) :)
  · exact inside_besides h rfl rfl rfl
  · exact inside_besides h rfl rfl rfl
  · exact inside_besides h rfl rfl rfl

/-! ### Closes -/

theorem completeHold_inside (k : Hold) (h : insideKept u s) : insideKept u (completeHold k s) :=
  closeInside_inside _ (takeClose_inside _ h)

theorem completeHolds_inside (h : insideKept u s) :
    insideKept { u with store := { u.store with holds := [] } } (completeHolds s) := by
  refine foldl_closed (fun _ k t => completeHold_inside k t) _ ?_
  exact ⟨h.gate, h.start, h.lastStart, h.pageCount, h.due, h.next, h.mode, h.spotlight, h.ring, rfl, h.tariffs⟩

theorem settleClose_inside (kind : TicketKind) (n : Fin 1024) (minute : Nat) (forOrder : Bool) (h : insideKept u s) :
    insideKept u (settleClose kind n minute forOrder s) := submit_inside _ (takeClose_inside _ h)

theorem leaveTimeline_inside (n : Fin 1024) (h : insideKept u s) : insideKept u (leaveTimeline n s) :=
  setTimeline_inside _ _ h

theorem closeOnAir_inside (n : Fin 1024) (minute : Nat) (forOrder : Bool) (h : insideKept u s) :
    insideKept u (closeOnAir n minute true forOrder s) := by
  have left := leaveTimeline_inside n h
  refine settleClose_inside _ _ _ _ (deriveSources_inside ?_)
  split
  · exact left
  · exact request_inside _ _ _ left

/-! ### The orders -/

theorem bookOrder_inside (o : Order) (h : insideKept u s) : insideKept u (bookOrder o s) := by
  unfold bookOrder
  split
  · exact finishOrder_inside _ _ h
  · split
    · exact h
    · split
      · exact submit_inside _ (setStage_inside _ h)
      · exact finishOrder_inside _ _ h

theorem cancelAccepted_inside (n : Fin 1024) (h : insideKept u s) : insideKept u (cancelAccepted n s) := by
  have left := leaveTimeline_inside n h
  simp only [cancelAccepted]
  split
  · exact settleClose_inside _ _ _ _ (setMeter_inside _ _ left)
  · exact settleClose_inside _ _ _ _ left

theorem cancelOrder_inside (o : Order) (h : insideKept u s) : insideKept u (cancelOrder o s) := by
  have queued := setStage_inside .queued h
  unfold cancelOrder
  split
  · exact finishOrder_inside _ _ h
  · split
    · exact h
    · split
      · exact finishOrder_inside _ _ h
      · exact cancelAccepted_inside _ queued
      · exact closeOnAir_inside _ _ _ queued
      · exact closeOnAir_inside _ _ _ queued

theorem extendOrder_inside (o : Order) (h : insideKept u s) : insideKept u (extendOrder o s) := by
  unfold extendOrder
  split
  · exact finishOrder_inside _ _ h
  · split
    · exact finishOrder_inside _ _ h
    · split
      · exact h
      · split
        · exact finishOrder_inside _ _ h
        · simp only [grantExtension]
          split
          · exact finishOrder_inside _ _ h
          · exact submit_inside _ (setSlot_inside _ _ (setStage_inside _ h))

theorem switchOrder_inside (o : Order) (h : insideKept u s) : insideKept u (switchOrder o s) := by
  unfold switchOrder lodgeSwitch
  split
  · split
    · exact finishOrder_inside _ _ h
    · exact finishOrder_inside _ _ (request_inside _ _ _ h)
  · exact finishOrder_inside _ _ h
  · exact finishOrder_inside _ _ h

theorem storeLegMode_inside (n : Fin 1024) (mode : LegMode) (h : insideKept u s) : insideKept u (storeLegMode n mode s) := by
  have stored := setSlot_inside n { s.store.slots[n] with legMode := mode } h
  simp only [storeLegMode]
  refine finishOrder_inside _ _ ?_
  split
  · exact applyProtection_inside n stored
  · exact stored

theorem setLegOrder_inside (o : Order) (h : insideKept u s) : insideKept u (setLegOrder o s) := by
  unfold setLegOrder
  split
  · exact finishOrder_inside _ _ h
  · split
    · exact finishOrder_inside _ _ h
    · split
      · exact h
      · split
        · exact finishOrder_inside _ _ h
        · split
          · exact finishOrder_inside _ _ h
          · exact storeLegMode_inside _ _ h

theorem setPortOrder_inside (o : Order) (h : insideKept u s) : insideKept u (setPortOrder o s) := by
  unfold setPortOrder applySetPort
  split
  · exact finishOrder_inside _ _ h
  · split
    · split
      · exact finishOrder_inside _ _ (updateMonitor_inside _ _ h)
      · exact finishOrder_inside _ _ h
    · exact finishOrder_inside _ _ (updateMonitor_inside _ _ h)

theorem readPortOrder_inside (o : Order) (h : insideKept u s) : insideKept u (readPortOrder o s) := by
  unfold readPortOrder
  split
  · exact finishOrder_inside _ _ h
  · refine finishOrder_inside _ _ ?_
    split
    · exact h
    · exact setMonitor_inside _ _ h

theorem loadTariffOrder_inside (o : Order) (h : insideKept u s) : insideKept u (loadTariffOrder o s) := by
  unfold loadTariffOrder readSegment
  split
  · exact finishOrder_inside _ _ h
  · split
    · exact finishOrder_inside _ _ h
    · split
      · exact setStage_inside _ (issueRead_inside _ _ h)
      · exact setStage_inside _ h

theorem tariffSegmentRead_inside (bytes : Vector Byte 240) (h : insideKept u s) : insideKept u (tariffSegmentRead bytes s) := by
  have staged : ∀ t, insideKept u (stageTariff t s) := fun t => inside_frame h ⟨_, _, rfl⟩ ⟨rfl, rfl⟩ rfl rfl rfl
  unfold tariffSegmentRead segmentTaken
  split
  · split
    · exact finishOrder_inside _ _ h
    · exact finishOrder_inside _ _ (staged _)
  · exact h
  · exact h
  · exact h
  · exact h
  · exact h
  · exact h

theorem latchAccountOrder_inside (o : Order) (h : insideKept u s) : insideKept u (latchAccountOrder o s) := by
  unfold latchAccountOrder
  split
  · exact h
  · split
    · exact finishOrder_inside _ _ h
    · exact finishOrder_inside _ _ h

theorem closeMatchOrder_inside (o : Order) (h : insideKept u s) : insideKept u (closeMatchOrder o s) := by
  unfold closeMatchOrder
  split
  · exact h
  · split
    · exact finishOrder_inside _ _ h
    · split
      · exact finishOrder_inside _ _ h
      · exact submit_inside _ (setStage_inside _ h)

theorem setClockOrder_inside (o : Order) (h : insideKept u s) : insideKept u (setClockOrder o s) := by
  unfold setClockOrder
  split
  · exact h
  · split
    · exact finishOrder_inside _ _ h
    · exact finishOrder_inside _ _ (inside_plain h rfl rfl rfl rfl rfl)

theorem ownerTakes_inside (o : Order) (h : insideKept u s) : insideKept u (ownerTakes o s) := by
  unfold ownerTakes
  split
  · exact bookOrder_inside o h
  · exact cancelOrder_inside o h
  · exact extendOrder_inside o h
  · exact switchOrder_inside o h
  · exact setLegOrder_inside o h
  · exact setPortOrder_inside o h
  · exact readPortOrder_inside o h
  · exact loadTariffOrder_inside o h
  · exact latchAccountOrder_inside o h
  · exact closeMatchOrder_inside o h
  · exact setClockOrder_inside o h

theorem completeOrder_inside (cut : CutOff) (h : insideKept u s) : insideKept u (completeOrder cut s) := by
  have entry : insideKept u (completeEntry cut (setGate (.muteAfter cut.orderIssued) s)) := by
    unfold completeEntry
    split
    · exact entryRead_inside _ (setGate_inside _ h)
    · exact setGate_inside _ h
  have dispatched : insideKept u (completeDispatched cut (completeEntry cut (setGate (.muteAfter cut.orderIssued) s))) := by
    unfold completeDispatched
    split
    · exact completeInFlight_inside cut (ownerTakes_inside _ (setGate_inside _ entry))
    · exact entry
    · exact entry
    · exact entry
    · exact entry
    · exact entry
    · exact entry
  unfold completeOrder completeSegment
  split
  · exact tariffSegmentRead_inside _ dispatched
  · exact dispatched

/-! ### All that is completed inside the part -/

/-- R14: what is completed inside the part, but for the tick that it may complete, which the tariff unit follows. -/
theorem completeInside_inside (cut : CutOff) (s : State) : ∃ tariffs, insideKept { s with
    store := { s.store with holds := [] }
    tariffs := tariffs } (completeInside cut s) ∧
    ((∀ e, s.clock.rollover ≠ .boundaryFirst e) ∨ (∀ k ∈ s.store.holds, k.counted = true) → tariffs = s.tariffs) := by
  have accesses := completeAccesses_inside cut s
  have clock : (completeAccesses cut s).clock = s.clock := by simp
  by_cases none : (∀ e, s.clock.rollover ≠ .boundaryFirst e) ∨ ∀ k ∈ s.store.holds, k.counted = true
  · refine ⟨s.tariffs, ?_, fun _ => rfl⟩
    have ticked : completeTick cut (completeAccesses cut s) = completeAccesses cut s :=
      completeTick_none cut (by rw [clock, accesses.holds]; exact none)
    rw [completeInside, ticked]
    exact completeOrder_inside cut (completeHolds_inside accesses)
  · have held := completeHolds_inside (completeTick_inside cut accesses)
    exact ⟨_, completeOrder_inside cut held, fun k => absurd k none⟩

end

end Sys2Proof.Machine
end

section
/-! ### The page that a soft reset abandons, and a part with no order in flight (O31) -/

namespace Sys2Proof.Machine

section
variable {u s : State}

/-! ### The page abandoned (R15, R165) -/

/-- The gate may be anything. -/
def anyGate (_ : Gate) : Prop := True

theorem dropAccesses_kept {G : Gate → Prop} (h : workKept G u s) : workKept G u (dropAccesses s) :=
  foldl_closed (fun _ a k => dropAccess_inside a k) _ (inside_plain (t := clearAccesses s) h rfl rfl rfl rfl rfl)

theorem enterHeld_work {G : Gate → Prop} (h : workKept G u s) : workKept G u (enterHeld s) :=
  latch_inside .run ⟨h.gate, h.start, h.lastStart, h.pageCount, fun _ => rfl, h.next, h.mode, h.spotlight, h.ring, h.holds,
    h.tariffs⟩

/-- The part u with a START that has gone as far as `start`, and the last start code `code`. -/
def startedAs (start : StartPhase) (code : StartCode) (u : State) : State :=
  { u with link := { u.link with start := start, lastStart := code } }

/-- R15: work of the part in which a bus fault may have ended a START. -/
def faultKept (u s : State) : Prop :=
  workKept anyGate (startedAs s.link.start s.link.lastStart u) s ∧
  (u.link.start ≠ .headerRead → s.link.start ≠ .headerRead ∧ s.link.lastStart = u.link.lastStart)

theorem faultKept_frame {t : State} (h : faultKept u s) (start : t.link.start = s.link.start)
    (lastStart : t.link.lastStart = s.link.lastStart)
    (k : workKept anyGate (startedAs s.link.start s.link.lastStart u) s →
      workKept anyGate (startedAs s.link.start s.link.lastStart u) t) : faultKept u t := by
  obtain ⟨kept, apart⟩ := h
  rw [faultKept, start, lastStart]
  exact ⟨k kept, apart⟩

theorem takeBusFault_kept (h : faultKept u s) : faultKept u (takeBusFault s) := by
  obtain ⟨kept, apart⟩ := h
  unfold takeBusFault
  split
  · exact ⟨kept, apart⟩
  · have faulted : workKept anyGate (startedAs .idle (startCodeAfterFault s.link) u) { s with
        link := faultedLink s.link
        orders := { s.orders with unit := stoppedUnit s.orders.unit } } :=
      ⟨trivial, rfl, rfl, kept.pageCount, kept.due, kept.next, kept.mode, kept.spotlight, kept.ring, kept.holds, kept.tariffs⟩
    have raised := setSeverity_inside 50 3 faulted
    have same : u.link.start ≠ .headerRead → startCodeAfterFault s.link = u.link.lastStart := fun k => by
      obtain ⟨start, code⟩ := apart k
      rw [← code]
      unfold startCodeAfterFault
      split
      · next e => exact absurd e start
      · rfl
      · rfl
    have ended : ∀ t, workKept anyGate (startedAs .idle (startCodeAfterFault s.link) u) t → faultKept u t := fun t k => by
      have start : t.link.start = .idle := k.start
      have code : t.link.lastStart = startCodeAfterFault s.link := k.lastStart
      rw [faultKept, start, code]
      exact ⟨k, fun j => ⟨by simp, same j⟩⟩
    refine ended _ (dropAccesses_kept ?_)
    split
    · exact raised
    · exact enterHeld_work raised

theorem issue_kept (w : HostWrite) (h : faultKept u s) : faultKept u (issue w s) := by
  have out : ∀ gate, faultKept u (record (.write w) { s with link := { s.link with gate := gate } }) := fun gate =>
    faultKept_frame h rfl rfl fun k => ⟨trivial, k.start, k.lastStart, k.pageCount, k.due, k.next, k.mode, k.spotlight, k.ring,
      k.holds, k.tariffs⟩
  unfold issue sendWrite
  split
  · split
    · exact out s.link.gate
    · exact takeBusFault_kept h
    · exact out _
    · exact out _
  · exact h

theorem abandonPage_kept (issued : Nat) (s : State) : faultKept s (abandonPage issued s) := by
  have start : faultKept s s := ⟨⟨trivial, rfl, rfl, rfl, id, id, rfl, rfl, rfl, rfl, rfl⟩, fun k => ⟨k, rfl⟩⟩
  unfold abandonPage
  split
  · refine faultKept_frame (foldl_closed (fun _ w k => issue_kept w k) _ start) rfl rfl fun k => ?_
    exact ⟨trivial, k.start, k.lastStart, k.pageCount, k.due, k.next, k.mode, k.spotlight, k.ring, k.holds, k.tariffs⟩
  · exact start

/-! ### With no order in flight (R28, R45) -/

/-- No order is in flight, and the timelines have stood. -/
structure idleKept (u s : State) : Prop where
  unit : s.orders.unit = .idle
  timelines : s.store.timelines = u.store.timelines

theorem idleKept_of {t : State} (h : idleKept u s) (orders : t.orders = s.orders)
    (timelines : t.store.timelines = s.store.timelines) : idleKept u t :=
  ⟨by rw [orders]; exact h.unit, timelines.trans h.timelines⟩

theorem dropAccess_idle (a : Access) (h : idleKept u s) : idleKept u (dropAccess a s) :=
  idleKept_of h (by simp) (dropAccess_timelines a s)

theorem takeBusFault_idle (h : idleKept u s) : idleKept u (takeBusFault s) := by
  refine ⟨?_, (takeBusFault_timelines s).trans h.timelines⟩
  simp only [takeBusFault]
  split
  · exact h.unit
  · split
    · simp [h.unit, stoppedUnit]
    · simp [h.unit, stoppedUnit]

theorem issue_idle (w : HostWrite) (h : idleKept u s) : idleKept u (issue w s) := by
  unfold issue sendWrite
  split
  · split
    · exact idleKept_of h rfl rfl
    · exact takeBusFault_idle h
    · exact idleKept_of h rfl rfl
    · exact idleKept_of h rfl rfl
  · exact h

theorem issueAll_idle (ws : List HostWrite) (h : idleKept u s) : idleKept u (issueAll ws s) :=
  foldl_closed (fun _ w k => issue_idle w k) ws h

theorem finishOrder_rests (outcome : OutcomeCode) (result : List Byte) (h : idleKept u s) :
    idleKept u (finishOrder outcome result s) := by
  rw [finishOrder_idle _ _ h.unit]
  exact h

theorem setStage_rests (g : Stage) (h : idleKept u s) : idleKept u (setStage g s) := by
  rw [setStage_idle _ h.unit]
  exact h

theorem finishClose_idle (r : Raise) (number : BitVec 32) (h : idleKept u s) : idleKept u (finishClose r number s) := by
  have ended : idleKept u (endClose r s) := idleKept_of h (by simp) (by rw [endClose_store])
  unfold finishClose
  split
  · exact finishOrder_rests _ _ ended
  · exact ended

theorem lostClose_idle (r : Raise) (h : idleKept u s) : idleKept u (lostClose r s) :=
  finishClose_idle _ _ (issueAll_idle _ h)

theorem writeClose_idle (r : Raise) (h : idleKept u s) : idleKept u (writeClose r s) := by
  have written := issueAll_idle (ticketWrites r.ticket s) (s := setInFlight (some (.closeWrite r)) s) (idleKept_of h rfl rfl)
  have ticketed : idleKept u (ticketWritten (issueAll (ticketWrites r.ticket s) (setInFlight (some (.closeWrite r)) s))) :=
    idleKept_of written (by simp) (by simp)
  have recorded := fun ws => issueAll_idle ws ticketed
  simp only [writeClose]
  split
  · split
    · exact finishClose_idle _ _ (idleKept_of (recorded _) rfl rfl)
    · exact recorded _
  · exact written

theorem raiseRead_idle (r : Raise) (empty : Bool) (h : idleKept u s) : idleKept u (raiseRead r empty s) := by
  have stopped : idleKept u (setInFlight none s) := idleKept_of h rfl rfl
  simp only [raiseRead]
  split
  · exact writeClose_idle r stopped
  · exact lostClose_idle r (idleKept_of stopped (by simp [loseRaise]) (by simp [loseRaise]))

theorem totalRead_idle (k : Fin 128) (minute : Nat) (empty : Bool) (h : idleKept u s) :
    idleKept u (totalRead k minute empty s) := by
  have written := issueAll_idle (ticketWrites (totalTicket s.accounts[k] minute)
    (setInFlight (some (.totalWrite k)) (raiseNumber s))) (s := setInFlight (some (.totalWrite k)) (raiseNumber s))
    (idleKept_of h rfl rfl)
  simp only [totalRead]
  split
  · split
    · exact finishOrder_rests _ _ (idleKept_of written (by simp [setInFlight]) (by simp [setInFlight]))
    · exact written
  · exact finishOrder_rests _ _ (idleKept_of h rfl rfl)

theorem beginAccess_idle (a : Access) (h : idleKept u s) : idleKept u (beginAccess a s) := by
  have reads : ∀ (x : Option Access) (address : Address) (n : Nat) (t : State), idleKept u t →
      idleKept u (setInFlight x (issueRead address n t)) := fun x address n t k =>
    idleKept_of k (by simp [setInFlight]) (by simp [setInFlight])
  cases a with
  | write w => exact issue_idle w h
  | report outcome result => exact finishOrder_rests _ _ h
  | raise r =>
    simp only [beginAccess]
    split
    · exact reads _ _ _ _ (idleKept_of h rfl rfl)
    · exact lostClose_idle r (idleKept_of h (by simp [loseRaise, raiseNumber]) (by simp [loseRaise, raiseNumber]))
  | totalCheck k minute =>
    simp only [beginAccess]
    split
    · exact reads _ _ _ _ h
    · exact setStage_rests _ h
  | closeWrite _ | totalWrite _ => exact h
  | recheck =>
    simp only [beginAccess]
    split
    · exact reads _ _ _ _ h
    · exact h
  | recordRead n =>
    simp only [beginAccess]
    split
    · exact reads _ _ _ _ h
    · exact setStage_rests _ h

/-- R14: an access in flight that is no read of a record. -/
theorem completeInFlight_idle (cut : CutOff) (none : ∀ n, s.tickets.inFlight ≠ some (.recordRead n)) (h : idleKept u s) :
    idleKept u (completeInFlight cut s) := by
  have stopped : idleKept u (setInFlight Option.none s) := idleKept_of h rfl rfl
  unfold completeInFlight
  split
  · split
    · exact raiseRead_idle _ _ h
    · exact dropAccess_idle _ stopped
  · next n flight => exact absurd flight (none n)
  · split
    · exact totalRead_idle _ _ _ h
    · exact idleKept_of stopped (by simp [raiseNumber]) (by simp [raiseNumber])
  · exact dropAccess_idle _ stopped
  · exact dropAccess_idle _ stopped
  · split
    · exact idleKept_of stopped (by simp) (by simp)
    · exact stopped
  · exact stopped
  · exact stopped
  · exact h

end

end Sys2Proof.Machine
end

section
/-! ### The soft reset (O31) -/

namespace Sys2Proof.Machine

section
variable {u s : State}

/-! ### The closes under way end (R14, R28, R45) -/

theorem completeInFlight_rests (cut : CutOff) {g : List Access} (good : law g s) (h : idleKept u s) :
    idleKept u (completeInFlight cut s) :=
  completeInFlight_idle cut (fun n flight => by
    obtain ⟨-, -, ⟨o, unit⟩, -⟩ := record_facts good flight
    rw [h.unit] at unit
    cases unit) h

theorem setGate_idle (gate : Gate) (h : idleKept u s) : idleKept u (setGate gate s) := idleKept_of h rfl rfl

theorem completeRest_idle (cut : CutOff) (l : List Access) (good : law l s) (q : quiet s) (h : idleKept u s) :
    idleKept u (l.foldl (fun t a => completeNext cut a t) s) := by
  induction l generalizing s with
  | nil => exact h
  | cons a l ih =>
    have gated : idleKept u (gateNext a s) := by
      unfold gateNext
      split
      · exact h
      · exact setGate_idle _ h
    obtain ⟨begun, -⟩ := beginAccess_law a (law_stays good (gateNext_stays a s))
      (quiet_kept q (kept_of_stays (gateNext_stays a s)))
    obtain ⟨next, still⟩ := completeNext_law cut a good q
    exact ih next still (completeInFlight_rests cut begun (beginAccess_idle a gated))

theorem completeAccesses_idle (cut : CutOff) (good : bookingsLawful s) (unit : s.orders.unit = .idle) :
    idleKept s (completeAccesses cut s) := by
  have whole : law s.tickets.waiting (setWaiting [] s) :=
    law_perm ((bookings_law s).1 good).1 rfl rfl (fun c => ⟨c.1, c.2.1, rfl⟩) (by simp [outstanding, setWaiting])
  have first := law_stays whole (setGate_stays
    (.muteAfter (wholeTicket cut cut.accessIssued (s.tickets.inFlight.any ticketAccess))) _)
  obtain ⟨rest, still⟩ := completeInFlight_law cut first rfl
  exact completeRest_idle cut _ rest still (completeInFlight_rests cut first ⟨unit, rfl⟩)

theorem completeTick_timelines (cut : CutOff) (s : State) :
    (completeTick cut s).store.timelines = s.store.timelines := by
  unfold completeTick
  split
  · split
    · rfl
    · simp [setRollover, owedTick, handTick, countMeters]
  · rfl
  · rfl
  · rfl

theorem completeHolds_timelines (s : State) : (completeHolds s).store.timelines = s.store.timelines :=
  foldl_keeps (fun t : State => t.store.timelines) (fun t h => by simp [completeHold, closeInside_store]) _ _

/-- R28: with no order in flight there is none to complete. -/
theorem completeOrder_idle (cut : CutOff) (unit : s.orders.unit = .idle) :
    completeOrder cut s = setGate (.muteAfter cut.orderIssued) s := by
  have idle : (setGate (.muteAfter cut.orderIssued) s).orders.unit = .idle := unit
  rw [completeOrder]
  generalize setGate (.muteAfter cut.orderIssued) s = t at *
  have entry : completeEntry cut t = t := by
    unfold completeEntry
    split
    · exact if_neg fun reading => by rw [idle] at reading; cases reading.1
    · rfl
  have dispatched : completeDispatched cut t = t := by
    simp only [completeDispatched, idle]
  have segment : completeSegment cut t = t := by
    unfold completeSegment
    split
    · simp only [tariffSegmentRead, idle]
    · rfl
  rw [entry, dispatched, segment]

/-- R14, R45: with no order in flight the timelines stand through what is completed inside the part. -/
theorem completeInside_timelines (cut : CutOff) (good : bookingsLawful s) (unit : s.orders.unit = .idle) :
    (completeInside cut s).store.timelines = s.store.timelines := by
  obtain ⟨idle, timelines⟩ := completeAccesses_idle cut good unit
  have rests : (completeHolds (completeTick cut (completeAccesses cut s))).orders.unit = .idle := by
    rw [(completeHolds_keeps _).2.2.1, (completeTick_keeps _ _).2.2.1]
    exact idle
  rw [completeInside, completeOrder_idle cut rests, ← timelines, ← completeTick_timelines cut (completeAccesses cut s),
    ← completeHolds_timelines (completeTick cut (completeAccesses cut s))]
  rfl

theorem abandonPage_idle (issued : Nat) (h : idleKept u s) : idleKept u (abandonPage issued s) := by
  unfold abandonPage
  split
  · exact idleKept_of (issueAll_idle _ h) rfl rfl
  · exact h

/-- R14, R45: with no order in flight the timelines stand through a soft reset. -/
theorem softReset_timelines (cut : CutOff) (good : bookingsLawful s) (unit : s.orders.unit = .idle) :
    (softReset cut s).store.timelines = s.store.timelines := by
  obtain ⟨idle, timelines⟩ := abandonPage_idle cut.pageIssued (u := s) ⟨unit, rfl⟩
  have inside := completeInside_timelines cut (abandonPage_books cut.pageIssued good) idle
  simp only [softReset, settlePage_keeps, latchLeave_keeps, softClear_keeps]
  exact inside.trans timelines

/-- The closes under way once a soft reset has been made: none. -/
theorem softReset_closings (cut : CutOff) (holds : (softReset cut s).store.holds = []) : closingSlots (softReset cut s) = [] := by
  have view := softReset_view cut s
  simp only [runView, Prod.mk.injEq] at view
  obtain ⟨-, -, -, -, -, -, flight, waiting, -⟩ := view
  simp [closingSlots, ratedSlots, outstanding, holds, flight, waiting]

/-- R14, R28: with no order in flight each slot whose close had begun is FREE. -/
theorem softReset_frees (cut : CutOff) (good : bookingsLawful s) (unit : s.orders.unit = .idle)
    (holds : (softReset cut s).store.holds = []) (n : Fin 1024) (closes : n ∈ closingSlots s) :
    (softReset cut s).store.slots[n].state = .free := by
  by_contra taken
  obtain ⟨⟨members, -⟩, -⟩ := softReset_books cut good
  have none : closing n (softReset cut s) = false := by
    simp [closing, softReset_closings cut holds]
  have member := (members _ n).2 ⟨taken, rfl, none⟩
  rw [softReset_timelines cut good unit] at member
  obtain ⟨⟨before, -⟩, -⟩ := good
  obtain ⟨-, -, apart⟩ := (before _ n).1 member
  simp [closing, closes] at apart

/-! ### The reset itself (R14) -/

/-- R14: what a soft reset leaves of the part once the work under way is completed. -/
structure softCleared (from_ : RunState) (w y : State) : Prop where
  frame : y = { softState w with
    alarm := y.alarm
    link := { softLink w.link with flags := y.link.flags, log := y.link.log } }
  alarm : y.alarm = { w.alarm with
    items := w.alarm.items.set 50 (itemAt w.alarm.items[50] 0)
    floor := { top := 0, middle := 0, bottom := 0 } }
  writes : hostWrites y = hostWrites w
  flags : ∀ k : Fin 7, k.val ≠ 3 →
    y.link.flags.getLsbD k.val = decide (k.val = 5 ∧ from_ ≠ .dormant ∧ permitted .run w = true)

/-- R14: of the latched flags none but ALARM stands. -/
theorem softClear_flags (w : State) (k : Fin 7) (h : k.val ≠ 3) : (softClear w).link.flags.getLsbD k.val = false := by
  have bit : ∀ j : Fin 7, j.val ≠ 3 → (flagBit .alarm).getLsbD j.val = false := by decide
  have cleared : (softClear w).link.flags =
      withAlarmLevel (setSeverity 50 0 (setFlags (alarmOnly w.link.flags) (softState w))).link.flags
        (alarmLevel (softClear w)) := by
    simp only [softClear, clearFloor, setAlarm_eq]
    rfl
  have lowered : (setSeverity 50 0 (setFlags (alarmOnly w.link.flags) (softState w))).link.flags =
      withAlarmLevel (alarmOnly w.link.flags)
        (alarmLevel (setSeverity 50 0 (setFlags (alarmOnly w.link.flags) (softState w)))) := by
    simp only [setSeverity, setAlarm_eq, setFlags_eq]
    rfl
  rw [cleared, withAlarmLevel_getLsbD_other _ _ h k.isLt, lowered, withAlarmLevel_getLsbD_other _ _ h k.isLt, alarmOnly,
    BitVec.getLsbD_and, bit k h, Bool.and_false]

theorem softClear_cleared (from_ : RunState) (w : State) : softCleared from_ w (latchLeave from_ (softClear w)) := by
  have clear : softCleared .dormant w (softClear w) := by
    refine ⟨?_, ?_, ?_, fun k h => ?_⟩
    · simp only [softClear, clearFloor, setSeverity, setAlarm_eq, setFlags_eq]
      rfl
    · simp only [softClear, clearFloor, setSeverity, setAlarm_eq, setFlags_eq]
      rfl
    · simp only [softClear, clearFloor, setSeverity, setAlarm_eq, setFlags_eq]
      exact (hostWrites_withFlags _ _).trans ((hostWrites_withFlags _ _).trans (hostWrites_withFlags _ _))
    · rw [softClear_flags w k h]
      simp
  unfold latchLeave
  split
  · next e => exact e ▸ clear
  · next leaves =>
    have permit : permitted .run (softClear w) = permitted .run w := by
      rw [permitted, (softClear_place w).2.1, permitted]
    have bit : ∀ j : Fin 7, (flagBit .run).getLsbD j.val = decide (j.val = 5) := by decide
    obtain ⟨frame, alarm, writes, -⟩ := clear
    rw [latch_eq]
    refine ⟨?_, alarm, (hostWrites_withFlags _ _).trans writes, fun k h => ?_⟩
    · exact congrArg (fun x : State => { x with link := { x.link with
        flags := (withLatched .run (softClear w)).link.flags
        log := (withLatched .run (softClear w)).link.log } }) frame
    · have raised : (withLatched .run (softClear w)).link.flags =
          (softClear w).link.flags ||| if permitted .run (softClear w) then flagBit .run else 0 := rfl
      rw [raised, permit, BitVec.getLsbD_or, softClear_flags w k h, Bool.false_or]
      by_cases may : permitted .run w = true
      · rw [if_pos may, bit k]
        simp [may, leaves]
      · simp [may]

end

end Sys2Proof.Machine
end

section
/-! ### SOFT_RESET (O31) -/

namespace Sys2Proof.Machine

section
variable {s : State}

/-! ### With nothing under way -/

theorem completeAccesses_none (cut : CutOff) (idle : accessesIdle s) :
    completeAccesses cut s = setGate (.muteAfter (wholeTicket cut cut.accessIssued false)) s := by
  obtain ⟨flight, waiting⟩ := idle
  have aside : setWaiting [] s = s := by rw [← waiting]; rfl
  have none : (setGate (.muteAfter (wholeTicket cut cut.accessIssued false)) s).tickets.inFlight = none := flight
  simp only [completeAccesses, flight, waiting, Option.any_none, List.foldl_nil, aside, completeInFlight, none]

theorem completeHolds_none (held : s.store.holds = []) : completeHolds s = s := by
  have aside : ({ s with store := { s.store with holds := [] } } : State) = s := by rw [← held]
  rw [completeHolds, held, aside, List.foldl_nil]

/-- R14: with nothing under way nothing is completed, and only the gate is set. -/
theorem completeInside_none (cut : CutOff) (held : s.store.holds = []) (idle : accessesIdle s)
    (unit : s.orders.unit = .idle) : completeInside cut s = setGate (.muteAfter cut.orderIssued) s := by
  rw [completeInside, completeAccesses_none cut idle]
  generalize wholeTicket cut cut.accessIssued false = n
  have ticked : completeTick cut (setGate (.muteAfter n) s) = setGate (.muteAfter n) s :=
    completeTick_none cut (.inr fun k member => by
      have : k ∈ s.store.holds := member
      simp [held] at this)
  rw [ticked, completeHolds_none (s := setGate (.muteAfter n) s) held, completeOrder_idle cut (s := setGate (.muteAfter n) s) unit]
  rfl

theorem abandonPage_none (issued : Nat) (none : s.link.page = none) : abandonPage issued s = s := by
  simp only [abandonPage, none]

/-! ### The page due marks (R167) -/

/-- R167: a tick that the page logic takes in DORMANT begins no page, and its mark stands. -/
theorem settlePage_marks (dormant : s.link.run = .dormant) :
    (s.link.pageDue = true → (settlePage s).link.pageDue = true) ∧
    (s.link.pageNext = true → (settlePage s).link.pageDue = true ∨ (settlePage s).link.pageNext = true) := by
  obtain ⟨-, -, kept, taken⟩ := settlePage_taken s
  cases e : s.link.pageTicks.takeWhile (pageReady (settlePage s)) with
  | nil =>
    obtain ⟨-, due, next⟩ := kept e
    rw [due, next]
    exact ⟨id, .inr⟩
  | cons x later =>
    obtain ⟨-, -, -, shut⟩ := taken x later e
    obtain ⟨-, due⟩ := shut fun o => o.1 dormant
    rw [due]
    exact ⟨fun d => by simp [d], fun n => .inl (by simp [n])⟩

/-! ### What a soft reset leaves (R14) -/

/-- R14: the state a soft reset leaves, from the state w in which the work under way has been completed. -/
structure resetLeft (from_ : RunState) (w t : State) : Prop where
  windows : ∀ k : Fin 3, t.link.windows[k] = none
  gate : t.link.gate = .open
  lastStart : t.link.lastStart = w.link.lastStart
  pageCount : t.link.pageCount = w.link.pageCount
  due : w.link.pageDue = true → t.link.pageDue = true
  next : w.link.pageNext = true → t.link.pageDue = true ∨ t.link.pageNext = true
  still : w.link.pageTicks = [] → t.link.pageDue = w.link.pageDue
  orders : t.orders = OrderUnit.hardReset
  clock : t.clock = w.clock
  store : t.store = w.store
  rows : t.rows = w.rows
  monitors : t.monitors = w.monitors
  accounts : t.accounts = w.accounts
  tickets : t.tickets = { w.tickets with recheckIn := none }
  tariffs : t.tariffs = { w.tariffs with staged := none }
  alarm : t.alarm = { w.alarm with
    items := w.alarm.items.set 50 (itemAt w.alarm.items[50] 0)
    floor := { top := 0, middle := 0, bottom := 0 } }
  flags : ∀ k : Fin 7, k.val ≠ 3 →
    t.link.flags.getLsbD k.val = decide (k.val = 5 ∧ from_ ≠ .dormant ∧ permitted .run w = true)
  writes : hostWrites t = hostWrites w

theorem softClear_left (from_ : RunState) (w : State) :
    resetLeft from_ w (settlePage (latchLeave from_ (softClear w))) := by
  obtain ⟨frame, alarm, writes, flags⟩ := softClear_cleared from_ w
  generalize latchLeave from_ (softClear w) = y at *
  have reset : ∀ {α : Type} (f : State → α), f y = f { softState w with
      alarm := y.alarm
      link := { softLink w.link with flags := y.link.flags, log := y.link.log } } := fun f => congrArg f frame
  have dormant : y.link.run = .dormant := reset (fun x => x.link.run)
  have windows : y.link.windows = build fun _ => none := reset (fun x => x.link.windows)
  have pageTicks : y.link.pageTicks = w.link.pageTicks := reset (fun x => x.link.pageTicks)
  have pageDue : y.link.pageDue = w.link.pageDue := reset (fun x => x.link.pageDue)
  have pageNext : y.link.pageNext = w.link.pageNext := reset (fun x => x.link.pageNext)
  have pageCount : y.link.pageCount = w.link.pageCount := reset (fun x => x.link.pageCount)
  obtain ⟨paged, -⟩ := settlePage_taken y
  obtain ⟨due, next⟩ := settlePage_marks dormant
  obtain ⟨-, count⟩ := settlePage_dormant dormant
  have left : ∀ {α : Type} (f : State → α), (∀ x z : State, f (withPage x z) = f z) → f (settlePage y) = f y := fun f same =>
    (congrArg f paged).trans (same _ _)
  exact {
    windows := fun k => by
      rw [left (fun x => x.link.windows) fun _ _ => rfl, windows]
      exact build_getFin (fun _ => none) k
    gate := (left (fun x => x.link.gate) fun _ _ => rfl).trans (reset (fun x => x.link.gate))
    lastStart := (left (fun x => x.link.lastStart) fun _ _ => rfl).trans (reset (fun x => x.link.lastStart))
    pageCount := count.trans pageCount
    due := by rw [← pageDue]; exact due
    next := by rw [← pageNext]; exact next
    still := fun none => by rw [settlePage_none (pageTicks.trans none), pageDue]
    orders := (left State.orders fun _ _ => rfl).trans (reset State.orders)
    clock := (left State.clock fun _ _ => rfl).trans (reset State.clock)
    store := (left State.store fun _ _ => rfl).trans (reset State.store)
    rows := (left State.rows fun _ _ => rfl).trans (reset State.rows)
    monitors := (left State.monitors fun _ _ => rfl).trans (reset State.monitors)
    accounts := (left State.accounts fun _ _ => rfl).trans (reset State.accounts)
    tickets := (left State.tickets fun _ _ => rfl).trans (reset State.tickets)
    tariffs := (left State.tariffs fun _ _ => rfl).trans (reset State.tariffs)
    alarm := (left State.alarm fun _ _ => rfl).trans alarm
    flags := fun k h => by
      rw [left (fun x => x.link.flags) fun _ _ => rfl]
      exact flags k h
    writes := (left hostWrites fun _ _ => rfl).trans writes }

/-- The flag RUN is bit 5 of the flags. -/
theorem flagSet_run (s : State) : flagSet .run s = s.link.flags.getLsbD 5 := by
  have bits : ∀ f : BitVec 7, (f &&& flagBit .run != 0) = f.getLsbD 5 := by decide
  exact bits _

end

/-- Settles O31, from what the work completed inside the part keeps (`completeInside_inside`) and what the reset itself then
clears (`softClear_left`). -/
theorem softResetTaken : Obligations.SoftResetTaken := by
  unfold Obligations.SoftResetTaken
  intro cut s hr
  refine ⟨softReset cut s, exec_live hr (by simp) (by simp), ?_⟩
  obtain ⟨abandoned, code⟩ := abandonPage_kept cut.pageIssued s
  obtain ⟨tariffs, inside, current⟩ := completeInside_inside cut (abandonPage cut.pageIssued s)
  have left : resetLeft s.link.run (completeInside cut (abandonPage cut.pageIssued s)) (softReset cut s) := softClear_left _ _
  have permit : permitted .run (completeInside cut (abandonPage cut.pageIssued s)) = permitted .run s := by
    simp [permitted]
  obtain ⟨area, permissions, -⟩ := softReset_place cut s
  have view := softReset_view cut s
  simp only [runView, Prod.mk.injEq] at view
  obtain ⟨run, fatal, start, halt, page, -, flight, waiting, -⟩ := view
  have holds : (softReset cut s).store.holds = [] := by rw [left.store, inside.holds]
  have item50 : (softReset cut s).alarm.items[50] =
      itemAt (completeInside cut (abandonPage cut.pageIssued s)).alarm.items[50] 0 := by
    rw [left.alarm]
    exact Vector.getElem_set_self ..
  refine ⟨run, left.windows, start, fatal, halt, page, left.gate, area, ?lastStart, permissions, ?count, ?due, ?next, left.orders,
    ⟨flight, waiting⟩, holds, ?flags, ?latched, ?staged, ?severity, ?floor, ?mode, ?spotlight, ?ring,
    fun good unit n closes => softReset_frees cut good unit holds n closes, ?table, ?none⟩
  case lastStart =>
    rintro (reads | none)
    · obtain ⟨-, same⟩ := code reads
      exact left.lastStart.trans (inside.lastStart.trans same)
    · exact left.lastStart.trans (inside.lastStart.trans (by rw [abandonPage_none _ none]))
  case count => exact left.pageCount.trans (inside.pageCount.trans abandoned.pageCount)
  case due => exact fun due => left.due (inside.due (abandoned.due due))
  case next => exact fun next => left.next (inside.next (abandoned.next next))
  case flags =>
    intro k alarm latched
    rw [left.flags k alarm]
    simp [latched]
  case latched =>
    have bit : (softReset cut s).link.flags.getLsbD 5 = decide ((5 : Fin 7).val = 5 ∧ s.link.run ≠ .dormant ∧
        permitted .run (completeInside cut (abandonPage cut.pageIssued s)) = true) := left.flags 5 (by decide)
    rw [flagSet_run, bit, permit]
    simp
  case staged => rw [left.tariffs]
  case severity => rw [item50]; rfl
  case floor => rw [left.alarm]
  case mode => rw [left.alarm]; exact inside.mode.trans abandoned.mode
  case spotlight => rw [left.alarm]; exact inside.spotlight.trans abandoned.spotlight
  case ring => rw [left.tickets]; exact inside.ring.trans abandoned.ring
  case table =>
    intro settled
    have clock : (abandonPage cut.pageIssued s).clock = s.clock := by simp
    have same := current (by rw [clock, abandoned.holds]; exact settled)
    have table : tariffs = s.tariffs := same.trans (by simp)
    rw [left.tariffs, inside.tariffs, table]
  case none =>
    intro page held idle unit
    have gated : completeInside cut (abandonPage cut.pageIssued s) = setGate (.muteAfter cut.orderIssued) s := by
      rw [abandonPage_none _ page, completeInside_none cut held idle unit]
    rw [gated] at left
    refine ⟨left.writes, left.clock, left.store, left.rows, left.monitors, left.accounts, left.tickets, ?_, fun i other => ?_,
      left.still⟩
    · rw [left.tariffs]; rfl
    · rw [left.alarm]
      exact Vector.getElem_set_ne (by decide) i.isLt fun e => other (Fin.ext e.symm)

end Sys2Proof.Machine
end
